-- ==== Sys2Proof/Word.lean ====
section
/-!
DEFINITION. The machine's words: 32-bit registers, 64-bit pairs, bytes, and the plainest operations on them
(spec 01 R7, 03 R49, R56, R68). Multi-byte values are little-endian (00 R4).
-/
namespace Sys2Proof

/-- A general register's width (R68). -/
abbrev Word := BitVec 32

/-- A pair's width: an address, an FP64 value (R56, R161). -/
abbrev DWord := BitVec 64

/-- One byte of memory. -/
abbrev Byte := BitVec 8

namespace Word

/-- A pair, low half in the even register (R56). -/
def pair (lo hi : Word) : DWord := hi ++ lo

/-- The low half of a pair. -/
def lo (x : DWord) : Word := x.extractLsb' 0 32

/-- The high half of a pair. -/
def hi (x : DWord) : Word := x.extractLsb' 32 32

end Word

/-- Bits `lo .. lo+n-1` of a natural number. -/
def field (w lo n : Nat) : Nat := w / 2 ^ lo % 2 ^ n

/-- The little-endian value of a list of bytes, the first the least significant (R4). -/
def leNat : List Byte → Nat
  | [] => 0
  | b :: bs => b.toNat + 256 * leNat bs

/-- The `n` little-endian bytes of `v` (R4). -/
def leBytes : Nat → Nat → List Byte
  | 0, _ => []
  | n + 1, v => BitVec.ofNat 8 v :: leBytes n (v / 256)

end Sys2Proof
end

