-- ==== Sys2Proof/Syntax.lean ====
section
/-!
DEFINITION. The instructions and events of the opcode table (spec/opcode_table.json), one constructor a row.
The operand fields are those of the formats of 03 R50, R52, R53; register numbers, guards, conditions, sizes and
codes are already decoded. A row without a word is a step of one of the machine's units (95_what_each_step_holds.md);
its arguments say which unit takes the step and what the outside world supplies.
-/
namespace Sys2Proof

/-- A general register g0..g63 (R68). -/
abbrev Reg := Fin 64

/-- A general register of a 16-bit form, g0..g31 (R50). -/
abbrev Reg5 := Fin 32

/-- A stall count of a 32-bit form (R52). -/
abbrev Stall := Fin 4

/-- The guard field G (R57). -/
inductive Guard where
  | always
  | p0
  | notP0
  | p1
  deriving DecidableEq, Repr

/-- Conditions of CMP and CMPI (R74, R114). -/
inductive Cond where
  | eq | ne | lt | le | gt | ge | ltn | len | gtn | gen
  deriving DecidableEq, Repr

/-- Conditions of FCMP (R74, R142). -/
inductive FCond where
  | eq | ne | lt | le | gt | ge | un | ord
  deriving DecidableEq, Repr

/-- Access sizes (R74, R188). -/
inductive Size where
  | b | sb | h | sh | w | d | q
  deriving DecidableEq, Repr

/-- Atomic operations AOP (R74, R200). -/
inductive AtomOp where
  | add | smin | smax | nmin | nmax | and | or | xor | xchg | cas | fadd | fmin | fmax | bfadd2 | inc
  deriving DecidableEq, Repr

/-- Fence scopes (R168, R204). -/
inductive Scope where
  | core | cluster | die | module | domain
  deriving DecidableEq, Repr

/-- Fence kinds (R204). -/
inductive FenceKind where
  | acquire | release | full
  deriving DecidableEq, Repr

/-- BFENCE kinds (R206). -/
inductive BFenceKind where
  | toBank | toLoad | both
  deriving DecidableEq, Repr

/-- Counter classes of WAITC (R207). -/
inductive CounterClass where
  | copy | matrix | bank | remote
  deriving DecidableEq, Repr

/-- Special registers (R70). -/
inductive SReg where
  | tid | lane | gwidth | group | wave | nwave | node | core | die | module | clk | clkh | fflags | fcr | ctl
  | slim | slimh | param | paramh | spad | spadh | item | fport | step | xstat
  deriving DecidableEq, Repr

/-- Privileged registers (R339). -/
inductive PReg where
  | ptroot | ptrooth | fqcount | fres | coremask | coremaskh | unitmask | streamsel | streamexp | errcnt | coresel
  | conflicts
  deriving DecidableEq, Repr

/-- Conversion codes of CVT, destination from source (R73, R146). -/
inductive CvtCode where
  | f32f64 | f64f32 | f16f32 | f32f16 | bf16f32 | f32bf16 | e4f32 | f32e4 | e5f32 | f32e5 | e2f32 | f32e2
  | i32f32 | f32i32 | n32f32 | f32n32 | i32f64 | f64i32 | f16x2 | bf16x2 | e4x4 | e5x4 | e2x8 | i8x4
  deriving DecidableEq, Repr

/-- MMA operand formats FMT (R75). -/
inductive MmaFmt where
  | f64 | f32 | bf16 | f16 | e4 | e5 | e4e5 | e2 | bfgq4 | e4gq4 | i8 | i4
  deriving DecidableEq, Repr

/-- MMA modes (R75): `set` is C := A×B, `acc` is C += A×B. -/
inductive MmaMode where
  | set | acc
  deriving DecidableEq, Repr

/-! Operand shapes. `b`, `a`, `d` are the register fields, `t` the transient bit, `q` the flag-quiet bit F. -/

/-- 16-bit forms (R50). -/
structure H where
  a : Reg5
  d : Reg5
  sc : Fin 2
  deriving DecidableEq, Repr

/-- The 16-bit ADDI (R50, R51). -/
structure HI where
  imm : BitVec 5
  d : Reg5
  sc : Fin 2
  deriving DecidableEq, Repr

/-- R format of the integer majors (R52, R107). -/
structure RF where
  b : Reg
  a : Reg
  d : Reg
  t : Bool
  g : Guard
  sc : Stall
  deriving DecidableEq, Repr

/-- R format of the floating-point majors, with the F bit (R52, R138). -/
structure FF where
  b : Reg
  a : Reg
  d : Reg
  t : Bool
  q : Bool
  g : Guard
  sc : Stall
  deriving DecidableEq, Repr

/-- X format, source and destination, transient allowed (R53, R112). -/
structure XF where
  a : Reg
  d : Reg
  t : Bool
  g : Guard
  sc : Stall
  deriving DecidableEq, Repr

/-- X format of FX and DX, with the F bit (R143). -/
structure XFF where
  a : Reg
  d : Reg
  t : Bool
  q : Bool
  g : Guard
  sc : Stall
  deriving DecidableEq, Repr

/-- I format (R53, R54). -/
structure IF where
  imm : BitVec 9
  a : Reg
  d : Reg
  g : Guard
  sc : Stall
  deriving DecidableEq, Repr

/-- I format of the shifts (R54). -/
structure SF where
  n : Fin 32
  a : Reg
  d : Reg
  g : Guard
  sc : Stall
  deriving DecidableEq, Repr

/-- W format (R53, R111). -/
structure WF where
  imm : BitVec 17
  d : Reg
  sc : Stall
  deriving DecidableEq, Repr

/-- CMP (R114). -/
structure CmpF where
  b : Reg
  a : Reg
  c : Cond
  g : Guard
  sc : Stall
  deriving DecidableEq, Repr

/-- CMPI (R114). -/
structure CmpIF where
  imm : BitVec 9
  a : Reg
  c : Cond
  g : Guard
  sc : Stall
  deriving DecidableEq, Repr

/-- FCMP (R142). -/
structure FCmpF where
  b : Reg
  a : Reg
  c : FCond
  q : Bool
  g : Guard
  sc : Stall
  deriving DecidableEq, Repr

/-- Guard and stall count only. -/
structure GF where
  g : Guard
  sc : Stall
  deriving DecidableEq, Repr

/-- A destination that may be transient (PSAVE, PGET). -/
structure DTF where
  d : Reg
  t : Bool
  g : Guard
  sc : Stall
  deriving DecidableEq, Repr

/-- A destination. -/
structure DF where
  d : Reg
  g : Guard
  sc : Stall
  deriving DecidableEq, Repr

/-- A source in field A. -/
structure AF where
  a : Reg
  g : Guard
  sc : Stall
  deriving DecidableEq, Repr

/-- Fields A and D. -/
structure ADF where
  a : Reg
  d : Reg
  g : Guard
  sc : Stall
  deriving DecidableEq, Repr

/-- A small immediate in field A (DLY, SAFE, TRAP, SYSCALL). -/
structure NF where
  n : Fin 64
  g : Guard
  sc : Stall
  deriving DecidableEq, Repr

/-- J format (R53, R54). -/
structure JF where
  disp : BitVec 21
  g : Guard
  sc : Stall
  deriving DecidableEq, Repr

/-- SRD (R121). -/
structure SrdF where
  i : SReg
  d : Reg
  t : Bool
  g : Guard
  sc : Stall
  deriving DecidableEq, Repr

/-- SWR (R121). -/
structure SwrF where
  i : SReg
  d : Reg
  g : Guard
  sc : Stall
  deriving DecidableEq, Repr

/-- HRD (R123). -/
structure HrdF where
  n : Fin 8
  d : Reg
  t : Bool
  g : Guard
  sc : Stall
  deriving DecidableEq, Repr

/-- HWR (R123). -/
structure HwrF where
  n : Fin 8
  d : Reg
  g : Guard
  sc : Stall
  deriving DecidableEq, Repr

/-- SRDP and SWRP (R339). -/
structure PrivF where
  i : PReg
  d : Reg
  g : Guard
  sc : Stall
  deriving DecidableEq, Repr

/-- CVT (R146). -/
structure CvtF where
  c : CvtCode
  a : Reg
  d : Reg
  t : Bool
  q : Bool
  g : Guard
  sc : Stall
  deriving DecidableEq, Repr

/-- M format (R53, R188). -/
structure MF where
  imm : BitVec 8
  a : Reg
  d : Reg
  z : Size
  sc : Stall
  deriving DecidableEq, Repr

/-- ATOM (R199); `w` is W64. -/
structure AtomF where
  b : Reg
  a : Reg
  d : Reg
  w : Bool
  op : AtomOp
  sc : Stall
  deriving DecidableEq, Repr

/-- RED (R199); `w` is W64. -/
structure RedF where
  b : Reg
  a : Reg
  w : Bool
  op : AtomOp
  sc : Stall
  deriving DecidableEq, Repr

/-- FENCE (R204). -/
structure FenceF where
  scope : Scope
  kind : FenceKind
  g : Guard
  sc : Stall
  deriving DecidableEq, Repr

/-- BFENCE (R206). -/
structure BFenceF where
  kind : BFenceKind
  g : Guard
  sc : Stall
  deriving DecidableEq, Repr

/-- WAITC (R207). -/
structure WaitF where
  c : CounterClass
  n : Fin 64
  g : Guard
  sc : Stall
  deriving DecidableEq, Repr

/-- PREF (R198); level 0 is the L1, 1 the L2. -/
structure PrefF where
  a : Reg
  l : Fin 2
  g : Guard
  sc : Stall
  deriving DecidableEq, Repr

/-- MMA (R216). -/
structure MmaF where
  mode : MmaMode
  a : Reg
  sr : Reg
  bsel : Fin 16
  fmt : MmaFmt
  sc : Stall
  deriving DecidableEq, Repr

/-- XL with a source and a destination (R153). -/
structure XlF where
  a : Reg
  d : Reg
  sc : Stall
  deriving DecidableEq, Repr

/-- XL with a source. -/
structure XlAF where
  a : Reg
  sc : Stall
  deriving DecidableEq, Repr

/-- XL with a destination. -/
structure XlDF where
  d : Reg
  sc : Stall
  deriving DecidableEq, Repr

/-- A stall count only (XACQ, XREL, GBAR, CBAR). -/
structure ScF where
  sc : Stall
  deriving DecidableEq, Repr

/-! Arguments of events. -/

/-- A core of the module by die and number. -/
structure CoreId where
  die : Nat
  core : Nat
  deriving DecidableEq, Repr

/-- A cluster of the module by die and number. -/
structure ClusterId where
  die : Nat
  cluster : Nat
  deriving DecidableEq, Repr

/-- A thread by its wave's number and its index in the wave. -/
structure ThreadId where
  wave : Nat
  idx : Nat
  deriving DecidableEq, Repr

/-- A new parameter set of a fitted region: output bias, and per neuron w0 w1 w2 b v, FP16 bits (R300, R303). -/
structure FitParams where
  cb : BitVec 16
  neurons : List (List (BitVec 16))
  deriving DecidableEq, Repr

/-- Where a placement puts a wave (R12, R163, R209): the place, the first offset, the slot and tile names. -/
structure Placement where
  core : Nat
  place : Nat
  offset : Nat
  slots : List Nat
  tiles : List Nat
  deriving DecidableEq, Repr

/-- A unit that firmware may take out of service (R3, R350). -/
inductive HwUnit where
  | core (c : CoreId)
  | die (d : Nat)
  | stack (n : Nat)
  | channel (stack n : Nat)
  | bankUnit (stack n : Nat)
  deriving DecidableEq, Repr

/-- Stored data of a fitted region (R303, R308): the reference of an element, its entry in the exception table, or the
parameter set. -/
inductive RegionPart where
  | reference (element : Nat)
  | entry (element : Nat)
  | params
  deriving DecidableEq, Repr

/-- What an ECC error reports (R350): a corrected error of a unit, or uncorrectable data in memory, in a wave's
scratchpad, slots or tiles, or in a fitted region's stored data (R308). -/
inductive EccReport where
  | corrected (unit : HwUnit)
  | memory (pa : Nat)
  | scratchpad (wave : Nat) (byte : Nat)
  | slot (wave : Nat) (byte : Nat)
  | tile (wave : Nat) (byte : Nat)
  | region (region : Nat) (part : RegionPart)
  deriving DecidableEq, Repr

/-- A host access to device memory over CXL.mem (R340, R342). -/
inductive HostAccess where
  | read (pa : Nat) (bytes : Nat)
  | write (pa : Nat) (data : List Byte)
  deriving DecidableEq, Repr

/-- The instructions and events, one constructor for each row of the opcode table. -/
inductive Instr where
  -- 16-bit forms (R51)
  | mov16 (f : H)
  | add16 (f : H)
  | sub16 (f : H)
  | and16 (f : H)
  | or16 (f : H)
  | xor16 (f : H)
  | shl16 (f : H)
  | shr16 (f : H)
  | addi16 (f : HI)
  | fadd16 (f : H)
  | fsub16 (f : H)
  | fmul16 (f : H)
  | fmax16 (f : H)
  | fmin16 (f : H)
  | cmpLt16 (f : H)
  | fcmpLt16 (f : H)
  -- integer register operations (R108)
  | add (f : RF)
  | sub (f : RF)
  | mul (f : RF)
  | mulh (f : RF)
  | mulhN (f : RF)
  | and (f : RF)
  | or (f : RF)
  | xor (f : RF)
  | andn (f : RF)
  | shl (f : RF)
  | shr (f : RF)
  | shrA (f : RF)
  | rot (f : RF)
  | rotR (f : RF)
  | min (f : RF)
  | minN (f : RF)
  | max (f : RF)
  | maxN (f : RF)
  | add64 (f : RF)
  | sub64 (f : RF)
  -- IX (R112)
  | mov (f : XF)
  | not (f : XF)
  | neg (f : XF)
  | abs (f : XF)
  | clz (f : XF)
  | popc (f : XF)
  | brev (f : XF)
  | bswap (f : XF)
  | sxb (f : XF)
  | sxh (f : XF)
  | zxb (f : XF)
  | zxh (f : XF)
  | mov64 (f : XF)
  | sel (f : XF)
  -- immediates (R110, R111)
  | addi (f : IF)
  | andi (f : IF)
  | ori (f : IF)
  | xori (f : IF)
  | shli (f : SF)
  | shri (f : SF)
  | shriA (f : SF)
  | lil (f : WF)
  | lih (f : WF)
  -- comparisons (R114, R142)
  | cmp (f : CmpF)
  | cmpi (f : CmpIF)
  | fcmp (f : FCmpF)
  | fcmpD (f : FCmpF)
  -- PRD (R115)
  | ppop (f : GF)
  | pdup (f : GF)
  | pswap (f : GF)
  | pnot (f : GF)
  | pand (f : GF)
  | por (f : GF)
  | pxor (f : GF)
  | prot (f : GF)
  | psave (f : DTF)
  | pload (f : AF)
  | pset (f : AF)
  | pget (f : DTF)
  -- branches (R116, R117)
  | br (f : JF)
  | call (f : JF)
  | jr (f : AF)
  | callr (f : AF)
  | ret (f : GF)
  -- CTL (R119)
  | nop (f : GF)
  | dly (f : NF)
  | exit (f : GF)
  | safe (f : NF)
  | trap (f : NF)
  | syscall (f : NF)
  | bkpt (f : GF)
  | srd (f : SrdF)
  | swr (f : SwrF)
  | xacq (f : ScF)
  | xrel (f : ScF)
  | yield (f : GF)
  | spawn (f : AF)
  | gbar (f : ScF)
  | eret (f : GF)
  | hrd (f : HrdF)
  | hwr (f : HwrF)
  -- floating point (R140..R148)
  | fadd (f : FF)
  | fsub (f : FF)
  | fmul (f : FF)
  | ffma (f : FF)
  | fmin (f : FF)
  | fminD (f : FF)
  | fmax (f : FF)
  | fmaxD (f : FF)
  | fneg (f : XFF)
  | fabs (f : XFF)
  | fsqrt (f : XFF)
  | frcp (f : XFF)
  | frsq (f : XFF)
  | fex2 (f : XFF)
  | flg2 (f : XFF)
  | ffloor (f : XFF)
  | fceil (f : XFF)
  | ftrunc (f : XFF)
  | frint (f : XFF)
  | fclass (f : XFF)
  | fsat (f : XFF)
  | cvt (f : CvtF)
  | dadd (f : FF)
  | dsub (f : FF)
  | dmul (f : FF)
  | dfma (f : FF)
  | dneg (f : XFF)
  | dabs (f : XFF)
  | dsqrt (f : XFF)
  | drcp (f : XFF)
  | dfloor (f : XFF)
  | dceil (f : XFF)
  | dtrunc (f : XFF)
  | drint (f : XFF)
  | dclass (f : XFF)
  | dmov (f : XFF)
  | hadd2 (f : FF)
  | hadd2Bf (f : FF)
  | hmul2 (f : FF)
  | hmul2Bf (f : FF)
  | hfma2 (f : FF)
  | hfma2Bf (f : FF)
  | dp4 (f : FF)
  | dp4E4 (f : FF)
  -- memory (R187)
  | ld (f : MF)
  | st (f : MF)
  | ldnf (f : MF)
  | atom (f : AtomF)
  | red (f : RedF)
  | fence (f : FenceF)
  | afence (f : GF)
  | bfence (f : BFenceF)
  | waitc (f : WaitF)
  | stn (f : ADF)
  | ldn (f : ADF)
  | pref (f : PrefF)
  -- copy engine and rings (R237, R256)
  | cpy (f : ADF)
  | cpystat (f : ADF)
  | rclaim (f : ADF)
  | rcommit (f : ADF)
  | rawait (f : ADF)
  | rretire (f : AF)
  | rclaimnf (f : ADF)
  | rawaitnf (f : ADF)
  -- matrix engine and bank units (R211, R216, R227)
  | mma (f : MmaF)
  | sclaim (f : DF)
  | srel (f : AF)
  | aclaim (f : DF)
  | arel (f : AF)
  | azero (f : AF)
  | bmvGq4 (f : AF)
  | bmvE4m3 (f : AF)
  | bmvBf16 (f : AF)
  -- ports (R268)
  | palloc (f : ADF)
  | pfree (f : AF)
  | send (f : ADF)
  | sendnf (f : ADF)
  | padd (f : ADF)
  | recv (f : ADF)
  | recvnf (f : ADF)
  | patdef (f : ADF)
  | patdel (f : AF)
  | patarm (f : ADF)
  | pinfo (f : ADF)
  -- reserving loops (R291)
  | claimR (f : AF)
  | claimW (f : AF)
  | admitItem (f : GF)
  | rsvinfo (f : DF)
  -- cross-lane (R153)
  | shflIdx (f : XlF)
  | shflXor (f : XlF)
  | shflUp (f : XlF)
  | shflDown (f : XlF)
  | voteAll (f : XlAF)
  | voteAny (f : XlAF)
  | ballot (f : XlF)
  | radd (f : XlF)
  | rfadd (f : XlF)
  | rmin (f : XlF)
  | rmax (f : XlF)
  | scan (f : XlF)
  | elect (f : XlDF)
  | gsync (f : XlAF)
  | cbar (f : ScF)
  -- fitted regions (R313)
  | fitx (f : ADF)
  | fitgen (f : ADF)
  | refit (f : ADF)
  | fitstat (f : ADF)
  -- SYS (R305, R333)
  | fitmake (f : ADF)
  | fitdrop (f : AF)
  | tlbinv (f : ADF)
  | fqpop (f : ADF)
  | layout (f : ADF)
  | nodekill (f : ADF)
  | preempt (f : ADF)
  | srdp (f : PrivF)
  | swrp (f : PrivF)
  -- launches, nodes and waves (01)
  | launchMessage (die : Nat) (lo hi : DWord)
  | nodeAdmission (die : Nat) (dies : List Nat)
  | stepBoundary (launch : Nat) (dies : List Nat)
  | nodeCompletion (launch : Nat)
  | waveDispatch (cl : ClusterId) (ps : List Placement)
  | footprintRelease (wave : Nat)
  | loadDataReturn (t : ThreadId) (n : Nat)
  -- pre-emption (R40..R48)
  | preemptionRequest (wave : Nat)
  | waveLeavesCore (wave : Nat)
  | waveRestore (cl : ClusterId) (ps : List (Nat × Nat))
  -- grants inside a core and a wave (R131, R212, R213)
  | extendedBlockGrant (c : CoreId)
  -- engines (15, 17)
  | matrixOpStart (c : CoreId)
  | matrixOpCompletion (c : CoreId)
  | copyChunkStart (c : CoreId) (elements : Nat)
  | copyCompletion (c : CoreId) (op : Nat)
  | reductionApply (op : Nat) (elements : Nat)
  | bankRowCompute (op : Nat) (row : Nat)
  | bmvCompletion (c : CoreId) (op : Nat)
  | faultRecordPost (die : Nat)
  -- fitted regions (R311)
  | refitStart (region : Nat)
  | refitSwap (region : Nat) (params : FitParams) (extra : List Nat)
  -- ports and reserving loops (R278, R288, R283)
  | patternFiring (die : Nat)
  | itemAdmission (launch : Nat) (item : Nat)
  | itemFinish (launch : Nat) (item : Nat)
  -- migration, reset, units (23, 25)
  | moduleReset
  -- host, fabric, power, replay (25)
  | hostDoorbellStore (offset : Nat) (data : List Byte)
  | hostMemAccess (a : HostAccess)
  -- encodings that are no instruction, and store visibility
  | reservedOrIllegalEncoding (w : Word)
  | storeTakesEffect (t : ThreadId)
  -- last, the events that no definition of the package names as a value
  | fresRetry (die : Nat)
  | fresFatal (die : Nat)
  | streamExpectedUpdate (stream : Nat)
  | heldDeliveryRetry (die : Nat) (n : Nat)
  | stealAttempt (cl : ClusterId)
  | stealAcknowledge (cl : ClusterId)
  | cooperativePlacement (launch : Nat) (ps : List (ClusterId × Placement))
  | hardPreemptCycleLimit (wave : Nat)
  | hardPreemptInstrLimit (wave : Nat)
  | slotClaimGrant (wave : Nat) (tile : Bool)
  | slotReleaseComplete (wave : Nat) (tile : Bool) (n : Nat)
  | refitAbandon (region : Nat)
  | pageDemotion (va : Nat) (tierId : Nat)
  | pagePromotion (va : Nat) (frame : Nat)
  | clusterReset (cl : ClusterId)
  | unitOutOfService (u : HwUnit)
  | eccError (e : EccReport)
  | hostDoorbellRead (offset : Nat) (bytes : Nat)
  | flitRetry (port : Nat)
  | powerAdjust (cl : ClusterId) (gated : Bool)
  | replay
  | fabricCannotReachModule (module : Nat) (reachable : Bool)
  deriving DecidableEq, Repr

end Sys2Proof
end

