-- ==== Sys2Proof/WellFormed.lean ====
section
/-!
DEFINITION. The codes of the small fields (spec 03 R57, R70, R73..R75, R339) and the limits that the operands of an
instruction obey (R55, R56, R74, R75 and each instruction's own description): `Instr.wf`. A limit that a field's type
already gives (a register below 64, a stall count below 4) has no check here.
-/
namespace Sys2Proof

/-- The G field (R57). -/
def Guard.code : Guard → Nat
  | .always => 0
  | .p0 => 1
  | .notP0 => 2
  | .p1 => 3

/-- The G field (R57). -/
def Guard.ofCode : Nat → Guard
  | 0 => .always
  | 1 => .p0
  | 2 => .notP0
  | _ => .p1

/-- Conditions of CMP and CMPI (R74). -/
def Cond.code : Cond → Nat
  | .eq => 0
  | .ne => 1
  | .lt => 2
  | .le => 3
  | .gt => 4
  | .ge => 5
  | .ltn => 6
  | .len => 7
  | .gtn => 8
  | .gen => 9

/-- Conditions of CMP and CMPI (R74). -/
def Cond.ofCode : Nat → Option Cond
  | 0 => some .eq
  | 1 => some .ne
  | 2 => some .lt
  | 3 => some .le
  | 4 => some .gt
  | 5 => some .ge
  | 6 => some .ltn
  | 7 => some .len
  | 8 => some .gtn
  | 9 => some .gen
  | _ => none

/-- Conditions of FCMP (R74). -/
def FCond.code : FCond → Nat
  | .eq => 0
  | .ne => 1
  | .lt => 2
  | .le => 3
  | .gt => 4
  | .ge => 5
  | .un => 6
  | .ord => 7

/-- Conditions of FCMP (R74). -/
def FCond.ofCode : Nat → Option FCond
  | 0 => some .eq
  | 1 => some .ne
  | 2 => some .lt
  | 3 => some .le
  | 4 => some .gt
  | 5 => some .ge
  | 6 => some .un
  | 7 => some .ord
  | _ => none

/-- SZ (R74). -/
def Size.code : Size → Nat
  | .b => 0
  | .sb => 1
  | .h => 2
  | .sh => 3
  | .w => 4
  | .d => 5
  | .q => 6

/-- SZ (R74). -/
def Size.ofCode : Nat → Option Size
  | 0 => some .b
  | 1 => some .sb
  | 2 => some .h
  | 3 => some .sh
  | 4 => some .w
  | 5 => some .d
  | 6 => some .q
  | _ => none

/-- AOP (R74). -/
def AtomOp.code : AtomOp → Nat
  | .add => 0
  | .smin => 1
  | .smax => 2
  | .nmin => 3
  | .nmax => 4
  | .and => 5
  | .or => 6
  | .xor => 7
  | .xchg => 8
  | .cas => 9
  | .fadd => 10
  | .fmin => 11
  | .fmax => 12
  | .bfadd2 => 13
  | .inc => 14

/-- AOP (R74). -/
def AtomOp.ofCode : Nat → Option AtomOp
  | 0 => some .add
  | 1 => some .smin
  | 2 => some .smax
  | 3 => some .nmin
  | 4 => some .nmax
  | 5 => some .and
  | 6 => some .or
  | 7 => some .xor
  | 8 => some .xchg
  | 9 => some .cas
  | 10 => some .fadd
  | 11 => some .fmin
  | 12 => some .fmax
  | 13 => some .bfadd2
  | 14 => some .inc
  | _ => none

/-- FENCE scopes (R204). -/
def Scope.code : Scope → Nat
  | .core => 0
  | .cluster => 1
  | .die => 2
  | .module => 3
  | .domain => 4

/-- FENCE scopes (R204). -/
def Scope.ofCode : Nat → Option Scope
  | 0 => some .core
  | 1 => some .cluster
  | 2 => some .die
  | 3 => some .module
  | 4 => some .domain
  | _ => none

/-- FENCE kinds (R204). -/
def FenceKind.code : FenceKind → Nat
  | .acquire => 1
  | .release => 2
  | .full => 3

/-- FENCE kinds (R204). -/
def FenceKind.ofCode : Nat → Option FenceKind
  | 1 => some .acquire
  | 2 => some .release
  | 3 => some .full
  | _ => none

/-- BFENCE kinds (R206). -/
def BFenceKind.code : BFenceKind → Nat
  | .toBank => 1
  | .toLoad => 2
  | .both => 3

/-- BFENCE kinds (R206). -/
def BFenceKind.ofCode : Nat → Option BFenceKind
  | 1 => some .toBank
  | 2 => some .toLoad
  | 3 => some .both
  | _ => none

/-- WAITC classes (R207). -/
def CounterClass.code : CounterClass → Nat
  | .copy => 0
  | .matrix => 1
  | .bank => 2
  | .remote => 3

/-- WAITC classes (R207). -/
def CounterClass.ofCode : Nat → Option CounterClass
  | 0 => some .copy
  | 1 => some .matrix
  | 2 => some .bank
  | 3 => some .remote
  | _ => none

/-- Special-register indices (R70). -/
def SReg.code : SReg → Nat
  | .tid => 0
  | .lane => 1
  | .gwidth => 2
  | .group => 3
  | .wave => 4
  | .nwave => 5
  | .node => 6
  | .core => 7
  | .die => 8
  | .module => 9
  | .clk => 10
  | .clkh => 11
  | .fflags => 12
  | .fcr => 13
  | .ctl => 14
  | .slim => 15
  | .slimh => 16
  | .param => 17
  | .paramh => 18
  | .spad => 19
  | .spadh => 20
  | .item => 21
  | .fport => 22
  | .step => 23
  | .xstat => 24

/-- Special-register indices (R70). -/
def SReg.ofCode : Nat → Option SReg
  | 0 => some .tid
  | 1 => some .lane
  | 2 => some .gwidth
  | 3 => some .group
  | 4 => some .wave
  | 5 => some .nwave
  | 6 => some .node
  | 7 => some .core
  | 8 => some .die
  | 9 => some .module
  | 10 => some .clk
  | 11 => some .clkh
  | 12 => some .fflags
  | 13 => some .fcr
  | 14 => some .ctl
  | 15 => some .slim
  | 16 => some .slimh
  | 17 => some .param
  | 18 => some .paramh
  | 19 => some .spad
  | 20 => some .spadh
  | 21 => some .item
  | 22 => some .fport
  | 23 => some .step
  | 24 => some .xstat
  | _ => none

/-- Privileged-register indices (R339). -/
def PReg.code : PReg → Nat
  | .ptroot => 0
  | .ptrooth => 1
  | .fqcount => 2
  | .fres => 3
  | .coremask => 4
  | .coremaskh => 5
  | .unitmask => 6
  | .streamsel => 7
  | .streamexp => 8
  | .errcnt => 9
  | .coresel => 10
  | .conflicts => 11

/-- Privileged-register indices (R339). -/
def PReg.ofCode : Nat → Option PReg
  | 0 => some .ptroot
  | 1 => some .ptrooth
  | 2 => some .fqcount
  | 3 => some .fres
  | 4 => some .coremask
  | 5 => some .coremaskh
  | 6 => some .unitmask
  | 7 => some .streamsel
  | 8 => some .streamexp
  | 9 => some .errcnt
  | 10 => some .coresel
  | 11 => some .conflicts
  | _ => none

/-- Conversion codes (R73). -/
def CvtCode.code : CvtCode → Nat
  | .f32f64 => 0
  | .f64f32 => 1
  | .f16f32 => 2
  | .f32f16 => 3
  | .bf16f32 => 4
  | .f32bf16 => 5
  | .e4f32 => 6
  | .f32e4 => 7
  | .e5f32 => 8
  | .f32e5 => 9
  | .e2f32 => 10
  | .f32e2 => 11
  | .i32f32 => 12
  | .f32i32 => 13
  | .n32f32 => 14
  | .f32n32 => 15
  | .i32f64 => 16
  | .f64i32 => 17
  | .f16x2 => 18
  | .bf16x2 => 19
  | .e4x4 => 20
  | .e5x4 => 21
  | .e2x8 => 22
  | .i8x4 => 23

/-- Conversion codes (R73). -/
def CvtCode.ofCode : Nat → Option CvtCode
  | 0 => some .f32f64
  | 1 => some .f64f32
  | 2 => some .f16f32
  | 3 => some .f32f16
  | 4 => some .bf16f32
  | 5 => some .f32bf16
  | 6 => some .e4f32
  | 7 => some .f32e4
  | 8 => some .e5f32
  | 9 => some .f32e5
  | 10 => some .e2f32
  | 11 => some .f32e2
  | 12 => some .i32f32
  | 13 => some .f32i32
  | 14 => some .n32f32
  | 15 => some .f32n32
  | 16 => some .i32f64
  | 17 => some .f64i32
  | 18 => some .f16x2
  | 19 => some .bf16x2
  | 20 => some .e4x4
  | 21 => some .e5x4
  | 22 => some .e2x8
  | 23 => some .i8x4
  | _ => none

/-- FMT (R75). -/
def MmaFmt.code : MmaFmt → Nat
  | .f64 => 0
  | .f32 => 1
  | .bf16 => 2
  | .f16 => 3
  | .e4 => 4
  | .e5 => 5
  | .e4e5 => 6
  | .e2 => 7
  | .bfgq4 => 8
  | .e4gq4 => 9
  | .i8 => 10
  | .i4 => 11

/-- FMT (R75). -/
def MmaFmt.ofCode : Nat → Option MmaFmt
  | 0 => some .f64
  | 1 => some .f32
  | 2 => some .bf16
  | 3 => some .f16
  | 4 => some .e4
  | 5 => some .e5
  | 6 => some .e4e5
  | 7 => some .e2
  | 8 => some .bfgq4
  | 9 => some .e4gq4
  | 10 => some .i8
  | 11 => some .i4
  | _ => none

/-- MODE (R75). -/
def MmaMode.code : MmaMode → Nat
  | .set => 0
  | .acc => 1

/-- MODE (R75). -/
def MmaMode.ofCode : Nat → Option MmaMode
  | 0 => some .set
  | 1 => some .acc
  | _ => none

/-- The special registers that SWR may write (R70). -/
def SReg.writable : SReg → Bool
  | .fflags | .fcr | .ctl | .slim | .slimh | .fport => true
  | _ => false

/-- The privileged registers that SWRP may write (R339). -/
def PReg.writable : PReg → Bool
  | .fqcount | .coremask | .coremaskh | .unitmask => false
  | _ => true

/-- The sign-extending sizes, illegal in ST and LDNF (R74). -/
def Size.signed : Size → Bool
  | .sb | .sh => true
  | _ => false

/-- Access size and alignment in bytes (R188). -/
def Size.bytes : Size → Nat
  | .b | .sb => 1
  | .h | .sh => 2
  | .w => 4
  | .d => 8
  | .q => 16

/-- Registers that a size names; the group's alignment (R56, R188). -/
def Size.regs : Size → Nat
  | .d => 2
  | .q => 4
  | _ => 1

/-- RED may not exchange or compare (R74). -/
def AtomOp.reducible : AtomOp → Bool
  | .xchg | .cas => false
  | _ => true

/-- FMT 8 and 9 take a GQ4 B operand (R75). -/
def MmaFmt.gq4 : MmaFmt → Bool
  | .bfgq4 | .e4gq4 => true
  | _ => false

/-- The alignment of a conversion's source registers (R73). -/
def CvtCode.sourceAlign : CvtCode → Nat
  | .f32f64 | .i32f64 | .f16x2 | .bf16x2 => 2
  | .e4x4 | .e5x4 | .i8x4 => 4
  | .e2x8 => 8
  | _ => 1

/-- The alignment of a conversion's destination (R73). -/
def CvtCode.destAlign : CvtCode → Nat
  | .f64f32 | .f64i32 => 2
  | _ => 1

/-- A field names an even pair (R56). -/
def Reg.even (r : Reg) : Bool := r.val % 2 == 0

/-- A field names a group of four (R56). -/
def Reg.four (r : Reg) : Bool := r.val % 4 == 0

/-- The limits on an instruction's operands beyond their types. An event's arguments have none. The last kind of row,
an encoding that is no instruction, has no encoding limits to meet. -/
def Instr.wf : Instr → Bool
  | .mov16 _ => true
  | .add16 _ => true
  | .sub16 _ => true
  | .and16 _ => true
  | .or16 _ => true
  | .xor16 _ => true
  | .shl16 _ => true
  | .shr16 _ => true
  | .addi16 _ => true
  | .fadd16 _ => true
  | .fsub16 _ => true
  | .fmul16 _ => true
  | .fmax16 _ => true
  | .fmin16 _ => true
  | .cmpLt16 _ => true
  | .fcmpLt16 _ => true
  | .add _ => true
  | .sub _ => true
  | .mul _ => true
  | .mulh _ => true
  | .mulhN _ => true
  | .and _ => true
  | .or _ => true
  | .xor _ => true
  | .andn _ => true
  | .shl _ => true
  | .shr _ => true
  | .shrA _ => true
  | .rot _ => true
  | .rotR _ => true
  | .min _ => true
  | .minN _ => true
  | .max _ => true
  | .maxN _ => true
  | .add64 f => f.b.even && f.a.even && f.d.even
  | .sub64 f => f.b.even && f.a.even && f.d.even
  | .mov _ => true
  | .not _ => true
  | .neg _ => true
  | .abs _ => true
  | .clz _ => true
  | .popc _ => true
  | .brev _ => true
  | .bswap _ => true
  | .sxb _ => true
  | .sxh _ => true
  | .zxb _ => true
  | .zxh _ => true
  | .mov64 f => f.a.even && f.d.even
  | .sel _ => true
  | .addi _ => true
  | .andi _ => true
  | .ori _ => true
  | .xori _ => true
  | .shli _ => true
  | .shri _ => true
  | .shriA _ => true
  | .lil _ => true
  | .lih _ => true
  | .cmp _ => true
  | .cmpi _ => true
  | .fcmp _ => true
  | .fcmpD f => f.b.even && f.a.even
  | .ppop _ => true
  | .pdup _ => true
  | .pswap _ => true
  | .pnot _ => true
  | .pand _ => true
  | .por _ => true
  | .pxor _ => true
  | .prot _ => true
  | .psave _ => true
  | .pload _ => true
  | .pset _ => true
  | .pget _ => true
  | .br _ => true
  | .call _ => true
  | .jr _ => true
  | .callr _ => true
  | .ret _ => true
  | .nop _ => true
  | .dly _ => true
  | .exit _ => true
  | .safe _ => true
  | .trap _ => true
  | .syscall _ => true
  | .bkpt _ => true
  | .srd _ => true
  | .swr f => f.i.writable
  | .xacq _ => true
  | .xrel _ => true
  | .yield _ => true
  | .spawn f => f.a.even
  | .gbar _ => true
  | .eret _ => true
  | .hrd _ => true
  | .hwr _ => true
  | .fadd _ => true
  | .fsub _ => true
  | .fmul _ => true
  | .ffma _ => true
  | .fmin _ => true
  | .fminD f => f.b.even && f.a.even && f.d.even
  | .fmax _ => true
  | .fmaxD f => f.b.even && f.a.even && f.d.even
  | .fneg _ => true
  | .fabs _ => true
  | .fsqrt _ => true
  | .frcp _ => true
  | .frsq _ => true
  | .fex2 _ => true
  | .flg2 _ => true
  | .ffloor _ => true
  | .fceil _ => true
  | .ftrunc _ => true
  | .frint _ => true
  | .fclass _ => true
  | .fsat _ => true
  | .cvt f => f.a.val % f.c.sourceAlign == 0 && f.d.val % f.c.destAlign == 0
  | .dadd f => f.b.even && f.a.even && f.d.even
  | .dsub f => f.b.even && f.a.even && f.d.even
  | .dmul f => f.b.even && f.a.even && f.d.even
  | .dfma f => f.b.even && f.a.even && f.d.even
  | .dneg f => f.a.even && f.d.even
  | .dabs f => f.a.even && f.d.even
  | .dsqrt f => f.a.even && f.d.even
  | .drcp f => f.a.even && f.d.even
  | .dfloor f => f.a.even && f.d.even
  | .dceil f => f.a.even && f.d.even
  | .dtrunc f => f.a.even && f.d.even
  | .drint f => f.a.even && f.d.even
  | .dclass f => f.a.even
  | .dmov f => f.a.even && f.d.even
  | .hadd2 _ => true
  | .hadd2Bf _ => true
  | .hmul2 _ => true
  | .hmul2Bf _ => true
  | .hfma2 _ => true
  | .hfma2Bf _ => true
  | .dp4 _ => true
  | .dp4E4 _ => true
  | .ld f => f.a.even && f.d.val % f.z.regs == 0
  | .st f => f.a.even && !f.z.signed && f.d.val % f.z.regs == 0
  | .ldnf f => f.a.even && !f.z.signed && f.d.val % f.z.regs == 0
  | .atom f => f.a.even && !(f.w && f.op == .bfadd2) && (!f.w || (f.b.even && f.d.even))
  | .red f => f.a.even && f.op.reducible && !(f.w && f.op == .bfadd2) && (!f.w || f.b.even)
  | .fence _ => true
  | .afence _ => true
  | .bfence _ => true
  | .waitc _ => true
  | .stn f => f.a.even
  | .ldn f => f.a.even
  | .pref f => f.a.even
  | .cpy _ => true
  | .cpystat _ => true
  | .rclaim _ => true
  | .rcommit _ => true
  | .rawait _ => true
  | .rretire _ => true
  | .rclaimnf _ => true
  | .rawaitnf _ => true
  | .mma f => f.sr.even && (f.fmt.gq4 || (f.sr.val == 0 && f.bsel.val == 0))
  | .sclaim _ => true
  | .srel _ => true
  | .aclaim _ => true
  | .arel _ => true
  | .azero _ => true
  | .bmvGq4 _ => true
  | .bmvE4m3 _ => true
  | .bmvBf16 _ => true
  | .palloc _ => true
  | .pfree _ => true
  | .send f => f.d.four
  | .sendnf f => f.d.four
  | .padd _ => true
  | .recv f => f.d.four
  | .recvnf f => f.d.four
  | .patdef _ => true
  | .patdel _ => true
  | .patarm _ => true
  | .pinfo _ => true
  | .claimR f => f.a.even
  | .claimW f => f.a.even
  | .admitItem _ => true
  | .rsvinfo _ => true
  | .shflIdx _ => true
  | .shflXor _ => true
  | .shflUp _ => true
  | .shflDown _ => true
  | .voteAll _ => true
  | .voteAny _ => true
  | .ballot f => f.d.even
  | .radd _ => true
  | .rfadd _ => true
  | .rmin _ => true
  | .rmax _ => true
  | .scan _ => true
  | .elect _ => true
  | .gsync f => f.a.even
  | .cbar _ => true
  | .fitx f => f.a.even
  | .fitgen f => f.a.even
  | .refit f => f.a.even
  | .fitstat f => f.a.even
  | .fitmake f => f.a.even && f.d.even
  | .fitdrop f => f.a.even
  | .tlbinv f => f.a.even
  | .fqpop f => f.a.even
  | .layout f => f.a.even
  | .nodekill f => f.a.even
  | .preempt _ => true
  | .srdp _ => true
  | .swrp f => f.i.writable
  | .fresRetry _ => true
  | .fresFatal _ => true
  | .streamExpectedUpdate _ => true
  | .launchMessage _ _ _ => true
  | .nodeAdmission _ _ => true
  | .stepBoundary _ _ => true
  | .nodeCompletion _ => true
  | .heldDeliveryRetry _ _ => true
  | .waveDispatch _ _ => true
  | .stealAttempt _ => true
  | .stealAcknowledge _ => true
  | .cooperativePlacement _ _ => true
  | .footprintRelease _ => true
  | .loadDataReturn _ _ => true
  | .preemptionRequest _ => true
  | .hardPreemptCycleLimit _ => true
  | .hardPreemptInstrLimit _ => true
  | .waveLeavesCore _ => true
  | .waveRestore _ _ => true
  | .extendedBlockGrant _ => true
  | .slotClaimGrant _ _ => true
  | .slotReleaseComplete _ _ _ => true
  | .matrixOpStart _ => true
  | .matrixOpCompletion _ => true
  | .copyChunkStart _ _ => true
  | .copyCompletion _ _ => true
  | .reductionApply _ _ => true
  | .bankRowCompute _ _ => true
  | .bmvCompletion _ _ => true
  | .faultRecordPost _ => true
  | .refitStart _ => true
  | .refitSwap _ _ _ => true
  | .refitAbandon _ => true
  | .patternFiring _ => true
  | .itemAdmission _ _ => true
  | .itemFinish _ _ => true
  | .pageDemotion _ _ => true
  | .pagePromotion _ _ => true
  | .moduleReset => true
  | .clusterReset _ => true
  | .unitOutOfService _ => true
  | .eccError _ => true
  | .hostDoorbellStore _ _ => true
  | .hostDoorbellRead _ _ => true
  | .hostMemAccess _ => true
  | .flitRetry _ => true
  | .powerAdjust _ _ => true
  | .replay => true
  | .reservedOrIllegalEncoding _ => true
  | .storeTakesEffect _ => true
  | .fabricCannotReachModule _ _ => true

end Sys2Proof
end

