-- ==== Sys2Proof/Decode.lean ====
section
/-!
DEFINITION. Decoding (spec 03 R49..R57, R63, R65, R66, R71..R76) from bytes, total, rejecting by name; then the encoder,
written from the same tables; then the table's numbering of a word. A 16-bit form always decodes (R51); a 32-bit word
that R76 makes RI is rejected with the reason.
-/
namespace Sys2Proof

/-- Why bytes are no instruction: too few of them, or an RI of the encoding (R76). -/
inductive DecodeError where
  | truncated
  | reservedMinor
  | reservedCode
  | fieldNotZero
  | transientNotAllowed
  | quietNotAllowed
  | qualifierNotAllowed
  | guardNotAllowed
  | oddPair
  | misalignedGroup
  | badIndex
  | illegalCombination
  deriving DecidableEq, Repr

namespace Decode

/-- The register in bits `lo .. lo+5`. -/
def reg (w lo : Nat) : Reg := Fin.ofNat 64 (field w lo 6)

/-- The register of a 16-bit form in bits `lo .. lo+4`. -/
def reg5 (w lo : Nat) : Reg5 := Fin.ofNat 32 (field w lo 5)

/-- One bit. -/
def bit (w lo : Nat) : Bool := field w lo 1 == 1

/-- The stall count SC, bits [8:7]. -/
def sc (w : Nat) : Stall := Fin.ofNat 4 (field w 7 2)

/-- The guard field G, bits [10:9] (R57). -/
def guard (w : Nat) : Guard := Guard.ofCode (field w 9 2)

/-- Go on when the check holds, else reject with the reason. -/
def chk {α : Type} (c : Bool) (e : DecodeError) (k : Except DecodeError α) : Except DecodeError α :=
  if c then k else .error e

/-- A code's name, or a rejection. -/
def named {α β : Type} (x : Option α) (e : DecodeError) (k : α → Except DecodeError β) : Except DecodeError β :=
  match x with
  | some a => k a
  | none => .error e

/-- F = 0 (R65), Q = 0 (R66). -/
def noFQ {α : Type} (w : Nat) (k : Except DecodeError α) : Except DecodeError α :=
  chk (!bit w 12) .quietNotAllowed (chk (!bit w 11) .qualifierNotAllowed k)

/-- T = F = Q = 0 (R63, R65, R66). -/
def noTFQ {α : Type} (w : Nat) (k : Except DecodeError α) : Except DecodeError α :=
  chk (!bit w 13) .transientNotAllowed (noFQ w k)

/-- Field A is not used (R55). -/
def noA {α : Type} (w : Nat) (k : Except DecodeError α) : Except DecodeError α :=
  chk (field w 20 6 == 0) .fieldNotZero k

/-- Field D is not used (R55). -/
def noD {α : Type} (w : Nat) (k : Except DecodeError α) : Except DecodeError α :=
  chk (field w 14 6 == 0) .fieldNotZero k

/-- A field names an even pair (R56). -/
def even {α : Type} (w lo : Nat) (k : Except DecodeError α) : Except DecodeError α :=
  chk (field w lo 6 % 2 == 0) .oddPair k

/-- A field names a group aligned to n (R56). -/
def aligned {α : Type} (w lo n : Nat) (k : Except DecodeError α) : Except DecodeError α :=
  chk (field w lo 6 % n == 0) .misalignedGroup k

/-- G = 0 (R57). -/
def noG {α : Type} (w : Nat) (k : Except DecodeError α) : Except DecodeError α :=
  chk (field w 9 2 == 0) .guardNotAllowed k

/-! Operand shapes read from a word (R50, R52, R53). -/

def h (w : Nat) : H := ⟨reg5 w 11, reg5 w 6, Fin.ofNat 2 (field w 1 1)⟩
def hi (w : Nat) : HI := ⟨BitVec.ofNat 5 (field w 11 5), reg5 w 6, Fin.ofNat 2 (field w 1 1)⟩
def rf (w : Nat) : RF := ⟨reg w 26, reg w 20, reg w 14, bit w 13, guard w, sc w⟩
def ff (w : Nat) : FF := ⟨reg w 26, reg w 20, reg w 14, bit w 13, bit w 12, guard w, sc w⟩
def xf (w : Nat) : XF := ⟨reg w 20, reg w 14, bit w 13, guard w, sc w⟩
def xff (w : Nat) : XFF := ⟨reg w 20, reg w 14, bit w 13, bit w 12, guard w, sc w⟩
def if_ (w : Nat) : IF := ⟨BitVec.ofNat 9 (field w 23 9), reg w 17, reg w 11, guard w, sc w⟩
def sf (w : Nat) : SF := ⟨Fin.ofNat 32 (field w 23 5), reg w 17, reg w 11, guard w, sc w⟩
def wf (w : Nat) : WF := ⟨BitVec.ofNat 17 (field w 15 17), reg w 9, sc w⟩
def gf (w : Nat) : GF := ⟨guard w, sc w⟩
def dtf (w : Nat) : DTF := ⟨reg w 14, bit w 13, guard w, sc w⟩
def df (w : Nat) : DF := ⟨reg w 14, guard w, sc w⟩
def af (w : Nat) : AF := ⟨reg w 20, guard w, sc w⟩
def adf (w : Nat) : ADF := ⟨reg w 20, reg w 14, guard w, sc w⟩
def nf (w : Nat) : NF := ⟨reg w 20, guard w, sc w⟩
def jf (w : Nat) : JF := ⟨BitVec.ofNat 21 (field w 11 21), guard w, sc w⟩
def xlf (w : Nat) : XlF := ⟨reg w 20, reg w 14, sc w⟩
def xlaf (w : Nat) : XlAF := ⟨reg w 20, sc w⟩
def xldf (w : Nat) : XlDF := ⟨reg w 14, sc w⟩
def scf (w : Nat) : ScF := ⟨sc w⟩


/-- The sixteen 16-bit operations by OP4, bits [5:2] (R51). -/
def half (w : Nat) : Instr :=
  match field w 2 4 with
  | 0 => .mov16 (h w)
  | 1 => .add16 (h w)
  | 2 => .sub16 (h w)
  | 3 => .and16 (h w)
  | 4 => .or16 (h w)
  | 5 => .xor16 (h w)
  | 6 => .shl16 (h w)
  | 7 => .shr16 (h w)
  | 8 => .addi16 (hi w)
  | 9 => .fadd16 (h w)
  | 10 => .fsub16 (h w)
  | 11 => .fmul16 (h w)
  | 12 => .fmax16 (h w)
  | 13 => .fmin16 (h w)
  | 14 => .cmpLt16 (h w)
  | _ => .fcmpLt16 (h w)

/-- IX (R72, R112). -/
def ix (w : Nat) : Except DecodeError Instr :=
  noFQ w <|
  match field w 26 6 with
  | 0 => .ok (.mov (xf w))
  | 1 => .ok (.not (xf w))
  | 2 => .ok (.neg (xf w))
  | 3 => .ok (.abs (xf w))
  | 4 => .ok (.clz (xf w))
  | 5 => .ok (.popc (xf w))
  | 6 => .ok (.brev (xf w))
  | 7 => .ok (.bswap (xf w))
  | 8 => .ok (.sxb (xf w))
  | 9 => .ok (.sxh (xf w))
  | 10 => .ok (.zxb (xf w))
  | 11 => .ok (.zxh (xf w))
  | 12 => even w 20 <| even w 14 <| .ok (.mov64 (xf w))
  | 13 => .ok (.sel (xf w))
  | _ => .error .reservedMinor

/-- PRD (R72, R115). -/
def prd (w : Nat) : Except DecodeError Instr :=
  noFQ w <|
  match field w 26 6 with
  | 0 => chk (!bit w 13) .transientNotAllowed <| noA w <| noD w <| .ok (.ppop (gf w))
  | 1 => chk (!bit w 13) .transientNotAllowed <| noA w <| noD w <| .ok (.pdup (gf w))
  | 2 => chk (!bit w 13) .transientNotAllowed <| noA w <| noD w <| .ok (.pswap (gf w))
  | 3 => chk (!bit w 13) .transientNotAllowed <| noA w <| noD w <| .ok (.pnot (gf w))
  | 4 => chk (!bit w 13) .transientNotAllowed <| noA w <| noD w <| .ok (.pand (gf w))
  | 5 => chk (!bit w 13) .transientNotAllowed <| noA w <| noD w <| .ok (.por (gf w))
  | 6 => chk (!bit w 13) .transientNotAllowed <| noA w <| noD w <| .ok (.pxor (gf w))
  | 7 => chk (!bit w 13) .transientNotAllowed <| noA w <| noD w <| .ok (.prot (gf w))
  | 8 => noA w <| .ok (.psave (dtf w))
  | 9 => chk (!bit w 13) .transientNotAllowed <| noD w <| .ok (.pload (af w))
  | 10 => chk (!bit w 13) .transientNotAllowed <| noD w <| .ok (.pset (af w))
  | 11 => noA w <| .ok (.pget (dtf w))
  | _ => .error .reservedMinor

/-- JR (R72, R117). -/
def jr (w : Nat) : Except DecodeError Instr :=
  noTFQ w <|
  match field w 26 6 with
  | 0 => noD w <| .ok (.jr (af w))
  | 1 => noD w <| .ok (.callr (af w))
  | 2 => noA w <| noD w <| .ok (.ret (gf w))
  | _ => .error .reservedMinor

/-- CTL (R72, R119). -/
def ctl (w : Nat) : Except DecodeError Instr :=
  noFQ w <|
  match field w 26 6 with
  | 0 => chk (!bit w 13) .transientNotAllowed <| noA w <| noD w <| .ok (.nop (gf w))
  | 1 => chk (!bit w 13) .transientNotAllowed <| noD w <| .ok (.dly (nf w))
  | 2 => chk (!bit w 13) .transientNotAllowed <| noA w <| noD w <| .ok (.exit (gf w))
  | 3 => chk (!bit w 13) .transientNotAllowed <| noD w <| .ok (.safe (nf w))
  | 4 => chk (!bit w 13) .transientNotAllowed <| noD w <| .ok (.trap (nf w))
  | 5 => chk (!bit w 13) .transientNotAllowed <| noD w <| .ok (.syscall (nf w))
  | 6 => chk (!bit w 13) .transientNotAllowed <| noA w <| noD w <| .ok (.bkpt (gf w))
  | 7 => named (SReg.ofCode (field w 20 6)) .badIndex fun i => .ok (.srd ⟨i, reg w 14, bit w 13, guard w, sc w⟩)
  | 8 => chk (!bit w 13) .transientNotAllowed <| named (SReg.ofCode (field w 20 6)) .badIndex fun i =>
      chk i.writable .badIndex <| .ok (.swr ⟨i, reg w 14, guard w, sc w⟩)
  | 9 => chk (!bit w 13) .transientNotAllowed <| noG w <| noA w <| noD w <| .ok (.xacq (scf w))
  | 10 => chk (!bit w 13) .transientNotAllowed <| noG w <| noA w <| noD w <| .ok (.xrel (scf w))
  | 11 => chk (!bit w 13) .transientNotAllowed <| noA w <| noD w <| .ok (.yield (gf w))
  | 12 => chk (!bit w 13) .transientNotAllowed <| noD w <| even w 20 <| .ok (.spawn (af w))
  | 13 => chk (!bit w 13) .transientNotAllowed <| noG w <| noA w <| noD w <| .ok (.gbar (scf w))
  | 14 => chk (!bit w 13) .transientNotAllowed <| noA w <| noD w <| .ok (.eret (gf w))
  | 15 => chk (field w 20 6 < 8) .badIndex <| .ok (.hrd ⟨Fin.ofNat 8 (field w 20 6), reg w 14, bit w 13, guard w, sc w⟩)
  | 16 => chk (!bit w 13) .transientNotAllowed <| chk (field w 20 6 < 8) .badIndex <| .ok (.hwr ⟨Fin.ofNat 8 (field w 20 6), reg w 14, guard w, sc w⟩)
  | _ => .error .reservedMinor

/-- FX (R72, R143). -/
def fx (w : Nat) : Except DecodeError Instr :=
  chk (!bit w 11) .qualifierNotAllowed <|
  match field w 26 6 with
  | 0 => .ok (.fneg (xff w))
  | 1 => .ok (.fabs (xff w))
  | 2 => .ok (.fsqrt (xff w))
  | 3 => .ok (.frcp (xff w))
  | 4 => .ok (.frsq (xff w))
  | 5 => .ok (.fex2 (xff w))
  | 6 => .ok (.flg2 (xff w))
  | 7 => .ok (.ffloor (xff w))
  | 8 => .ok (.fceil (xff w))
  | 9 => .ok (.ftrunc (xff w))
  | 10 => .ok (.frint (xff w))
  | 11 => .ok (.fclass (xff w))
  | 12 => .ok (.fsat (xff w))
  | _ => .error .reservedMinor

/-- DX (R72, R143). -/
def dx (w : Nat) : Except DecodeError Instr :=
  chk (!bit w 11) .qualifierNotAllowed <|
  match field w 26 6 with
  | 0 => even w 20 <| even w 14 <| .ok (.dneg (xff w))
  | 1 => even w 20 <| even w 14 <| .ok (.dabs (xff w))
  | 2 => even w 20 <| even w 14 <| .ok (.dsqrt (xff w))
  | 3 => even w 20 <| even w 14 <| .ok (.drcp (xff w))
  | 4 => even w 20 <| even w 14 <| .ok (.dfloor (xff w))
  | 5 => even w 20 <| even w 14 <| .ok (.dceil (xff w))
  | 6 => even w 20 <| even w 14 <| .ok (.dtrunc (xff w))
  | 7 => even w 20 <| even w 14 <| .ok (.drint (xff w))
  | 8 => even w 20 <| .ok (.dclass (xff w))
  | 9 => even w 20 <| even w 14 <| .ok (.dmov (xff w))
  | _ => .error .reservedMinor

/-- CVT: FN is the conversion code, with the alignment of its pairs and groups (R73, R146). -/
def cvt (w : Nat) : Except DecodeError Instr :=
  chk (!bit w 11) .qualifierNotAllowed <|
  named (CvtCode.ofCode (field w 26 6)) .reservedCode fun c =>
  chk (field w 20 6 % c.sourceAlign == 0) .misalignedGroup <|
  chk (field w 14 6 % c.destAlign == 0) .oddPair <|
  .ok (.cvt ⟨c, reg w 20, reg w 14, bit w 13, bit w 12, guard w, sc w⟩)

/-- The M format of LD, ST and LDNF (R53, R188). -/
def mf (w : Nat) (signedOk : Bool) (k : MF → Instr) : Except DecodeError Instr :=
  named (Size.ofCode (field w 9 3)) .reservedCode fun z =>
  even w 18 <|
  chk (signedOk || !z.signed) .illegalCombination <|
  chk (field w 12 6 % z.regs == 0) .misalignedGroup <|
  .ok (k ⟨BitVec.ofNat 8 (field w 24 8), reg w 18, reg w 12, z, sc w⟩)

/-- ATOM (R53, R199). -/
def atom (w : Nat) : Except DecodeError Instr :=
  named (AtomOp.ofCode (field w 9 4)) .reservedCode fun o =>
  even w 20 <|
  chk (!(bit w 13 && o == .bfadd2)) .illegalCombination <|
  chk (!bit w 13 || (field w 26 6 % 2 == 0 && field w 14 6 % 2 == 0)) .oddPair <|
  .ok (.atom ⟨reg w 26, reg w 20, reg w 14, bit w 13, o, sc w⟩)

/-- RED (R53, R199): D must be 0, exchange and compare-and-swap are illegal. -/
def red (w : Nat) : Except DecodeError Instr :=
  named (AtomOp.ofCode (field w 9 4)) .reservedCode fun o =>
  even w 20 <|
  noD w <|
  chk o.reducible .illegalCombination <|
  chk (!(bit w 13 && o == .bfadd2)) .illegalCombination <|
  chk (!bit w 13 || field w 26 6 % 2 == 0) .oddPair <|
  .ok (.red ⟨reg w 26, reg w 20, bit w 13, o, sc w⟩)

/-- MMA (R53, R75, R216). -/
def mma (w : Nat) : Except DecodeError Instr :=
  named (MmaFmt.ofCode (field w 9 4)) .reservedCode fun fm =>
  named (MmaMode.ofCode (field w 29 3)) .reservedCode fun m =>
  even w 17 <|
  chk (fm.gq4 || (field w 17 6 == 0 && field w 13 4 == 0)) .fieldNotZero <|
  .ok (.mma ⟨m, reg w 23, reg w 17, Fin.ofNat 16 (field w 13 4), fm, sc w⟩)

/-- MEM (R72, R187). -/
def mem (w : Nat) : Except DecodeError Instr :=
  noTFQ w <|
  match field w 26 6 with
  | 0 => named (Scope.ofCode (field w 20 6)) .badIndex fun s =>
      named (FenceKind.ofCode (field w 14 6)) .badIndex fun k => .ok (.fence ⟨s, k, guard w, sc w⟩)
  | 1 => noA w <| noD w <| .ok (.afence (gf w))
  | 2 => noA w <| named (BFenceKind.ofCode (field w 14 6)) .badIndex fun k => .ok (.bfence ⟨k, guard w, sc w⟩)
  | 3 => named (CounterClass.ofCode (field w 20 6)) .badIndex fun c => .ok (.waitc ⟨c, reg w 14, guard w, sc w⟩)
  | 4 => even w 20 <| .ok (.stn (adf w))
  | 5 => even w 20 <| .ok (.ldn (adf w))
  | 6 => even w 20 <| chk (field w 14 6 < 2) .badIndex <| .ok (.pref ⟨reg w 20, Fin.ofNat 2 (field w 14 6), guard w, sc w⟩)
  | _ => .error .reservedMinor

/-- CPY (R72, R237). -/
def cpy (w : Nat) : Except DecodeError Instr :=
  noTFQ w <|
  match field w 26 6 with
  | 0 => .ok (.cpy (adf w))
  | 1 => .ok (.cpystat (adf w))
  | _ => .error .reservedMinor

/-- RING (R72, R256). -/
def ring (w : Nat) : Except DecodeError Instr :=
  noTFQ w <|
  match field w 26 6 with
  | 0 => .ok (.rclaim (adf w))
  | 1 => .ok (.rcommit (adf w))
  | 2 => .ok (.rawait (adf w))
  | 3 => noD w <| .ok (.rretire (af w))
  | 4 => .ok (.rclaimnf (adf w))
  | 5 => .ok (.rawaitnf (adf w))
  | _ => .error .reservedMinor

/-- TILE (R72, R211). -/
def tile (w : Nat) : Except DecodeError Instr :=
  noTFQ w <|
  match field w 26 6 with
  | 0 => noA w <| .ok (.sclaim (df w))
  | 1 => noD w <| .ok (.srel (af w))
  | 2 => noA w <| .ok (.aclaim (df w))
  | 3 => noD w <| .ok (.arel (af w))
  | 4 => noD w <| .ok (.azero (af w))
  | _ => .error .reservedMinor

/-- BMV (R72, R227). -/
def bmv (w : Nat) : Except DecodeError Instr :=
  noTFQ w <|
  match field w 26 6 with
  | 0 => noD w <| .ok (.bmvGq4 (af w))
  | 1 => noD w <| .ok (.bmvE4m3 (af w))
  | 2 => noD w <| .ok (.bmvBf16 (af w))
  | _ => .error .reservedMinor

/-- PORT (R72, R268). -/
def port (w : Nat) : Except DecodeError Instr :=
  noTFQ w <|
  match field w 26 6 with
  | 0 => .ok (.palloc (adf w))
  | 1 => noD w <| .ok (.pfree (af w))
  | 2 => aligned w 14 4 <| .ok (.send (adf w))
  | 3 => aligned w 14 4 <| .ok (.sendnf (adf w))
  | 4 => .ok (.padd (adf w))
  | 5 => aligned w 14 4 <| .ok (.recv (adf w))
  | 6 => aligned w 14 4 <| .ok (.recvnf (adf w))
  | 7 => .ok (.patdef (adf w))
  | 8 => noD w <| .ok (.patdel (af w))
  | 9 => .ok (.patarm (adf w))
  | 10 => .ok (.pinfo (adf w))
  | _ => .error .reservedMinor

/-- RSV (R72, R291). -/
def rsv (w : Nat) : Except DecodeError Instr :=
  noTFQ w <|
  match field w 26 6 with
  | 0 => noD w <| even w 20 <| .ok (.claimR (af w))
  | 1 => noD w <| even w 20 <| .ok (.claimW (af w))
  | 2 => noA w <| noD w <| .ok (.admitItem (gf w))
  | 3 => noA w <| .ok (.rsvinfo (df w))
  | _ => .error .reservedMinor

/-- XL (R72, R149). -/
def xl (w : Nat) : Except DecodeError Instr :=
  noG w <| noTFQ w <|
  match field w 26 6 with
  | 0 => .ok (.shflIdx (xlf w))
  | 1 => .ok (.shflXor (xlf w))
  | 2 => .ok (.shflUp (xlf w))
  | 3 => .ok (.shflDown (xlf w))
  | 4 => noD w <| .ok (.voteAll (xlaf w))
  | 5 => noD w <| .ok (.voteAny (xlaf w))
  | 6 => even w 14 <| .ok (.ballot (xlf w))
  | 7 => .ok (.radd (xlf w))
  | 8 => .ok (.rfadd (xlf w))
  | 9 => .ok (.rmin (xlf w))
  | 10 => .ok (.rmax (xlf w))
  | 11 => .ok (.scan (xlf w))
  | 12 => noA w <| .ok (.elect (xldf w))
  | 13 => even w 20 <| noD w <| .ok (.gsync (xlaf w))
  | 14 => noA w <| noD w <| .ok (.cbar (scf w))
  | _ => .error .reservedMinor

/-- FIT (R72, R313). -/
def fit (w : Nat) : Except DecodeError Instr :=
  noTFQ w <|
  match field w 26 6 with
  | 0 => even w 20 <| .ok (.fitx (adf w))
  | 1 => even w 20 <| .ok (.fitgen (adf w))
  | 2 => even w 20 <| .ok (.refit (adf w))
  | 3 => even w 20 <| .ok (.fitstat (adf w))
  | _ => .error .reservedMinor

/-- SYS (R72, R305, R333). -/
def sys (w : Nat) : Except DecodeError Instr :=
  noTFQ w <|
  match field w 26 6 with
  | 0 => even w 20 <| even w 14 <| .ok (.fitmake (adf w))
  | 1 => even w 20 <| noD w <| .ok (.fitdrop (af w))
  | 2 => even w 20 <| .ok (.tlbinv (adf w))
  | 3 => even w 20 <| .ok (.fqpop (adf w))
  | 4 => even w 20 <| .ok (.layout (adf w))
  | 5 => even w 20 <| .ok (.nodekill (adf w))
  | 6 => .ok (.preempt (adf w))
  | 7 => named (PReg.ofCode (field w 20 6)) .badIndex fun i => .ok (.srdp ⟨i, reg w 14, guard w, sc w⟩)
  | 8 => named (PReg.ofCode (field w 20 6)) .badIndex fun i =>
      chk i.writable .badIndex <| .ok (.swrp ⟨i, reg w 14, guard w, sc w⟩)
  | _ => .error .reservedMinor

/-- An integer major without a variant: F = Q = 0 (R107). -/
def int (w : Nat) (k : RF → Instr) : Except DecodeError Instr :=
  noFQ w <| .ok (k (rf w))

/-- An integer major whose Q selects a variant: F = 0 (R66, R107). -/
def intQ (w : Nat) (k0 k1 : RF → Instr) : Except DecodeError Instr :=
  chk (!bit w 12) .quietNotAllowed <| .ok (if bit w 11 then k1 (rf w) else k0 (rf w))

/-- ADD64 and SUB64: three even pairs (R109). -/
def int64 (w : Nat) (k : RF → Instr) : Except DecodeError Instr :=
  noFQ w <| even w 26 <| even w 20 <| even w 14 <| .ok (k (rf w))

/-- A floating-point major without a variant: Q = 0 (R138). -/
def flt (w : Nat) (k : FF → Instr) : Except DecodeError Instr :=
  chk (!bit w 11) .qualifierNotAllowed <| .ok (k (ff w))

/-- A floating-point major whose Q selects a variant on the same registers (R66). -/
def fltQ (w : Nat) (k0 k1 : FF → Instr) : Except DecodeError Instr :=
  .ok (if bit w 11 then k1 (ff w) else k0 (ff w))

/-- FMIN and FMAX: Q = 1 takes FP64 pairs (R141). -/
def fltD (w : Nat) (k0 k1 : FF → Instr) : Except DecodeError Instr :=
  if bit w 11 then even w 26 <| even w 20 <| even w 14 <| .ok (k1 (ff w)) else .ok (k0 (ff w))

/-- FP64 majors: three even pairs (R140). -/
def dbl (w : Nat) (k : FF → Instr) : Except DecodeError Instr :=
  chk (!bit w 11) .qualifierNotAllowed <| even w 26 <| even w 20 <| even w 14 <| .ok (k (ff w))

/-- DADD and DSUB (R66, R140). -/
def dblQ (w : Nat) (k0 k1 : FF → Instr) : Except DecodeError Instr :=
  even w 26 <| even w 20 <| even w 14 <| .ok (if bit w 11 then k1 (ff w) else k0 (ff w))

/-- CMP: T = F = Q = 0, a condition of R74 (R114). -/
def cmp (w : Nat) : Except DecodeError Instr :=
  noTFQ w <| named (Cond.ofCode (field w 14 6)) .reservedCode fun c =>
  .ok (.cmp ⟨reg w 26, reg w 20, c, guard w, sc w⟩)

/-- CMPI (R114). -/
def cmpi (w : Nat) : Except DecodeError Instr :=
  named (Cond.ofCode (field w 11 6)) .reservedCode fun c =>
  .ok (.cmpi ⟨BitVec.ofNat 9 (field w 23 9), reg w 17, c, guard w, sc w⟩)

/-- FCMP: T = 0, a condition of R74; Q = 1 takes FP64 pairs (R142). -/
def fcmp (w : Nat) : Except DecodeError Instr :=
  chk (!bit w 13) .transientNotAllowed <| named (FCond.ofCode (field w 14 6)) .reservedCode fun c =>
  if bit w 11 then even w 26 <| even w 20 <| .ok (.fcmpD ⟨reg w 26, reg w 20, c, bit w 12, guard w, sc w⟩)
  else .ok (.fcmp ⟨reg w 26, reg w 20, c, bit w 12, guard w, sc w⟩)

/-- SHLI: imm9[8:5] = 0 (R54). -/
def shli (w : Nat) : Except DecodeError Instr :=
  chk (field w 28 4 == 0) .fieldNotZero <| .ok (.shli (sf w))

/-- SHRI: imm9[7] selects the arithmetic shift; imm9[8] and imm9[6:5] are 0 (R54). -/
def shri (w : Nat) : Except DecodeError Instr :=
  chk (field w 28 2 == 0 && field w 31 1 == 0) .fieldNotZero <|
  .ok (if bit w 30 then .shriA (sf w) else .shri (sf w))

/-- A 32-bit word by its major opcode, bits [6:1] (R52, R71). All 64 are assigned. -/
def word (w : Nat) : Except DecodeError Instr :=
  match field w 1 6 with
  | 0 => int w .add
  | 1 => int w .sub
  | 2 => int w .mul
  | 3 => intQ w .mulh .mulhN
  | 4 => int w .and
  | 5 => int w .or
  | 6 => int w .xor
  | 7 => int w .andn
  | 8 => int w .shl
  | 9 => intQ w .shr .shrA
  | 10 => intQ w .rot .rotR
  | 11 => intQ w .min .minN
  | 12 => intQ w .max .maxN
  | 13 => int64 w .add64
  | 14 => int64 w .sub64
  | 15 => ix w
  | 16 => .ok (.addi (if_ w))
  | 17 => .ok (.andi (if_ w))
  | 18 => .ok (.ori (if_ w))
  | 19 => .ok (.xori (if_ w))
  | 20 => shli w
  | 21 => shri w
  | 22 => .ok (.lil (wf w))
  | 23 => .ok (.lih (wf w))
  | 24 => cmp w
  | 25 => cmpi w
  | 26 => fcmp w
  | 27 => prd w
  | 28 => .ok (.br (jf w))
  | 29 => .ok (.call (jf w))
  | 30 => jr w
  | 31 => ctl w
  | 32 => flt w .fadd
  | 33 => flt w .fsub
  | 34 => flt w .fmul
  | 35 => flt w .ffma
  | 36 => fltD w .fmin .fminD
  | 37 => fltD w .fmax .fmaxD
  | 38 => fx w
  | 39 => cvt w
  | 40 => dblQ w .dadd .dsub
  | 41 => dbl w .dmul
  | 42 => dbl w .dfma
  | 43 => dx w
  | 44 => fltQ w .hadd2 .hadd2Bf
  | 45 => fltQ w .hmul2 .hmul2Bf
  | 46 => fltQ w .hfma2 .hfma2Bf
  | 47 => fltQ w .dp4 .dp4E4
  | 48 => mf w true .ld
  | 49 => mf w false .st
  | 50 => mf w false .ldnf
  | 51 => atom w
  | 52 => red w
  | 53 => mem w
  | 54 => cpy w
  | 55 => ring w
  | 56 => mma w
  | 57 => tile w
  | 58 => bmv w
  | 59 => port w
  | 60 => rsv w
  | 61 => xl w
  | 62 => fit w
  | _ => sys w

end Decode

/-- The instruction at the head of a list of bytes, with its length in bytes (R49). -/
def decode : List Byte → Except DecodeError (Instr × Nat)
  | b0 :: b1 :: rest =>
    let h := b0.toNat + 256 * b1.toNat
    if h % 2 = 0 then .ok (Decode.half h, 2)
    else
      match rest with
      | b2 :: b3 :: _ =>
        match Decode.word (h + 65536 * (b2.toNat + 256 * b3.toNat)) with
        | .ok i => .ok (i, 4)
        | .error e => .error e
      | _ => .error .truncated
  | _ => .error .truncated

/-! ## The encoder -/

namespace Encode

/-- The 16-bit format (R50): bit 0 is 0. -/
def pack16 (op4 a d s : Nat) : Nat := 2 * s + 4 * op4 + 64 * d + 2048 * a

/-- The R and X formats (R52, R53); `b` is B or FN. -/
def packR (op b a d t f q g s : Nat) : Nat :=
  1 + 2 * op + 128 * s + 512 * g + 2048 * q + 4096 * f + 8192 * t + 16384 * d + 1048576 * a + 67108864 * b

/-- The I format (R53). -/
def packI (op i a d g s : Nat) : Nat := 1 + 2 * op + 128 * s + 512 * g + 2048 * d + 131072 * a + 8388608 * i

/-- The M format (R53). -/
def packM (op i a d z s : Nat) : Nat := 1 + 2 * op + 128 * s + 512 * z + 4096 * d + 262144 * a + 16777216 * i

/-- The W format (R53). -/
def packW (op i d s : Nat) : Nat := 1 + 2 * op + 128 * s + 512 * d + 32768 * i

/-- The J format (R53). -/
def packJ (op i g s : Nat) : Nat := 1 + 2 * op + 128 * s + 512 * g + 2048 * i

/-- The A format (R53). -/
def packA (op b a d w o s : Nat) : Nat :=
  1 + 2 * op + 128 * s + 512 * o + 8192 * w + 16384 * d + 1048576 * a + 67108864 * b

/-- The MX format (R53). -/
def packMX (op m a r k f s : Nat) : Nat :=
  1 + 2 * op + 128 * s + 512 * f + 8192 * k + 131072 * r + 8388608 * a + 536870912 * m

def h (op4 : Nat) (x : H) : Nat := pack16 op4 x.a x.d x.sc
def r (op q : Nat) (x : RF) : Nat := packR op x.b x.a x.d x.t.toNat 0 q x.g.code x.sc
def f (op q : Nat) (x : FF) : Nat := packR op x.b x.a x.d x.t.toNat x.q.toNat q x.g.code x.sc
def x (op fn : Nat) (x : XF) : Nat := packR op fn x.a x.d x.t.toNat 0 0 x.g.code x.sc
def xf (op fn : Nat) (x : XFF) : Nat := packR op fn x.a x.d x.t.toNat x.q.toNat 0 x.g.code x.sc
def g (op fn : Nat) (x : GF) : Nat := packR op fn 0 0 0 0 0 x.g.code x.sc
def dt (op fn : Nat) (x : DTF) : Nat := packR op fn 0 x.d x.t.toNat 0 0 x.g.code x.sc
def d (op fn : Nat) (x : DF) : Nat := packR op fn 0 x.d 0 0 0 x.g.code x.sc
def a (op fn : Nat) (x : AF) : Nat := packR op fn x.a 0 0 0 0 x.g.code x.sc
def ad (op fn : Nat) (x : ADF) : Nat := packR op fn x.a x.d 0 0 0 x.g.code x.sc
def n (op fn : Nat) (x : NF) : Nat := packR op fn x.n 0 0 0 0 x.g.code x.sc
def i (op : Nat) (x : IF) : Nat := packI op x.imm.toNat x.a x.d x.g.code x.sc
def s (op arith : Nat) (x : SF) : Nat := packI op (x.n + 128 * arith) x.a x.d x.g.code x.sc
def w (op : Nat) (x : WF) : Nat := packW op x.imm.toNat x.d x.sc
def j (op : Nat) (x : JF) : Nat := packJ op x.disp.toNat x.g.code x.sc
def m (op : Nat) (x : MF) : Nat := packM op x.imm.toNat x.a x.d x.z.code x.sc
def xl (fn : Nat) (x : XlF) : Nat := packR 61 fn x.a x.d 0 0 0 0 x.sc
def xla (fn : Nat) (x : XlAF) : Nat := packR 61 fn x.a 0 0 0 0 0 x.sc
def xld (fn : Nat) (x : XlDF) : Nat := packR 61 fn 0 x.d 0 0 0 0 x.sc
def z (op fn : Nat) (x : ScF) : Nat := packR op fn 0 0 0 0 0 0 x.sc

end Encode

/-- An instruction's encoding: one halfword or one 32-bit word (R49). -/
inductive Code where
  | half (h : Nat)
  | word (w : Nat)
  deriving DecidableEq, Repr

/-- The bytes of an encoding, lowest address first (R49). -/
def Code.bytes : Code → List Byte
  | .half h => leBytes 2 h
  | .word w => leBytes 4 w

open Encode in
/-- The encoding of an instruction; an event has none, and neither has what stands for a word that is no instruction. -/
def encode : Instr → Option Code
  | .mov16 f => some (.half (Encode.h 0 f))
  | .add16 f => some (.half (Encode.h 1 f))
  | .sub16 f => some (.half (Encode.h 2 f))
  | .and16 f => some (.half (Encode.h 3 f))
  | .or16 f => some (.half (Encode.h 4 f))
  | .xor16 f => some (.half (Encode.h 5 f))
  | .shl16 f => some (.half (Encode.h 6 f))
  | .shr16 f => some (.half (Encode.h 7 f))
  | .addi16 f => some (.half (pack16 8 f.imm.toNat f.d f.sc))
  | .fadd16 f => some (.half (Encode.h 9 f))
  | .fsub16 f => some (.half (Encode.h 10 f))
  | .fmul16 f => some (.half (Encode.h 11 f))
  | .fmax16 f => some (.half (Encode.h 12 f))
  | .fmin16 f => some (.half (Encode.h 13 f))
  | .cmpLt16 f => some (.half (Encode.h 14 f))
  | .fcmpLt16 f => some (.half (Encode.h 15 f))
  | .add f => some (.word (Encode.r 0 0 f))
  | .sub f => some (.word (Encode.r 1 0 f))
  | .mul f => some (.word (Encode.r 2 0 f))
  | .mulh f => some (.word (Encode.r 3 0 f))
  | .mulhN f => some (.word (Encode.r 3 1 f))
  | .and f => some (.word (Encode.r 4 0 f))
  | .or f => some (.word (Encode.r 5 0 f))
  | .xor f => some (.word (Encode.r 6 0 f))
  | .andn f => some (.word (Encode.r 7 0 f))
  | .shl f => some (.word (Encode.r 8 0 f))
  | .shr f => some (.word (Encode.r 9 0 f))
  | .shrA f => some (.word (Encode.r 9 1 f))
  | .rot f => some (.word (Encode.r 10 0 f))
  | .rotR f => some (.word (Encode.r 10 1 f))
  | .min f => some (.word (Encode.r 11 0 f))
  | .minN f => some (.word (Encode.r 11 1 f))
  | .max f => some (.word (Encode.r 12 0 f))
  | .maxN f => some (.word (Encode.r 12 1 f))
  | .add64 f => some (.word (Encode.r 13 0 f))
  | .sub64 f => some (.word (Encode.r 14 0 f))
  | .mov f => some (.word (Encode.x 15 0 f))
  | .not f => some (.word (Encode.x 15 1 f))
  | .neg f => some (.word (Encode.x 15 2 f))
  | .abs f => some (.word (Encode.x 15 3 f))
  | .clz f => some (.word (Encode.x 15 4 f))
  | .popc f => some (.word (Encode.x 15 5 f))
  | .brev f => some (.word (Encode.x 15 6 f))
  | .bswap f => some (.word (Encode.x 15 7 f))
  | .sxb f => some (.word (Encode.x 15 8 f))
  | .sxh f => some (.word (Encode.x 15 9 f))
  | .zxb f => some (.word (Encode.x 15 10 f))
  | .zxh f => some (.word (Encode.x 15 11 f))
  | .mov64 f => some (.word (Encode.x 15 12 f))
  | .sel f => some (.word (Encode.x 15 13 f))
  | .addi f => some (.word (Encode.i 16 f))
  | .andi f => some (.word (Encode.i 17 f))
  | .ori f => some (.word (Encode.i 18 f))
  | .xori f => some (.word (Encode.i 19 f))
  | .shli f => some (.word (Encode.s 20 0 f))
  | .shri f => some (.word (Encode.s 21 0 f))
  | .shriA f => some (.word (Encode.s 21 1 f))
  | .lil f => some (.word (Encode.w 22 f))
  | .lih f => some (.word (Encode.w 23 f))
  | .cmp f => some (.word (packR 24 f.b f.a f.c.code 0 0 0 f.g.code f.sc))
  | .cmpi f => some (.word (packI 25 f.imm.toNat f.a f.c.code f.g.code f.sc))
  | .fcmp f => some (.word (packR 26 f.b f.a f.c.code 0 f.q.toNat 0 f.g.code f.sc))
  | .fcmpD f => some (.word (packR 26 f.b f.a f.c.code 0 f.q.toNat 1 f.g.code f.sc))
  | .ppop f => some (.word (Encode.g 27 0 f))
  | .pdup f => some (.word (Encode.g 27 1 f))
  | .pswap f => some (.word (Encode.g 27 2 f))
  | .pnot f => some (.word (Encode.g 27 3 f))
  | .pand f => some (.word (Encode.g 27 4 f))
  | .por f => some (.word (Encode.g 27 5 f))
  | .pxor f => some (.word (Encode.g 27 6 f))
  | .prot f => some (.word (Encode.g 27 7 f))
  | .psave f => some (.word (Encode.dt 27 8 f))
  | .pload f => some (.word (Encode.a 27 9 f))
  | .pset f => some (.word (Encode.a 27 10 f))
  | .pget f => some (.word (Encode.dt 27 11 f))
  | .br f => some (.word (Encode.j 28 f))
  | .call f => some (.word (Encode.j 29 f))
  | .jr f => some (.word (Encode.a 30 0 f))
  | .callr f => some (.word (Encode.a 30 1 f))
  | .ret f => some (.word (Encode.g 30 2 f))
  | .nop f => some (.word (Encode.g 31 0 f))
  | .dly f => some (.word (Encode.n 31 1 f))
  | .exit f => some (.word (Encode.g 31 2 f))
  | .safe f => some (.word (Encode.n 31 3 f))
  | .trap f => some (.word (Encode.n 31 4 f))
  | .syscall f => some (.word (Encode.n 31 5 f))
  | .bkpt f => some (.word (Encode.g 31 6 f))
  | .srd f => some (.word (packR 31 7 f.i.code f.d f.t.toNat 0 0 f.g.code f.sc))
  | .swr f => some (.word (packR 31 8 f.i.code f.d 0 0 0 f.g.code f.sc))
  | .xacq f => some (.word (Encode.z 31 9 f))
  | .xrel f => some (.word (Encode.z 31 10 f))
  | .yield f => some (.word (Encode.g 31 11 f))
  | .spawn f => some (.word (Encode.a 31 12 f))
  | .gbar f => some (.word (Encode.z 31 13 f))
  | .eret f => some (.word (Encode.g 31 14 f))
  | .hrd f => some (.word (packR 31 15 f.n f.d f.t.toNat 0 0 f.g.code f.sc))
  | .hwr f => some (.word (packR 31 16 f.n f.d 0 0 0 f.g.code f.sc))
  | .fadd f => some (.word (Encode.f 32 0 f))
  | .fsub f => some (.word (Encode.f 33 0 f))
  | .fmul f => some (.word (Encode.f 34 0 f))
  | .ffma f => some (.word (Encode.f 35 0 f))
  | .fmin f => some (.word (Encode.f 36 0 f))
  | .fminD f => some (.word (Encode.f 36 1 f))
  | .fmax f => some (.word (Encode.f 37 0 f))
  | .fmaxD f => some (.word (Encode.f 37 1 f))
  | .fneg f => some (.word (Encode.xf 38 0 f))
  | .fabs f => some (.word (Encode.xf 38 1 f))
  | .fsqrt f => some (.word (Encode.xf 38 2 f))
  | .frcp f => some (.word (Encode.xf 38 3 f))
  | .frsq f => some (.word (Encode.xf 38 4 f))
  | .fex2 f => some (.word (Encode.xf 38 5 f))
  | .flg2 f => some (.word (Encode.xf 38 6 f))
  | .ffloor f => some (.word (Encode.xf 38 7 f))
  | .fceil f => some (.word (Encode.xf 38 8 f))
  | .ftrunc f => some (.word (Encode.xf 38 9 f))
  | .frint f => some (.word (Encode.xf 38 10 f))
  | .fclass f => some (.word (Encode.xf 38 11 f))
  | .fsat f => some (.word (Encode.xf 38 12 f))
  | .cvt f => some (.word (packR 39 f.c.code f.a f.d f.t.toNat f.q.toNat 0 f.g.code f.sc))
  | .dadd f => some (.word (Encode.f 40 0 f))
  | .dsub f => some (.word (Encode.f 40 1 f))
  | .dmul f => some (.word (Encode.f 41 0 f))
  | .dfma f => some (.word (Encode.f 42 0 f))
  | .dneg f => some (.word (Encode.xf 43 0 f))
  | .dabs f => some (.word (Encode.xf 43 1 f))
  | .dsqrt f => some (.word (Encode.xf 43 2 f))
  | .drcp f => some (.word (Encode.xf 43 3 f))
  | .dfloor f => some (.word (Encode.xf 43 4 f))
  | .dceil f => some (.word (Encode.xf 43 5 f))
  | .dtrunc f => some (.word (Encode.xf 43 6 f))
  | .drint f => some (.word (Encode.xf 43 7 f))
  | .dclass f => some (.word (Encode.xf 43 8 f))
  | .dmov f => some (.word (Encode.xf 43 9 f))
  | .hadd2 f => some (.word (Encode.f 44 0 f))
  | .hadd2Bf f => some (.word (Encode.f 44 1 f))
  | .hmul2 f => some (.word (Encode.f 45 0 f))
  | .hmul2Bf f => some (.word (Encode.f 45 1 f))
  | .hfma2 f => some (.word (Encode.f 46 0 f))
  | .hfma2Bf f => some (.word (Encode.f 46 1 f))
  | .dp4 f => some (.word (Encode.f 47 0 f))
  | .dp4E4 f => some (.word (Encode.f 47 1 f))
  | .ld f => some (.word (Encode.m 48 f))
  | .st f => some (.word (Encode.m 49 f))
  | .ldnf f => some (.word (Encode.m 50 f))
  | .atom f => some (.word (packA 51 f.b f.a f.d f.w.toNat f.op.code f.sc))
  | .red f => some (.word (packA 52 f.b f.a 0 f.w.toNat f.op.code f.sc))
  | .fence f => some (.word (packR 53 0 f.scope.code f.kind.code 0 0 0 f.g.code f.sc))
  | .afence f => some (.word (Encode.g 53 1 f))
  | .bfence f => some (.word (packR 53 2 0 f.kind.code 0 0 0 f.g.code f.sc))
  | .waitc f => some (.word (packR 53 3 f.c.code f.n 0 0 0 f.g.code f.sc))
  | .stn f => some (.word (Encode.ad 53 4 f))
  | .ldn f => some (.word (Encode.ad 53 5 f))
  | .pref f => some (.word (packR 53 6 f.a f.l 0 0 0 f.g.code f.sc))
  | .cpy f => some (.word (Encode.ad 54 0 f))
  | .cpystat f => some (.word (Encode.ad 54 1 f))
  | .rclaim f => some (.word (Encode.ad 55 0 f))
  | .rcommit f => some (.word (Encode.ad 55 1 f))
  | .rawait f => some (.word (Encode.ad 55 2 f))
  | .rretire f => some (.word (Encode.a 55 3 f))
  | .rclaimnf f => some (.word (Encode.ad 55 4 f))
  | .rawaitnf f => some (.word (Encode.ad 55 5 f))
  | .mma f => some (.word (packMX 56 f.mode.code f.a f.sr f.bsel f.fmt.code f.sc))
  | .sclaim f => some (.word (Encode.d 57 0 f))
  | .srel f => some (.word (Encode.a 57 1 f))
  | .aclaim f => some (.word (Encode.d 57 2 f))
  | .arel f => some (.word (Encode.a 57 3 f))
  | .azero f => some (.word (Encode.a 57 4 f))
  | .bmvGq4 f => some (.word (Encode.a 58 0 f))
  | .bmvE4m3 f => some (.word (Encode.a 58 1 f))
  | .bmvBf16 f => some (.word (Encode.a 58 2 f))
  | .palloc f => some (.word (Encode.ad 59 0 f))
  | .pfree f => some (.word (Encode.a 59 1 f))
  | .send f => some (.word (Encode.ad 59 2 f))
  | .sendnf f => some (.word (Encode.ad 59 3 f))
  | .padd f => some (.word (Encode.ad 59 4 f))
  | .recv f => some (.word (Encode.ad 59 5 f))
  | .recvnf f => some (.word (Encode.ad 59 6 f))
  | .patdef f => some (.word (Encode.ad 59 7 f))
  | .patdel f => some (.word (Encode.a 59 8 f))
  | .patarm f => some (.word (Encode.ad 59 9 f))
  | .pinfo f => some (.word (Encode.ad 59 10 f))
  | .claimR f => some (.word (Encode.a 60 0 f))
  | .claimW f => some (.word (Encode.a 60 1 f))
  | .admitItem f => some (.word (Encode.g 60 2 f))
  | .rsvinfo f => some (.word (Encode.d 60 3 f))
  | .shflIdx f => some (.word (Encode.xl 0 f))
  | .shflXor f => some (.word (Encode.xl 1 f))
  | .shflUp f => some (.word (Encode.xl 2 f))
  | .shflDown f => some (.word (Encode.xl 3 f))
  | .voteAll f => some (.word (Encode.xla 4 f))
  | .voteAny f => some (.word (Encode.xla 5 f))
  | .ballot f => some (.word (Encode.xl 6 f))
  | .radd f => some (.word (Encode.xl 7 f))
  | .rfadd f => some (.word (Encode.xl 8 f))
  | .rmin f => some (.word (Encode.xl 9 f))
  | .rmax f => some (.word (Encode.xl 10 f))
  | .scan f => some (.word (Encode.xl 11 f))
  | .elect f => some (.word (Encode.xld 12 f))
  | .gsync f => some (.word (Encode.xla 13 f))
  | .cbar f => some (.word (Encode.z 61 14 f))
  | .fitx f => some (.word (Encode.ad 62 0 f))
  | .fitgen f => some (.word (Encode.ad 62 1 f))
  | .refit f => some (.word (Encode.ad 62 2 f))
  | .fitstat f => some (.word (Encode.ad 62 3 f))
  | .fitmake f => some (.word (Encode.ad 63 0 f))
  | .fitdrop f => some (.word (Encode.a 63 1 f))
  | .tlbinv f => some (.word (Encode.ad 63 2 f))
  | .fqpop f => some (.word (Encode.ad 63 3 f))
  | .layout f => some (.word (Encode.ad 63 4 f))
  | .nodekill f => some (.word (Encode.ad 63 5 f))
  | .preempt f => some (.word (Encode.ad 63 6 f))
  | .srdp f => some (.word (packR 63 7 f.i.code f.d 0 0 0 f.g.code f.sc))
  | .swrp f => some (.word (packR 63 8 f.i.code f.d 0 0 0 f.g.code f.sc))
  | .fresRetry _ => none
  | .fresFatal _ => none
  | .streamExpectedUpdate _ => none
  | .launchMessage _ _ _ => none
  | .nodeAdmission _ _ => none
  | .stepBoundary _ _ => none
  | .nodeCompletion _ => none
  | .heldDeliveryRetry _ _ => none
  | .waveDispatch _ _ => none
  | .stealAttempt _ => none
  | .stealAcknowledge _ => none
  | .cooperativePlacement _ _ => none
  | .footprintRelease _ => none
  | .loadDataReturn _ _ => none
  | .preemptionRequest _ => none
  | .hardPreemptCycleLimit _ => none
  | .hardPreemptInstrLimit _ => none
  | .waveLeavesCore _ => none
  | .waveRestore _ _ => none
  | .extendedBlockGrant _ => none
  | .slotClaimGrant _ _ => none
  | .slotReleaseComplete _ _ _ => none
  | .matrixOpStart _ => none
  | .matrixOpCompletion _ => none
  | .copyChunkStart _ _ => none
  | .copyCompletion _ _ => none
  | .reductionApply _ _ => none
  | .bankRowCompute _ _ => none
  | .bmvCompletion _ _ => none
  | .faultRecordPost _ => none
  | .refitStart _ => none
  | .refitSwap _ _ _ => none
  | .refitAbandon _ => none
  | .patternFiring _ => none
  | .itemAdmission _ _ => none
  | .itemFinish _ _ => none
  | .pageDemotion _ _ => none
  | .pagePromotion _ _ => none
  | .moduleReset => none
  | .clusterReset _ => none
  | .unitOutOfService _ => none
  | .eccError _ => none
  | .hostDoorbellStore _ _ => none
  | .hostDoorbellRead _ _ => none
  | .hostMemAccess _ => none
  | .flitRetry _ => none
  | .powerAdjust _ _ => none
  | .replay => none
  | .reservedOrIllegalEncoding _ => none
  | .storeTakesEffect _ => none
  | .fabricCannotReachModule _ _ => none

/-- The instruction in a word as the opcode table numbers its bits: bit 0 is the least significant bit of the first
halfword (R49). Bits above the given ones are 0. -/
def decodeTableWord (nbits w : Nat) : Option Instr :=
  match decode (leBytes 4 (w % 2 ^ nbits)) with
  | .ok (i, _) => some i
  | .error _ => none

end Sys2Proof
end

