-- ==== Sys2Proof/Config.lean ====
section
/-!
DEFINITION. What the manual leaves open and no run may fix: free values, constants without a body that the machine
applies to the counter `State.free` (or to what the docstring names). Nothing can be proved of their values.
-/
namespace Sys2Proof.Config

/-- Which of the values the manual allows a read returns: a read not in time (R62) or past a transient window (R64)
with checking off, a scale snapshot that races a lane's write (R220). Taken modulo the number of allowed values.
FREE VALUE (log 7). -/
opaque choice : Nat → Nat

/-- The reference identifier FITMAKE writes to the descriptor (R300). FREE VALUE (log 8). -/
opaque referenceId : Nat → DWord

/-- The faulting address of a poison mark that a hard restore brings back: the hard-save area holds only the mask of
the marked registers (R331, R193). FREE VALUE (log 9). -/
opaque restoredMark : Nat → DWord

end Sys2Proof.Config
end

