-- ==== Sys2Proof/Machine/State.lean ====
section
/-!
DEFINITION. The state of one module of the 7160 as plain data, the reasons a step can stop, and the state after reset
(spec 25 R348). INVENTORY.md lists every field with its rule and its reset value.
-/
namespace Sys2Proof.Machine

open Sys2Proof

/-- Bytes by address: addresses strictly rising, no entry equal to 0, which is what an unlisted address reads as
(R348 step 4 zeroes every HBM granule; on chip and in host memory: log 2, log 3). -/
abbrev Memory := List Host.Cell

/-! ## Threads -/

/-- Thread modes (R124); saving mode records the safe point through which it was entered. -/
inductive Mode where
  | normal
  | handler
  | saving (safePoint : Nat)
  | restoring
  deriving DecidableEq, Repr

/-- What a thread is doing as a whole: running, parked by YIELD (R128), hard-stopped (R47), or ended (R129). -/
inductive TStatus where
  | running
  | parked
  | stopped
  | exited
  deriving DecidableEq, Repr

/-! ## What happens-before what (R169..R181)

A write of global memory or of a scratchpad that some agent may not see yet is a `PastWrite` of `State.history`, under an
event number. What an agent knows is a set of such numbers; knowing passes from agent to agent along the edges of
happens-before (log 12). -/

/-- What happens-before what an agent does next, by number: writes, and the fences of `State.fenced`. Of those `seen`, the ones
`written` happen-before a write that is itself seen: they stand before a store-to-bank fence, which orders earlier writes alone
(R180). -/
structure Know where
  seen : List Nat
  written : List Nat
  deriving DecidableEq, Repr

/-- Nothing known. -/
def Know.none : Know := ⟨[], []⟩

/-- What has a number as a write has, and gives more to some who know it: an AFENCE (R179), a store-to-bank BFENCE (R180), the
completion of a BMV (R181). -/
inductive FencedKind where
  | views
  | toBank
  | completion
  deriving DecidableEq, Repr

/-- One of these, and what it gives: an AFENCE the writes that its thread joined, to who fences its own views; a store-to-bank fence
what a BMV sees whose issue follows it; a BMV's completion the BMV's accesses, at a bank-to-load fence. -/
structure Fenced where
  event : Nat
  kind : FencedKind
  gives : Know
  deriving DecidableEq, Repr

/-- What an agent sees: what it knows; the writes through other views that its AFENCE has joined (R179); and those that it
happens to see though nothing joins them. -/
structure Sight where
  know : Know
  across : List Nat
  glimpsed : List Nat
  deriving DecidableEq, Repr

/-- Nothing seen of what is still to spread. -/
def Sight.none : Sight := ⟨Know.none, [], []⟩

/-- What a release or full fence made ready to pass on: its scope, where its thread stood, of which wave it was, what it knew
(R172). -/
structure Released where
  scope : Scope
  core : CoreId
  wave : Nat
  know : Know
  deriving DecidableEq, Repr

/-- What a thread's store carries to who reads it: where the thread stood, and its wave, whose threads share every core; for a
thread of the same core, what the thread knew at the store (R171; none for a peer's scratchpad, R168); for an acquire fence, the
releases before it (R172). -/
structure Carried where
  core : CoreId
  wave : Nat
  near : Option Know
  releases : List Released
  deriving DecidableEq, Repr

/-- A fixed-latency result: `olds` are the values a read could return before the write, `bank` the register bank's value before it,
`val` the value written, `left` the distance still to go (R58, R62). One with none left stands while an older one of its register
has some. `event` numbers the write once something may order it before another thread's snapshot (R220). `paired`: it is half of a
pair result, which is written as one (R109, R140). Newest first. -/
structure InFlight where
  reg : Reg
  olds : List Word
  bank : Word
  val : Word
  left : Nat
  event : Option Nat
  paired : Bool
  deriving DecidableEq, Repr

/-- A transient value: forwarded, not in the register banks; `age` counts the instructions executed since (R63, R64); `paired` as
in `InFlight`. -/
structure Transient where
  reg : Reg
  val : Word
  age : Nat
  paired : Bool
  deriving DecidableEq, Repr

/-- A poison mark on a register, with the address of the access that set it (R193). -/
structure Mark where
  reg : Reg
  ea : DWord
  deriving DecidableEq, Repr

/-- An accepted load, LDNF or atomic whose data has not returned (R190): the values for its destination registers,
whether they come with a poison mark, and LDNF's push (R196). `ticket` names a fault record that must be accepted into
the queue before the push. `completing` loads hold up the thread (R190); `nibble` marks an LDN, which poison does not make
trap (R192); `peer`: of one whose destination includes g30 or g31, that it reached a peer's scratchpad (R24, R194). -/
structure PendingLoad where
  pc : Word
  ea : DWord
  vals : List (Reg × Word)
  poisoned : Bool
  push : Option Bool
  ticket : Option Nat
  completing : Bool
  nibble : Bool
  peer : Bool
  deriving DecidableEq, Repr

/-- Where an access lands after translation: physical storage, a byte of a wave's scratchpad allocation (R163), or an
element of a fitted region (R302). -/
inductive Loc where
  | phys (pa : Nat)
  | spad (wave : Nat) (off : Nat)
  | fitted (region : Nat) (elem : Nat)
  deriving DecidableEq, Repr

/-- What a buffered store does when it takes effect: bytes, one nibble (R197), or a reduction (R199). -/
inductive StoreOp where
  | bytes (bs : List Byte)
  | nibble (high : Bool) (v : BitVec 4)
  | red (op : AtomOp) (wide : Bool) (b : DWord)
  deriving DecidableEq, Repr

/-- An accepted store, STN or RED that has not yet taken effect for other threads (R171, R191); `view` is true for an
access through a layout view (R167), `peer` for one to a peer's scratchpad (R168). `packet` is the packet that made it and
`stamp` its place among all accepted stores: those of one packet to one byte take effect in packet order (R174, R361). -/
structure StoreEntry where
  loc : Loc
  view : Bool
  peer : Bool
  op : StoreOp
  ea : DWord
  pc : Word
  carries : Carried
  packet : Nat
  stamp : Nat
  deriving DecidableEq, Repr

/-- A thread's arrival at a cross-lane instruction or group collective (R150, R130): the instruction, the operand
values it read at arrival. -/
structure Arrival where
  instr : Instr
  a : DWord
  c : Word
  deriving DecidableEq, Repr

/-- One destination of a copy: its base address and, for a multicast copy, the wave whose storage it names (R245). -/
structure CopyDest where
  base : DWord
  wave : Option Nat
  deriving DecidableEq, Repr

/-- A run of elements of a copy in iteration order (R248). -/
structure Chunk where
  start : Nat
  count : Nat
  deriving DecidableEq, Repr

/-- A reducing element that has reached its memory controller and waits for its turn (R247), with the address it was reached
by; `cleans`: it is the last of its chunk's elements that write a whole poison unit (R250). -/
structure Update where
  ordinal : Nat
  va : Nat
  pa : Nat
  view : Bool
  val : Nat
  cleans : Bool
  deriving DecidableEq, Repr

/-- A source byte that a mode-0 copy has overwritten: its virtual address, what it held, whether it was poisoned (R243), and the
writes that held it. -/
structure SavedByte where
  va : Nat
  old : Byte
  poisoned : Bool
  met : List Nat
  deriving DecidableEq, Repr

/-- A copy: its issuer, its parameter block (R238), and its progress. `order` counts its group's operations of its class
up to it, `sight` is what it sees (R175). `next` is the first ordinal not yet in a chunk;
`stalled` holds the chunks that wait for a verdict, with their tokens once their records are posted (R251); `retry` those
to start again; `fatal`: some record was declared fatal; `passed`: its number had passed; `settled`: its stream has counted
it as applied (R247); `saved`: what a mode-0 copy has overwritten of its own source, by virtual address (R243). `wrote` are the
events of its writes (R178), `met` those that its reads have returned (R170, R176). `completed`: it has completed, and its report
waits for those of earlier operations (R207, R250). `lent`: what the verdicts that let chunks start again release to these (R325). -/
structure CopyOp where
  id : Nat
  thread : ThreadId
  group : Nat
  pc : Word
  system : Bool
  core : CoreId
  src : DWord
  dests : List CopyDest
  srcFmt : Nat
  dstFmt : Nat
  mode : Nat
  cls : Nat
  sequenced : Bool
  remote : Bool
  tag : Word
  extents : List Nat
  srcStrides : List Int
  dstStrides : List Int
  seqNo : Word
  stream : Nat
  superArray : DWord
  blockArray : DWord
  fill : DWord
  handle : Word
  next : Nat
  written : Nat
  stalled : List (Chunk × Option Nat)
  retry : List Chunk
  updates : List Update
  applied : Nat
  begun : Bool
  fatal : Bool
  passed : Bool
  settled : Bool
  completed : Bool
  saved : List SavedByte
  order : Nat
  sight : Sight
  lent : List (Chunk × Know)
  wrote : List Nat
  met : List Nat
  deriving DecidableEq, Repr

/-- What a stalled thread waits for. `interlock`: a pending result (R60, R190); `poll`: a condition of its instruction;
`half`: the second half of a .q load, the first having been read (R174); `lanes`: the packet's other lanes, whose checks
have not passed (R190); `retry`: its own checks again, the translation having changed (R330). -/
inductive Wait where
  | none
  | interlock
  | poll
  | half (lower : List Byte)
  | lanes (ids : List ThreadId)
  | retry
  | arrived (x : Arrival)
  | claim (tile : Bool) (d : Reg) (sc : Nat)
  | release (tile : Bool) (n : Nat) (sc : Nat)
  | copy (op : CopyOp) (sc : Nat)
  | recv (handle : Word)
  | retranslate (va : DWord)
  | admitItem (sc : Nat)
  deriving DecidableEq, Repr

/-- A thread's architectural state (R7, R39, R70, R124), with its results in flight and its place in issue. `modeHigh` and
`spare` are the bits of the hard-save area's mode byte and reserved byte that a restore takes as they stand (R331, R332).
`unposted` counts its dropped REDs and stores whose records the fault queue has not accepted (R323); `owed` are flags of its
operations that completed while it was hard-stopped (R94). `sight`, `released` and `heard` are its part in happens-before:
what it sees, the releases that its stores carry, and what its reads have met and no acquire fence has taken over (R172).
`reached`: it has reached a safe point since the pre-emption request (R46). `held`: the operand values that the instruction in which it waits
has read. -/
structure Thread where
  id : ThreadId
  status : TStatus
  pc : Word
  regs : Vector Word 64
  preds : BitVec 8
  fflags : Word
  fcr : Word
  ctl : Word
  fport : Word
  slim : DWord
  clkh : Word
  h : Vector Word 8
  mode : Mode
  pending : Bool
  flight : List InFlight
  trans : List Transient
  marks : List Mark
  loads : List PendingLoad
  stores : List StoreEntry
  unposted : Nat
  owed : BitVec 5
  modeHigh : BitVec 5
  spare : Byte
  sight : Sight
  released : List Released
  heard : List Released
  wait : Wait
  held : List Word
  readyAt : Nat
  lastIssue : Nat
  sinceRequest : Nat
  reached : Bool
  deriving DecidableEq, Repr

/-- A reported operation of a group, by its class and place in issue order, what happens-before a WAITC that covers it (R176), and
the events of its own writes (R178). -/
structure Reported where
  cls : CounterClass
  order : Nat
  know : Know
  wrote : List Nat
  deriving DecidableEq, Repr

/-- A group: its extended block (R37) and its four outstanding counters, each the numbers of the operations issued and
not yet reported, oldest first (R207). `issued` counts all it has issued, in the order copy, matrix, bank, remote; `reported`
keeps what reported ones pass on (R176). -/
structure Group where
  wave : Nat
  idx : Nat
  ext : Bool
  copyOps : List Nat
  matrixOps : List Nat
  bankOps : List Nat
  remoteOps : List Nat
  issued : Vector Nat 4
  reported : List Reported
  deriving DecidableEq, Repr

/-- Where a wave stands: on its core, saved off it after a pre-emption (R43), or ended and not yet released (R14). -/
inductive WStatus where
  | resident
  | preempted
  | released
  deriving DecidableEq, Repr

/-- When a release marked a slot or tile: the number that the next operation to enter was to have (R213). -/
structure RelMark where
  tile : Bool
  name : Nat
  before : Nat
  deriving DecidableEq, Repr

/-- A wave: its place (R11, R12), its scratchpad allocation, slots and tiles with their contents (R163, R209), its claim
queues (R212), and a pending pre-emption request with the cycle it was made (R40). -/
structure Wave where
  uid : Nat
  launch : Nat
  step : Nat
  index : Nat
  die : Nat
  core : Nat
  place : Nat
  firstCore : CoreId
  firstOff : Nat
  width : Nat
  groups : Nat
  status : WStatus
  peers : List Nat
  spadBytes : Nat
  spad : Memory
  spadPoison : List Nat
  slotNames : List Nat
  tileNames : List Nat
  heldSlots : List Nat
  heldTiles : List Nat
  relSlots : List Nat
  relTiles : List Nat
  relMarks : List RelMark
  slotMem : Memory
  tileMem : Memory
  slotPoison : List Nat
  tilePoison : List Nat
  slotQueue : List Nat
  tileQueue : List Nat
  request : Option Nat
  deriving DecidableEq, Repr

/-! ## Engines -/

/-- What a matrix operation does: an MMA with its block (R217) and its scale snapshot, the byte of column n for K-block i
at place 64·i + n (R220), or an AZERO (R214). -/
inductive MatrixKind where
  | mma (fmt : MmaFmt) (mode : MmaMode) (aSlot bSlot cTile c2Tile k : Nat) (aCol bCol : Bool) (scale : Word)
      (oA oB : Nat) (scales : List Nat)
  | azero (n : Nat)
  deriving DecidableEq, Repr

/-- An operation in a core's matrix queue (R219, R222); `notifies`: it sends a completion message (R217); `know` is what
happens-before it (R175). -/
structure MatrixOp where
  id : Nat
  thread : ThreadId
  group : Nat
  pc : Word
  core : CoreId
  kind : MatrixKind
  notifies : Bool
  port : Word
  tag : Word
  started : Bool
  fflags : BitVec 5
  fatal : Bool
  order : Nat
  know : Know
  deriving DecidableEq, Repr

/-- Weight formats of the bank units (R227). -/
inductive BankForm where
  | gq4 | e4m3 | bf16
  deriving DecidableEq, Repr

/-- An entered BMV with its block (R228), the rows written, the rows that stall with their tokens (R231), and the flags
of the rows so far. `begun`: some row has been attempted; `sight`: what it sees (R180); `wrote`: the events of its writes
of y (R181); `met`: those that its reads have returned (R170, R181). `completed`, `lent`: as in `CopyOp` (R232, R325). -/
structure BmvOp where
  id : Nat
  thread : ThreadId
  group : Nat
  pc : Word
  system : Bool
  core : CoreId
  form : BankForm
  w : DWord
  scaleArray : DWord
  superArray : DWord
  x : DWord
  y : DWord
  m : Nat
  k : Nat
  pitch : Nat
  xBf16 : Bool
  accumulate : Bool
  notifies : Bool
  port : Word
  tag : Word
  done : List Nat
  stalled : List (Nat × Option Nat)
  fflags : BitVec 5
  fatal : Bool
  begun : Bool
  completed : Bool
  order : Nat
  sight : Sight
  lent : List (Nat × Know)
  wrote : List Nat
  met : List Nat
  deriving DecidableEq, Repr

/-! ## Ports, patterns, deliveries -/

/-- A message held by a queue port: its four words and what its consumption takes over (R177). -/
structure Msg where
  words : List Word
  know : Know
  deriving DecidableEq, Repr

/-- A port's kind and contents (R266); a count port keeps what the counts that its value includes pass on (R177). -/
inductive PortKind where
  | queue (depth : Nat) (msgs : List Msg)
  | count (v : Int) (reload : Int) (know : Know)
  deriving DecidableEq, Repr

/-- An allocated port of a die (R264, R266). -/
structure Port where
  idx : Nat
  kind : PortKind
  deriving DecidableEq, Repr

/-- A defined or armed join pattern (R275, R276). -/
structure Pattern where
  idx : Nat
  armed : Bool
  ports : List Word
  reqs : List Nat
  node : DWord
  prio : Nat
  rotate : Bool
  deriving DecidableEq, Repr

/-- What is delivered to a port: a 16-byte message on a queue port and `delta` on a count port (R19, R223, R261).
`ring` counts beyond the signed range are dropped, others held. -/
structure Delivery where
  handle : Word
  msg : List Word
  delta : Int
  ring : Bool
  errDie : Nat
  know : Know
  deriving DecidableEq, Repr

/-- A launch in a launch port (R17, R133, R278): the node, the depth, what "inherit" stands for, a firing's 64 bytes. -/
structure PendingLaunch where
  node : DWord
  depth : Nat
  prio : Nat
  domain : Word
  budget : Nat
  contrib : Option (List Byte)
  know : Know
  deriving DecidableEq, Repr

/-- A work node's fields as the dispatcher reads them (R15). -/
structure NodeRec where
  entry : DWord
  param : DWord
  waves : Nat
  groups : Nat
  log2w : Nat
  flags : Nat
  spad : Nat
  slots : Nat
  accs : Nat
  prio : Nat
  dieMin : Nat
  dieMax : Nat
  domain : Word
  budget : Nat
  producer : Nat
  res39 : Nat
  port : Word
  steps : Nat
  trapvec : DWord
  header : DWord
  items : Nat
  stack : Nat
  stackBase : DWord
  parent : DWord
  res88 : Nat
  deriving DecidableEq, Repr

/-- One safe point of a kernel header (R20). -/
structure SafePoint where
  index : Nat
  saveBytes : Nat
  save : Word
  restore : Word
  deriving DecidableEq, Repr

/-- Phases of a reserving loop's item (R283): `exited` has executed EXIT while executing and is not yet counted finished; `leaving`
has executed it while claiming, and takes part in no conflict. -/
inductive Phase where
  | claiming | waiting | executing | exited | leaving | finished
  deriving DecidableEq, Repr

/-- An item of a reserving node: its phase, its exact list of lines (true: marked W) and its overflow state (R283,
R285). An item not listed is claiming with an empty list. -/
structure Item where
  n : Nat
  phase : Phase
  lines : List (Nat × Bool)
  overflow : Bool
  deriving DecidableEq, Repr

/-- An admitted launch (R15..R22): node, kernel header, resolved inheritance, granted dies, step, and how many waves of
the step have been dispatched and released. `held`: a reserving node beyond the Trestle's 8 (R284). `placed` is meant for
cooperative nodes (R33). `ended`: stopped or killed, kept until its last footprint is released (R14, R321). `know`: what happens-before
its threads of the present step, `later`: what so far happens-before its next step or its completion (R185); `finished`: what
its finished items pass on to the admissions after them (R290). -/
structure Launch where
  id : Nat
  node : DWord
  nd : NodeRec
  maxInterval : Nat
  safePoints : List SafePoint
  homeDie : Nat
  depth : Nat
  prio : Nat
  domain : Word
  budget : Nat
  contrib : Option (List Byte)
  know : Know
  later : Know
  finished : Know
  granted : List Nat
  step : Nat
  dispatched : Nat
  released : Nat
  held : Bool
  placed : Bool
  items : List Item
  system : Bool
  ended : Bool
  deriving DecidableEq, Repr

/-- A record of a ready queue: the waves of one dispatch (one, or four of a cluster set, or all that are restored
together), and for pre-empted waves their numbers (R29, R23, R40). `transit` names the thief that copies it (R31). -/
structure QRec where
  launch : Nat
  step : Nat
  waves : List Nat
  uids : List Nat
  transit : Option Nat
  deriving DecidableEq, Repr

/-- A cluster: its four class queues, its aging counts, the class it has selected, whose head record no other passes (R30), its
stealing state and whether it is power-gated (R29..R31). `triedAt` is the last cycle in which it tried a victim, `grantedAt` that in
which it granted a thief. -/
structure Cluster where
  idx : Nat
  queues : Vector (List QRec) 4
  aging : Vector Nat 4
  chosen : Option Nat
  lastVictim : Option Nat
  copied : Option (Nat × Nat × QRec)
  triedAt : Option Nat
  grantedAt : Option Nat
  gated : Bool
  deriving DecidableEq, Repr

/-- A core's own state: the last cycle in which its slots chose packets (R27), the conflict count (R203), the copy front
end's arbitration (R249), the queue of extended-block requests (R131), and the scratchpad words that a released wave has left
poisoned (R192). Number 56 is the die's service core (R317). -/
structure Core where
  idx : Nat
  issuedAt : Option Nat
  conflicts : Word
  deficits : Vector Nat 4
  turn : Nat
  visited : Bool
  rotor : Vector Nat 4
  xacq : List (Nat × Nat)
  spadPoison : List Nat
  deriving DecidableEq, Repr

/-! ## Faults -/

/-- Trap causes (R320). -/
inductive Cause where
  | ri | priv | align | xlate | perm | layout | domain | stall | stale | regabs | stack | portstale | portovf
  | portbound | slot | issue | overlap | claim | xlmismatch | gbar | spawndepth | clusterexit | poison | bkpt
  | syscall | trapi | engine
  deriving DecidableEq, Repr

/-- A fault record (R322). `token` is the stall token of a stalled chunk or row (R324); `know` is what its posting passes to
the thread that pops it (R323). -/
structure FaultRecord where
  cause : Cause
  token : Option Nat
  source : Nat
  thread : Word
  node : DWord
  va : DWord
  pc : DWord
  notify : Word
  core : Nat
  die : Nat
  stack : Nat
  time : DWord
  kind : Nat
  size : Nat
  know : Know
  deriving DecidableEq, Repr

/-- Who waits for a record to be accepted: nobody, a dropped RED or store of a thread (R191), the load of a thread with this
ticket (R196), an MMA (R224), a chunk of a copy, a row of a BMV (R323, R324). -/
inductive Poster where
  | nobody
  | store (t : ThreadId)
  | matrix (op : Nat)
  | load (t : ThreadId) (ticket : Nat)
  | chunk (op : Nat) (c : Chunk)
  | row (op : Nat) (row : Nat)
  deriving DecidableEq, Repr

/-- A record that waits to be accepted into the fault queue (R323). -/
structure Post where
  record : FaultRecord
  poster : Poster
  deriving DecidableEq, Repr

/-- A stall slot (R324): its index, its uses so far less one modulo 16, and what stalls in it. -/
structure StallSlot where
  idx : Nat
  count : Nat
  what : Option Poster
  deriving DecidableEq, Repr

/-! ## Fitted regions -/

/-- A pending REFIT (R316): whose completion to send where, and whether a refit has started after its entry. -/
structure RefitReq where
  die : Nat
  handle : Word
  started : Bool
  know : Know
  deriving DecidableEq, Repr

/-- A live fitted region (R300..R303). `granules` are the physical 64 KiB granules of the element range in order; `tableFrames` the
physical addresses of the table area's 4 KiB pieces in order, the first where the area begins; `reference` the exact bits of every
element; `badRefs` the 64-byte lines of the reference, counted from its start, that hold uncorrectable data, `badParams` the same of the
parameter set (R192, R308). -/
structure Region where
  id : Nat
  base : Nat
  dims : Nat
  fmt : Nat
  clamp : Bool
  hidden : Nat
  extents : List Nat
  step : List Word
  offset : List Word
  bound : Word
  capacity : Nat
  granules : List Nat
  tableFrames : List Nat
  params : FitParams
  reference : List Nat
  entries : List (Nat × Nat)
  gen : Word
  normal : Bool
  running : Bool
  pending : List RefitReq
  badRefs : List Nat
  badParams : Bool
  deriving DecidableEq, Repr

/-! ## The dies and the module -/

/-- What recording mode logs (R351); `outside`: the launch came neither from a doorbell nor from this module's threads and
patterns. -/
inductive LogEntry where
  | launch (l : PendingLaunch) (outside : Bool)
  | doorbell (offset : Nat) (data : List Byte)
  | hostWrite (pa : Nat) (data : List Byte)
  deriving DecidableEq, Repr

/-- A compute die. `verdicts` are the chunks and rows that firmware has resolved, with the verdict (true: fatal), which are
still to start again or whose stream is still to go on (R325). `drained` are the entries that firmware has taken from the log, which a
replay delivers with it (R351). -/
structure Die where
  idx : Nat
  inService : Bool
  coreMask : BitVec 56
  clk : DWord
  launchPort : List PendingLaunch
  portsOpen : Bool
  ports : List Port
  portGens : List (Nat × Nat)
  patterns : List Pattern
  patGens : List (Nat × Nat)
  rotation : Vector Nat 16
  faultQ : List FaultRecord
  posting : List Post
  stallSlots : List StallSlot
  verdicts : List (Poster × Bool)
  errcnt : Word
  streamsel : Word
  coresel : Word
  nextCluster : Nat
  clusters : List Cluster
  cores : List Core
  deliveries : List Delivery
  log : List LogEntry
  drained : List LogEntry
  deriving DecidableEq, Repr

/-- A reduction stream (R247): expected number, a written value not yet in effect, the numbers of fatal copies that ended ahead of
their turn, and the events of the updates applied, which later ones follow (R186). -/
structure Stream where
  id : Nat
  expected : Word
  written : Option Word
  finished : List Word
  updates : List Nat
  deriving DecidableEq, Repr

/-- A thread or an engine operation of another module of the domain: its module, the die and the core whose scopes it lies in, a number of
its own (R168, R344). -/
structure OutsideId where
  module : Nat
  die : Nat
  core : Nat
  thread : Bool
  number : Nat
  deriving DecidableEq, Repr

/-- Its part in happens-before, as a thread's: what it sees, the releases that its writes carry, and what its reads have met (R172,
R344). -/
structure Outsider where
  id : OutsideId
  sight : Sight
  released : List Released
  heard : List Released
  deriving DecidableEq, Repr

/-- Who reads or writes: a thread; a copy or a BMV with the thread that issued it; the host (R342); another module's agent. -/
inductive Agent where
  | thread (id : ThreadId)
  | copy (op : Nat) (issuer : ThreadId)
  | bank (op : Nat) (issuer : ThreadId)
  | host
  | outside (id : OutsideId)
  deriving DecidableEq, Repr

/-- One byte of a write that some agent may not see yet: its event, where it landed, what stood there before it, the view,
the writer and where it stood, whether it reached a peer's scratchpad (R168), whether it was the write of an atomic update
(R173), the writes that its writer's AFENCE had joined (R179), and what it carries. -/
structure PastWrite where
  event : Nat
  loc : Loc
  old : Byte
  view : Bool
  writer : Agent
  core : CoreId
  peer : Bool
  atomic : Bool
  joined : List Nat
  carries : Carried
  deriving DecidableEq, Repr

/-- What a write of a byte that all see by now carries to the byte's readers; those of one byte stand newest first. -/
structure CarriedAt where
  loc : Loc
  atomic : Bool
  carries : Carried
  deriving DecidableEq, Repr

/-- What the full fences of one scope so far pass on to the next (R172): the scope, a core of its instance, the wave of the latest,
whose threads share every instance. -/
structure FullFences where
  scope : Scope
  core : CoreId
  wave : Nat
  know : Know
  deriving DecidableEq, Repr

/-- A cached translation (R328): the virtual base of the page, its leaf. -/
structure TlbEntry where
  base : Nat
  leaf : Nat
  deriving DecidableEq, Repr

/-- A demoted page in the capacity tier (R330, R346, R347): its identifier, its size, the layout and the tags of the granules it
left, its bytes and its poison units, counted from the page's first byte. -/
structure TierPage where
  id : Nat
  size : Nat
  layout : Nat
  tags : List Nat
  mem : Memory
  poison : List Nat
  deriving DecidableEq, Repr

/-- Another module number of the load-store domain, or a gateway (R344, R345). -/
structure Peer where
  number : Nat
  stackUnits : BitVec 16
  reachable : Bool
  gateway : Bool
  deriving DecidableEq, Repr

/-- What the boot image defines (R319, R348, R351); `logRoom` is how many entries the frames that firmware reserves for a
die's log hold. -/
structure BootImage where
  node : NodeRec
  safePoints : List SafePoint
  maxInterval : Nat
  recovery : Word
  valid : Bool
  recording : Bool
  logRoom : Nat
  deriving DecidableEq, Repr

/-- What is reported at the module service port (R319, R348, R350). -/
inductive Report where
  | recovery (die : Nat)
  | corrected (unit : HwUnit)
  | badImage
  deriving DecidableEq, Repr

/-- One lane's scratchpad access in the packet under way (R202): the core, the words, whether it is atomic. -/
structure PassEntry where
  core : CoreId
  words : List Nat
  atomic : Bool
  deriving DecidableEq, Repr

/-- A packet under way: its number, its members still to run in packet order, whether its lanes' accesses have been looked at
together (R190, R361), and the member that has run last. -/
structure Packet where
  number : Nat
  members : List ThreadId
  started : Bool
  last : Option ThreadId
  deriving DecidableEq, Repr

/-- What other agents of the load-store domain do to state that this module reaches: the host writes its own memory (R340); an agent of
another module writes memory, reads it or updates it by an atomic, through the layout view or the raw one, loads or stores an element of
a region, here or there, fences, joins views, has something ordered before what another such agent does next, or happens to see a write
that has still to spread, through its view or, no longer too, through the other; another module tags a granule of its own, makes a region
there from a descriptor, its frames and a source, drops it or requests the refit of any; a line of its memory becomes poisoned or clean
(R167 to R174, R179, R192, R310, R344). -/
inductive Outside where
  | hostStore (pa : Nat) (bs : List Byte)
  | write (who : OutsideId) (view : Bool) (pa : Nat) (bs : List Byte)
  | read (who : OutsideId) (view : Bool) (pa n : Nat)
  | update (who : OutsideId) (view : Bool) (pa : Nat) (op : AtomOp) (wide : Bool) (b d : DWord)
  | load (who : OutsideId) (region elem : Nat)
  | store (who : OutsideId) (region elem value : Nat)
  | fence (who : OutsideId) (scope : Scope) (kind : FenceKind)
  | afence (who : OutsideId)
  | inform (who whom : OutsideId)
  | see (who : OutsideId) (event : Nat)
  | glimpse (who : OutsideId) (event : Nat) (on : Bool)
  | tag (granule tag : Nat)
  | make (desc : List Byte) (range table : List Nat) (reference : List Nat)
  | drop (region : Nat)
  | refit (region : Nat)
  | poison (unit : Nat) (on : Bool)
  deriving DecidableEq, Repr

/-- A delivery of a replay: the entries that each die's log must hold by then, those before it in the recorded one; for a launch the
die whose launch port must have room; what is delivered (R351). -/
structure Redelivery where
  after : List (Nat × Nat)
  room : Option Nat
  instr : Instr
  deriving DecidableEq, Repr

/-- What the machine does next when no packet is under way. The MODEL's own (log 6). -/
inductive Action where
  /-- A step of a unit. -/
  | event (i : Instr)
  /-- The slots of a core choose their packets for a cycle (R27). -/
  | issue (c : CoreId)
  /-- A thread tests the condition of its waiting instruction. -/
  | resume (id : ThreadId)
  /-- A cycle passes. -/
  | tick
  /-- A translation enters the cache (R328). -/
  | tlbFill (va : Nat)
  /-- From now on writes spread late; or, once all have spread, at once (log 12). -/
  | relax (on : Bool)
  /-- A write is seen by all. -/
  | spread (event : Nat)
  /-- A thread sees a write that nothing orders before it. -/
  | see (t : ThreadId) (event : Nat)
  /-- A thread sees, or no longer sees, a write through another view that no AFENCE joins (R179). -/
  | glimpse (t : ThreadId) (event : Nat) (on : Bool)
  /-- Of two writes to one byte through different views that no AFENCE joins, the earlier one lands on the later (R179). -/
  | reland (event : Nat)
  /-- Another agent of the domain acts. -/
  | outside (o : Outside)
  /-- Firmware drains the oldest entries of a die's log (R351). -/
  | drainLog (die n : Nat)
  /-- A replay delivers the next entry of the log, if it is due (R351). -/
  | deliver
  deriving DecidableEq, Repr

/-- The state of the module. -/
structure State where
  threads : List Thread
  groups : List Group
  waves : List Wave
  launches : List Launch
  matrixOps : List MatrixOp
  copies : List CopyOp
  bmvs : List BmvOp
  regions : List Region
  dies : List Die
  streams : List Stream
  mem : Memory
  poison : List Nat
  tags : List (Nat × Nat)
  tier : List TierPage
  tlb : List TlbEntry
  ptroot : DWord
  stackMask : BitVec 16
  unitsOut : List HwUnit
  outAtReset : List HwUnit
  corrected : List (HwUnit × Nat)
  isM : Bool
  moduleNo : Nat
  peers : List Peer
  boot : BootImage
  recording : Bool
  image : Option (Memory × List Nat × List (Nat × Nat))
  reports : List Report
  hostReads : List (List Byte)
  replay : List Redelivery
  host : Sight
  outsiders : List Outsider
  history : List PastWrite
  carried : List CarriedAt
  fences : List FullFences
  fenced : List Fenced
  -- the model's own: whether writes spread late, fresh numbers, the free-value counter, time, and what moves next
  relaxed : Bool
  nextId : Nat
  stamp : Nat
  free : Nat
  now : Nat
  cur : ThreadId
  packets : List Packet
  passes : List PassEntry
  sched : List Action
  deriving DecidableEq, Repr

/-! ## The reasons a step stops -/

/-- Faults of the model: states that no run reaches. -/
inductive Fault where
  /-- The thread that is to execute does not exist: `State.cur` names no thread, or the thread's wave, group or launch is
  missing. Raised by every thread instruction. SAFE: the hardware has no such state, and no run of the model from a
  state with its threads in order reaches it. -/
  | noThread
  deriving DecidableEq, Repr

/-- Refusals of the model. -/
inductive Refusal where
  /-- The instruction has no meaning in this model yet. Raised only by `exec`'s refused arms. SAFE. -/
  | notModelled (mnemonic : String)
  deriving DecidableEq, Repr

/-! ## Reset -/

/-- The firmware node's record (R319). The manual does not fix it: DESIGN CHOICE (log 1). -/
def bootNode : NodeRec where
  entry := 0x1000000000000
  param := 0
  waves := 1
  groups := 1
  log2w := 3
  flags := 16
  spad := 0
  slots := 0
  accs := 0
  prio := 3
  dieMin := 1
  dieMax := 1
  domain := 0
  budget := 0xFFFF
  producer := 0
  res39 := 0
  port := 0xFFFFFFFF
  steps := 1
  trapvec := 0x1000000000800
  header := 0
  items := 0
  stack := 512
  stackBase := 0x1000000010000
  parent := 0
  res88 := 0

/-- The boot image. DESIGN CHOICE (log 1). -/
def bootImage : BootImage where
  node := bootNode
  safePoints := []
  maxInterval := 0
  recovery := 0
  valid := true
  recording := false
  logRoom := 65536

/-- The top of node thread n's stack, below its hard-save area (R10). -/
def stackTop (nd : NodeRec) (n : Nat) : DWord :=
  nd.stackBase + BitVec.ofNat 64 ((n + 1) * nd.stack) - 384

/-- The stack limit of node thread n (R10). -/
def stackLimit (nd : NodeRec) (n : Nat) : DWord :=
  nd.stackBase + BitVec.ofNat 64 (n * nd.stack)

/-- A thread at its first instruction (R9, R10, R70): node thread number n of the node. For the order of issue (R27) it has
waited since the cycle `now` of its placement: DESIGN CHOICE (log 63). %clkh, which has no value before the first read of %clk, starts at
0: DESIGN CHOICE (log 5). -/
def Thread.start (nd : NodeRec) (wave idx n : Nat) (now : Nat) : Thread where
  id := ⟨wave, idx⟩
  status := .running
  pc := nd.entry.extractLsb' 0 32
  regs := ((Vector.replicate 64 0).set 30 (Word.lo (stackTop nd n))).set 31 (Word.hi (stackTop nd n))
  preds := 0
  fflags := 0
  fcr := 0
  ctl := if nd.flags.testBit 3 then 1 else 0
  fport := 0xFFFFFFFF
  slim := stackLimit nd n
  clkh := 0
  h := Vector.replicate 8 0
  mode := .normal
  pending := false
  flight := []
  trans := []
  marks := []
  loads := []
  stores := []
  unposted := 0
  owed := 0
  modeHigh := 0
  spare := 0
  sight := Sight.none
  released := []
  heard := []
  wait := .none
  held := []
  readyAt := now
  lastIssue := now
  sinceRequest := 0
  reached := false

/-- A cluster after reset. -/
def Cluster.reset (i : Nat) : Cluster where
  idx := i
  queues := Vector.replicate 4 []
  aging := Vector.replicate 4 0
  chosen := none
  lastVictim := none
  copied := none
  triedAt := none
  grantedAt := none
  gated := false

/-- A core after reset. -/
def Core.reset (i : Nat) : Core where
  idx := i
  issuedAt := none
  conflicts := 0
  deficits := Vector.replicate 4 0
  turn := 0
  visited := false
  rotor := Vector.replicate 4 0
  xacq := []
  spadPoison := []

/-- A die after reset (R348): every unit in service, ports at generation 0, launch port open. -/
def Die.reset (d : Nat) : Die where
  idx := d
  inService := true
  coreMask := BitVec.allOnes 56
  clk := 0
  launchPort := []
  portsOpen := true
  ports := []
  portGens := []
  patterns := []
  patGens := []
  rotation := Vector.replicate 16 0
  faultQ := []
  posting := []
  stallSlots := []
  verdicts := []
  errcnt := 0
  streamsel := 0
  coresel := 0
  nextCluster := 0
  clusters := (List.range 14).map Cluster.reset
  cores := (List.range 57).map Core.reset
  deliveries := []
  log := []
  drained := []

/-- Of the firmware node's record the service core takes the entry, the trap vector, the groups, their width, and the
stacks (R319). The fields that it ignores read as 0, with one wave of one step: DESIGN CHOICE (log 1). -/
def NodeRec.firmware (n : NodeRec) : NodeRec where
  entry := n.entry
  param := 0
  waves := 1
  groups := n.groups
  log2w := n.log2w
  flags := 16
  spad := 0
  slots := 0
  accs := 0
  prio := 3
  dieMin := 1
  dieMax := 1
  domain := 0
  budget := 0xFFFF
  producer := 0
  res39 := 0
  port := 0xFFFFFFFF
  steps := 1
  trapvec := n.trapvec
  header := 0
  items := 0
  stack := n.stack
  stackBase := n.stackBase
  parent := 0
  res88 := 0

/-- The launch record that stands for die d's firmware node (R319). What a child of its threads inherits, depth 1, class 3,
domain 0 and an unlimited budget, the manual does not say, nor the address of the record, which %node and fault records then read as
0: DESIGN CHOICE (log 64). -/
def firmwareLaunch (b : BootImage) (d : Nat) : Launch where
  id := d
  node := 0
  nd := b.node.firmware
  maxInterval := b.maxInterval
  safePoints := b.safePoints
  homeDie := d
  depth := 1
  prio := 3
  domain := 0
  budget := 0xFFFF
  contrib := none
  know := Know.none
  later := Know.none
  finished := Know.none
  granted := [d]
  step := 0
  dispatched := 1
  released := 0
  held := false
  placed := true
  items := []
  system := true
  ended := false

/-- The wave of die d's service-core threads (R317): core 56, no scratchpad, slots or tiles. -/
def firmwareWave (b : BootImage) (d : Nat) : Wave where
  uid := d
  launch := d
  step := 0
  index := 0
  die := d
  core := 56
  place := 0
  firstCore := ⟨d, 56⟩
  firstOff := 0
  width := 2 ^ b.node.log2w
  groups := b.node.groups
  status := .resident
  peers := []
  spadBytes := 0
  spad := []
  spadPoison := []
  slotNames := []
  tileNames := []
  heldSlots := []
  heldTiles := []
  relSlots := []
  relTiles := []
  relMarks := []
  slotMem := []
  tileMem := []
  slotPoison := []
  tilePoison := []
  slotQueue := []
  tileQueue := []
  request := none

/-- A group that has issued nothing and holds no extended block. -/
def Group.start (wave idx : Nat) : Group where
  wave := wave
  idx := idx
  ext := false
  copyOps := []
  matrixOps := []
  bankOps := []
  remoteOps := []
  issued := Vector.replicate 4 0
  reported := []

/-- The service threads of die d. -/
def firmwareThreads (b : BootImage) (d : Nat) : List Thread :=
  (List.range (b.node.groups * 2 ^ b.node.log2w)).map fun i => Thread.start b.node.firmware d i i 0

/-- The groups of die d's service threads. -/
def firmwareGroups (b : BootImage) (d : Nat) : List Group :=
  (List.range b.node.groups).map fun g => Group.start d g

/-- The module right after reset, R348 steps 1 to 5 done with the boot image b and form f: HBM zero and tagged raw, every
port and pattern generation 0, every stream's E 0, the service cores at the firmware node's entry, nothing launched.
A form-M module with a bad image stays in reset: no thread runs. -/
def State.afterReset (b : BootImage) (isM : Bool) : State where
  threads := if b.valid then (List.range 8).flatMap (firmwareThreads b) else []
  groups := if b.valid then (List.range 8).flatMap (firmwareGroups b) else []
  waves := if b.valid then (List.range 8).map (firmwareWave b) else []
  launches := if b.valid then (List.range 8).map (firmwareLaunch b) else []
  matrixOps := []
  copies := []
  bmvs := []
  regions := []
  dies := (List.range 8).map fun d => { Die.reset d with portsOpen := b.valid }
  streams := []
  mem := []
  poison := []
  tags := []
  tier := []
  tlb := []
  ptroot := 0
  stackMask := BitVec.allOnes 16
  unitsOut := []
  outAtReset := []
  corrected := []
  isM := isM
  moduleNo := 0
  peers := []
  boot := b
  recording := b.recording
  image := if b.recording then some ([], [], []) else none
  reports := if b.valid then [] else [.badImage]
  hostReads := []
  replay := []
  host := Sight.none
  outsiders := []
  history := []
  carried := []
  fences := []
  fenced := []
  relaxed := false
  nextId := 8
  stamp := 0
  free := 0
  now := 0
  cur := ⟨0, 0⟩
  packets := []
  passes := []
  sched := []

/-- The machine right after reset. -/
def State.reset : State := State.afterReset bootImage true

end Sys2Proof.Machine
end

