-- ==== Sys2Proof/Machine/Flags.lean ====
section
/-!
DEFINITION. The floating-point flags of %fflags and the rounding modes of %fcr (spec 03 R70; 05 R91..R94), and the integer
conditions (03 R74; 07 R114).
-/
namespace Sys2Proof.Machine

open Sys2Proof

/-- A set of floating-point flags: bit 0 invalid, 1 divide-by-zero, 2 overflow, 3 underflow, 4 inexact (R93). -/
abbrev FpFlags := BitVec 5

namespace FpFlags

def none : FpFlags := 0
def invalid : FpFlags := 1
def divByZero : FpFlags := 2
def overflow : FpFlags := 4
def underflow : FpFlags := 8
def inexact : FpFlags := 16

/-- A flag when a condition holds. -/
def when (c : Bool) (f : FpFlags) : FpFlags := if c then f else 0

end FpFlags

/-- Rounding modes (R92). -/
inductive Rounding where
  | rne | rz | ru | rd
  deriving DecidableEq, Repr

/-- The rounding mode in %fcr (R70). -/
def roundingOf (fcr : Word) : Rounding :=
  match (fcr.extractLsb' 0 2).toNat with
  | 0 => .rne
  | 1 => .rz
  | 2 => .ru
  | _ => .rd

/-- %fflags with flags added, unless the instruction is flag-quiet (R65, R94). -/
def addFlags (fflags : Word) (quiet : Bool) (f : FpFlags) : Word :=
  if quiet then fflags else fflags ||| f.setWidth 32

/-- The integer conditions of CMP and CMPI (R114). -/
def condHolds (c : Cond) (a x : Word) : Bool :=
  match c with
  | .eq => decide (a = x)
  | .ne => decide (a ≠ x)
  | .lt => decide (a.toInt < x.toInt)
  | .le => decide (a.toInt ≤ x.toInt)
  | .gt => decide (a.toInt > x.toInt)
  | .ge => decide (a.toInt ≥ x.toInt)
  | .ltn => decide (a.toNat < x.toNat)
  | .len => decide (a.toNat ≤ x.toNat)
  | .gtn => decide (a.toNat > x.toNat)
  | .gen => decide (a.toNat ≥ x.toNat)

end Sys2Proof.Machine
end

