-- ==== Sys2Proof/Machine/Float.lean ====
section
/-!
DEFINITION. Floating-point arithmetic on encodings (spec 05): formats R82, values R83, NaNs R84, rounding R92, flags R93,
conversions R95, exact sums R96. An exact value is n · 2^e with integers n and e; a result that is no such value (a
quotient, a root, a power, a logarithm) is given by a lower neighbour and the mark that the exact value lies strictly
above it.
-/
namespace Sys2Proof.Machine.Fp

open Sys2Proof.Machine

/-- Which special values a format has (R82): infinities and NaNs; one NaN code only; none. -/
inductive Specials where
  | ieee | e4m3 | none
  deriving DecidableEq, Repr

/-- A format: exponent and fraction widths, bias (R82). -/
structure Format where
  ebits : Nat
  fbits : Nat
  bias : Nat
  specials : Specials
  deriving DecidableEq, Repr

def fp64 : Format := ⟨11, 52, 1023, .ieee⟩
def fp32 : Format := ⟨8, 23, 127, .ieee⟩
def fp16 : Format := ⟨5, 10, 15, .ieee⟩
def bf16 : Format := ⟨8, 7, 127, .ieee⟩
def e5m2 : Format := ⟨5, 2, 15, .ieee⟩
def e4m3 : Format := ⟨4, 3, 7, .e4m3⟩
def e2m1 : Format := ⟨2, 1, 1, .none⟩

namespace Format

/-- The width of an encoding. -/
def width (f : Format) : Nat := 1 + f.ebits + f.fbits

/-- The sign bit set. -/
def signBit (f : Format) (neg : Bool) : Nat := if neg then 2 ^ (f.ebits + f.fbits) else 0

/-- The magnitude code of infinity, in the formats that have it. -/
def infCode (f : Format) : Nat := (2 ^ f.ebits - 1) * 2 ^ f.fbits

/-- The largest finite magnitude code (R82). -/
def maxCode (f : Format) : Nat :=
  match f.specials with
  | .ieee => f.infCode - 1
  | .e4m3 => 2 ^ (f.ebits + f.fbits) - 2
  | .none => 2 ^ (f.ebits + f.fbits) - 1

/-- The canonical NaN; a format without NaNs delivers +0 (R84). -/
def nan (f : Format) : Nat :=
  match f.specials with
  | .ieee => f.infCode + 2 ^ (f.fbits - 1)
  | .e4m3 => 2 ^ (f.ebits + f.fbits) - 1
  | .none => 0

/-- The exponent of the smallest normal value. -/
def emin (f : Format) : Int := 1 - (f.bias : Int)

end Format

/-- An encoding's value: a NaN, quiet or signalling; an infinity; or (−1)^neg · m · 2^e (R83, R84). -/
inductive Val where
  | nan (signalling : Bool)
  | inf (neg : Bool)
  | fin (neg : Bool) (m : Nat) (e : Int)
  deriving DecidableEq, Repr

/-- The value of an encoding (R82..R84). In E5M2 every NaN is quiet. -/
def decode (f : Format) (w : Nat) : Val :=
  let neg := w / 2 ^ (f.ebits + f.fbits) % 2 == 1
  let ex := w / 2 ^ f.fbits % 2 ^ f.ebits
  let fr := w % 2 ^ f.fbits
  let mag := w % 2 ^ (f.ebits + f.fbits)
  if f.specials == .ieee && ex == 2 ^ f.ebits - 1 then
    if fr == 0 then .inf neg else .nan (decide (f.fbits ≠ 2) && decide (fr < 2 ^ (f.fbits - 1)))
  else if f.specials == .e4m3 && mag == 2 ^ (f.ebits + f.fbits) - 1 then .nan false
  else if ex == 0 then .fin neg fr (f.emin - f.fbits)
  else .fin neg (2 ^ f.fbits + fr) ((ex : Int) - f.bias - f.fbits)

def Val.isNan : Val → Bool
  | .nan _ => true
  | _ => false

def Val.signalling : Val → Bool
  | .nan s => s
  | _ => false

def Val.isInf : Val → Bool
  | .inf _ => true
  | _ => false

def Val.isZero : Val → Bool
  | .fin _ m _ => m == 0
  | _ => false

/-- The sign of a value that has one. -/
def Val.neg : Val → Bool
  | .nan _ => false
  | .inf n => n
  | .fin n _ _ => n

def Val.negate : Val → Val
  | .nan s => .nan s
  | .inf n => .inf !n
  | .fin n m e => .fin (!n) m e

/-- Invalid when some operand is a signalling NaN (R93). -/
def sigFlag (xs : List Val) : FpFlags := FpFlags.when (xs.any Val.signalling) .invalid

/-! ## Rounding -/

/-- The magnitude m · 2^e (strictly more, by less than 2^e, when `above`) in units of 2^q, rounded in a mode, and whether
that is inexact. Where q ≤ e and the value lies above, the mark counts as less than half a unit; every caller with a
marked value gives m enough bits that this does not happen. -/
def roundUnits (mode : Rounding) (neg : Bool) (m : Nat) (e : Int) (above : Bool) (q : Int) : Nat × Bool :=
  let k := (q - e).toNat
  let fl := m * 2 ^ (e - q).toNat / 2 ^ k
  let rest := m * 2 ^ (e - q).toNat % 2 ^ k
  let inexact := rest != 0 || above
  let twice := 2 * rest
  let up :=
    match mode with
    | .rne => decide (twice > 2 ^ k) || (twice == 2 ^ k && (above || fl % 2 == 1))
    | .rz => false
    | .ru => !neg && inexact
    | .rd => neg && inexact
  (if up then fl + 1 else fl, inexact)

/-- The overflow result (R92 items 1 and 2). -/
def overflowCode (f : Format) (mode : Rounding) (neg : Bool) : Nat :=
  match f.specials with
  | .ieee =>
    match mode with
    | .rne => f.infCode
    | .rz => f.maxCode
    | .ru => if neg then f.maxCode else f.infCode
    | .rd => if neg then f.infCode else f.maxCode
  | _ => f.maxCode

/-- Round a magnitude to a format (R92): the encoding and the flags. -/
def roundTo (f : Format) (mode : Rounding) (neg : Bool) (m : Nat) (e : Int) (above : Bool) : Nat × FpFlags :=
  if m = 0 && !above then (f.signBit neg, 0)
  else
    let q := e + (Nat.log2 m : Int) - f.fbits
    let r := roundUnits mode neg m e above q
    -- the chosen value in the unbounded exponent range is r.1 * 2^q
    let q' := if r.1 = 2 ^ (f.fbits + 1) then q + 1 else q
    let r' := if r.1 = 2 ^ (f.fbits + 1) then 2 ^ f.fbits else r.1
    if q' < f.emin - f.fbits then
      let t := roundUnits mode neg m e above (f.emin - f.fbits)
      (f.signBit neg + t.1, FpFlags.when t.2 (.underflow ||| .inexact))
    else
      let code := (q' - (f.emin - f.fbits)).toNat * 2 ^ f.fbits + r'
      if f.maxCode < code then (f.signBit neg + overflowCode f mode neg, .overflow ||| .inexact)
      else (f.signBit neg + code, FpFlags.when r.2 .inexact)

/-- Round an exact value: a NaN gives the canonical NaN; an infinity is itself where the format has one. -/
def roundVal (f : Format) (mode : Rounding) : Val → Nat × FpFlags
  | .nan _ => (f.nan, 0)
  | .inf neg => (f.signBit neg + (if f.specials = .ieee then f.infCode else f.maxCode), 0)
  | .fin neg m e => roundTo f mode neg m e false

/-! ## Exact products and sums (R96) -/

/-- An exact product; 0 · ∞ is invalid. -/
def mul (x y : Val) : Val × FpFlags :=
  match x, y with
  | .nan _, _ => (.nan false, 0)
  | _, .nan _ => (.nan false, 0)
  | .inf a, y => if y.isZero then (.nan false, .invalid) else (.inf (a != y.neg), 0)
  | x, .inf b => if x.isZero then (.nan false, .invalid) else (.inf (x.neg != b), 0)
  | .fin a m e, .fin b n d => (.fin (a != b) (m * n) (e + d), 0)

/-- A finite value as an integer in units of 2^q, for q at most its exponent. -/
def units (q : Int) : Val → Int
  | .fin neg m e => (if neg then -1 else 1) * (m * 2 ^ (e - q).toNat : Nat)
  | _ => 0

/-- The exponent of a finite value. -/
def expOf : Val → Int
  | .fin _ _ e => e
  | _ => 0

/-- The exact sum of terms (R96): opposite infinities, with invalid (beside a NaN too: log 10, DEDUCED), then NaNs, then an
infinity, then the real sum with the sign of an exact zero as R92 gives. -/
def sum (mode : Rounding) (ts : List Val) : Val × FpFlags :=
  let pos := ts.any fun t => t.isInf && !t.neg
  let neg := ts.any fun t => t.isInf && t.neg
  if pos && neg then (.nan false, .invalid)
  else if ts.any Val.isNan then (.nan false, 0)
  else if pos then (.inf false, 0)
  else if neg then (.inf true, 0)
  else
    let q := ts.foldl (fun q t => min q (expOf t)) 0
    let n := ts.foldl (fun n t => n + units q t) 0
    if n = 0 then
      (.fin (if ts.all fun t => t.isZero && t.neg then true else decide (mode = .rd)) 0 q, 0)
    else (.fin (decide (n < 0)) n.natAbs q, 0)

/-! ## Operations on encodings -/

/-- Round a sum of terms, the terms' own flags added. -/
def sumRound (f : Format) (mode : Rounding) (ts : List Val) (fl : FpFlags) : Nat × FpFlags :=
  let s := sum mode ts
  let r := roundVal f mode s.1
  (r.1, fl ||| s.2 ||| r.2)

/-- x + y (R140). -/
def add (f : Format) (mode : Rounding) (x y : Nat) : Nat × FpFlags :=
  sumRound f mode [decode f x, decode f y] (sigFlag [decode f x, decode f y])

/-- x − y, formed as x + (−y) (R140). -/
def sub (f : Format) (mode : Rounding) (x y : Nat) : Nat × FpFlags :=
  sumRound f mode [decode f x, (decode f y).negate] (sigFlag [decode f x, decode f y])

/-- x · y (R140). -/
def times (f : Format) (mode : Rounding) (x y : Nat) : Nat × FpFlags :=
  let p := mul (decode f x) (decode f y)
  let r := roundVal f mode p.1
  (r.1, sigFlag [decode f x, decode f y] ||| p.2 ||| r.2)

/-- x · y + z with one rounding (R104, R140). -/
def fma (f : Format) (mode : Rounding) (x y z : Nat) : Nat × FpFlags :=
  let p := mul (decode f x) (decode f y)
  sumRound f mode [p.1, decode f z] (sigFlag [decode f x, decode f y, decode f z] ||| p.2)

/-- The order of encodings that are no NaN, with −0 below +0 (R141). -/
def orderKey (f : Format) (w : Nat) : Int :=
  let mag := w % 2 ^ (f.ebits + f.fbits)
  if w / 2 ^ (f.ebits + f.fbits) % 2 = 1 then -(mag : Int) - 1 else mag

/-- The lesser (R141). -/
def minimum (f : Format) (x y : Nat) : Nat × FpFlags :=
  let fl := sigFlag [decode f x, decode f y]
  if (decode f x).isNan then (if (decode f y).isNan then f.nan else y, fl)
  else if (decode f y).isNan then (x, fl)
  else (if orderKey f x ≤ orderKey f y then x else y, fl)

/-- The greater (R141). -/
def maximum (f : Format) (x y : Nat) : Nat × FpFlags :=
  let fl := sigFlag [decode f x, decode f y]
  if (decode f x).isNan then (if (decode f y).isNan then f.nan else y, fl)
  else if (decode f y).isNan then (x, fl)
  else (if orderKey f x ≥ orderKey f y then x else y, fl)

/-- The order of encodings that are no NaN, with −0 equal to +0 (R142). -/
def numKey (f : Format) (w : Nat) : Int :=
  let mag := w % 2 ^ (f.ebits + f.fbits)
  if w / 2 ^ (f.ebits + f.fbits) % 2 = 1 then -(mag : Int) else mag

/-- Comparison: the result and the flags (R142). -/
def compare (f : Format) (c : FCond) (x y : Nat) : Bool × FpFlags :=
  let u := (decode f x).isNan || (decode f y).isNan
  let quiet := sigFlag [decode f x, decode f y]
  let loud := FpFlags.when u .invalid
  let a := numKey f x
  let b := numKey f y
  match c with
  | .eq => (!u && a == b, quiet)
  | .ne => (u || a != b, quiet)
  | .lt => (!u && decide (a < b), loud)
  | .le => (!u && decide (a ≤ b), loud)
  | .gt => (!u && decide (a > b), loud)
  | .ge => (!u && decide (a ≥ b), loud)
  | .un => (u, quiet)
  | .ord => (!u, quiet)

/-- A NaN result of a unary operation (R143, R144). -/
def nanOf (f : Format) (x : Val) : Nat × FpFlags := (f.nan, FpFlags.when x.signalling .invalid)

/-- x with its sign inverted (R143). -/
def negation (f : Format) (x : Nat) : Nat × FpFlags :=
  let v := decode f x
  if v.isNan then nanOf f v
  else (f.signBit (!(x / 2 ^ (f.ebits + f.fbits) % 2 == 1)) + x % 2 ^ (f.ebits + f.fbits), 0)

/-- x with its sign cleared (R143). -/
def absolute (f : Format) (x : Nat) : Nat × FpFlags :=
  let v := decode f x
  if v.isNan then nanOf f v else (x % 2 ^ (f.ebits + f.fbits), 0)

/-! ## Roots, reciprocals, powers, logarithms (R143, R144) -/

/-- The integer square root by bits from 2^k down, of n below 4^(k+1). -/
def isqrt (n : Nat) : Nat → Nat
  | 0 => if 1 ≤ n then 1 else 0
  | k + 1 =>
    let r := isqrt (n / 4) k * 2
    if (r + 1) * (r + 1) ≤ n then r + 1 else r

/-- √x, correctly rounded. -/
def sqrt (f : Format) (mode : Rounding) (x : Nat) : Nat × FpFlags :=
  match decode f x with
  | .nan s => nanOf f (.nan s)
  | .inf neg => if neg then (f.nan, .invalid) else (f.infCode, 0)
  | .fin neg m e =>
    if m = 0 then (f.signBit neg, 0)
    else if neg then (f.nan, .invalid)
    else
      -- an even exponent and at least 2 (fbits + 4) bits
      let k := 2 * (f.fbits + 4) + (e % 2).toNat
      let n := m * 2 ^ k
      let r := isqrt n (2 * f.fbits + 6)
      roundTo f mode false r ((e - k) / 2) (r * r != n)

/-- 1 / x, correctly rounded. -/
def recip (f : Format) (mode : Rounding) (x : Nat) : Nat × FpFlags :=
  match decode f x with
  | .nan s => nanOf f (.nan s)
  | .inf neg => (f.signBit neg, 0)
  | .fin neg m e =>
    if m = 0 then (f.signBit neg + f.infCode, .divByZero)
    else
      let k := 2 * f.fbits + 6
      roundTo f mode neg (2 ^ k / m) (-e - k) (2 ^ k % m != 0)

/-- 1 / √x, correctly rounded. -/
def rsqrt (f : Format) (mode : Rounding) (x : Nat) : Nat × FpFlags :=
  match decode f x with
  | .nan s => nanOf f (.nan s)
  | .inf neg => if neg then (f.nan, .invalid) else (0, 0)
  | .fin neg m e =>
    if m = 0 then (f.signBit neg + f.infCode, .divByZero)
    else if neg then (f.nan, .invalid)
    else
      -- x = n * 2^(2 h); 1/√x = √(4^k / n) * 2^(-h-k)
      let n := m * 2 ^ (e % 2).toNat
      let h := (e - e % 2) / 2
      let k := 2 * f.fbits + 8
      let r := isqrt (4 ^ k / n) k
      roundTo f mode false r (-h - k) (r * r * n != 4 ^ k)

/-- ln 2 in units of 2^-160, rounded down term by term: 2 · Σ 1 / ((2k+1) · 3^(2k+1)). -/
def ln2 : Nat → Nat
  | 0 => 0
  | k + 1 => ln2 k + 2 ^ 161 / ((2 * k + 1) * 3 ^ (2 * k + 1))

/-- The series of e^t for t in units of 2^-160, from term k on: `term` is the present term. -/
def expSeries (t : Nat) : Nat → Nat → Nat → Nat
  | 0, _, _ => 0
  | fuel + 1, k, term => term + expSeries t fuel (k + 1) (term * t / 2 ^ 160 / (k + 1))

/-- 2^x, correctly rounded. Where x is an integer the result is exact; elsewhere 2^x is irrational, and 128 of its bits
are formed, which decides the rounding of every FP32 operand. -/
def exp2 (f : Format) (mode : Rounding) (x : Nat) : Nat × FpFlags :=
  match decode f x with
  | .nan s => nanOf f (.nan s)
  | .inf neg => if neg then (0, 0) else (f.infCode, 0)
  | .fin neg m e =>
    if m = 0 then roundTo f mode false 1 0 false
    else if 0 ≤ e || m % 2 ^ (-e).toNat = 0 then
      -- an integer; beyond 2^12 in magnitude the result is far outside every format's range
      let n := min (m * 2 ^ (min e 24).toNat / 2 ^ (-e).toNat) 4096
      roundTo f mode false 1 (if neg then -(n : Int) else n) false
    else if m * 2 ^ 30 < 2 ^ (-e).toNat then
      -- |x| < 2^-30: the result lies just beside 1
      if neg then roundTo f mode false (2 ^ 30 - 1) (-30) true else roundTo f mode false (2 ^ 30) (-30) true
    else
      -- x = i + t / 2^s with 0 < t < 2^s
      let s := (-e).toNat
      let z : Int := if neg then -(m : Int) else m
      let i := z / (2 ^ s : Nat)
      let t := (z % (2 ^ s : Nat)).toNat
      let i' := max (-4096) (min i 4096)
      roundTo f mode false (expSeries (t * ln2 60 / 2 ^ s) 50 0 (2 ^ 160) / 2 ^ 32) (i' - 128) true

/-- The first n binary digits of log2 y, for y from 1 up to 2 in units of 2^-160: squaring doubles the logarithm. -/
def log2Digits : Nat → Nat → Nat → Nat
  | 0, _, acc => acc
  | n + 1, y, acc =>
    let z := y * y / 2 ^ 160
    if 2 ^ 161 ≤ z then log2Digits n (z / 2) (2 * acc + 1) else log2Digits n z (2 * acc)

/-- log2 x, correctly rounded. At a power of two it is exact; elsewhere it is irrational, and its first 110 fraction
digits are formed, which decides the rounding of every FP32 operand. -/
def log2 (f : Format) (mode : Rounding) (x : Nat) : Nat × FpFlags :=
  match decode f x with
  | .nan s => nanOf f (.nan s)
  | .inf neg => if neg then (f.nan, .invalid) else (f.infCode, 0)
  | .fin neg m e =>
    if m = 0 then (f.signBit true + f.infCode, .divByZero)
    else if neg then (f.nan, .invalid)
    else
      let l := Nat.log2 m
      let n : Int := e + l
      if m = 2 ^ l then roundTo f mode (decide (n < 0)) n.natAbs 0 false
      else
        let d := log2Digits 110 (m * 2 ^ (160 - l)) 0
        let v : Int := n * 2 ^ 110 + d
        -- the exact value lies above v; for a negative value its magnitude lies below that of v
        if v < 0 then roundTo f mode true (v.natAbs - 1) (-110) true else roundTo f mode false v.natAbs (-110) true

/-! ## Integral values, classes, clamps (R143, R145) -/

/-- x rounded to an integral value, keeping its sign in a zero result. -/
def integral (f : Format) (mode : Rounding) (flag : Bool) (x : Nat) : Nat × FpFlags :=
  match decode f x with
  | .nan s => nanOf f (.nan s)
  | .inf _ => (x, 0)
  | .fin neg m e =>
    if 0 ≤ e then (x, 0)
    else
      let r := roundUnits mode neg m e false 0
      ((roundTo f .rz neg r.1 0 false).1, FpFlags.when (flag && r.2) .inexact)

/-- The class mask (R145). -/
def classMask (f : Format) (x : Nat) : Word :=
  match decode f x with
  | .nan s => if s then 0x100 else 0x200
  | .inf neg => if neg then 0x001 else 0x080
  | .fin neg m _ =>
    if m = 0 then (if neg then 0x008 else 0x010)
    else if m < 2 ^ f.fbits then (if neg then 0x004 else 0x020)
    else (if neg then 0x002 else 0x040)

/-- x clamped to [+0, 1]; a NaN gives +0 (R143). -/
def saturate (f : Format) (x : Nat) : Nat × FpFlags :=
  let one := f.bias * 2 ^ f.fbits
  let v := decode f x
  if v.isNan then (0, FpFlags.when v.signalling .invalid)
  else if numKey f x ≤ 0 then (0, 0)
  else if numKey f x ≥ one then (one, 0)
  else (x, 0)

/-! ## Conversions (R95) -/

/-- Between floating-point formats. -/
def convert (src dst : Format) (mode : Rounding) (x : Nat) : Nat × FpFlags :=
  match decode src x with
  | .nan s => (dst.nan, FpFlags.when (s || dst.specials = .none) .invalid)
  | .inf neg =>
    if dst.specials = .ieee then (dst.signBit neg + dst.infCode, 0) else (dst.signBit neg + dst.maxCode, .invalid)
  | .fin neg m e => roundTo dst mode neg m e false

/-- To a signed or unsigned 32-bit integer: out of range and infinities saturate with invalid, a NaN gives 0 with invalid,
a value that is no integer raises inexact. -/
def toInt32 (src : Format) (mode : Rounding) (signed : Bool) (x : Nat) : Word × FpFlags :=
  let lo : Int := if signed then -(2 ^ 31) else 0
  let hi : Int := if signed then 2 ^ 31 - 1 else 2 ^ 32 - 1
  match decode src x with
  | .nan _ => (0, .invalid)
  | .inf neg => (BitVec.ofInt 32 (if neg then lo else hi), .invalid)
  | .fin neg m e =>
    -- a magnitude of 2^64 or more is out of range whatever its exact size
    let r := if 64 ≤ e + (Nat.log2 m : Int) && decide (m ≠ 0) then (2 ^ 64, false) else roundUnits mode neg m e false 0
    let v : Int := if neg then -(r.1 : Int) else r.1
    if v < lo then (BitVec.ofInt 32 lo, .invalid)
    else if hi < v then (BitVec.ofInt 32 hi, .invalid)
    else (BitVec.ofInt 32 v, FpFlags.when r.2 .inexact)

/-- From an integer. -/
def ofInteger (dst : Format) (mode : Rounding) (v : Int) : Nat × FpFlags :=
  roundTo dst mode (decide (v < 0)) v.natAbs 0 false

/-- An I32 clamped to INT8 (R95). -/
def clampInt8 (x : Word) : BitVec 8 := BitVec.ofInt 8 (max (-128) (min 127 x.toInt))

end Sys2Proof.Machine.Fp
end

