-- ==== Sys2Proof/Machine/Memory.lean ====
section
/-!
DEFINITION. Byte memories in canonical form: addresses strictly rising, no entry equal to 0, which is what an unlisted
address reads as. Reading, writing, zeroing and moving bytes; multi-byte values are little-endian (spec 00 R4).
-/
namespace Sys2Proof.Machine

open Sys2Proof

/-- The canonical form from address lo upward. -/
def Memory.wfFrom : Nat → Memory → Bool
  | _, [] => true
  | lo, (a, b) :: m => decide (lo ≤ a) && b != 0 && Memory.wfFrom (a + 1) m

/-- The canonical form. -/
def Memory.wf (m : Memory) : Bool := Memory.wfFrom 0 m

/-- The byte at an address; an unlisted one reads as 0. -/
def Memory.get : Memory → Nat → Byte
  | [], _ => 0
  | (x, b) :: m, a => if x = a then b else Memory.get m a

/-- Write a byte, keeping the form. -/
def Memory.set : Memory → Nat → Byte → Memory
  | [], a, v => if v = 0 then [] else [(a, v)]
  | (x, b) :: m, a, v =>
    if a < x then (if v = 0 then (x, b) :: m else (a, v) :: (x, b) :: m)
    else if a = x then (if v = 0 then m else (a, v) :: m)
    else (x, b) :: Memory.set m a v

/-- The n bytes from address a upward. -/
def Memory.bytes (m : Memory) (a : Nat) : Nat → List Byte
  | 0 => []
  | n + 1 => m.get a :: Memory.bytes m (a + 1) n

/-- Write bytes from address a upward. -/
def Memory.setBytes (m : Memory) (a : Nat) : List Byte → Memory
  | [] => m
  | b :: bs => Memory.setBytes (m.set a b) (a + 1) bs

/-- The little-endian value of the n bytes at a (R4). -/
def Memory.nat (m : Memory) (a n : Nat) : Nat := leNat (m.bytes a n)

/-- Zero the n bytes from a upward. -/
def Memory.zero (m : Memory) (a n : Nat) : Memory := m.filter fun c => decide (c.1 < a) || decide (a + n ≤ c.1)

/-- Bytes of a listing sorted from address a upward. -/
def Memory.fill : Nat → Nat → Memory → List Byte
  | _, 0, _ => []
  | a, n + 1, [] => 0 :: Memory.fill (a + 1) n []
  | a, n + 1, (x, b) :: m => if x = a then b :: Memory.fill (a + 1) n m else 0 :: Memory.fill (a + 1) n ((x, b) :: m)

/-- A long run of bytes, read in one pass over the listing. -/
def Memory.run (m : Memory) (a n : Nat) : List Byte :=
  Memory.fill a n (m.filter fun c => decide (a ≤ c.1) && decide (c.1 < a + n))

/-- A listing of the nonzero bytes of a run at a. -/
def Memory.listFrom : Nat → List Byte → Memory
  | _, [] => []
  | a, b :: bs => if b = 0 then Memory.listFrom (a + 1) bs else (a, b) :: Memory.listFrom (a + 1) bs

/-- A long run of bytes, written in one pass over the listing. -/
def Memory.splice (m : Memory) (a : Nat) (bs : List Byte) : Memory :=
  (m.filter fun c => decide (c.1 < a)) ++ Memory.listFrom a bs ++ (m.filter fun c => decide (a + bs.length ≤ c.1))

/-- The n bytes from a upward as a memory of their own, counted from 0. -/
def Memory.extract (m : Memory) (a n : Nat) : Memory :=
  (m.filter fun c => decide (a ≤ c.1) && decide (c.1 < a + n)).map fun c => (c.1 - a, c.2)

/-- Put a memory's listed bytes at a upward. -/
def Memory.implant (m : Memory) (a : Nat) (src : Memory) : Memory :=
  src.foldl (fun m c => m.set (a + c.1) c.2) m

end Sys2Proof.Machine
end

