-- ==== Sys2Proof/Machine/Operands.lean ====
section
/-!
DEFINITION. A thread's operands: register reads with latencies and transient windows (spec 03 R58..R64), poison marks (13
R193), register writes, the predicate stack (R67), guards (R57), the stack limit (R69), special registers held in the
thread (R70), and what executing an instruction adds to distances (R58).
-/
namespace Sys2Proof

/-- The register after another, as in a pair (R56). -/
def Reg.succ (r : Reg) (k : Nat) : Reg := Fin.ofNat 64 (r.val + k)

/-- The registers of a pair. -/
def Reg.pair (r : Reg) : List Reg := [r, Reg.succ r 1]

/-- The registers of a group of n. -/
def Reg.group (r : Reg) (n : Nat) : List Reg := (List.range n).map (Reg.succ r)

/-- A 16-bit form's register among g0..g63. -/
def Reg5.wide (r : Reg5) : Reg := Fin.ofNat 64 r.val

/-- A register of the extended block (R38). -/
def Reg.extended (r : Reg) : Bool := decide (32 ≤ r.val)

/-- A pair result as register writes. -/
def Reg.pairWrites (r : Reg) (v : DWord) : List (Reg × Word) := [(r, Word.lo v), (Reg.succ r 1, Word.hi v)]

end Sys2Proof

namespace Sys2Proof.Machine

open Sys2Proof

/-- One of the allowed things, by a free choice. A single one is itself. -/
def chooseAt {α : Type} (none_ : α) (n : Nat) : List α → α
  | [] => none_
  | [x] => x
  | x :: y :: xs => (x :: y :: xs)[Config.choice n % (xs.length + 2)]?.getD x

namespace Thread

/-- The bank's value of a register. -/
def bank (t : Thread) (r : Reg) : Word := t.regs[r]

/-- The transient value that stands for a register, if any (R63). -/
def transient? (t : Thread) (r : Reg) : Option Transient := t.trans.find? fun x => x.reg == r

/-- The value of a register's latest write in program order (R69). -/
def latest (t : Thread) (r : Reg) : Word :=
  match t.transient? r with
  | some x => x.val
  | none => t.bank r

/-- What a read returns where no fixed latency is open: past its window a transient value or the bank's (R64). -/
def settled (t : Thread) (r : Reg) : List Word :=
  match t.transient? r with
  | some x => if x.age ≤ 8 then [x.val] else [x.val, t.bank r]
  | none => [t.bank r]

/-- The open fixed-latency writes of a register, newest first, down to one whose latency has elapsed. -/
def open_ (t : Thread) (r : Reg) : List InFlight := (t.flight.filter fun x => x.reg == r).takeWhile fun x => decide (0 < x.left)

/-- A read that is not in time: so is the register's latest fixed-latency write (R62). -/
def late (t : Thread) (r : Reg) : Bool := (t.flight.find? fun x => x.reg == r).any fun x => decide (0 < x.left)

/-- A read past a transient window (R64). -/
def stale (t : Thread) (r : Reg) : Bool :=
  match t.transient? r with
  | some x => decide (8 < x.age)
  | none => false

/-- The mark on a register (R193). -/
def mark? (t : Thread) (r : Reg) : Option DWord := (t.marks.find? fun m => m.reg == r).map (·.ea)

/-- Checking is on (R62). -/
def checking (t : Thread) : Bool := t.ctl.getLsbD 0

/-- The binary digit of a free choice that decides about the i-th of some results. The halves of a pair result, the low one the older
entry, have one. -/
def digitOf (r : Reg) (paired : Bool) (i : Nat) : Nat := if paired then 2 * (i + r.val % 2) + 1 else 2 * i

/-- What a read past a transient window returns: the transient value or the bank's (R64). -/
def staleValue (t : Thread) (n : Nat) (r : Reg) : Word :=
  let x := t.trans.zipIdx.find? fun x => x.1.reg == r
  if x.any fun x => n.testBit (8 * t.flight.length + 8 + digitOf r x.1.paired x.2) then t.latest r else t.bank r

/-- What a read that is not in time returns, the digits of `n` deciding: of the open writes the newest that it sees, or else what a
read could return before them (R61, R62). -/
def lateValue (t : Thread) (n : Nat) (r : Reg) : Word :=
  let ws := t.flight.zipIdx.filter fun x => x.1.reg == r
  match ws.find? fun x => decide (0 < x.1.left) && n.testBit (digitOf r x.1.paired x.2) with
  | some x => if t.stale r && (ws.head?).any fun y => y.2 == x.2 then t.staleValue n r else x.1.val
  | none =>
    match (ws.takeWhile fun x => decide (0 < x.1.left)).getLast? with
    | some (x, i) =>
      match x.olds with
      | a :: b :: _ => if n.testBit (4 * t.flight.length + digitOf r x.paired i) then a else b
      | [a] => a
      | [] => x.val
    | none => t.latest r

/-- A register read with the free choice of number `free + k` (R61, R62, R64). -/
def operand (t : Thread) (free k : Nat) (r : Reg) : Word :=
  if t.late r then t.lateValue (Config.choice (free + k)) r
  else if t.stale r then t.staleValue (Config.choice (free + k)) r
  else t.latest r

/-- The free choice of operand k: its own; the high half of a pair shares its low half's, where the instruction reads that too. A
pair result is written, and forwarded, as one (R109, R140), so that one instruction reads it whole, old or new (log 66). -/
def choiceOf (reads : List Reg) (k : Nat) : Nat :=
  let r := reads.getD k 0
  let low (j : Nat) : Bool := reads[j]? == some (r - 1)
  if r.val % 2 = 1 then
    (((List.range k).reverse.find? low).or ((List.range reads.length).find? low)).getD k
  else k

/-- Operand k of an instruction that reads these registers, from the free counter `free` on. -/
def readAt (t : Thread) (reads : List Reg) (free k : Nat) : Word := t.operand free (choiceOf reads k) (reads.getD k 0)

/-- The operand values of an instruction that reads these registers. It reads each once: where it has waited, they are those that it has
read. What stands at the PC when it goes on is fetched anew: where that is another instruction by now, it has these values, and 0 for
operands beyond them: DESIGN CHOICE (log 15). -/
def values (t : Thread) (reads : List Reg) (free : Nat) : List Word :=
  if t.held.isEmpty then (List.range reads.length).map (t.readAt reads free) else t.held

/-- Drop what stood for a register: a later write supersedes it (R61, R63), and removes its mark (R193). -/
def forget (t : Thread) (r : Reg) : Thread :=
  { t with trans := t.trans.filter fun x => !(x.reg == r), marks := t.marks.filter fun m => !(m.reg == r) }

/-- A scoreboarded result written to the banks (R60). It supersedes an open fixed-latency write of the register, which is
closed by it, a case the manual does not treat: DESIGN CHOICE (log 65). -/
def putBank (t : Thread) (r : Reg) (v : Word) : Thread :=
  let u := t.forget r
  { u with regs := u.regs.set r v, flight := u.flight.filter fun x => !(x.reg == r) }

/-- A fixed-latency result with its latency, to the banks or transient (R59, R63). -/
def putFixed (t : Thread) (r : Reg) (v : Word) (latency : Nat) (transient : Bool) (paired : Bool := false) : Thread :=
  let w : InFlight := ⟨r, t.settled r, t.bank r, v, latency, none, paired⟩
  let u := t.forget r
  if transient then { u with trans := ⟨r, v, 0, paired⟩ :: u.trans, flight := w :: u.flight }
  else { u with regs := u.regs.set r v, flight := w :: u.flight }

/-- Several scoreboarded results. -/
def putBanks (t : Thread) (ws : List (Reg × Word)) : Thread := ws.foldl (fun t w => t.putBank w.1 w.2) t

/-- The fixed-latency results of one instruction: one, or the two halves of a pair, low first. -/
def putFixeds (t : Thread) (ws : List (Reg × Word)) (latency : Nat) (transient : Bool) : Thread :=
  ws.foldl (fun t w => t.putFixed w.1 w.2 latency transient (decide (1 < ws.length))) t

/-- A register's transient value is still in its window (R63). -/
def inWindow (t : Thread) (r : Reg) : Bool := (t.transient? r).any fun x => decide (x.age ≤ 8)

/-- Write the transient values still in their windows to the banks (R64). -/
def commit (t : Thread) : Thread :=
  { t with
    regs := (t.trans.filter fun x => t.inWindow x.reg).foldl (fun rs x => rs.set x.reg (t.latest x.reg)) t.regs
    trans := t.trans.filter fun x => !t.inWindow x.reg }

/-- Every fixed-latency result has been written and its distance is closed (R62): trap entry and ERET wait for that. -/
def settle (t : Thread) : Thread := { t with flight := [] }

/-- The newest entry of each register. -/
def newest : List InFlight → List InFlight
  | [] => []
  | x :: xs => x :: (newest xs).filter fun y => y.reg != x.reg

/-- A thread that arrives at a cross-lane instruction (R150): its window is committed and every pending result stands in its bank, so
that a read returns none of the values before it. Waiting adds nothing to a distance (R58): what is read too early stays so, and traps
where checking is on (R62; log 78). -/
def arriving (t : Thread) : Thread :=
  let u := t.commit
  { u with flight := (newest u.flight).map fun x => { x with olds := [], bank := u.bank x.reg, val := u.latest x.reg } }

/-- A fixed-latency result is kept while its distance is open, or that of an older one of its register: a later write may then
still be read late (R62). -/
def stillOpen : List InFlight → List InFlight
  | [] => []
  | x :: xs =>
    let ys := stillOpen xs
    if 0 < x.left || ys.any fun y => y.reg == x.reg then x :: ys else ys

/-- The cycle in which the instruction at the PC issued: now, unless the thread has waited in it (R27). -/
def issuedAt (t : Thread) (now : Nat) : Nat :=
  match t.wait with
  | .none | .interlock => now
  | _ => t.lastIssue

/-- The instruction at the PC has executed: its length, its stall count and DLY count add to the PC, to distances (R58),
to ages (R63) and to the instructions since a pre-emption request (R46). -/
def advance (t : Thread) (len stall now : Nat) : Thread :=
  { t with
    pc := t.pc + BitVec.ofNat 32 len
    flight := stillOpen (t.flight.map fun x => { x with left := x.left - (1 + stall) })
    trans := t.trans.map fun x => { x with age := x.age + 1 }
    wait := .none
    held := []
    readyAt := now + 1 + stall
    lastIssue := t.issuedAt now
    sinceRequest := t.sinceRequest + 1 }

/-- The thread waits in front of its instruction; one that an interlock holds has not issued it (R26). -/
def stalled (t : Thread) (w : Wait) (now : Nat) : Thread :=
  { t with wait := w, lastIssue := if w = .interlock then t.lastIssue else t.issuedAt now, readyAt := now + 1 }

/-! ## Predicates -/

/-- p(i). -/
def p (t : Thread) (i : Nat) : Bool := t.preds.getLsbD i

/-- Whether the guard lets the instruction execute (R57). -/
def passes (t : Thread) (g : Guard) : Bool :=
  match g with
  | .always => true
  | .p0 => t.p 0
  | .notP0 => !t.p 0
  | .p1 => t.p 1

/-- A push: the old p7 is lost (R67). -/
def push (t : Thread) (b : Bool) : Thread := { t with preds := (t.preds <<< 1) ||| (BitVec.ofBool b).setWidth 8 }

/-- A pop fills p7 with false (R67). -/
def pop (t : Thread) : Thread := { t with preds := t.preds >>> 1 }

/-! ## Pending scoreboarded results (R60) -/

/-- A register has a pending result. -/
def pendingReg (t : Thread) (r : Reg) : Bool := t.loads.any fun l => l.vals.any fun v => v.1 == r

/-- A push is pending (R196). -/
def pendingPush (t : Thread) : Bool := t.loads.any fun l => l.push.isSome

/-- A completing load holds up the thread (R190). -/
def completing (t : Thread) : Bool := t.loads.any (·.completing)

/-! ## The stack limit (R69) -/

/-- The value that g30:g31 would hold after some writes. -/
def stackAfter (t : Thread) (ws : List (Reg × Word)) : DWord :=
  let half (r : Reg) : Word :=
    match ws.find? fun w => w.1 == r with
    | some w => w.2
    | none => t.latest r
  Word.pair (half 30) (half 31)

/-- The writes name g30 or g31. -/
def touchesStack (ws : List (Reg × Word)) : Bool := ws.any fun w => w.1 == 30 || w.1 == 31

/-- The writes would put the stack pointer below its limit. -/
def belowLimit (t : Thread) (ws : List (Reg × Word)) : Bool :=
  touchesStack ws && decide ((t.stackAfter ws).toNat < t.slim.toNat)

end Thread

end Sys2Proof.Machine
end

