-- ==== Sys2Proof/Machine/Region.lean ====
section
/-!
DEFINITION. Fitted regions: the evaluation of 05 R106, the value of an element (21 R303, R308), the bound (R304), a store
(R309), and the elements that frames hold (R302).
-/
namespace Sys2Proof.Machine

open Sys2Proof

namespace Region

/-- The element size in bytes (R300). -/
def esize (r : Region) : Nat := if r.fmt = 2 then 4 else 2

/-- The element format (R300). -/
def format (r : Region) : Fp.Format := if r.fmt = 0 then Fp.fp16 else if r.fmt = 1 then Fp.bf16 else Fp.fp32

/-- The number of elements P. -/
def count (r : Region) : Nat := r.extents.foldl (· * ·) 1

/-- The coordinates of element n, c_0 fastest (R300). -/
def coords : List Nat → Nat → List Nat
  | [], _ => []
  | e :: es, n => n % e :: coords es (n / e)

end Region

namespace Fit

/-- An FP16 parameter as FP32, exactly (R106). -/
def widen (x : BitVec 16) : Nat := (Fp.convert Fp.fp16 Fp.fp32 .rne x.toNat).1

/-- A fused multiply-add in FP32, RNE. -/
def fma (x y z : Nat) : Nat := (Fp.fma Fp.fp32 .rne x y z).1

/-- The activation (R106); a NaN passes. -/
def act (clamp : Bool) (z : Nat) : Nat :=
  if (Fp.decode Fp.fp32 z).isNan then z
  else if Fp.numKey Fp.fp32 z ≤ 0 then 0
  else if clamp && decide (Fp.numKey Fp.fp32 z ≥ 0x3F800000) then 0x3F800000
  else z

/-- One neuron's contribution: its hidden value times v, added to y. -/
def neuron (clamp : Bool) (us : List Nat) (y : Nat) (w : List (BitVec 16)) : Nat :=
  let z := (us.zipIdx).foldl (fun z u => fma (widen (w.getD u.2 0)) u.1 z) (widen (w.getD 3 0))
  fma (widen (w.getD 4 0)) (act clamp z) y

/-- The evaluation of R106 in FP32: coordinates, step and offset, parameters. -/
def eval (clamp : Bool) (step offset : List Word) (ps : FitParams) (cs : List Nat) : Nat :=
  let us := cs.zipIdx.map fun c =>
    fma (Fp.ofInteger Fp.fp32 .rne c.1).1 (step.getD c.2 0).toNat (offset.getD c.2 0).toNat
  ps.neurons.foldl (neuron clamp us) (widen ps.cb)

/-- |y − x| ≤ B as real numbers, both finite (R304). -/
def within (f : Fp.Format) (bound : Word) (x y : Nat) : Bool :=
  match Fp.decode f x, Fp.decode f y, Fp.decode Fp.fp32 bound.toNat with
  | .fin a m e, .fin b n d, .fin _ k g =>
    let q := min (min e d) g
    decide ((Fp.units q (.fin b n d) - Fp.units q (.fin a m e)).natAbs ≤ (Fp.units q (.fin false k g)).natAbs)
  | _, _, _ => false

end Fit

namespace Region

/-- The network's value of element n under given parameters, in the element format (R106). -/
def evalWith (r : Region) (ps : FitParams) (n : Nat) : Nat :=
  (Fp.convert Fp.fp32 r.format .rne (Fit.eval r.clamp r.step r.offset ps (coords r.extents n))).1

/-- The reference value of element n. -/
def exactValue (r : Region) (n : Nat) : Nat := r.reference.getD n 0

/-- The entry of element n in the exception table. -/
def entry? (r : Region) (n : Nat) : Option Nat := (r.entries.find? fun x => x.1 == n).map (·.2)

/-- What a load returns (R308). -/
def value (r : Region) (n : Nat) : Nat :=
  if !r.normal then r.exactValue n
  else
    match r.entry? n with
    | some x => x
    | none => r.evalWith r.params n

/-- The table's entry for an element that is to be exact, in increasing index order. -/
def insertEntry (n x : Nat) : List (Nat × Nat) → List (Nat × Nat)
  | [] => [(n, x)]
  | (k, y) :: es => if n < k then (n, x) :: (k, y) :: es else if n = k then (n, x) :: es else (k, y) :: insertEntry n x es

/-- A store (R309). -/
def store (r : Region) (n x : Nat) : Region :=
  let r := { r with reference := r.reference.set n x }
  if !r.normal then r
  else if (r.entry? n).isSome || decide (r.entries.length < r.capacity) then
    { r with entries := insertEntry n x r.entries }
  else { r with normal := false }

/-- An element within the bound is approximate under these parameters; any other must be exact (R304). -/
def fits (r : Region) (ps : FitParams) (n x : Nat) : Bool := Fit.within r.format r.bound x (r.evalWith ps n)

/-- The byte of the element range that a physical address is, through the granules in order (R302). -/
def byteOf (r : Region) (pa : Nat) : Option Nat :=
  (r.granules.zipIdx.find? fun g => g.1 == pa / 65536).map fun g => g.2 * 65536 + pa % 65536

/-- An address on the module of the region's home Tansy. -/
def home (r : Region) : Nat := r.granules.headD 0 * 65536

/-- The granules of the table area, each once. -/
def tableGranules (r : Region) : List Nat := (r.tableFrames.map (· / 65536)).dedup

/-- The line of the reference, counted from its start, that holds element n's value (R192, R303). That the values stand one after another
from the start of a line on is a DESIGN CHOICE (log 106). -/
def refLine (r : Region) (n : Nat) : Nat := n * r.esize / 64

/-- The reference value of element n is lost. -/
def badRef (r : Region) (n : Nat) : Bool := r.badRefs.contains (r.refLine n)

/-- The physical address of byte o of the table area. -/
def tableByte (r : Region) (o : Nat) : Nat :=
  let k := r.tableFrames.headD 0 % 4096 + o
  r.tableFrames.getD (k / 4096) 0 / 4096 * 4096 + k % 4096

/-- The poison unit of memory that holds element n's entry: the two copies of the table lie one after the other in the table area and are
used in turn, the first at generation 1, entries of 8 bytes in index order (R301, R303): DESIGN CHOICE about the place of the copies
(log 106). -/
def entryLine? (r : Region) (n : Nat) : Option Nat :=
  (r.entries.findIdx? fun e => e.1 == n).map fun k => r.tableByte (8 * ((r.gen.toNat + 1) % 2 * r.capacity + k)) / 64

/-- A load of element n meets uncorrectable data, `poison` being that of memory: in the reference, in the element's entry, or in the
parameter set (R308). -/
def bad (r : Region) (poison : List Nat) (n : Nat) : Bool :=
  if !r.normal then r.badRef n
  else
    match r.entryLine? n with
    | some u => poison.contains u
    | none => r.badParams

end Region

end Sys2Proof.Machine
end

