-- ==== Sys2Proof/Machine/Access.lean ====
section
/-!
DEFINITION. Finding and changing parts of the state by name; which memory is in service (spec 23 R328, R360; 25 R344);
translation (23 R326..R330); the on-chip map and the scratchpads of a wave (11 R161..R164); layouts and frame tags (R165);
the checks of an access (13 R189); the storage where an access lands; poison (13 R192; 25 R345); atomic results (R200).
-/
namespace Sys2Proof.Machine

open Sys2Proof

/-! ## Parts of the state by name -/

/-- Replace the members of a list that pass a test. -/
def updateIf {α : Type} (test : α → Bool) (f : α → α) (xs : List α) : List α :=
  xs.map fun x => if test x then f x else x

namespace State

def thread? (s : State) (id : ThreadId) : Option Thread := s.threads.find? fun t => t.id == id
def wave? (s : State) (uid : Nat) : Option Wave := s.waves.find? fun w => w.uid == uid
def launch? (s : State) (id : Nat) : Option Launch := s.launches.find? fun l => l.id == id
def group? (s : State) (wave idx : Nat) : Option Group := s.groups.find? fun g => g.wave == wave && g.idx == idx
def die? (s : State) (d : Nat) : Option Die := s.dies.find? fun x => x.idx == d

/-- Put a thread back under its own name. -/
def setThread (s : State) (t : Thread) : State := { s with threads := updateIf (fun u => u.id == t.id) (fun _ => t) s.threads }

/-- Change a thread. -/
def mapThread (s : State) (id : ThreadId) (f : Thread → Thread) : State :=
  { s with threads := updateIf (fun u => u.id == id) f s.threads }

/-- Change every thread that passes a test. -/
def mapThreads (s : State) (test : Thread → Bool) (f : Thread → Thread) : State :=
  { s with threads := updateIf test f s.threads }

def mapWave (s : State) (uid : Nat) (f : Wave → Wave) : State :=
  { s with waves := updateIf (fun w => w.uid == uid) f s.waves }

def mapLaunch (s : State) (id : Nat) (f : Launch → Launch) : State :=
  { s with launches := updateIf (fun l => l.id == id) f s.launches }

def mapGroup (s : State) (wave idx : Nat) (f : Group → Group) : State :=
  { s with groups := updateIf (fun g => g.wave == wave && g.idx == idx) f s.groups }

def mapDie (s : State) (d : Nat) (f : Die → Die) : State :=
  { s with dies := updateIf (fun x => x.idx == d) f s.dies }

/-- Change a core of a die. -/
def mapCore (s : State) (c : CoreId) (f : Core → Core) : State :=
  s.mapDie c.die fun d => { d with cores := updateIf (fun x => x.idx == c.core) f d.cores }

/-- Change a cluster of a die. -/
def mapCluster (s : State) (c : ClusterId) (f : Cluster → Cluster) : State :=
  s.mapDie c.die fun d => { d with clusters := updateIf (fun x => x.idx == c.cluster) f d.clusters }

def core? (s : State) (c : CoreId) : Option Core := (s.die? c.die).bind fun d => d.cores.find? fun x => x.idx == c.core

def cluster? (s : State) (c : ClusterId) : Option Cluster :=
  (s.die? c.die).bind fun d => d.clusters.find? fun x => x.idx == c.cluster

/-- Add one to a die's error counter (23 R339). -/
def countError (s : State) (d : Nat) : State := s.mapDie d fun x => { x with errcnt := x.errcnt + 1 }

/-- A die is in service. -/
def dieInService (s : State) (d : Nat) : Bool :=
  match s.die? d with
  | some x => x.inService
  | none => false

/-- A core is in service (23 R339). -/
def coreInService (s : State) (c : CoreId) : Bool :=
  match s.die? c.die with
  | some x => x.inService && decide (c.core < 56) && x.coreMask.getLsbD c.core
  | none => false

end State

/-- A thread with its group, wave and launch. -/
structure Ctx where
  t : Thread
  g : Group
  w : Wave
  l : Launch
  deriving DecidableEq, Repr

/-- The group of a thread by its wave's width (R8). -/
def Wave.groupOf (w : Wave) (idx : Nat) : Nat := idx / w.width

/-- Threads per wave. -/
def Wave.size (w : Wave) : Nat := w.groups * w.width

/-- Node thread number n (R10). -/
def Wave.nodeThread (w : Wave) (idx : Nat) : Nat := w.index * w.size + idx

/-- The core a wave is on. -/
def Wave.coreId (w : Wave) : CoreId := ⟨w.die, w.core⟩

/-- A thread with its surroundings; none when one is missing. -/
def State.ctx (s : State) (id : ThreadId) : Option Ctx :=
  match s.thread? id with
  | none => none
  | some t =>
    match s.wave? id.wave with
    | none => none
    | some w =>
      match s.launch? w.launch, s.group? id.wave (w.groupOf id.idx) with
      | some l, some g => some ⟨t, g, w, l⟩
      | _, _ => none

/-! ## Which memory is in service -/

/-- Host memory within a module's addresses (R360). -/
def hostRange (a : Nat) : Bool := decide (0x200000000000 ≤ a) && decide (a < 0x400000000000)

/-- HBM of a stack in service (R360). -/
def hbmRange (units : BitVec 16) (a : Nat) : Bool := decide (a < 2 ^ 40) && units.getLsbD (a / 2 ^ 36)

/-- A physical address in this module's in-service HBM. -/
def State.ownHbm (s : State) (pa : Nat) : Bool :=
  pa / 2 ^ 46 == s.moduleNo && hbmRange s.stackMask (pa % 2 ^ 46)

/-- A physical address in this module's in-service memory: its HBM or its host's (R328, R340, R360). -/
def State.ownMemory (s : State) (pa : Nat) : Bool :=
  pa / 2 ^ 46 == s.moduleNo && (hbmRange s.stackMask (pa % 2 ^ 46) || hostRange (pa % 2 ^ 46))

/-- A physical address that reaches memory (R328 item 6); a gateway's only in a copy with the remote flag (R344). -/
def State.reaches (s : State) (gateway : Bool) (pa : Nat) : Bool :=
  let a := pa % 2 ^ 46
  if pa / 2 ^ 46 = s.moduleNo then s.ownMemory pa
  else
    match s.peers.find? fun p => p.number == pa / 2 ^ 46 with
    | some p => if p.gateway then gateway else hbmRange p.stackUnits a || hostRange a
    | none => false

/-- Another module of the load-store domain (R344). -/
def State.inDomain (s : State) (module : Nat) : Bool :=
  module != s.moduleNo && s.peers.any fun p => p.number == module && !p.gateway

/-- A module that the fabric cannot reach at present (R345). -/
def State.unreachable (s : State) (pa : Nat) : Bool :=
  pa / 2 ^ 46 != s.moduleNo && s.peers.any fun p => p.number == pa / 2 ^ 46 && !p.reachable

/-- The frame tag of the granule of a physical address (R165). -/
def State.tagOf (s : State) (pa : Nat) : Nat :=
  match s.tags.find? fun x => x.1 == pa / 65536 with
  | some x => x.2
  | none => 0

/-! ## Translation -/

/-- A leaf of the page table (R327). -/
structure Leaf where
  k : Nat
  frame : Nat
  layout : Nat
  migrating : Bool
  system : Bool
  execute : Bool
  write : Bool
  deriving DecidableEq, Repr

/-- The page size in bytes. -/
def Leaf.size (l : Leaf) : Nat := 4096 * 4 ^ l.k

/-- The fields of a leaf entry (R327). -/
def Leaf.ofEntry (x : Nat) : Leaf where
  k := field x 60 4
  frame := field x 12 40 * 4096
  layout := field x 6 4
  migrating := field x 5 1 == 1
  system := field x 4 1 == 1
  execute := field x 3 1 == 1
  write := field x 2 1 == 1

/-- A leaf entry that a walk accepts at a level (R328 items 1 to 5). Layout 5 holds no frame (R327). -/
def leafValid (isM : Bool) (level x : Nat) : Bool :=
  let l := Leaf.ofEntry x
  field x 0 1 == 1 && field x 52 8 == 0 && field x 10 2 == 0 && level != 4 && level == 2 * l.k / 9 &&
  (l.layout == 5 || l.frame % l.size == 0) &&
  !(decide (1 ≤ l.layout) && decide (l.layout ≤ 4) && (decide (l.k < 2) || decide (12 < l.k))) &&
  decide (l.layout < 6) && (isM || l.layout != 5)

/-- A pointer entry that a walk accepts (R327, R328). -/
def pointerValid (level x : Nat) : Bool :=
  field x 0 1 == 1 && field x 52 12 == 0 && field x 10 2 == 0 && field x 6 4 == 0 && level != 0

/-- The walk from a table at a level (R326, R328): the leaf entry reached. -/
def State.walkFrom (s : State) (va : Nat) : Nat → Nat → Option Nat
  | 0, table =>
    if !s.ownMemory table then none
    else
      let x := s.mem.nat (table + 8 * (va / 2 ^ 12 % 512)) 8
      if field x 1 1 = 1 && leafValid s.isM 0 x then some x else none
  | level + 1, table =>
    if !s.ownMemory table then none
    else
      let x := s.mem.nat (table + 8 * (va / 2 ^ (12 + 9 * (level + 1)) % 512)) 8
      if field x 1 1 = 1 then (if leafValid s.isM (level + 1) x then some x else none)
      else if pointerValid (level + 1) x then s.walkFrom va level (field x 12 40 * 4096)
      else none

/-- The leaf for a virtual address: a cached one, or the one a walk finds (R328). -/
def State.leafFor (s : State) (va : Nat) : Option Leaf :=
  match s.tlb.find? fun e => decide (e.base ≤ va) && decide (va < e.base + (Leaf.ofEntry e.leaf).size) with
  | some e => some (Leaf.ofEntry e.leaf)
  | none => (s.walkFrom va 4 s.ptroot.toNat).map Leaf.ofEntry

/-- The physical address of a virtual one under a leaf. -/
def Leaf.physical (l : Leaf) (va : Nat) : Nat := l.frame + va % l.size

/-- A translation: the leaf and, unless it is demoted, a physical address that reaches memory. -/
def State.translate (s : State) (gateway : Bool) (va : Nat) : Option Leaf :=
  match s.leafFor va with
  | none => none
  | some l => if l.layout = 5 || s.reaches gateway (l.physical va) then some l else none

/-! ## The on-chip map -/

/-- The first address of the on-chip map (R161). -/
def mapBase : Nat := 0x01F0000000000000

/-- In the on-chip map. -/
def onChip (va : Nat) : Bool := decide (mapBase ≤ va) && decide (va < 0x0200000000000000)

/-- The parts of a core's window (R162). -/
inductive WindowPart where
  | spad | slots | tiles | none
  deriving DecidableEq, Repr

/-- The core that an on-chip address names, the part of its window and the offset in that part (R162). -/
def windowOf (va : Nat) : CoreId × WindowPart × Nat :=
  let off := va - mapBase
  let c : CoreId := ⟨off / 2 ^ 28, off % 2 ^ 28 / 2 ^ 22⟩
  let o := off % 2 ^ 22
  if o < 0x80000 then (c, .spad, o)
  else if 0x100000 ≤ o && decide (o < 0x140000) then (c, .slots, o - 0x100000)
  else if 0x200000 ≤ o && decide (o < 0x240000) then (c, .tiles, o - 0x200000)
  else (c, .none, 0)

/-- The virtual base of a core's window (R162). -/
def windowBase (c : CoreId) : Nat := mapBase + c.die * 2 ^ 28 + c.core * 2 ^ 22

/-- A wave and its cluster-set peers (R163). -/
def State.household (s : State) (w : Wave) : List Wave := w :: s.waves.filter fun y => w.peers.contains y.uid

/-- The wave whose allocation a scratchpad address reaches for an access of n bytes by wave w, and the offset there
(R163). -/
def State.resolveSpad (s : State) (w : Wave) (c : CoreId) (off n : Nat) : Option (Nat × Nat) :=
  ((s.household w).find? fun y =>
    y.firstCore == c && decide (y.firstOff ≤ off) && decide (off + n ≤ y.firstOff + y.spadBytes)).map fun y =>
      (y.uid, off - y.firstOff)

/-! ## The checks of an access -/

/-- The outcome of the checks of R189: where the access lands, whether through a layout view and whether in a peer's
scratchpad; a trap; or a wait for a translation to change (R330). -/
inductive Checked where
  | at (loc : Loc) (view peer : Bool)
  | trap (c : Cause)
  | retry
  deriving DecidableEq, Repr

/-- What the checks depend on: the size, whether alignment is asked for, whether it writes, whether the instruction may go
through a fitted view (R189). -/
structure AccessKind where
  size : Nat
  aligned : Bool
  writes : Bool
  fitted : Bool
  deriving DecidableEq, Repr

/-- A fitted view: the element (R189 checks 5 and 6). -/
def State.checkFitted (s : State) (k : AccessKind) (pa : Nat) : Checked :=
  if !k.fitted then .trap .layout
  else
    match s.regions.find? fun r => (r.byteOf pa).isSome with
    | none => .trap .domain
    | some r =>
      if k.size ≠ r.esize then .trap .layout
      else
        let n := (r.byteOf pa).getD 0 / r.esize
        if r.count ≤ n then .trap .domain else .at (.fitted r.id n) true false

/-- The checks of R189 in order, for an access of wave w, in system mode or not. An address that R163 keeps valid reaches its
allocation though the first core has left service, where R162 alone would say XLATE: DESIGN CHOICE (log 67). -/
def State.check (s : State) (system : Bool) (w : Wave) (k : AccessKind) (ea : Nat) : Checked :=
  if 2 ^ 57 < ea + k.size then .trap .xlate
  else if k.aligned && ea % k.size != 0 then .trap .align
  else if onChip ea then
    let (c, part, off) := windowOf ea
    match part with
    | .spad =>
      match s.resolveSpad w c off k.size with
      | some (y, o) => .at (.spad y o) false (y != w.uid)
      | none => if s.coreInService c then .trap .perm else .trap .xlate
    | .slots | .tiles => if s.coreInService c then .trap .perm else .trap .xlate
    | .none => .trap .xlate
  else
    match s.translate false ea with
    | none => .trap .xlate
    | some l =>
      if l.layout = 5 then .retry
      else if (l.system && !system) || (k.writes && !l.write) then .trap .perm
      else if l.layout ≠ 0 && s.tagOf (l.physical ea) != l.layout then .trap .layout
      else
        let r := if l.layout = 4 then s.checkFitted k (l.physical ea) else .at (.phys (l.physical ea)) (l.layout != 0) false
        match r with
        | .at _ _ _ => if l.migrating && k.writes then .retry else r
        | _ => r

/-! ## Poison, reading and writing -/

/-- The units of size u that n bytes from a touch. -/
def unitsOf (u a n : Nat) : List Nat := (List.range ((a % u + n + u - 1) / u)).map fun i => a / u + i

/-- A live region by its number. -/
def State.region? (s : State) (id : Nat) : Option Region := s.regions.find? fun r => r.id == id

/-- Change a region. -/
def State.mapRegion (s : State) (id : Nat) (f : Region → Region) : State :=
  { s with regions := updateIf (fun r => r.id == id) f s.regions }

/-- Whether an access of n bytes meets poison (R192, R308, R345). -/
def State.poisoned (s : State) (loc : Loc) (n : Nat) : Bool :=
  match loc with
  | .phys pa => (unitsOf 64 pa n).any (fun u => s.poison.contains u) || s.unreachable pa
  | .spad w off =>
    match s.wave? w with
    | some y => (unitsOf 4 off n).any fun u => y.spadPoison.contains u
    | none => false
  | .fitted id e =>
    match s.region? id with
    | some r => r.bad s.poison e || s.unreachable r.home
    | none => false

/-- What stands where an access lands; a fitted-tagged frame reads as zeros through a raw view (R165). -/
def State.readLoc (s : State) (loc : Loc) (n : Nat) : List Byte :=
  match loc with
  | .phys pa => if s.tagOf pa = 4 then List.replicate n 0 else s.mem.bytes pa n
  | .spad w off =>
    match s.wave? w with
    | some y => y.spad.bytes off n
    | none => List.replicate n 0
  | .fitted id e =>
    match s.region? id with
    | some r => leBytes n (r.value e)
    | none => List.replicate n 0

/-- Put bytes where an access lands; a fitted-tagged frame ignores writes through a raw view (R165). Poison stays
(R192). -/
def State.writeLoc (s : State) (loc : Loc) (bs : List Byte) : State :=
  match loc with
  | .phys pa => if s.tagOf pa = 4 then s else { s with mem := s.mem.setBytes pa bs }
  | .spad w off => s.mapWave w fun y => { y with spad := y.spad.setBytes off bs }
  | .fitted id e => s.mapRegion id fun r => r.store e (leNat bs)

/-! ## Atomic operations (R200) -/

/-- The new value of a location under an atomic operation, `d` being CAS's compared value. -/
def atomicNew (op : AtomOp) (wide : Bool) (old b d : DWord) : DWord :=
  let mask (x : DWord) : DWord := if wide then x else x &&& 0xFFFFFFFF
  let sgn (x : DWord) : Int := if wide then x.toInt else (x.setWidth 32).toInt
  let fmt := if wide then Fp.fp64 else Fp.fp32
  let o := mask old
  let x := mask b
  mask <|
    match op with
    | .add => o + x
    | .smin => if sgn o ≤ sgn x then o else x
    | .smax => if sgn o ≥ sgn x then o else x
    | .nmin => if o.toNat ≤ x.toNat then o else x
    | .nmax => if o.toNat ≥ x.toNat then o else x
    | .and => o &&& x
    | .or => o ||| x
    | .xor => o ^^^ x
    | .xchg => x
    | .cas => if o = mask d then x else o
    | .fadd => BitVec.ofNat 64 (Fp.add fmt .rne o.toNat x.toNat).1
    | .fmin => BitVec.ofNat 64 (Fp.minimum fmt o.toNat x.toNat).1
    | .fmax => BitVec.ofNat 64 (Fp.maximum fmt o.toNat x.toNat).1
    | .bfadd2 =>
      let half (i : Nat) : Nat := (Fp.add Fp.bf16 .rne (field o.toNat (16 * i) 16) (field x.toNat (16 * i) 16)).1
      BitVec.ofNat 64 (half 0 + 65536 * half 1)
    | .inc => if o.toNat ≥ x.toNat then 0 else o + 1

end Sys2Proof.Machine
end

