-- ==== Sys2Proof/Machine/Order.lean ====
section
/-!
DEFINITION. Who sees which writes (spec 11 R167..R182). While nothing is to spread, a read returns what stands at its
location. Otherwise each byte of global memory and of a scratchpad keeps, newest first, the writes that some agent may not see
yet (`State.history`); an agent reads below the newest ones that it does not see, and its own write goes above those it
sees. What an agent knows passes along the edges of happens-before (log 12).
-/
namespace Sys2Proof.Machine

open Sys2Proof

/-! ## Knowledge -/

/-- The members of either list. -/
def union {α : Type} [BEq α] (xs ys : List α) : List α := xs ++ ys.filter fun y => !xs.contains y

namespace Know

/-- What either knows. -/
def join (a b : Know) : Know := ⟨union a.seen b.seen, union a.written b.written⟩

/-- What it knows with what several others know. -/
def also (k : Know) (ks : List Know) : Know := ks.foldl join k

/-- Knowledge of some events alone. -/
def ofSeen (events : List Nat) : Know := ⟨events, []⟩

/-- What is known once its holder has written under these numbers: all that it knew happens-before a write of its own. -/
def afterWrites (k : Know) (events : List Nat) : Know := ⟨union k.seen events, union k.seen events⟩

end Know

/-- What several know. -/
def joinAll (ks : List Know) : Know := ks.foldl Know.join Know.none

/-- Where an agent of another module stands. The dies of the domain are numbered through: this module's are 0 to 7, those of module m
8(m+1) to 8(m+1)+7 (log 48). -/
def OutsideId.place (x : OutsideId) : CoreId := ⟨8 * (x.module + 1) + x.die % 8, x.core⟩

/-- A core of this module. -/
def ownCore (c : CoreId) : Bool := decide (c.die < 8)

/-- A scope instance holds two threads (R168). -/
def scopeHolds (sc : Scope) (a b : CoreId) : Bool :=
  match sc with
  | .core => a == b
  | .cluster => a.die == b.die && a.core / 4 == b.core / 4
  | .die => a.die == b.die
  | .module => a.die / 8 == b.die / 8
  | .domain => true

/-- The scope of a release and that of an acquire at a core both hold both threads (R172). -/
def Released.reaches (h : Released) (core : CoreId) (sc : Scope) : Bool := scopeHolds h.scope h.core core && scopeHolds sc h.core core

/-- What the releases that some reads have met give to an acquire fence that they reach. -/
def heardBy (heard : List Released) (reaches : Released → Bool) : Know := joinAll ((heard.filter reaches).map (·.know))

/-- A release beside earlier ones: of one scope at one core the newest. -/
def addReleased (r : Released) (rs : List Released) : List Released := r :: rs.filter fun x => !(x.scope == r.scope && x.core == r.core)

namespace Thread

/-- A thread comes to know more. -/
def learn (t : Thread) (k : Know) : Thread := { t with sight := { t.sight with know := t.sight.know.join k } }

/-- A thread of a wave that stands on a core shares a scope with the thread that made a release: the threads of one wave share
every scope, wherever the wave stood (R168). -/
def hears (t : Thread) (core : CoreId) (sc : Scope) (h : Released) : Bool :=
  (ownCore h.core && h.wave == t.id.wave) || h.reaches core sc

/-- An acquire fence: the releases that the thread's reads have met take effect where both scopes hold both threads (R172). -/
def acquire (t : Thread) (core : CoreId) (sc : Scope) : Thread := t.learn (heardBy t.heard (t.hears core sc))

/-- A release fence: the thread's later stores carry what it knows (R172). Where it knows nothing, they need carry nothing. -/
def release (t : Thread) (core : CoreId) (sc : Scope) : Thread :=
  if t.sight.know = Know.none then t
  else { t with released := addReleased ⟨sc, core, t.id.wave, t.sight.know⟩ t.released }

/-- What a store of the thread carries; one to a peer's scratchpad lies outside core-scope order (R168, R171). -/
def carries (t : Thread) (core : CoreId) (peer : Bool) : Carried :=
  ⟨core, t.id.wave, if peer then none else some t.sight.know, t.released⟩

end Thread

namespace Outsider

/-- The same of an agent of another module (R172, R344). -/
def learn (o : Outsider) (k : Know) : Outsider := { o with sight := { o.sight with know := o.sight.know.join k } }
def acquire (o : Outsider) (sc : Scope) : Outsider := o.learn (heardBy o.heard fun h => h.reaches o.id.place sc)
def release (o : Outsider) (sc : Scope) : Outsider :=
  if o.sight.know = Know.none then o
  else { o with released := addReleased ⟨sc, o.id.place, 0, o.sight.know⟩ o.released }
def carries (o : Outsider) : Carried := ⟨o.id.place, 0, if o.id.thread then some o.sight.know else none, o.released⟩

end Outsider

/-- A thread of a state comes to know more. -/
def State.learn (s : State) (id : ThreadId) (k : Know) : State := s.mapThread id fun t => t.learn k

/-- What the fences and completions of a kind give to who knows these events. -/
def State.given (s : State) (kind : FencedKind) (k : Know) : Know :=
  joinAll ((s.fenced.filter fun x => x.kind == kind && k.seen.contains x.event).map (·.gives))

/-- A fence of a thread, or a completion, gets its number. -/
def State.addFenced (s : State) (kind : FencedKind) (gives : Know) : State :=
  { s with fenced := ⟨s.stamp, kind, gives⟩ :: s.fenced, stamp := s.stamp + 1 }

/-- What a thread of a state knows. -/
def State.knows (s : State) (id : ThreadId) : Know :=
  match s.thread? id with
  | some t => t.sight.know
  | none => Know.none

/-- A thread is about to make what it has done known: its register writes still under way get a number, which it knows (R220). -/
def State.publish (s : State) (id : ThreadId) : State :=
  if (s.relaxed || !s.history.isEmpty) && (s.thread? id).any fun t => t.flight.any fun x => x.event.isNone then
    let number (t : Thread) : Thread := { t with flight := t.flight.map fun x => { x with event := x.event.or (some s.stamp) } }
    { s with stamp := s.stamp + 1 }.mapThread id fun t => (number t).learn (Know.ofSeen [s.stamp])
  else s

/-! ## Who looks -/

/-- Who accesses memory: the agent, where it stands, what it sees. -/
structure Viewer where
  agent : Agent
  core : CoreId
  sight : Sight
  deriving DecidableEq, Repr

/-- An agent that is a thread, of this module or another. -/
def Agent.isThread : Agent → Bool
  | .thread _ => true
  | .outside id => id.thread
  | _ => false

/-- The wave of an agent that is a thread. -/
def Agent.wave? : Agent → Option Nat
  | .thread id => some id.wave
  | _ => none

/-- The thread whose AFENCEs and program order an agent's accesses follow (R179). -/
def Agent.issuer : Agent → Option ThreadId
  | .thread id | .copy _ id | .bank _ id => some id
  | .host | .outside _ => none

/-- A thread with the core it stands on. -/
def Thread.viewer (t : Thread) (core : CoreId) : Viewer := ⟨.thread t.id, core, t.sight⟩

/-- The core of a thread's wave. -/
def State.coreOf (s : State) (id : ThreadId) : CoreId :=
  match s.wave? id.wave with
  | some w => w.coreId
  | none => ⟨0, 0⟩

/-- A thread of a state as it looks at memory. -/
def State.viewer (s : State) (id : ThreadId) : Viewer :=
  match s.thread? id with
  | some t => t.viewer (s.coreOf id)
  | none => ⟨.thread id, s.coreOf id, Sight.none⟩

/-- What an agent of another module has of happens-before; one that has not acted yet has nothing. -/
def State.outsider (s : State) (who : OutsideId) : Outsider :=
  (s.outsiders.find? fun o => o.id == who).getD ⟨who, Sight.none, [], []⟩

/-- Add a number to a list, or take it out. -/
def toggle (n : Nat) (on : Bool) (ns : List Nat) : List Nat := if on then union ns [n] else ns.filter (· != n)

/-- Who sees, or no longer sees, a write through another view that no AFENCE joins (R179). -/
def Sight.glimpse (x : Sight) (event : Nat) (on : Bool) : Sight := { x with glimpsed := toggle event on x.glimpsed }

/-- Put it back. -/
def State.setOutsider (s : State) (o : Outsider) : State := { s with outsiders := o :: s.outsiders.filter fun x => !(x.id == o.id) }

/-- An agent of another module as it looks at memory. -/
def State.outsideViewer (s : State) (who : OutsideId) : Viewer := ⟨.outside who, who.place, (s.outsider who).sight⟩

/-- The host as it looks at memory (R342). -/
def State.hostViewer (s : State) : Viewer := ⟨.host, ⟨0, 0⟩, s.host⟩

/-- A thread's write that was made on the core where another thread stands, or by a thread of that one's wave (R171). Where a wave has
moved, the core is the one on which it stood when the store took effect: DESIGN CHOICE about that moment (log 84). -/
def Viewer.beside (v : Viewer) (e : PastWrite) : Bool :=
  v.agent.isThread && e.writer.isThread &&
    (e.core == v.core || (e.writer.wave? == v.agent.wave? && v.agent.wave?.isSome))

/-- Whether an agent's access through a view must not pass a write by. Through the same view: its own, one it knows, or, of
threads on one core, any that has taken effect (R171), but not to or from a peer's scratchpad (R168). Through another view:
one that AFENCEs join, or that it happens to see (R179). -/
def Viewer.sees (v : Viewer) (view peer : Bool) (e : PastWrite) : Bool :=
  if e.view = view then
    e.writer == v.agent || v.sight.know.seen.contains e.event || (v.beside e && !e.peer && !peer)
  else v.sight.across.contains e.event || v.sight.glimpsed.contains e.event

/-! ## One byte -/

/-- The location of byte i of a location. -/
def Loc.byte (l : Loc) (i : Nat) : Loc :=
  match l with
  | .phys pa => .phys (pa + i)
  | .spad w off => .spad w (off + i)
  | .fitted r e => .fitted r e

/-- Some write may not be seen by all. -/
def State.late (s : State) : Bool := s.relaxed || !s.history.isEmpty

/-- The writes of a byte that some agent may not see yet, newest first. -/
def State.pastAt (s : State) (b : Loc) : List PastWrite := s.history.filter fun e => e.loc == b

/-- Put them back. -/
def State.putPast (s : State) (b : Loc) (es : List PastWrite) : State :=
  { s with history := es ++ s.history.filter fun e => !(e.loc == b) }

/-- The byte that stands at a location. -/
def State.standing (s : State) (b : Loc) : Byte := (s.readLoc b 1).headD 0

/-- A byte's newest writes that an agent does not see. -/
def Viewer.unseen (v : Viewer) (view peer : Bool) (es : List PastWrite) : List PastWrite :=
  es.takeWhile fun e => !v.sees view peer e

/-- Those of a byte's newest writes that an agent's own write may go below: those it does not see, but never those of threads on its
own core through its view, which took effect before (R171, R174). -/
def Viewer.passable (v : Viewer) (view peer : Bool) (es : List PastWrite) : List PastWrite :=
  (v.unseen view peer es).takeWhile fun e => !(v.beside e && e.view == view)

/-- A byte's value below its j newest writes. -/
def State.valueBelow (s : State) (b : Loc) (es : List PastWrite) (j : Nat) : Byte :=
  match (es.take j).getLast? with
  | some e => e.old
  | none => s.standing b

/-- What writes newest first carry to who reads the first: its own, and, where it is an atomic update's, those of all before it
(R172). What threads of the same core knew passes along in the same way: DESIGN CHOICE (log 85). -/
def carriedBy : List (Bool × Carried) → List Carried
  | [] => []
  | x :: xs => if x.1 then x.2 :: xs.map (·.2) else [x.2]

/-- The writes of a byte below its j newest, with those that all see. -/
def State.tagsBelow (s : State) (b : Loc) (es : List PastWrite) (j : Nat) : List (Bool × Carried) :=
  (es.drop j).map (fun e => (e.atomic, e.carries)) ++
    (s.carried.filter fun c => c.loc == b).map fun c => (c.atomic, c.carries)

/-- What a read meets: the bytes, the writes it reads through its own view, what they carry. -/
structure Met where
  bytes : List Byte
  events : List Nat
  carried : List Carried
  deriving DecidableEq, Repr

/-- The write that a read of a byte below its j newest writes returns through its own view. -/
def eventBelow (view : Bool) (es : List PastWrite) (j : Nat) : List Nat :=
  ((es.drop j).take 1).filterMap fun e => if e.view = view then some e.event else none

/-- A read of one byte below its j newest writes. -/
def State.meetByte (s : State) (view : Bool) (b : Loc) (es : List PastWrite) (j : Nat) : Met :=
  ⟨[s.valueBelow b es j], eventBelow view es j, carriedBy (s.tagsBelow b es j)⟩

/-- Reads of several bytes together. -/
def Met.append (x y : Met) : Met := ⟨x.bytes ++ y.bytes, union x.events y.events, union x.carried y.carried⟩

/-- The writes of a byte with one put below the j newest. -/
def layBelow (e : PastWrite) (v : Byte) : List PastWrite → Nat → List PastWrite
  | es, 0 => e :: es
  | [], _ => [e]
  | x :: es, 1 => { x with old := v } :: { e with old := x.old } :: es
  | x :: es, j + 2 => x :: layBelow e v es (j + 1)

/-! ## Writes as wholes (R173, R174, R186)

A write of several bytes takes one place among the others: of two writes that share bytes one follows the other at every byte they
share. So a write takes its place at each of its bytes above one set of writes, closed under 'stands below at some byte'. -/

/-- The writes of a list, newest first, that are among some events or stand below one of these at a byte; `hit` are the bytes at which
one has been met. -/
def olderPass : List Nat → List Loc → List PastWrite → List Nat
  | ns, _, [] => ns
  | ns, hit, e :: es =>
    if ns.contains e.event then olderPass ns (e.loc :: hit) es
    else if hit.contains e.loc then olderPass (ns ++ [e.event]) hit es
    else olderPass ns hit es

/-- The same until nothing is added. -/
def olderAll (es : List PastWrite) : Nat → List Nat → List Nat
  | 0, ns => ns
  | fuel + 1, ns =>
    let ms := olderPass ns [] es
    if ms.length = ns.length then ns else olderAll es fuel ms

/-- Some writes with all that come before them. -/
def State.older (s : State) (ns : List Nat) : List Nat := olderAll s.history s.history.length ns

/-- The newest writes of a byte that are not among some events. -/
def State.above (s : State) (ns : List Nat) (b : Loc) : List PastWrite := (s.pastAt b).takeWhile fun e => !ns.contains e.event

/-- Atomic updates directly above the place that these events leave for a write: no write goes between an atomic update's read and its
write (R170, R173). -/
def State.parted (s : State) (bs : List Loc) (ns : List Nat) : List Nat :=
  bs.filterMap fun b => (s.above ns b).getLast?.bind fun e => if e.atomic then some e.event else none

/-- The write goes above those too. -/
def State.wholeAbove (s : State) (bs : List Loc) : Nat → List Nat → List Nat
  | 0, ns => ns
  | fuel + 1, ns =>
    let xs := s.parted bs ns
    if xs.isEmpty then ns else s.wholeAbove bs fuel (s.older (ns ++ xs))

/-- The writes that an agent's own write of some bytes follows: at each byte those it must not go below, and what comes before them. -/
def State.beforeWrite (s : State) (v : Viewer) (view peer : Bool) (bs : List Loc) : List Nat :=
  s.wholeAbove bs s.history.length <| s.older <|
    bs.flatMap fun b =>
      let es := s.pastAt b
      (es.drop (v.passable view peer es).length).map (·.event)

/-! ## Reads and writes -/

/-- What a write is apart from its value. -/
structure Writing where
  view : Bool
  peer : Bool
  atomic : Bool
  carries : Carried
  deriving DecidableEq, Repr

/-- A write that carries nothing. -/
def Writing.plain (view : Bool) : Writing := ⟨view, false, false, ⟨⟨0, 0⟩, 0, none, []⟩⟩

/-- A read of n bytes by an agent. Elements of fitted regions are read at the Tansy in the order of execution (R182). -/
def State.readAs (s : State) (v : Viewer) (view peer : Bool) (loc : Loc) (n : Nat) : Met :=
  if !s.late then ⟨s.readLoc loc n, [], []⟩
  else
    match loc with
    | .fitted _ _ => ⟨s.readLoc loc n, [], carriedBy (s.tagsBelow loc [] 0)⟩
    | _ =>
      (List.range n).foldl (fun m i =>
        let b := loc.byte i
        let es := s.pastAt b
        m.append (s.meetByte view b es (v.unseen view peer es).length)) ⟨[], [], []⟩

/-- The bytes of a location. -/
def Loc.bytes (l : Loc) (n : Nat) : List Loc := (List.range n).map l.byte

/-- A frame that ignores what is stored to it: one tagged 4, through a raw view (R165). -/
def State.ignores (s : State) (loc : Loc) : Bool :=
  match loc with
  | .phys pa => s.tagOf pa == 4
  | _ => false

/-- The read of an atomic update: of the bytes that its own write will follow (R170). -/
def State.readForUpdate (s : State) (v : Viewer) (view peer : Bool) (loc : Loc) (n : Nat) : Met :=
  if !s.late then ⟨s.readLoc loc n, [], []⟩
  else
    let ns := s.beforeWrite v view peer (loc.bytes n)
    (loc.bytes n).foldl (fun m b => m.append (s.meetByte view b (s.pastAt b) (s.above ns b).length)) ⟨[], [], []⟩

/-- A write of one byte as part of a write with this number, which follows the writes `ns`. -/
def State.writeByte (s : State) (v : Viewer) (x : Writing) (event : Nat) (ns : List Nat) (b : Loc) (val : Byte) : State :=
  let es := s.pastAt b
  let j := (s.above ns b).length
  let e : PastWrite := ⟨event, b, s.standing b, x.view, v.agent, v.core, x.peer, x.atomic, v.sight.across, x.carries⟩
  let s := s.putPast b (layBelow e val es j)
  if j = 0 then s.writeLoc b [val] else s

/-- A write of some bytes under one number: they take one place among the other writes (R174). -/
def State.writeUnit (s : State) (v : Viewer) (x : Writing) (event : Nat) (bs : List (Loc × Byte)) : State :=
  let ns := s.beforeWrite v x.view x.peer (bs.map (·.1))
  bs.foldl (fun s p => s.writeByte v x event ns p.1 p.2) s

/-- A write by an agent whose byte i has the number `event i`: bytes of one number are seen together (R174). A fitted-tagged
frame ignores it through a raw view (R165). -/
def State.writeAs (s : State) (v : Viewer) (x : Writing) (event : Nat → Nat) (loc : Loc) (bs : List Byte) : State :=
  if !s.late then s.writeLoc loc bs
  else
    match loc with
    | .fitted _ _ => { s.writeLoc loc bs with carried := ⟨loc, x.atomic, x.carries⟩ :: s.carried }
    | _ =>
      let parts := bs.zipIdx.filterMap fun p =>
        if s.ignores (loc.byte p.2) then none else some (event p.2, loc.byte p.2, p.1)
      ((parts.map (·.1)).dedup).foldl (fun s n =>
        s.writeUnit v x n ((parts.filter fun p => p.1 == n).map (·.2))) s

/-- An indivisible update of n bytes: the state after it and what it read. An ATOM's, a RED's, an STN's and a reducing copy's write count
all as the write of an atomic that passes earlier releases on (R172): DESIGN CHOICE (log 85). -/
def State.update (s : State) (v : Viewer) (x : Writing) (event : Nat) (loc : Loc) (n : Nat) (f : List Byte → List Byte) :
    State × Met :=
  let m := s.readForUpdate v x.view x.peer loc n
  (s.writeAs v { x with atomic := true } (fun _ => event) loc (f m.bytes), m)

/-- An atomic operation where it lands (R173, R200): the new state, the old value, what the read met. -/
def State.atomicAs (s : State) (v : Viewer) (x : Writing) (event : Nat) (loc : Loc) (op : AtomOp) (wide : Bool) (b d : DWord) :
    State × DWord × Met :=
  let n := if wide then 8 else 4
  let r := s.update v x event loc n fun bs => leBytes n (atomicNew op wide (BitVec.ofNat 64 (leNat bs)) b d).toNat
  (r.1, BitVec.ofNat 64 (leNat r.2.bytes), r.2)

/-- What a thread takes over from what its read met: the writes themselves (R170), of a thread of its core or wave what that knew
(R171; the core of a store that took effect after its wave had moved: log 84), and the releases for its next acquire fence (R172). -/
def Thread.meet (t : Thread) (core : CoreId) (peer : Bool) (m : Met) : Thread :=
  let near := (m.carried.filter fun c => (c.core == core || (ownCore c.core && c.wave == t.id.wave)) && !peer).filterMap (·.near)
  { t.learn (joinAll (Know.ofSeen m.events :: near)) with heard := union t.heard (m.carried.flatMap (·.releases)) }

/-- A thread's read: what it takes over stands in the state. -/
def State.readBy (s : State) (id : ThreadId) (view peer : Bool) (loc : Loc) (n : Nat) : State × List Byte :=
  if !s.late then (s, s.readLoc loc n)
  else
    let m := s.readAs (s.viewer id) view peer loc n
    (s.mapThread id fun t => t.meet (s.coreOf id) peer m, m.bytes)

/-- The free values that an engine's read of n bytes may draw on. -/
def State.racingSpan (s : State) (n : Nat) : Nat := if s.late then 2 * s.stamp + 2 * n * (s.history.length + 1) + 2 else 0

/-- How many of the writes of byte i of n that nothing orders before an engine's operation its read passes by: a free choice for
each write, byte by byte, but an element that a BMV wrote is met whole (R175, R180, R233). -/
def racingDepth (base n i : Nat) (un : List PastWrite) : Nat :=
  (un.zipIdx.findIdx? fun x =>
    Config.choice (base + match x.1.writer with
      | .bank _ _ => 2 * x.1.event
      | _ => 2 * (i + n * x.2) + 1) % 2 == 1).getD un.length

/-- What an engine's read gives: the bytes, and the writes that it returns, which what consumes the operation's completion must not
pass by (R170, R176, R177). -/
structure Raced where
  bytes : List Byte
  met : List Nat
  deriving DecidableEq, Repr

/-- Reads of several bytes together. -/
def Raced.append (x y : Raced) : Raced := ⟨x.bytes ++ y.bytes, union x.met y.met⟩

/-- An engine's read, with free values from `base` on: a byte with writes that nothing orders before the operation is what it was
before or after some of them. -/
def State.readRacing (s : State) (v : Viewer) (view : Bool) (loc : Loc) (n base : Nat) : Raced :=
  if !s.late then ⟨s.readLoc loc n, []⟩
  else
    (List.range n).foldl (fun r i =>
      let b := loc.byte i
      let es := s.pastAt b
      let j := racingDepth base n i (v.unseen view false es)
      r.append ⟨[s.valueBelow b es j], eventBelow view es j⟩) ⟨[], []⟩

/-- A write of an engine, every `unit` bytes of it under a number of their own, which the engine knows; with those numbers. -/
def State.engineWrite (s : State) (v : Viewer) (view : Bool) (loc : Loc) (unit : Nat) (bs : List Byte) : State × List Nat :=
  if !s.late then (s.writeLoc loc bs, [])
  else
    let n := (bs.length + unit - 1) / unit
    ({ s.writeAs v (Writing.plain view) (fun i => s.stamp + i / unit) loc bs with stamp := s.stamp + n },
      (List.range n).map (s.stamp + ·))

/-- What an outside agent writes: aligned sizes up to 8 bytes are single-copy atomic (R342). -/
def State.outsideWrite (s : State) (v : Viewer) (x : Writing) (pa : Nat) (bs : List Byte) : State :=
  let s' := s.writeAs v x (fun i => s.stamp + (pa % 8 + i) / 8) (.phys pa) bs
  { s' with stamp := s.stamp + (pa % 8 + bs.length + 7) / 8 }

/-- The host comes to know more. -/
def State.hostLearns (s : State) (k : Know) : State := { s with host := { s.host with know := s.host.know.join k } }

/-- The host writes through CXL.mem; it knows its write from then on. -/
def State.hostWrite (s : State) (pa : Nat) (bs : List Byte) : State :=
  let s' := s.outsideWrite s.hostViewer (Writing.plain false) pa bs
  if s.late then s'.hostLearns (s.host.know.afterWrites ((List.range (s'.stamp - s.stamp)).map (s.stamp + ·))) else s'

/-- The host reads through CXL.mem: its later reads are no older than what happens-before the releases of module scope that it
meets (R342). -/
def State.hostRead (s : State) (pa n : Nat) : State × List Byte :=
  if !s.late then (s, s.readLoc (.phys pa) n)
  else
    let m := s.readAs s.hostViewer false false (.phys pa) n
    let met := (m.carried.flatMap (·.releases)).filter fun r => r.scope == .module || r.scope == .domain
    (s.hostLearns (joinAll (Know.ofSeen m.events :: met.map (·.know))), m.bytes)

/-! ## Agents of other modules (R172, R344) -/

/-- What a write of an agent of another module is, apart from its value. -/
def State.outsideWriting (s : State) (who : OutsideId) (view : Bool) : Writing := ⟨view, false, false, (s.outsider who).carries⟩

/-- An agent of another module has written under the numbers from `first` on up to the next. -/
def State.outsideKnows (s : State) (who : OutsideId) (first : Nat) : State :=
  if s.late then
    let o := s.outsider who
    let events := (List.range (s.stamp - first)).map (first + ·)
    s.setOutsider { o with sight := { o.sight with know := o.sight.know.afterWrites events } }
  else s

/-- It takes over what its read met: the writes, of a thread of its own core what that knew (R171), the releases (R172). -/
def State.outsideMeets (s : State) (who : OutsideId) (m : Met) : State :=
  if s.late then
    let o := s.outsider who
    let near := (m.carried.filter fun c => c.core == who.place && who.thread).filterMap (·.near)
    s.setOutsider { o.learn (joinAll (Know.ofSeen m.events :: near)) with heard := union o.heard (m.carried.flatMap (·.releases)) }
  else s

/-- It stores to memory through a raw or a layout view. -/
def State.outsideStore (s : State) (who : OutsideId) (view : Bool) (pa : Nat) (bs : List Byte) : State :=
  (s.outsideWrite (s.outsideViewer who) (s.outsideWriting who view) pa bs).outsideKnows who s.stamp

/-- It stores to an element of a fitted region, at its place in region order (R182, R309). -/
def State.outsideElement (s : State) (who : OutsideId) (loc : Loc) (bs : List Byte) : State :=
  s.writeAs (s.outsideViewer who) (s.outsideWriting who true) (fun _ => s.stamp) loc bs

/-- It reads memory through a raw or a layout view, or an element of a region. -/
def State.outsideRead (s : State) (who : OutsideId) (view : Bool) (loc : Loc) (n : Nat) : State :=
  s.outsideMeets who (s.readAs (s.outsideViewer who) view false loc n)

/-- It updates memory by an atomic (R173). -/
def State.outsideUpdate (s : State) (who : OutsideId) (view : Bool) (pa : Nat) (op : AtomOp) (wide : Bool) (b d : DWord) : State :=
  let r := s.atomicAs (s.outsideViewer who) (s.outsideWriting who view) s.stamp (.phys pa) op wide b d
  ({ r.1 with stamp := s.stamp + 1 }.outsideKnows who s.stamp).outsideMeets who r.2.2

/-- It fences, a full fence in the order of those of its scope (R172). -/
def State.outsideFence (s : State) (who : OutsideId) (sc : Scope) (k : FenceKind) : State :=
  let o := s.outsider who
  match k with
  | .acquire => s.setOutsider (o.acquire sc)
  | .release => s.setOutsider (o.release sc)
  | .full =>
    let earlier := joinAll ((s.fences.filter fun f => f.scope == sc && scopeHolds sc f.core who.place).map (·.know))
    let o := (o.acquire sc).learn earlier
    let s := s.setOutsider (o.release sc)
    if o.sight.know = Know.none then s else { s with fences := ⟨sc, who.place, 0, o.sight.know⟩ :: s.fences }

/-! ## Spreading -/

/-- A write is seen by all, with all that come before it at its bytes and theirs. -/
def State.spread (s : State) (event : Nat) : State :=
  let gone := s.older [event]
  { s with
    history := s.history.filter fun e => !gone.contains e.event
    carried := ((s.history.filter fun e => gone.contains e.event).map fun e => ⟨e.loc, e.atomic, e.carries⟩) ++ s.carried }

/-- The writes at some locations are seen by all: the storage moves, or changes what it holds. -/
def State.settle (s : State) (test : Loc → Bool) : State :=
  ((s.history.filter fun e => test e.loc).map (·.event)).foldl State.spread s

/-- The writes at some physical addresses are seen by all. -/
def State.settlePhys (s : State) (pa n : Nat) : State :=
  s.settle fun l =>
    match l with
    | .phys a => decide (pa ≤ a) && decide (a < pa + n)
    | _ => false

/-- Two neighbouring writes of a byte, the older first, whose order nothing fixes: through different views that no AFENCE joins, neither
of them an atomic update's (R179). -/
def mayReland (x y : PastWrite) : Bool := x.view != y.view && !y.joined.contains x.event && !x.atomic && !y.atomic

/-- The write right above a write at some byte, on which that one may land. -/
def State.aboveIt? (s : State) (event : Nat) : Option Nat :=
  (s.history.filter fun x => x.event == event).findSome? fun x =>
    ((s.pastAt x.loc).takeWhile fun y => y.event != event).getLast?.bind fun y => if mayReland x y then some y.event else none

/-- Of two such neighbours, `event` right below `upper`, the earlier lands on the later; the values, newest first, are `v` and
`e.old`. -/
def relandIn (event upper : Nat) (v : Byte) : List PastWrite → Byte × List PastWrite
  | y :: x :: es =>
    if x.event = event && y.event = upper && mayReland x y then (y.old, { x with old := v } :: { y with old := x.old } :: es)
    else
      let r := relandIn event upper y.old (x :: es)
      (v, { y with old := r.1 } :: r.2)
  | es => (v, es)

/-- The earlier of two such writes lands on the later at a byte. -/
def State.relandByte (s : State) (event upper : Nat) (b : Loc) : State :=
  let r := relandIn event upper (s.standing b) (s.pastAt b)
  (s.putPast b r.2).writeLoc b [r.1]

/-- The writes below a write at its bytes. -/
def State.under (s : State) (event : Nat) : List Nat :=
  (s.history.filter fun x => x.event == event).flatMap fun x =>
    (((s.pastAt x.loc).dropWhile fun y => y.event != event).drop 1).map (·.event)

/-- A write lands on the one right above it, at every byte that they share or at none: where the writes would no longer stand in one
order nothing changes (R174, R179). -/
def State.reland (s : State) (event : Nat) : State :=
  match s.aboveIt? event with
  | none => s
  | some upper =>
    let s' := (s.history.filter fun x => x.event == event).foldl (fun s x => s.relandByte event upper x.loc) s
    if (s'.older (s'.under event)).contains event then s else s'

/-! ## Fences -/

/-- A full fence takes its place in the order of the full fences of its scope (R172). -/
def State.fullFence (s : State) (id : ThreadId) (sc : Scope) : State :=
  let s := s.publish id
  let core := s.coreOf id
  let mine (f : FullFences) : Bool := f.scope == sc && ((ownCore f.core && f.wave == id.wave) || scopeHolds sc f.core core)
  let same (f : FullFences) : Bool := f.scope == sc && ownCore f.core && f.wave == id.wave && scopeHolds sc f.core core
  let s := s.mapThread id fun t => (t.acquire core sc).learn (joinAll ((s.fences.filter mine).map (·.know)))
  let k := s.knows id
  let s := if k = Know.none then s else { s with fences := ⟨sc, core, id.wave, k⟩ :: s.fences.filter fun f => !same f }
  s.mapThread id fun t => t.release core sc

/-- A FENCE once the thread's earlier stores have taken effect where it is full (R172). -/
def State.fence (s : State) (id : ThreadId) (sc : Scope) (k : FenceKind) : State :=
  match k with
  | .acquire => s.mapThread id fun t => t.acquire (s.coreOf id) sc
  | .release => (s.publish id).mapThread id fun t => t.release (s.coreOf id) sc
  | .full => s.fullFence id sc

/-- An AFENCE: the thread's own writes and those of its engines that it knows of are joined, for who knows the fence; the thread
itself sees, through every view, what the AFENCEs that it knows have joined (R179). -/
def State.joinViews (s : State) (id : ThreadId) : State :=
  let k := s.knows id
  let own := (s.history.filter fun e => e.writer.issuer == some id && (e.writer.isThread || k.seen.contains e.event)).map (·.event)
  let s := if own.isEmpty then s else (s.addFenced .views (Know.ofSeen own)).learn id (Know.ofSeen [s.stamp])
  let joined := (s.given .views (s.knows id)).seen
  s.mapThread id fun t => { t with sight := { t.sight with across := union t.sight.across joined } }

/-- The AFENCE of a thread of another module; of an engine there that of its issuing thread (R179, R344; log 48). -/
def State.outsideJoin (s : State) (who : OutsideId) : State :=
  let o := s.outsider who
  let own := (s.history.filter fun e => e.writer == .outside who).map (·.event)
  let o := if own.isEmpty then o else o.learn (Know.ofSeen [s.stamp])
  let s := if own.isEmpty then s else s.addFenced .views (Know.ofSeen own)
  let joined := (s.given .views o.sight.know).seen
  s.setOutsider { o with sight := { o.sight with across := union o.sight.across joined } }

/-- The threads of a wave leave their core: of what its threads have stored, they have seen what has taken effect (R171). -/
def State.takesAlong (s : State) (w : Wave) : State :=
  let here := (s.history.filter fun e => e.writer.isThread && e.core == w.coreId && !e.peer).map (·.event)
  s.mapThreads (fun t => t.id.wave == w.uid) fun t => t.learn (Know.ofSeen here)

/-- A store-to-bank fence gets its number: the writes that happen-before it, and what happens-before these, happen-before the reads of a
BMV whose issue follows it (R180). -/
def State.toBank (s : State) (id : ThreadId) : State :=
  let ns := (s.knows id).written
  if ns.isEmpty then s else (s.addFenced .toBank ⟨ns, ns⟩).learn id (Know.ofSeen [s.stamp])

/-- A bank-to-load fence: the accesses of the BMVs whose completion is known (R181). -/
def State.toLoad (s : State) (id : ThreadId) : State := s.learn id (s.given .completion (s.knows id))

/-- What an operation sees at its issue: what its issuer knows, and what its issuer's AFENCEs have joined (R175, R179). -/
def Thread.lendsCopy (t : Thread) : Sight := ⟨t.sight.know, t.sight.across, []⟩

/-- What a BMV of a thread sees at its issue: what the store-to-bank fences that the thread knows give (R180), and of what its AFENCEs
have joined, that. -/
def State.bankSight (s : State) (id : ThreadId) : Sight :=
  let k := s.given .toBank (s.knows id)
  ⟨k, ((((s.thread? id).map (·.sight.across)).getD []).filter fun e => k.seen.contains e), []⟩

end Sys2Proof.Machine
end

