-- ==== Sys2Proof/Machine/Node.lean ====
section
/-!
DEFINITION. Work nodes and kernel headers as the dispatcher reads and checks them (spec 01 R15..R20; the order of checks 15
R363).
-/
namespace Sys2Proof.Machine

open Sys2Proof

/-- Reading memory for the dispatcher (R17): the bytes, a wait for promotion, or a cause and the address it is met at. -/
inductive ReadResult where
  | ok (bs : List Byte)
  | wait (va : Nat)
  | fault (c : Cause) (va : Nat)
  deriving DecidableEq, Repr

/-- One aligned piece of n bytes, with the rights of a thread outside system mode (R17). -/
def State.readPiece (s : State) (va n : Nat) : ReadResult :=
  if 2 ^ 57 < va + n || onChip va then .fault .xlate va
  else
    match s.translate false va with
    | none => .fault .xlate va
    | some l =>
      let pa := l.physical va
      if l.layout = 5 then .wait va
      else if l.system then .fault .perm va
      else if l.layout = 4 || (l.layout ≠ 0 && s.tagOf pa != l.layout) then .fault .layout va
      else if s.poisoned (.phys pa) n then .fault .poison va
      else .ok (s.readLoc (.phys pa) n)

/-- Consecutive pieces of 16 bytes; the first that cannot be read decides. -/
def State.readPieces (s : State) (va : Nat) : Nat → ReadResult
  | 0 => .ok []
  | n + 1 =>
    match s.readPiece va 16 with
    | .ok bs =>
      match s.readPieces (va + 16) n with
      | .ok more => .ok (bs ++ more)
      | r => r
    | r => r

/-- A little-endian field of a record. -/
def fieldAt (bs : List Byte) (off n : Nat) : Nat := leNat ((bs.drop off).take n)

/-- A work node's fields (R15). -/
def NodeRec.parse (bs : List Byte) : NodeRec where
  entry := BitVec.ofNat 64 (fieldAt bs 0 8)
  param := BitVec.ofNat 64 (fieldAt bs 8 8)
  waves := fieldAt bs 16 4
  groups := fieldAt bs 20 2
  log2w := fieldAt bs 22 1
  flags := fieldAt bs 23 1
  spad := fieldAt bs 24 4
  slots := fieldAt bs 28 1
  accs := fieldAt bs 29 1
  prio := fieldAt bs 30 1
  dieMin := fieldAt bs 31 1 % 16
  dieMax := fieldAt bs 31 1 / 16
  domain := BitVec.ofNat 32 (fieldAt bs 32 4)
  budget := fieldAt bs 36 2
  producer := fieldAt bs 38 1
  res39 := fieldAt bs 39 1
  port := BitVec.ofNat 32 (fieldAt bs 40 4)
  steps := fieldAt bs 44 4
  trapvec := BitVec.ofNat 64 (fieldAt bs 48 8)
  header := BitVec.ofNat 64 (fieldAt bs 56 8)
  items := fieldAt bs 64 4
  stack := fieldAt bs 68 4
  stackBase := BitVec.ofNat 64 (fieldAt bs 72 8)
  parent := BitVec.ofNat 64 (fieldAt bs 80 8)
  res88 := leNat ((bs.drop 88).take 40)

namespace NodeRec

def cooperative (n : NodeRec) : Bool := n.flags.testBit 0
def ordered (n : NodeRec) : Bool := n.flags.testBit 1
def reserving (n : NodeRec) : Bool := n.flags.testBit 2
def checking (n : NodeRec) : Bool := n.flags.testBit 3
def hasVector (n : NodeRec) : Bool := n.flags.testBit 4
def clusterSet (n : NodeRec) : Bool := n.flags.testBit 5

/-- The group width (R15). -/
def width (n : NodeRec) : Nat := 2 ^ n.log2w

/-- Threads per wave. -/
def threads (n : NodeRec) : Nat := n.groups * n.width

/-- The base of the node's code window (R15). -/
def window (n : NodeRec) : Nat := n.entry.toNat / 2 ^ 32 * 2 ^ 32

/-- The number of steps (R15). -/
def stepCount (n : NodeRec) : Nat := max 1 n.steps

/-- The checks of a node in the order of R363: the limit that must hold and the offset reported. -/
def checks (n : NodeRec) : List (Bool × Nat) :=
  [ (decide (1 ≤ n.groups) && decide (n.groups ≤ 32), 20),
    (decide (3 ≤ n.log2w) && decide (n.log2w ≤ 6), 22),
    (decide (n.flags < 64), 23),
    (n.entry.toNat % 2 == 0, 0),
    (n.waves != 0 && (!n.clusterSet || n.waves % 4 == 0), 16),
    (decide (n.threads ≤ 2048), 22),
    (!(n.reserving && (n.cooperative || n.clusterSet)), 23),
    (decide (n.spad ≤ 524288), 24),
    (decide (n.slots ≤ 16), 28),
    (decide (n.accs ≤ 16), 29),
    (decide (n.prio ≤ 3) || n.prio == 0xFF, 30),
    (decide (1 ≤ n.dieMin) && decide (n.dieMin ≤ 8) && decide (1 ≤ n.dieMax) && decide (n.dieMax ≤ 8) &&
      decide (n.dieMin ≤ n.dieMax) && (!n.reserving || n.dieMax == 1), 31),
    (decide (n.producer < n.groups), 38),
    (n.res39 == 0, 39),
    (!n.hasVector || (n.trapvec.toNat % 2 == 0 && n.trapvec.toNat / 2 ^ 32 == n.entry.toNat / 2 ^ 32), 48),
    (n.header.toNat % 16 == 0, 56),
    (if n.reserving then decide (1 ≤ n.items) && decide (n.items ≤ n.waves * n.threads) else n.items == 0, 64),
    (n.stack % 16 == 0 && decide (512 ≤ n.stack), 68),
    (n.stackBase.toNat % 16 == 0, 72),
    (n.res88 == 0, 88) ]

end NodeRec

/-- The offset of the first check that fails. -/
def firstInvalid (cs : List (Bool × Nat)) : Option Nat := (cs.find? fun c => !c.1).map (·.2)

/-- The safe points of a kernel header (R20). -/
def parseSafePoints (bs : List Byte) (n : Nat) : List SafePoint :=
  (List.range n).map fun i =>
    { index := fieldAt bs (16 + 16 * i) 1
      saveBytes := fieldAt bs (20 + 16 * i) 4
      save := BitVec.ofNat 32 (fieldAt bs (24 + 16 * i) 4)
      restore := BitVec.ofNat 32 (fieldAt bs (28 + 16 * i) 4) }

/-- The checks of a kernel header of n entries (R20, R363), with the offsets of R19. -/
def headerChecks (bs : List Byte) (n : Nat) : List (Bool × Nat) :=
  [ (fieldAt bs 2 2 == 0, 0x102), (fieldAt bs 8 8 == 0, 0x108) ] ++
  (List.range n).flatMap fun i =>
    let o := 16 + 16 * i
    let ix := fieldAt bs o 1
    [ (decide (ix < 64) && !((List.range i).any fun j => fieldAt bs (16 + 16 * j) 1 == ix), 0x100 + o),
      (fieldAt bs (o + 1) 3 == 0, 0x100 + o + 1),
      (fieldAt bs (o + 8) 4 % 2 == 0, 0x100 + o + 8),
      (fieldAt bs (o + 12) 4 % 2 == 0, 0x100 + o + 12) ]

/-- A kernel header: its maximum interval and safe points. -/
structure Header where
  maxInterval : Nat
  safePoints : List SafePoint
  deriving DecidableEq, Repr

/-- Reading and checking a node's header. -/
inductive HeaderResult where
  | ok (h : Header)
  | invalid (off : Nat)
  | wait (va : Nat)
  | fault (c : Cause) (size : Nat)
  deriving DecidableEq, Repr

/-- The kernel header at an address; 0 means none (R15). A fault gives its cause and the bytes of the read. -/
def State.readHeader (s : State) (addr : Nat) : HeaderResult :=
  if addr = 0 then .ok ⟨0, []⟩
  else
    match s.readPieces addr 1 with
    | .wait va => .wait va
    | .fault c _ => .fault c 16
    | .ok head =>
      let n := fieldAt head 0 2
      if 64 < n then .invalid 0x100
      else
        match s.readPieces addr (1 + n) with
        | .wait va => .wait va
        | .fault c _ => .fault c (16 * (1 + n))
        | .ok bs =>
          match firstInvalid (headerChecks bs n) with
          | some off => .invalid off
          | none => .ok ⟨fieldAt bs 4 4, parseSafePoints bs n⟩

end Sys2Proof.Machine
end

