-- ==== Sys2Proof/Machine/Ops.lean ====
section
/-!
DEFINITION. The shared operations of the machine: port handles and deliveries (spec 17 R264..R267, R362; 15 R223; 01 R17,
R19), fault records (23 R322..R324), accepted stores taking effect (13 R191), the end of a launch (23 R321, R337), the
hard-save area (23 R331), taking a trap (R318, R319) and returning from one (07 R125), and how a thread instruction
executes (03 R57..R64, R69, R78).
-/
namespace Sys2Proof.Machine

open Sys2Proof

/-- No handle (R264). -/
def noHandle : Word := 0xFFFFFFFF

/-! ## Ports -/

/-- The parts of a handle (R264). -/
def handleDie (h : Word) : Nat := field h.toNat 28 4
def handleGen (h : Word) : Nat := field h.toNat 16 12
def handleIdx (h : Word) : Nat := field h.toNat 0 16

/-- A handle from its parts. -/
def handleOf (die gen idx : Nat) : Word := BitVec.ofNat 32 (die * 2 ^ 28 + gen % 4096 * 2 ^ 16 + idx)

/-- The present generation of an index. -/
def genOf (gens : List (Nat × Nat)) (idx : Nat) : Nat :=
  match gens.find? fun g => g.1 == idx with
  | some g => g.2
  | none => 0

/-- Count a free of an index (R264). -/
def bumpGen (gens : List (Nat × Nat)) (idx : Nat) : List (Nat × Nat) :=
  (idx, (genOf gens idx + 1) % 4096) :: gens.filter fun g => !(g.1 == idx)

/-- The die of a handle when the handle is not stale (R264); index 0 is always allocated, at generation 0 (R265). -/
def State.portDie (s : State) (h : Word) : Option Die :=
  match s.die? (handleDie h) with
  | none => none
  | some d =>
    if !d.inService then none
    else if handleIdx h = 0 then (if handleGen h = 0 then some d else none)
    else if (d.ports.any fun p => p.idx == handleIdx h) && genOf d.portGens (handleIdx h) == handleGen h then some d
    else none

/-- A handle that is stale or names no allocated port. -/
def State.stale (s : State) (h : Word) : Bool := (s.portDie h).isNone

/-- The port of a handle that is not stale and not a launch port. -/
def State.port? (s : State) (h : Word) : Option Port :=
  match s.portDie h with
  | none => none
  | some d => d.ports.find? fun p => p.idx == handleIdx h

/-- Change a port. -/
def State.mapPort (s : State) (h : Word) (f : PortKind → PortKind) : State :=
  s.mapDie (handleDie h) fun d =>
    { d with ports := updateIf (fun p => p.idx == handleIdx h) (fun p => { p with kind := f p.kind }) d.ports }

/-- The launches a launch port holds at most (R265). -/
def launchRoom : Nat := 256

/-- A die's launch port takes a launch: it has room, and so has the log of a recording module, which a replay does not fill (25 R351; log
46). That a SEND, PADD or SENDNF to it then fares as at a full port, though fewer than 256 launches are pending, is a DESIGN CHOICE:
R351 says only that launches stop entering (log 46). -/
def State.launchHasRoom (s : State) (d : Nat) : Bool :=
  match s.die? d with
  | some x => decide (x.launchPort.length < launchRoom) &&
      (!s.recording || !s.replay.isEmpty || decide (x.log.length < s.boot.logRoom))
  | none => false

/-- Enter a launch into a die's launch port; a recording module logs it (25 R351). -/
def State.enterLaunch (s : State) (d : Nat) (l : PendingLaunch) : State :=
  s.mapDie d fun x =>
    { x with launchPort := x.launchPort ++ [l], log := if s.recording then x.log ++ [.launch l false] else x.log }

/-- A root launch of depth 1 (R16, R17). -/
def PendingLaunch.root (node : DWord) (contrib : Option (List Byte)) (know : Know) : PendingLaunch where
  node := node
  depth := 1
  prio := 3
  domain := 0
  budget := 0xFFFF
  contrib := contrib
  know := know

/-- A launch message at a die's launch port: one with a non-zero reserved field or a misaligned address is discarded and
counted (R17, R362). -/
def State.launchMessage (s : State) (d : Nat) (lo hi : DWord) (know : Know) : State :=
  if hi ≠ 0 || lo.toNat % 64 ≠ 0 then s.countError d else s.enterLaunch d (.root lo none know)

/-- The doublewords of a message. -/
def msgLo (m : List Word) : DWord := Word.pair (m.getD 0 0) (m.getD 1 0)
def msgHi (m : List Word) : DWord := Word.pair (m.getD 2 0) (m.getD 3 0)

/-- The signed 32-bit range. -/
def inRange32 (v : Int) : Bool := decide (-(2 ^ 31) ≤ v) && decide (v < 2 ^ 31)

/-- Deliver to a port now; none while it is full or its count would leave the range (R19, R223). A stale or unallocated
handle drops the delivery and counts it (R362); a ring notification's count out of range is dropped and counted (R261). At a handle of
index 0 the 16 bytes enter as a launch message, held while the launch port is full, of which R19 says nothing: DESIGN CHOICE (log 95). -/
def State.deliver? (s : State) (x : Delivery) : Option State :=
  if s.stale x.handle then some (s.countError x.errDie)
  else if handleIdx x.handle = 0 then
    if s.launchHasRoom (handleDie x.handle) then some (s.launchMessage (handleDie x.handle) (msgLo x.msg) (msgHi x.msg) x.know)
    else none
  else
    match s.port? x.handle with
    | none => some s
    | some p =>
      match p.kind with
      | .queue depth ms =>
        if ms.length < depth then
          some (s.mapPort x.handle fun _ => .queue depth (ms ++ [⟨x.msg, x.know⟩]))
        else none
      | .count v r know =>
        if inRange32 (v + x.delta) then
          some (s.mapPort x.handle fun _ => .count (v + x.delta) r (know.join x.know))
        else if x.ring then some (s.countError x.errDie)
        else none

/-- A ring's count for a count port, which is applied or dropped at once and never held (R261). -/
def State.ringCount (s : State) (x : Delivery) : Bool :=
  x.ring && (s.port? x.handle).any fun p =>
    match p.kind with
    | .count _ _ _ => true
    | .queue _ _ => false

/-- Deliver, or hold for a retry; what is held for a handle keeps its place before later deliveries (R19, R267), but for a ring's
counts (R261). -/
def State.deliver (s : State) (x : Delivery) : State :=
  let hold := s.mapDie x.errDie fun d => { d with deliveries := d.deliveries ++ [x] }
  let waiting :=
    match s.die? x.errDie with
    | some d => d.deliveries.any fun y => y.handle == x.handle
    | none => false
  if waiting && !s.ringCount x then hold
  else
    match s.deliver? x with
    | some s' => s'
    | none => hold

/-- An engine completion message (R223). -/
def completionMsg (status : Nat) (tag : Word) (cls : Nat) : List Word := [BitVec.ofNat 32 status, tag, BitVec.ofNat 32 cls, 0]

/-- The completion of an engine operation at its port (R223). -/
def State.notify (s : State) (die : Nat) (port : Word) (status : Nat) (tag : Word) (cls : Nat) (know : Know) : State :=
  s.deliver ⟨port, completionMsg status tag cls, -1, false, die, know⟩

/-- The completion of a node at its port, if it names one (R19). -/
def State.reportNode (s : State) (die : Nat) (port : Word) (status detail : Nat) (node : DWord) (know : Know) : State :=
  if port = noHandle then s
  else s.deliver ⟨port, [BitVec.ofNat 32 status, BitVec.ofNat 32 detail, Word.lo node, Word.hi node], -1, false, die, know⟩

/-! ## Fault records -/

/-- A cause's code (R320). -/
def Cause.code : Cause → Nat
  | .ri => 0x01
  | .priv => 0x02
  | .align => 0x03
  | .xlate => 0x04
  | .perm => 0x05
  | .layout => 0x06
  | .domain => 0x07
  | .stall => 0x08
  | .stale => 0x09
  | .regabs => 0x0A
  | .stack => 0x0B
  | .portstale => 0x0C
  | .portovf => 0x0D
  | .portbound => 0x0E
  | .slot => 0x0F
  | .issue => 0x10
  | .overlap => 0x11
  | .claim => 0x12
  | .xlmismatch => 0x13
  | .gbar => 0x14
  | .spawndepth => 0x15
  | .clusterexit => 0x16
  | .poison => 0x17
  | .bkpt => 0x18
  | .syscall => 0x19
  | .trapi => 0x1A
  | .engine => 0x1C

/-- The record of a fault met by a thread's work (R322): source, address, instruction offset, notify port, access kind and
size; the posting core, or 0xFF for a bank die; the stack of a BMV row. The time is filled in at posting. -/
def State.recordFor (s : State) (id : ThreadId) (c : Cause) (source : Nat) (va : DWord) (pc notify : Word)
    (kind size : Nat) (core stack : Option Nat) : FaultRecord :=
  let w := s.wave? id.wave
  let l := w.bind fun w => s.launch? w.launch
  { cause := c
    token := none
    source := source
    thread := BitVec.ofNat 32 ((w.map fun w => w.nodeThread id.idx).getD 0)
    node := (l.map (·.node)).getD 0
    va := va
    pc := Word.pair pc (Word.hi ((l.map (·.nd.entry)).getD 0))
    notify := notify
    core := core.getD ((w.map (·.core)).getD 0)
    die := (w.map (·.die)).getD 0
    stack := stack.getD 0xFF
    time := 0
    kind := kind
    size := size
    know := s.knows id }

/-- Hand a record to a die's fault queue (R323). -/
def State.post (s : State) (d : Nat) (r : FaultRecord) (by_ : Poster) : State :=
  s.mapDie d fun x => { x with posting := x.posting ++ [⟨r, by_⟩] }

/-- The records a fault queue holds (R323). -/
def faultRoom : Nat := 4096

/-- A record that needs a stall slot: of a chunk or row, with a cause other than ENGINE (R324). -/
def Post.stalls (p : Post) : Bool :=
  match p.poster with
  | .chunk _ _ => p.record.cause != .engine
  | .row _ _ => p.record.cause != .engine
  | _ => false

/-- Where a token's chunk or row is found. -/
def tokenOf (slot count : Nat) : Nat := slot + 4096 * (count % 16)

/-- The lowest number not in a list, up to a limit. -/
def lowestFree (used : List Nat) (limit : Nat) : Option Nat := (List.range limit).find? fun n => !used.contains n

/-- The stall slots of a die (R324). -/
def stallRoom : Nat := 4096

/-- Take the lowest free stall slot of a die for a chunk or row: its token (R324). -/
def Die.takeSlot (d : Die) (who : Poster) : Option (Nat × Die) :=
  match lowestFree ((d.stallSlots.filter fun x => x.what.isSome).map (·.idx)) stallRoom with
  | none => none
  | some n =>
    let count :=
      match d.stallSlots.find? fun x => x.idx == n with
      | some x => (x.count + 1) % 16
      | none => 0
    some (tokenOf n count,
      { d with stallSlots := ⟨n, count, some who⟩ :: d.stallSlots.filter fun x => !(x.idx == n) })

/-- Every record that waits to be accepted waits for a stall slot alone: others pass it (R323, R324). -/
def Die.onlySlots (d : Die) : Bool := d.posting.all fun p => p.stalls && (d.takeSlot p.poster).isNone

/-- A die's fault queue takes a record now: it has room and no earlier record waits for room in it (R323). -/
def State.faultHasRoom (s : State) (d : Nat) : Bool :=
  match s.die? d with
  | some x => x.onlySlots && decide (x.faultQ.length < faultRoom)
  | none => true

/-- A record enters a die's fault queue, with its time (R322, R323). -/
def State.record (s : State) (d : Nat) (r : FaultRecord) : State :=
  s.mapDie d fun x => { x with faultQ := x.faultQ ++ [{ r with time := x.clk }] }

/-- Free the stall slot that holds this chunk or row (R324). -/
def State.freeStall (s : State) (d : Nat) (slot : Nat) : State :=
  s.mapDie d fun x =>
    { x with stallSlots := updateIf (fun y => y.idx == slot) (fun y => { y with what := none }) x.stallSlots }

/-! ## Accepted stores (R171, R191) -/

/-- The bytes an entry touches. -/
def StoreEntry.size (e : StoreEntry) : Nat :=
  match e.op with
  | .bytes bs => bs.length
  | .nibble _ _ => 1
  | .red _ wide _ => if wide then 8 else 4

/-- A byte with one nibble replaced (R197). -/
def withNibble (b : Byte) (high : Bool) (v : BitVec 4) : Byte :=
  if high then v ++ b.extractLsb' 0 4 else b.extractLsb' 4 4 ++ v

/-- A location on a module that the fabric cannot reach (R345). -/
def State.farOff (s : State) (loc : Loc) : Bool :=
  match loc with
  | .phys pa => s.unreachable pa
  | .fitted id _ => (s.region? id).any fun r => s.unreachable r.home
  | .spad _ _ => false

/-- A reduction. -/
def StoreOp.isRed : StoreOp → Bool
  | .red _ _ _ => true
  | _ => false

/-- A store, STN or RED takes effect. A RED that meets poison, and any of them whose module the fabric cannot reach, is
dropped with a POISON record, for whose acceptance the thread is then still waiting (R191, R323, R345). The record's source 4,
and access kind 1 for a store, which the manual lists for no dropped store: DESIGN CHOICE (log 69). It counts as made where its wave stands
now (log 84). What a RED's read half meets, no later acquire fence of its thread takes over: DESIGN CHOICE (log 85). -/
def State.applyStore (s : State) (id : ThreadId) (e : StoreEntry) : State :=
  if s.farOff e.loc || (e.op.isRed && s.poisoned e.loc e.size) then
    let r := s.recordFor id .poison 4 e.ea e.pc noHandle (if e.op.isRed then 2 else 1) e.size none none
    (s.post r.die r (.store id)).mapThread id fun t => { t with unposted := t.unposted + 1 }
  else
    let v := s.viewer id
    let x : Writing := ⟨e.view, e.peer, false, { e.carries with core := s.coreOf id }⟩
    match e.op with
    | .bytes bs => s.writeAs v x (fun _ => e.stamp) e.loc bs
    | .nibble high b => (s.update v x e.stamp e.loc 1 fun bs => [withNibble (bs.headD 0) high b]).1
    | .red op wide b => (s.atomicAs v x e.stamp e.loc op wide b 0).1

/-- All accepted stores of a thread take effect, in order. -/
def State.drain (s : State) (id : ThreadId) : State :=
  match s.thread? id with
  | none => s
  | some t =>
    (t.stores.foldl (fun s e => s.applyStore id e) s).mapThread id fun t => { t with stores := [] }

/-- A thread sends a message, launches, issues a copy or an MMA, gives a verdict, or posts an LDNF's record: its stores take effect and its
register writes are known (R133, R175, R177, R220, R323, R325). Where it is a release it is
no release fence for later ordinary stores: DESIGN CHOICE (log 92). -/
def State.sending (s : State) (id : ThreadId) : State := (s.drain id).publish id

/-- Every accepted store, STN and RED of a thread has taken effect, or has been dropped and recorded (R323). -/
def Thread.storesDone (t : Thread) : Bool := t.stores.isEmpty && t.unposted == 0

/-- A record of a dropped store or RED of the thread has still to be accepted (R323). -/
def State.unposted (s : State) (id : ThreadId) : Bool := (s.thread? id).any fun t => t.unposted != 0

/-! ## Ready queues (R29) -/

/-- A cluster in service: one of its cores is. The manual puts cores, dies and stacks in or out of service, not clusters: DESIGN CHOICE
(log 76). -/
def State.clusterInService (s : State) (c : ClusterId) : Bool :=
  (List.range 4).any fun k => s.coreInService ⟨c.die, 4 * c.cluster + k⟩

/-- The first in-service cluster of a die in cyclic order from one. -/
def State.clusterFrom (s : State) (die start : Nat) : Nat :=
  (((List.range 14).map fun i => (start + i) % 14).find? fun k => s.clusterInService ⟨die, k⟩).getD (start % 14)

/-- The class of a cluster that R30 selects. -/
def Cluster.selects (c : Cluster) : Option Nat :=
  let full := (List.range 4).filter fun k => !(c.queues.toList.getD k []).isEmpty
  match full.find? fun k => decide (64 ≤ c.aging.toList.getD k 0) with
  | some k => some k
  | none => full.head?

/-- A cluster keeps the queue it has selected, whose head record no other passes, until that is dispatched; with none selected it selects
as soon as a record stands in a queue (R30): DESIGN CHOICE about that moment (log 89). -/
def Cluster.choose (c : Cluster) : Cluster :=
  if c.chosen.any fun k => !(c.queues.toList.getD k []).isEmpty then c else { c with chosen := c.selects }

/-- The count of a class whose queue is empty is 0: R30 says so after a dispatch, 02_machine_notes.md of a class that empties at any
point, which the model takes: DESIGN CHOICE between the two (log 100). -/
def Cluster.rested (c : Cluster) : Cluster :=
  { c with aging := Vector.ofFn fun k : Fin 4 => if c.queues[k].isEmpty then 0 else c.aging[k] }

/-- The queue of a class becomes another. -/
def Cluster.setQueue (c : Cluster) (k : Nat) (q : List QRec) : Cluster := { c with queues := c.queues.set! k q }.rested.choose

/-- Append a record to a class queue of the die's next cluster (R29), a cluster set's too where that cluster has lost a core and can
never place it: DESIGN CHOICE (log 76). -/
def State.deal (s : State) (die prio : Nat) (r : QRec) : State :=
  match s.die? die with
  | none => s
  | some d =>
    let k := s.clusterFrom die d.nextCluster
    let s := s.mapDie die fun d => { d with nextCluster := (k + 1) % 14 }
    s.mapCluster ⟨die, k⟩ fun c =>
      { c.setQueue prio (c.queues.toList.getD prio [] ++ [r]) with lastVictim := none }

/-- The granted die of a wave (R22); a cluster set stands on the die of its first wave (log 40). -/
def Launch.dieOf (l : Launch) (w : Nat) : Nat :=
  let k := if l.nd.clusterSet then w / 4 * 4 else w
  l.granted.getD (k * l.granted.length / l.nd.waves) l.homeDie

/-- The records of a step, in index order: single waves, or cluster sets (R23, R29). -/
def Launch.records (l : Launch) : List (Nat × QRec) :=
  if l.nd.clusterSet then
    (List.range (l.nd.waves / 4)).map fun j =>
      (l.dieOf (4 * j), ⟨l.id, l.step, [4 * j, 4 * j + 1, 4 * j + 2, 4 * j + 3], [], none⟩)
  else (List.range l.nd.waves).map fun w => (l.dieOf w, ⟨l.id, l.step, [w], [], none⟩)

/-- Queue the waves of a launch's step. A held node's are not dispatched (R284). A cooperative node's are placed in one event (R33): that
they enter no ready queue and leave the die's next cluster as it is, where R29 speaks of a node's waves in general, is a DESIGN CHOICE
(log 99). -/
def State.enqueueStep (s : State) (l : Launch) : State :=
  if l.nd.cooperative || l.held then s else l.records.foldl (fun s r => s.deal r.1 l.prio r.2) s

/-! ## The end of a launch (R321, R337) -/

/-- The waves of a launch. -/
def State.wavesOf (s : State) (l : Nat) : List Wave := s.waves.filter fun w => w.launch == l

/-- A thread of a launch. -/
def State.ofLaunch (s : State) (l : Nat) (id : ThreadId) : Bool := s.waves.any fun w => w.uid == id.wave && w.launch == l

/-- Remove a wave and everything of it. -/
def State.dropWave (s : State) (uid : Nat) : State :=
  { s with
    waves := s.waves.filter fun w => !(w.uid == uid)
    groups := s.groups.filter fun g => !(g.wave == uid)
    threads := s.threads.filter fun t => !(t.id.wave == uid) }

/-- What the threads of a wave know. -/
def State.waveKnows (s : State) (uid : Nat) : Know :=
  joinAll ((s.threads.filter fun t => t.id.wave == uid).map (·.sight.know))

/-- What the accesses of a launch's present step pass on: those of its released waves and finished operations, and those of
its threads (R185). -/
def State.launchKnows (s : State) (l : Nat) : Know :=
  ((s.launch? l).map (·.later)).getD Know.none |>.join (joinAll ((s.wavesOf l).map fun w => s.waveKnows w.uid))

/-- Threads of an ended launch stop: their accepted stores take effect, their loads are abandoned (R321 item 1). -/
def State.stopThreads (s : State) (l : Nat) : State :=
  let s := (s.threads.filter fun t => s.ofLaunch l t.id).foldl (fun s t => s.drain t.id) s
  s.mapThreads (fun t => s.ofLaunch l t.id) fun t =>
    { t with status := .exited, loads := [], trans := [], flight := [], marks := [], wait := .none, held := [] }

/-- Queued records and pre-empted waves of an ended launch are discarded (R321 item 2). -/
def State.discardQueued (s : State) (l : Nat) : State :=
  let keep (q : List QRec) : List QRec := q.filter fun r => !(r.launch == l)
  let stays (c : Cluster) (k : Nat) : Bool := (c.queues.toList.getD k []).head?.any fun r => !(r.launch == l)
  let clear (c : Cluster) : Cluster :=
    { c with
      queues := c.queues.map keep
      chosen := c.chosen.filter (stays c)
      copied :=
        match c.copied with
        | some (v, k, r) => if r.launch = l then none else some (v, k, r)
        | none => none }.rested.choose
  let s : State := { s with dies := s.dies.map fun d => { d with clusters := d.clusters.map clear } }
  ((s.wavesOf l).filter fun w => decide (w.status = .preempted)).foldl (fun s w => s.dropWave w.uid) s

/-- A copy, matrix operation or BMV that has started. -/
def CopyOp.started (c : CopyOp) : Bool := c.begun
def BmvOp.started (b : BmvOp) : Bool := b.begun

/-- The tokens' slots of a list of stalled things. -/
def stalledSlots {α : Type} (xs : List (α × Option Nat)) : List Nat := xs.filterMap fun x => x.2.map fun t => t % 4096

/-- Engine operations of an ended launch: those not started are discarded; of the others every stalled chunk or row is
fatal and its token freed (R321 item 3, R325). -/
def State.endOps (s : State) (l : Nat) : State :=
  let mine (id : ThreadId) : Bool := s.ofLaunch l id
  let gone :=
    (s.copies.filter fun c => mine c.thread && !c.started).map (·.id) ++
    (s.matrixOps.filter fun o => mine o.thread && !o.started).map (·.id) ++
    (s.bmvs.filter fun b => mine b.thread && !b.started).map (·.id)
  let slots (d : Nat) : List Nat :=
    (s.copies.filter fun c => mine c.thread && c.core.die == d).flatMap (fun c => stalledSlots c.stalled) ++
    (s.bmvs.filter fun b => mine b.thread && b.core.die == d).flatMap (fun b => stalledSlots b.stalled)
  let dropWho (w : Poster) : Bool :=
    match w with
    | .chunk op _ => s.copies.any fun c => c.id == op && mine c.thread
    | .row op _ => s.bmvs.any fun b => b.id == op && mine b.thread
    | _ => false
  { s with
    copies := (s.copies.filter fun c => !gone.contains c.id).map fun c =>
      if mine c.thread then
        { c with
          fatal := c.fatal || !c.stalled.isEmpty
          stalled := [] }
      else c
    matrixOps := s.matrixOps.filter fun o => !gone.contains o.id
    bmvs := (s.bmvs.filter fun b => !gone.contains b.id).map fun b =>
      if mine b.thread then
        { b with
          fatal := b.fatal || !b.stalled.isEmpty
          done := b.done ++ b.stalled.map (·.1)
          stalled := [] }
      else b
    groups := s.groups.map fun g =>
      let keep (xs : List Nat) : List Nat := xs.filter fun x => !gone.contains x
      { g with
        copyOps := keep g.copyOps
        matrixOps := keep g.matrixOps
        bankOps := keep g.bankOps
        remoteOps := keep g.remoteOps }
    dies := s.dies.map fun d =>
      { d with
        stallSlots := d.stallSlots.map fun x => if (slots d.idx).contains x.idx then { x with what := none } else x
        posting := d.posting.map fun p => if dropWho p.poster then { p with poster := .nobody } else p } }

/-- Claims, extended blocks, slots and tiles of an ended launch are released, with what waited for them (R321 item 4). -/
def State.endHoldings (s : State) (l : Nat) : State :=
  let mine (uid : Nat) : Bool := s.waves.any fun w => w.uid == uid && w.launch == l
  let clear (c : Core) : Core :=
    { c with xacq := c.xacq.filter fun x => !mine x.1 }
  { s with
    groups := updateIf (fun g => mine g.wave) (fun g => { g with ext := false }) s.groups
    waves := updateIf (fun w => w.launch == l)
      (fun w => { w with heldSlots := [], heldTiles := [], relSlots := [], relTiles := [], relMarks := [], slotQueue := [],
                         tileQueue := [], request := none }) s.waves
    dies := s.dies.map fun d => { d with cores := d.cores.map clear } }

/-- The reserving nodes that a die's Trestle serves at once (R284). -/
def trestleRoom : Nat := 8

/-- When a reserving launch of a die has ended, the longest-held one takes its place (R284). -/
def State.unhold (s : State) (d : Nat) : State :=
  let mine (l : Launch) : Bool := l.nd.reserving && l.homeDie == d && !l.ended && !l.system
  if (s.launches.filter fun l => mine l && !l.held).length < trestleRoom then
    match s.launches.find? fun l => mine l && l.held with
    | some l => (s.mapLaunch l.id fun l => { l with held := false }).enqueueStep { l with held := false }
    | none => s
  else s

/-- Remove a launch none of whose waves is left. -/
def State.sweepLaunch (s : State) (l : Nat) : State :=
  if s.waves.any fun w => w.launch == l then s
  else { s with launches := s.launches.filter fun x => !(x.id == l) }

/-- End a launch: a stopped domain (status 3) or a NODEKILL (status 4) (R321, R337). -/
def State.endLaunch (s : State) (l : Launch) (status detail : Nat) : State :=
  let s := s.stopThreads l.id
  let know := s.launchKnows l.id
  let s := s.discardQueued l.id
  let s := s.endOps l.id
  let s := s.endHoldings l.id
  let s := s.mapLaunch l.id fun l => { l with ended := true, items := [] }
  let s := s.unhold l.homeDie
  let s := s.sweepLaunch l.id
  s.reportNode l.homeDie l.nd.port status detail l.node know

/-- A launch that an end can name: admitted, not completed, not the firmware's. -/
def Launch.live (l : Launch) : Bool := !l.ended && !l.system

/-- The fault domain of a pending launch: its node's, or the recorded one where the node inherits (R16, R321). -/
def PendingLaunch.domainOf (p : PendingLaunch) (n : NodeRec) : Word :=
  if n.domain = 0xFFFFFFFF then p.domain else n.domain

/-- A source-5 record for a launch whose node or header cannot be read (R17). -/
def launchRecord (d : Nat) (node : DWord) (c : Cause) (size : Nat) (know : Know) : FaultRecord where
  cause := c
  token := none
  source := 5
  thread := 0xFFFFFFFF
  node := node
  va := node
  pc := 0
  notify := noHandle
  core := 0xFF
  die := d
  stack := 0xFF
  time := 0
  kind := 5
  size := size
  know := know

/-- What an end does with one pending launch of a die: those it does not look at stay; of the others those it names are
reported, those that cannot be read are discarded with a record, one on a demoted page stays, and one whose record the full fault
queue does not take (R17, R321 item 2, R323, R337). The state, the launches kept, the number ended. -/
def State.endPending (s : State) (d : Nat) (looks : PendingLaunch → Bool) (names : PendingLaunch → NodeRec → Bool)
    (status detail : Nat) : List PendingLaunch → State × List PendingLaunch × Nat
  | [] => (s, [], 0)
  | p :: ps =>
    let keep (s : State) : State × List PendingLaunch × Nat :=
      let r := s.endPending d looks names status detail ps
      (r.1, p :: r.2.1, r.2.2)
    if !looks p then keep s
    else
      match s.readPieces p.node.toNat 8 with
      | .ok bs =>
        let n := NodeRec.parse bs
        if names p n then
          let r := (s.reportNode d n.port status detail p.node p.know).endPending d looks names status detail ps
          (r.1, r.2.1, r.2.2 + 1)
        else keep s
      | .wait _ => keep s
      | .fault c _ =>
        if s.faultHasRoom d then (s.record d (launchRecord d p.node c 128 p.know)).endPending d looks names status detail ps
        else keep s

/-- The pending launches of every die (R321 item 2, R337). A reported end may itself enter a launch, which stays. -/
def State.endPendings (s : State) (looks : PendingLaunch → Bool) (names : PendingLaunch → NodeRec → Bool)
    (status detail : Nat) : State × Nat :=
  s.dies.foldl (fun acc d =>
    let r := acc.1.endPending d.idx looks names status detail d.launchPort
    (r.1.mapDie d.idx (fun x => { x with launchPort := r.2.1 ++ x.launchPort.drop d.launchPort.length }), acc.2 + r.2.2))
    (s, 0)

/-- Stop a fault domain (R321). -/
def State.stopDomain (s : State) (domain : Word) (c : Cause) : State :=
  let s := (s.launches.filter fun l => l.live && l.domain == domain).foldl (fun s l => s.endLaunch l 3 c.code) s
  (s.endPendings (fun _ => true) (fun p n => p.domainOf n == domain) 3 c.code).1

/-! ## The hard-save area (R331) -/

/-- A mode's code in the area. -/
def modeCode (m : Mode) : Nat :=
  match m with
  | .normal => 0
  | .handler => 1
  | .saving _ => 2
  | .restoring => 3

/-- The mode byte of a thread's area: its mode, its pending bit, and what a restore found above them (R332). -/
def modeByte (t : Thread) : Nat := modeCode t.mode + (if t.pending then 4 else 0) + 8 * t.modeHigh.toNat

/-- The bytes of words. -/
def wordBytes (ws : List Word) : List Byte := ws.flatMap fun w => leBytes 4 w.toNat

/-- The poison mask. -/
def markMask (t : Thread) : Nat := (List.range 64).foldl (fun m i => if t.marks.any fun x => x.reg.val == i then m + 2 ^ i else m) 0

/-- The pieces of a thread's hard-save area: offset and bytes; the extended block only when the group holds it. `regs`
are the register values, `resume` the offset at which the thread resumes. -/
def savePieces (t : Thread) (regs : List Word) (ext : Bool) (resume : Word) : List (Nat × List Byte) :=
  let sp :=
    match t.mode with
    | .saving n => n
    | _ => 0
  [(0, wordBytes (regs.take 32))] ++
  (if ext then [(128, wordBytes (regs.drop 32))] else []) ++
  [(256, wordBytes t.h.toList ++ leBytes 4 resume.toNat ++ leBytes 1 t.preds.toNat ++ leBytes 1 (modeByte t) ++
      leBytes 1 sp ++ [t.spare] ++ wordBytes [t.fflags, t.fcr, t.ctl, t.fport] ++ leBytes 8 t.slim.toNat ++
      leBytes 8 (markMask t) ++ wordBytes [t.clkh] ++ List.replicate 52 0)]

/-- A thread's hard-save area (R10). -/
def Ctx.saveArea (c : Ctx) : Nat :=
  (c.l.nd.stackBase + BitVec.ofNat 64 ((c.w.nodeThread c.t.id.idx + 1) * c.l.nd.stack) - 384).toNat

/-- The outcome of storing to the area or loading from it. -/
inductive AreaResult (α : Type) where
  | ok (x : α)
  | wait (va : Nat)
  | fault (c : Cause) (va : Nat)

/-- Store bytes piece by piece, 16 bytes each, with the permissions of a store, as the thread's own writes. A module that the
fabric cannot reach is a poison fault (R332, R345). -/
def State.storeArea (s : State) (c : Ctx) (va : Nat) : Nat → List Byte → AreaResult State
  | 0, _ => .ok s
  | n + 1, bs =>
    match s.check c.l.system c.w ⟨16, false, true, false⟩ va with
    | .at loc view peer =>
      if s.farOff loc then .fault .poison va
      else
        let x : Writing := ⟨view, peer, false, c.t.carries c.w.coreId peer⟩
        let s := { s with stamp := s.stamp + 1 }
        State.storeArea ((s.writeAs (s.viewer c.t.id) x (fun _ => s.stamp) loc (bs.take 16)).learn c.t.id
          ((s.knows c.t.id).afterWrites [s.stamp])) c (va + 16) n (bs.drop 16)
    | .trap c => .fault c va
    | .retry => .wait va

/-- Store all pieces. -/
def State.storePieces (s : State) (c : Ctx) (base : Nat) : List (Nat × List Byte) → AreaResult State
  | [] => .ok s
  | p :: ps =>
    match s.storeArea c (base + p.1) (p.2.length / 16) p.2 with
    | .ok s => s.storePieces c base ps
    | r => r

/-- The values of all registers of a thread, read with the free counter from `free` on. Of a register whose transient value is past
its window (R64) the area takes one of the values that a read may return, and the restored register is no longer stale:
DESIGN CHOICE (log 68). -/
def Thread.allRegs (t : Thread) (free : Nat) : List Word :=
  (List.range 64).map fun i => t.readAt ((List.range 64).map (Fin.ofNat 64)) free i

/-- Save a thread to its area as a hard pre-emption does (R331). -/
def State.hardSave (s : State) (c : Ctx) (t : Thread) (resume : Word) : AreaResult State :=
  { s with free := s.free + 64 }.storePieces c c.saveArea (savePieces t (t.commit.allRegs s.free) c.g.ext resume)

/-- The results of an accepted load: its registers, its marks, its push (R190, R193, R196). -/
def Thread.takeLoad (t : Thread) (l : PendingLoad) : Thread :=
  let u := t.putBanks l.vals
  let u := if l.poisoned then { u with marks := (l.vals.map fun v => ⟨v.1, l.ea⟩) ++ u.marks } else u
  let u := if l.peer then { u with pending := true } else u
  match l.push with
  | some b => u.push b
  | none => u

/-! ## Traps -/

/-- Thread state at trap entry: fixed-latency results written, the window committed, h0 to h3 set (R39, R318). -/
def Thread.atEntry (t : Thread) (c : Cause) (ea : DWord) : Thread :=
  let u := t.settle.commit
  { u with h := (((u.h.set 0 t.pc).set 1 (BitVec.ofNat 32 c.code)).set 2 (Word.lo ea)).set 3 (Word.hi ea) }

/-- A thread restarts at the recovery entry, `t` being its state at the trap (R319). -/
def Thread.recovered (t : Thread) (c : Ctx) (entry : Word) (now : Nat) : Thread :=
  let fresh := Thread.start c.l.nd c.w.uid t.id.idx (c.w.nodeThread t.id.idx) now
  { t with
    mode := .normal
    pc := entry
    regs := Vector.ofFn fun i => if i.val < 32 then fresh.regs[i] else t.regs[i]
    marks := t.marks.filter fun m => Reg.extended m.reg
    trans := t.trans.filter fun x => Reg.extended x.reg
    slim := fresh.slim
    wait := .none
    held := []
    lastIssue := now
    readyAt := now + 1 }

/-- Recovery of a service-core thread (R319), `t` being its state at the trap: its results and its stores take effect, its state
is saved, it restarts, the error is counted and reported. A fault in the save is recorded and does not hold up the restart; a
demoted or migrating page, and a full fault queue, make the thread wait in front of its instruction. -/
def State.recover (s : State) (c : Ctx) (t : Thread) : State :=
  if t.loads.any fun l => l.ticket.isSome then s.setThread (c.t.stalled .poll s.now)
  else
    let s := s.drain c.t.id
    let u := (s.thread? c.t.id).getD c.t
    let t := { t.loads.foldl Thread.takeLoad t with loads := [], stores := [], unposted := u.unposted, sight := u.sight }
    let restart (s : State) : State :=
      { (s.mapThread t.id fun u => { t.recovered c s.boot.recovery s.now with sight := u.sight }).countError c.w.die with
        reports := s.reports ++ [.recovery c.w.die] }
    let hold (s : State) (w : Wait) : State :=
      s.setThread ({ c.t with stores := [], unposted := u.unposted, sight := u.sight }.stalled w s.now)
    match s.hardSave c t t.pc with
    | .ok s' => restart s'
    | .wait va => hold s (.retranslate (BitVec.ofNat 64 va))
    | .fault cause va =>
      let r := s.recordFor t.id cause 6 (BitVec.ofNat 64 va) t.pc noHandle 6 16 none none
      if s.faultHasRoom r.die then restart (s.record r.die r) else hold s .poll

/-- TAKING A TRAP (R318): cause and faulting address; delivered to the thread at its PC. Whether the trapping instruction counts among
the M of a pre-emption request (R46) the manual does not say; it does not: DESIGN CHOICE (log 77). -/
def State.trap (s : State) (c : Ctx) (cause : Cause) (ea : DWord) : State :=
  let t := c.t.atEntry cause ea
  if c.l.system && t.mode ≠ .normal then s.recover c t
  else if t.mode ≠ .normal || !(c.l.system || c.l.nd.hasVector) then
    (s.setThread t).stopDomain c.l.domain cause
  else
    s.setThread { t with
      mode := .handler
      pc := Word.lo c.l.nd.trapvec
      wait := .none
      held := []
      lastIssue := t.issuedAt s.now
      readyAt := s.now + 1 }

/-! ## How a thread instruction executes -/

/-- How an instruction's own effect ends: completed, with the PC of the next instruction where it is not the following
one; a trap delivered at it; not completed, the thread waiting; or completed with the thread's end. -/
inductive Effect where
  | done (s : State)
  | jump (s : State) (pc : Word)
  | trap (s : State) (c : Cause) (ea : DWord)
  | wait (s : State) (w : Wait)
  | ended (s : State)

/-- What an instruction's text gives about it: its length, its guard, its stall count, DLY's count, the registers it
reads, those it names beside them, and whether it reads or changes the predicate stack. -/
structure Form where
  len : Nat := 4
  g : Guard := .always
  sc : Nat
  delay : Nat := 0
  reads : List Reg := []
  names : List Reg := []
  preds : Bool := false

/-- The trap conditions of R78 steps 3 and 4, in order. Of several marked operands the first in the instruction's list of operands gives the address
in h2:h3, of which R193 says nothing: DESIGN CHOICE (log 90). -/
def operandTrap (c : Ctx) (f : Form) : Option (Cause × DWord) :=
  if (f.reads ++ f.names).any Reg.extended && !c.g.ext then some (.regabs, 0)
  else if c.t.checking && f.reads.any c.t.late then some (.stall, 0)
  else if c.t.checking && f.reads.any c.t.stale then some (.stale, 0)
  else (f.reads.findSome? c.t.mark?).map fun ea => (.poison, ea)

/-- The pending scoreboarded results an instruction waits for (R60, R190). -/
def interlocked (t : Thread) (f : Form) : Bool :=
  t.completing || (f.reads ++ f.names).any t.pendingReg || (f.preds && t.pendingPush)

/-- Finish an instruction's effect: advance past it, jump, trap, or wait. -/
def finish (c : Ctx) (f : Form) : Effect → State
  | .done s => s.mapThread c.t.id fun t => t.advance f.len (f.sc + f.delay) s.now
  | .jump s pc => s.mapThread c.t.id fun t => { t.advance f.len (f.sc + f.delay) s.now with pc := pc }
  | .trap s cause ea =>
    match s.ctx c.t.id with
    | some c => s.trap c cause ea
    | none => s
  | .wait s w => s.mapThread c.t.id fun t => t.stalled w s.now
  | .ended s => s

/-- The value that operand k of an instruction reads. -/
def Ctx.reads (c : Ctx) (s : State) (f : Form) (k : Nat) : Word := (c.t.values f.reads s.free).getD k 0

/-- The state once the thread `s.cur` has read an instruction's operands: their free values are drawn, and the thread holds what it has
read until the instruction ends. -/
def State.spent (s : State) (f : Form) : State :=
  { s with free := s.free + f.reads.length }.mapThread s.cur fun t => { t with held := t.values f.reads s.free }

/-- An instruction of the thread `s.cur` (R57, R60, R78): pending results first, then the guard, then the conditions of
steps 3 and 4, then its own effect on the operand values o 0, o 1, … -/
def runForm (f : Form) (body : Ctx → (Nat → Word) → State → Effect) (s : State) : Host.Outcome State Fault Refusal :=
  match s.ctx s.cur with
  | none => .fault .noThread
  | some c =>
    .next <|
      if c.t.completing || (f.g ≠ .always && c.t.pendingPush) then finish c f (.wait s .interlock)
      else if !c.t.passes f.g then finish c f (.done s)
      else if interlocked c.t f then finish c f (.wait s .interlock)
      else
        match operandTrap c f with
        | some (cause, ea) => finish c f (.trap s cause ea)
        | none =>
          finish c f (body c (c.reads s f) (s.spent f))

/-- Change the executing thread. -/
def Ctx.on (c : Ctx) (s : State) (f : Thread → Thread) : State := s.mapThread c.t.id f

/-- The STACK check of R69 before an effect on the thread alone. -/
def checkStack (c : Ctx) (s : State) (ws : List (Reg × Word)) (k : Effect) : Effect :=
  if c.t.belowLimit ws then .trap s .stack (c.t.stackAfter ws) else k

/-- Register results of fixed latency (R59, R63, R69). -/
def writeFixed (c : Ctx) (s : State) (ws : List (Reg × Word)) (latency : Nat) (transient : Bool) : Effect :=
  checkStack c s ws (.done (c.on s fun t => t.putFixeds ws latency transient))

/-- Register results of fixed latency with flags (R94). -/
def writeFlagged (c : Ctx) (s : State) (ws : List (Reg × Word)) (latency : Nat) (transient quiet : Bool) (fl : FpFlags) :
    Effect :=
  checkStack c s ws (.done (c.on s fun t =>
    { t.putFixeds ws latency transient with fflags := addFlags t.fflags quiet fl }))

/-- Scoreboarded register results (R60, R69). -/
def writeBoard (c : Ctx) (s : State) (ws : List (Reg × Word)) : Effect :=
  checkStack c s ws (.done (c.on s fun t => t.putBanks ws))

/-- Scoreboarded register results with another effect, `s'`, of the instruction: a failing STACK check comes before both (R60, R69,
R364). -/
def writeWith (c : Ctx) (s s' : State) (ws : List (Reg × Word)) : Effect :=
  checkStack c s ws (.done (c.on s' fun t => t.putBanks ws))

/-- Scoreboarded results of an effect that already stands (R364). -/
def writeAfter (c : Ctx) (s : State) (ws : List (Reg × Word)) : Effect := writeBoard c s ws

/-- A push (R67). -/
def pushDone (c : Ctx) (s : State) (b : Bool) : Effect := .done (c.on s fun t => t.push b)

/-- RETURNING FROM A TRAP (R125): fixed-latency results written, the mode normal, the PC from h0. -/
def eretEffect (c : Ctx) (s : State) : Effect :=
  let t := c.t.settle
  match t.mode with
  | .normal | .saving _ => .trap s .ri 0
  | .handler | .restoring =>
    let pc := t.h[0]
    if pc.getLsbD 0 then .trap s .align (Word.pair pc (Word.hi c.l.nd.entry))
    else .jump (c.on s fun t => { t.settle with mode := .normal }) pc

end Sys2Proof.Machine
end

