-- ==== Sys2Proof/Machine/Integer.lean ====
section
/-!
DEFINITION. Integer instructions: the 16-bit forms (spec 03 R51; 07 R137), the register operations (07 R107..R109), IX
(R112, R113), immediates and constants (R110, R111).
-/
namespace Sys2Proof.Machine

open Sys2Proof

/-! ## The operations on words -/

namespace Alu

/-- Bits [63:32] of the signed product (R108). -/
def mulhSigned (a b : Word) : Word := BitVec.ofInt 32 (a.toInt * b.toInt / 2 ^ 32)

/-- Bits [63:32] of the unsigned product (R108). -/
def mulhUnsigned (a b : Word) : Word := BitVec.ofNat 32 (a.toNat * b.toNat / 2 ^ 32)

/-- Left shift by the whole value of b (R108). -/
def shl (a b : Word) : Word := if 32 ≤ b.toNat then 0 else a <<< b.toNat

/-- Logical right shift by the whole value of b (R108). -/
def shr (a b : Word) : Word := if 32 ≤ b.toNat then 0 else a >>> b.toNat

/-- Arithmetic right shift (R108). -/
def sar (a b : Word) : Word := a.sshiftRight (min b.toNat 31)

def rotl (a b : Word) : Word := a.rotateLeft (b.toNat % 32)
def rotr (a b : Word) : Word := a.rotateRight (b.toNat % 32)
def minS (a b : Word) : Word := if a.toInt ≤ b.toInt then a else b
def minU (a b : Word) : Word := if a.toNat ≤ b.toNat then a else b
def maxS (a b : Word) : Word := if a.toInt ≥ b.toInt then a else b
def maxU (a b : Word) : Word := if a.toNat ≥ b.toNat then a else b

/-- The absolute value; the most negative value is its own (R112). -/
def abs (a : Word) : Word := if a.getLsbD 31 then 0 - a else a

/-- Leading zero bits (R112). -/
def clz (a : Word) : Word := if a = 0 then 32 else BitVec.ofNat 32 (31 - Nat.log2 a.toNat)

/-- One bits (R112). -/
def popc (a : Word) : Word := BitVec.ofNat 32 ((List.range 32).countP fun i => a.getLsbD i)

/-- Bits reversed (R112). -/
def brev (a : Word) : Word := a.reverse

/-- Bytes reversed (R112). -/
def bswap (a : Word) : Word :=
  a.extractLsb' 0 8 ++ a.extractLsb' 8 8 ++ a.extractLsb' 16 8 ++ a.extractLsb' 24 8

def sxb (a : Word) : Word := (a.setWidth 8).signExtend 32
def sxh (a : Word) : Word := (a.setWidth 16).signExtend 32
def zxb (a : Word) : Word := (a.setWidth 8).setWidth 32
def zxh (a : Word) : Word := (a.setWidth 16).setWidth 32

/-- LIH: bits [31:15] replaced (R111). -/
def lih (d : Word) (imm : BitVec 17) : Word := imm ++ d.extractLsb' 0 15

end Alu

/-- The latency of the integer class (R59). -/
def intLatency : Nat := 2

/-! ## Shared shapes -/

/-- d := op a b (R107). -/
def aluR (f : RF) (op : Word → Word → Word) : State → Host.Outcome State Fault Refusal :=
  runForm { g := f.g, sc := f.sc, reads := [f.a, f.b], names := [f.d] } fun c o s =>
    writeFixed c s [(f.d, op (o 0) (o 1))] intLatency f.t

/-- pair(D) := op pair(A) pair(B) (R109). -/
def aluR64 (f : RF) (op : DWord → DWord → DWord) : State → Host.Outcome State Fault Refusal :=
  runForm { g := f.g, sc := f.sc, reads := f.a.pair ++ f.b.pair, names := f.d.pair } fun c o s =>
    writeFixed c s (f.d.pairWrites (op (Word.pair (o 0) (o 1)) (Word.pair (o 2) (o 3)))) intLatency f.t

/-- d := op d a, in 16 bits (R51). -/
def aluH (f : H) (op : Word → Word → Word) : State → Host.Outcome State Fault Refusal :=
  runForm { len := 2, sc := f.sc, reads := [f.d.wide, f.a.wide] } fun c o s =>
    writeFixed c s [(f.d.wide, op (o 0) (o 1))] intLatency false

/-- d := op a (R112). -/
def aluX (f : XF) (op : Word → Word) : State → Host.Outcome State Fault Refusal :=
  runForm { g := f.g, sc := f.sc, reads := [f.a], names := [f.d] } fun c o s =>
    writeFixed c s [(f.d, op (o 0))] intLatency f.t

/-- d := op a sext(imm9) (R110). -/
def aluI (f : IF) (op : Word → Word → Word) : State → Host.Outcome State Fault Refusal :=
  runForm { g := f.g, sc := f.sc, reads := [f.a], names := [f.d] } fun c o s =>
    writeFixed c s [(f.d, op (o 0) (f.imm.signExtend 32))] intLatency false

/-- d := op a n (R110). -/
def aluS (f : SF) (op : Word → Word → Word) : State → Host.Outcome State Fault Refusal :=
  runForm { g := f.g, sc := f.sc, reads := [f.a], names := [f.d] } fun c o s =>
    writeFixed c s [(f.d, op (o 0) (BitVec.ofNat 32 f.n))] intLatency false

/-! ## 16-bit forms -/

/-- MOV d, a (R51): IX MOV. -/
def execMov16 (f : H) : State → Host.Outcome State Fault Refusal :=
  runForm { len := 2, sc := f.sc, reads := [f.a.wide], names := [f.d.wide] } fun c o s =>
    writeFixed c s [(f.d.wide, o 0)] intLatency false

/-- ADD d, a (R51). -/
def execAdd16 (f : H) : State → Host.Outcome State Fault Refusal := aluH f (· + ·)

/-- SUB d, a (R51). -/
def execSub16 (f : H) : State → Host.Outcome State Fault Refusal := aluH f (· - ·)

/-- AND d, a (R51). -/
def execAnd16 (f : H) : State → Host.Outcome State Fault Refusal := aluH f (· &&& ·)

/-- OR d, a (R51). -/
def execOr16 (f : H) : State → Host.Outcome State Fault Refusal := aluH f (· ||| ·)

/-- XOR d, a (R51). -/
def execXor16 (f : H) : State → Host.Outcome State Fault Refusal := aluH f (· ^^^ ·)

/-- SHL d, a (R51). -/
def execShl16 (f : H) : State → Host.Outcome State Fault Refusal := aluH f Alu.shl

/-- SHR d, a (R51). -/
def execShr16 (f : H) : State → Host.Outcome State Fault Refusal := aluH f Alu.shr

/-- ADDI d, imm5 (R51). -/
def execAddi16 (f : HI) : State → Host.Outcome State Fault Refusal :=
  runForm { len := 2, sc := f.sc, reads := [f.d.wide] } fun c o s =>
    writeFixed c s [(f.d.wide, o 0 + f.imm.signExtend 32)] intLatency false

/-! ## Register operations (R108) -/

/-- ADD (R108). -/
def execAdd (f : RF) : State → Host.Outcome State Fault Refusal := aluR f (· + ·)

/-- SUB (R108). -/
def execSub (f : RF) : State → Host.Outcome State Fault Refusal := aluR f (· - ·)

/-- MUL (R108). -/
def execMul (f : RF) : State → Host.Outcome State Fault Refusal := aluR f (· * ·)

/-- MULH (R108). -/
def execMulh (f : RF) : State → Host.Outcome State Fault Refusal := aluR f Alu.mulhSigned

/-- MULH.n (R108). -/
def execMulhN (f : RF) : State → Host.Outcome State Fault Refusal := aluR f Alu.mulhUnsigned

/-- AND (R108). -/
def execAnd (f : RF) : State → Host.Outcome State Fault Refusal := aluR f (· &&& ·)

/-- OR (R108). -/
def execOr (f : RF) : State → Host.Outcome State Fault Refusal := aluR f (· ||| ·)

/-- XOR (R108). -/
def execXor (f : RF) : State → Host.Outcome State Fault Refusal := aluR f (· ^^^ ·)

/-- ANDN (R108). -/
def execAndn (f : RF) : State → Host.Outcome State Fault Refusal := aluR f (fun a b => a &&& ~~~b)

/-- SHL (R108). -/
def execShl (f : RF) : State → Host.Outcome State Fault Refusal := aluR f Alu.shl

/-- SHR (R108). -/
def execShr (f : RF) : State → Host.Outcome State Fault Refusal := aluR f Alu.shr

/-- SHR.a (R108). -/
def execShrA (f : RF) : State → Host.Outcome State Fault Refusal := aluR f Alu.sar

/-- ROT (R108). -/
def execRot (f : RF) : State → Host.Outcome State Fault Refusal := aluR f Alu.rotl

/-- ROT.r (R108). -/
def execRotR (f : RF) : State → Host.Outcome State Fault Refusal := aluR f Alu.rotr

/-- MIN (R108). -/
def execMin (f : RF) : State → Host.Outcome State Fault Refusal := aluR f Alu.minS

/-- MIN.n (R108). -/
def execMinN (f : RF) : State → Host.Outcome State Fault Refusal := aluR f Alu.minU

/-- MAX (R108). -/
def execMax (f : RF) : State → Host.Outcome State Fault Refusal := aluR f Alu.maxS

/-- MAX.n (R108). -/
def execMaxN (f : RF) : State → Host.Outcome State Fault Refusal := aluR f Alu.maxU

/-- ADD64 (R109). -/
def execAdd64 (f : RF) : State → Host.Outcome State Fault Refusal := aluR64 f (· + ·)

/-- SUB64 (R109). -/
def execSub64 (f : RF) : State → Host.Outcome State Fault Refusal := aluR64 f (· - ·)

/-! ## IX (R112) -/

/-- MOV (R112). -/
def execMov (f : XF) : State → Host.Outcome State Fault Refusal := aluX f id

/-- NOT (R112). -/
def execNot (f : XF) : State → Host.Outcome State Fault Refusal := aluX f (~~~ ·)

/-- NEG (R112). -/
def execNeg (f : XF) : State → Host.Outcome State Fault Refusal := aluX f (0 - ·)

/-- ABS (R112). -/
def execAbs (f : XF) : State → Host.Outcome State Fault Refusal := aluX f Alu.abs

/-- CLZ (R112). -/
def execClz (f : XF) : State → Host.Outcome State Fault Refusal := aluX f Alu.clz

/-- POPC (R112). -/
def execPopc (f : XF) : State → Host.Outcome State Fault Refusal := aluX f Alu.popc

/-- BREV (R112). -/
def execBrev (f : XF) : State → Host.Outcome State Fault Refusal := aluX f Alu.brev

/-- BSWAP (R112). -/
def execBswap (f : XF) : State → Host.Outcome State Fault Refusal := aluX f Alu.bswap

/-- SXB (R112). -/
def execSxb (f : XF) : State → Host.Outcome State Fault Refusal := aluX f Alu.sxb

/-- SXH (R112). -/
def execSxh (f : XF) : State → Host.Outcome State Fault Refusal := aluX f Alu.sxh

/-- ZXB (R112). -/
def execZxb (f : XF) : State → Host.Outcome State Fault Refusal := aluX f Alu.zxb

/-- ZXH (R112). -/
def execZxh (f : XF) : State → Host.Outcome State Fault Refusal := aluX f Alu.zxh

/-- MOV64 (R112). -/
def execMov64 (f : XF) : State → Host.Outcome State Fault Refusal :=
  runForm { g := f.g, sc := f.sc, reads := f.a.pair, names := f.d.pair } fun c o s =>
    writeFixed c s [(f.d, o 0), (f.d.succ 1, o 1)] intLatency f.t

/-- SEL: a if p0, else the prior value of d, written again (R113). -/
def execSel (f : XF) : State → Host.Outcome State Fault Refusal :=
  runForm { g := f.g, sc := f.sc, reads := [f.a, f.d], preds := true } fun c o s =>
    writeFixed c s [(f.d, if c.t.p 0 then o 0 else o 1)] intLatency f.t

/-! ## Immediates (R110) and constants (R111) -/

/-- ADDI (R110). -/
def execAddi (f : IF) : State → Host.Outcome State Fault Refusal := aluI f (· + ·)

/-- ANDI (R110). -/
def execAndi (f : IF) : State → Host.Outcome State Fault Refusal := aluI f (· &&& ·)

/-- ORI (R110). -/
def execOri (f : IF) : State → Host.Outcome State Fault Refusal := aluI f (· ||| ·)

/-- XORI (R110). -/
def execXori (f : IF) : State → Host.Outcome State Fault Refusal := aluI f (· ^^^ ·)

/-- SHLI (R110). -/
def execShli (f : SF) : State → Host.Outcome State Fault Refusal := aluS f Alu.shl

/-- SHRI (R110). -/
def execShri (f : SF) : State → Host.Outcome State Fault Refusal := aluS f Alu.shr

/-- SHRI.a (R110). -/
def execShriA (f : SF) : State → Host.Outcome State Fault Refusal := aluS f Alu.sar

/-- LIL: d := sext(imm17) (R111). -/
def execLil (f : WF) : State → Host.Outcome State Fault Refusal :=
  runForm { sc := f.sc, names := [f.d] } fun c _ s =>
    writeFixed c s [(f.d, f.imm.signExtend 32)] intLatency false

/-- LIH: d[31:15] := imm17, d[14:0] kept; it reads d (R111). -/
def execLih (f : WF) : State → Host.Outcome State Fault Refusal :=
  runForm { sc := f.sc, reads := [f.d] } fun c o s =>
    writeFixed c s [(f.d, Alu.lih (o 0) f.imm)] intLatency false

end Sys2Proof.Machine
end

