-- ==== Sys2Proof/Machine/FloatOps.lean ====
section
/-!
DEFINITION. Floating-point instructions (spec 09 R138..R148) and the 16-bit floating-point forms (03 R51).
-/
namespace Sys2Proof.Machine

open Sys2Proof

/-- Latencies of R59. -/
def fpLatency : Nat := 4
def dpLatency : Nat := 8
def funLatency : Nat := 12

/-- The rounding mode of the executing thread (R91). -/
def Ctx.mode (c : Ctx) : Rounding := roundingOf c.t.fcr

/-- A 32-bit result with flags as a register write. -/
def wordResult (d : Reg) (r : Nat × FpFlags) : List (Reg × Word) := [(d, BitVec.ofNat 32 r.1)]

/-- A 64-bit result with flags as register writes. -/
def pairResult (d : Reg) (r : Nat × FpFlags) : List (Reg × Word) := d.pairWrites (BitVec.ofNat 64 r.1)

/-! ## Shared shapes -/

/-- FP32: d := op a b (R140). -/
def fltR (f : FF) (op : Rounding → Nat → Nat → Nat × FpFlags) : State → Host.Outcome State Fault Refusal :=
  runForm { g := f.g, sc := f.sc, reads := [f.a, f.b], names := [f.d] } fun c o s =>
    let r := op c.mode (o 0).toNat (o 1).toNat
    writeFlagged c s (wordResult f.d r) fpLatency f.t f.q r.2

/-- FP32 with d as third operand: d := op a b d (R140). -/
def fltR3 (f : FF) (op : Rounding → Nat → Nat → Nat → Nat × FpFlags) : State → Host.Outcome State Fault Refusal :=
  runForm { g := f.g, sc := f.sc, reads := [f.a, f.b, f.d] } fun c o s =>
    let r := op c.mode (o 0).toNat (o 1).toNat (o 2).toNat
    writeFlagged c s (wordResult f.d r) fpLatency f.t f.q r.2

/-- FP32 in 16 bits: d := op d a (R51). -/
def fltH (f : H) (op : Rounding → Nat → Nat → Nat × FpFlags) : State → Host.Outcome State Fault Refusal :=
  runForm { len := 2, sc := f.sc, reads := [f.d.wide, f.a.wide] } fun c o s =>
    let r := op c.mode (o 0).toNat (o 1).toNat
    writeFlagged c s (wordResult f.d.wide r) fpLatency false false r.2

/-- The value of the pair of operands k and k + 1. -/
def pairNat (o : Nat → Word) (k : Nat) : Nat := (Word.pair (o k) (o (k + 1))).toNat

/-- FP64: pair(D) := op pair(A) pair(B) (R140). -/
def dblR (f : FF) (op : Rounding → Nat → Nat → Nat × FpFlags) : State → Host.Outcome State Fault Refusal :=
  runForm { g := f.g, sc := f.sc, reads := f.a.pair ++ f.b.pair, names := f.d.pair } fun c o s =>
    let r := op c.mode (pairNat o 0) (pairNat o 2)
    writeFlagged c s (pairResult f.d r) dpLatency f.t f.q r.2

/-- FP64 with pair(D) as third operand (R140). -/
def dblR3 (f : FF) (op : Rounding → Nat → Nat → Nat → Nat × FpFlags) : State → Host.Outcome State Fault Refusal :=
  runForm { g := f.g, sc := f.sc, reads := f.a.pair ++ f.b.pair ++ f.d.pair } fun c o s =>
    let r := op c.mode (pairNat o 0) (pairNat o 2) (pairNat o 4)
    writeFlagged c s (pairResult f.d r) dpLatency f.t f.q r.2

/-- FX: d := op a, of a latency (R143). -/
def fltX (f : XFF) (latency : Nat) (op : Rounding → Nat → Nat × FpFlags) : State → Host.Outcome State Fault Refusal :=
  runForm { g := f.g, sc := f.sc, reads := [f.a], names := [f.d] } fun c o s =>
    let r := op c.mode (o 0).toNat
    writeFlagged c s (wordResult f.d r) latency f.t f.q r.2

/-- DX: pair(D) := op pair(A), of a latency (R143). -/
def dblX (f : XFF) (latency : Nat) (op : Rounding → Nat → Nat × FpFlags) : State → Host.Outcome State Fault Refusal :=
  runForm { g := f.g, sc := f.sc, reads := f.a.pair, names := f.d.pair } fun c o s =>
    let r := op c.mode (pairNat o 0)
    writeFlagged c s (pairResult f.d r) latency f.t f.q r.2

/-! ## Packed elements (R86) -/

/-- Element i of b bits. -/
def element (x : Word) (b i : Nat) : Nat := field x.toNat (b * i) b

/-- Two packed 16-bit results with their flags together. -/
def packHalves (r0 r1 : Nat × FpFlags) : Nat × FpFlags := (r0.1 % 65536 + 65536 * (r1.1 % 65536), r0.2 ||| r1.2)

/-- Elementwise on two packed elements (R147). -/
def half2 (op : Nat → Nat → Nat × FpFlags) (x y : Word) : Nat × FpFlags :=
  packHalves (op (element x 16 0) (element y 16 0)) (op (element x 16 1) (element y 16 1))

/-- Elementwise on three packed operands (R147). -/
def half3 (op : Nat → Nat → Nat → Nat × FpFlags) (x y z : Word) : Nat × FpFlags :=
  packHalves (op (element x 16 0) (element y 16 0) (element z 16 0)) (op (element x 16 1) (element y 16 1) (element z 16 1))

/-- HADD2 and HMUL2 (R147). -/
def packed2 (f : FF) (op : Rounding → Nat → Nat → Nat × FpFlags) : State → Host.Outcome State Fault Refusal :=
  runForm { g := f.g, sc := f.sc, reads := [f.a, f.b], names := [f.d] } fun c o s =>
    let r := half2 (op c.mode) (o 0) (o 1)
    writeFlagged c s (wordResult f.d r) fpLatency f.t f.q r.2

/-- HFMA2: d is addend and destination (R147). -/
def packed3 (f : FF) (op : Rounding → Nat → Nat → Nat → Nat × FpFlags) : State → Host.Outcome State Fault Refusal :=
  runForm { g := f.g, sc := f.sc, reads := [f.a, f.b, f.d] } fun c o s =>
    let r := half3 (op c.mode) (o 0) (o 1) (o 2)
    writeFlagged c s (wordResult f.d r) fpLatency f.t f.q r.2

/-- The four INT8 products of DP4 added to d (R148). -/
def dp4Int (a b d : Word) : Word :=
  BitVec.ofInt 32 <| (List.range 4).foldl (fun n i =>
    n + (BitVec.ofNat 8 (element a 8 i)).toInt * (BitVec.ofNat 8 (element b 8 i)).toInt) d.toInt

/-- DP4.e4: d and four E4M3 products summed exactly, rounded once (R104, R148). -/
def dp4E4Sum (mode : Rounding) (a b d : Word) : Nat × FpFlags :=
  let ps := (List.range 4).map fun i =>
    Fp.mul (Fp.decode Fp.e4m3 (element a 8 i)) (Fp.decode Fp.e4m3 (element b 8 i))
  let z := Fp.decode Fp.fp32 d.toNat
  Fp.sumRound Fp.fp32 mode (z :: ps.map (·.1)) (ps.foldl (fun fl p => fl ||| p.2) (Fp.sigFlag [z]))

/-! ## 16-bit forms -/

/-- FADD d, a (R51). -/
def execFadd16 (f : H) : State → Host.Outcome State Fault Refusal := fltH f (Fp.add Fp.fp32)

/-- FSUB d, a (R51). -/
def execFsub16 (f : H) : State → Host.Outcome State Fault Refusal := fltH f (Fp.sub Fp.fp32)

/-- FMUL d, a (R51). -/
def execFmul16 (f : H) : State → Host.Outcome State Fault Refusal := fltH f (Fp.times Fp.fp32)

/-- FMAX d, a (R51). -/
def execFmax16 (f : H) : State → Host.Outcome State Fault Refusal := fltH f (fun _ => Fp.maximum Fp.fp32)

/-- FMIN d, a (R51). -/
def execFmin16 (f : H) : State → Host.Outcome State Fault Refusal := fltH f (fun _ => Fp.minimum Fp.fp32)

/-- FCMP.LT d, a: push (d < a) (R51, R142). -/
def execFcmpLt16 (f : H) : State → Host.Outcome State Fault Refusal :=
  runForm { len := 2, sc := f.sc, reads := [f.d.wide, f.a.wide], preds := true } fun c o s =>
    let r := Fp.compare Fp.fp32 .lt (o 0).toNat (o 1).toNat
    .done (c.on s fun t => { t.push r.1 with fflags := addFlags t.fflags false r.2 })

/-! ## Comparisons (R142) -/

/-- FCMP: push the condition (R142). -/
def execFcmp (f : FCmpF) : State → Host.Outcome State Fault Refusal :=
  runForm { g := f.g, sc := f.sc, reads := [f.a, f.b], preds := true } fun c o s =>
    let r := Fp.compare Fp.fp32 f.c (o 0).toNat (o 1).toNat
    .done (c.on s fun t => { t.push r.1 with fflags := addFlags t.fflags f.q r.2 })

/-- FCMP.d (R142). -/
def execFcmpD (f : FCmpF) : State → Host.Outcome State Fault Refusal :=
  runForm { g := f.g, sc := f.sc, reads := f.a.pair ++ f.b.pair, preds := true } fun c o s =>
    let r := Fp.compare Fp.fp64 f.c (pairNat o 0) (pairNat o 2)
    .done (c.on s fun t => { t.push r.1 with fflags := addFlags t.fflags f.q r.2 })

/-! ## FP32 and FP64 arithmetic (R140, R141) -/

/-- FADD (R140). -/
def execFadd (f : FF) : State → Host.Outcome State Fault Refusal := fltR f (Fp.add Fp.fp32)

/-- FSUB (R140). -/
def execFsub (f : FF) : State → Host.Outcome State Fault Refusal := fltR f (Fp.sub Fp.fp32)

/-- FMUL (R140). -/
def execFmul (f : FF) : State → Host.Outcome State Fault Refusal := fltR f (Fp.times Fp.fp32)

/-- FFMA (R140). -/
def execFfma (f : FF) : State → Host.Outcome State Fault Refusal := fltR3 f (Fp.fma Fp.fp32)

/-- FMIN (R141). -/
def execFmin (f : FF) : State → Host.Outcome State Fault Refusal := fltR f (fun _ => Fp.minimum Fp.fp32)

/-- FMIN.d (R141). -/
def execFminD (f : FF) : State → Host.Outcome State Fault Refusal := dblR f (fun _ => Fp.minimum Fp.fp64)

/-- FMAX (R141). -/
def execFmax (f : FF) : State → Host.Outcome State Fault Refusal := fltR f (fun _ => Fp.maximum Fp.fp32)

/-- FMAX.d (R141). -/
def execFmaxD (f : FF) : State → Host.Outcome State Fault Refusal := dblR f (fun _ => Fp.maximum Fp.fp64)

/-- DADD (R140). -/
def execDadd (f : FF) : State → Host.Outcome State Fault Refusal := dblR f (Fp.add Fp.fp64)

/-- DSUB (R140). -/
def execDsub (f : FF) : State → Host.Outcome State Fault Refusal := dblR f (Fp.sub Fp.fp64)

/-- DMUL (R140). -/
def execDmul (f : FF) : State → Host.Outcome State Fault Refusal := dblR f (Fp.times Fp.fp64)

/-- DFMA (R140). -/
def execDfma (f : FF) : State → Host.Outcome State Fault Refusal := dblR3 f (Fp.fma Fp.fp64)

/-! ## Unary operations (R143..R145) -/

/-- FNEG (R143). -/
def execFneg (f : XFF) : State → Host.Outcome State Fault Refusal := fltX f fpLatency (fun _ => Fp.negation Fp.fp32)

/-- FABS (R143). -/
def execFabs (f : XFF) : State → Host.Outcome State Fault Refusal := fltX f fpLatency (fun _ => Fp.absolute Fp.fp32)

/-- FSQRT (R143). -/
def execFsqrt (f : XFF) : State → Host.Outcome State Fault Refusal := fltX f funLatency (Fp.sqrt Fp.fp32)

/-- FRCP (R143). -/
def execFrcp (f : XFF) : State → Host.Outcome State Fault Refusal := fltX f funLatency (Fp.recip Fp.fp32)

/-- FRSQ (R143). -/
def execFrsq (f : XFF) : State → Host.Outcome State Fault Refusal := fltX f funLatency (Fp.rsqrt Fp.fp32)

/-- FEX2 (R143). -/
def execFex2 (f : XFF) : State → Host.Outcome State Fault Refusal := fltX f funLatency (Fp.exp2 Fp.fp32)

/-- FLG2 (R143). -/
def execFlg2 (f : XFF) : State → Host.Outcome State Fault Refusal := fltX f funLatency (Fp.log2 Fp.fp32)

/-- FFLOOR (R143). -/
def execFfloor (f : XFF) : State → Host.Outcome State Fault Refusal := fltX f fpLatency (fun _ => Fp.integral Fp.fp32 .rd false)

/-- FCEIL (R143). -/
def execFceil (f : XFF) : State → Host.Outcome State Fault Refusal := fltX f fpLatency (fun _ => Fp.integral Fp.fp32 .ru false)

/-- FTRUNC (R143). -/
def execFtrunc (f : XFF) : State → Host.Outcome State Fault Refusal := fltX f fpLatency (fun _ => Fp.integral Fp.fp32 .rz false)

/-- FRINT (R143). -/
def execFrint (f : XFF) : State → Host.Outcome State Fault Refusal := fltX f fpLatency (fun m => Fp.integral Fp.fp32 m true)

/-- FCLASS (R145). -/
def execFclass (f : XFF) : State → Host.Outcome State Fault Refusal := fltX f fpLatency (fun _ x => ((Fp.classMask Fp.fp32 x).toNat, 0))

/-- FSAT (R143). -/
def execFsat (f : XFF) : State → Host.Outcome State Fault Refusal := fltX f fpLatency (fun _ => Fp.saturate Fp.fp32)

/-- DNEG (R143). -/
def execDneg (f : XFF) : State → Host.Outcome State Fault Refusal := dblX f dpLatency (fun _ => Fp.negation Fp.fp64)

/-- DABS (R143). -/
def execDabs (f : XFF) : State → Host.Outcome State Fault Refusal := dblX f dpLatency (fun _ => Fp.absolute Fp.fp64)

/-- DSQRT (R143). -/
def execDsqrt (f : XFF) : State → Host.Outcome State Fault Refusal := dblX f funLatency (Fp.sqrt Fp.fp64)

/-- DRCP (R143). -/
def execDrcp (f : XFF) : State → Host.Outcome State Fault Refusal := dblX f funLatency (Fp.recip Fp.fp64)

/-- DFLOOR (R143). -/
def execDfloor (f : XFF) : State → Host.Outcome State Fault Refusal := dblX f dpLatency (fun _ => Fp.integral Fp.fp64 .rd false)

/-- DCEIL (R143). -/
def execDceil (f : XFF) : State → Host.Outcome State Fault Refusal := dblX f dpLatency (fun _ => Fp.integral Fp.fp64 .ru false)

/-- DTRUNC (R143). -/
def execDtrunc (f : XFF) : State → Host.Outcome State Fault Refusal := dblX f dpLatency (fun _ => Fp.integral Fp.fp64 .rz false)

/-- DRINT (R143). -/
def execDrint (f : XFF) : State → Host.Outcome State Fault Refusal := dblX f dpLatency (fun m => Fp.integral Fp.fp64 m true)

/-- DCLASS writes the single register d (R143, R145). -/
def execDclass (f : XFF) : State → Host.Outcome State Fault Refusal :=
  runForm { g := f.g, sc := f.sc, reads := f.a.pair, names := [f.d] } fun c o s =>
    writeFixed c s [(f.d, Fp.classMask Fp.fp64 (pairNat o 0))] dpLatency f.t

/-- DMOV: the 64 bits unchanged (R143). -/
def execDmov (f : XFF) : State → Host.Outcome State Fault Refusal :=
  runForm { g := f.g, sc := f.sc, reads := f.a.pair, names := f.d.pair } fun c o s =>
    writeFixed c s [(f.d, o 0), (f.d.succ 1, o 1)] dpLatency f.t

/-! ## Conversions (R146) -/

namespace Cvt

/-- The number of source registers (R73). -/
def sources : CvtCode → Nat
  | .f32f64 | .i32f64 | .f16x2 | .bf16x2 => 2
  | .e4x4 | .e5x4 | .i8x4 => 4
  | .e2x8 => 8
  | _ => 1

/-- Whether the destination is a pair (R73). -/
def wide : CvtCode → Bool
  | .f64f32 | .f64i32 => true
  | _ => false

/-- A packed conversion: element i from operand i, b bits each, the flags together (R95). -/
def packed (n b : Nat) (op : Nat → Nat × FpFlags) (o : Nat → Word) : Nat × FpFlags :=
  (List.range n).foldl (fun acc i =>
    let r := op (o i).toNat
    (acc.1 + r.1 % 2 ^ b * 2 ^ (b * i), acc.2 ||| r.2)) (0, 0)

/-- A result that is a word. -/
def ofWord (r : Word × FpFlags) : Nat × FpFlags := (r.1.toNat, r.2)

/-- The result of a conversion and its flags (R95, R146). -/
def result (c : CvtCode) (mode : Rounding) (o : Nat → Word) : Nat × FpFlags :=
  let x := (o 0).toNat
  match c with
  | .f32f64 => Fp.convert Fp.fp64 Fp.fp32 mode (pairNat o 0)
  | .f64f32 => Fp.convert Fp.fp32 Fp.fp64 mode x
  | .f16f32 => Fp.convert Fp.fp32 Fp.fp16 mode x
  | .f32f16 => Fp.convert Fp.fp16 Fp.fp32 mode (x % 65536)
  | .bf16f32 => Fp.convert Fp.fp32 Fp.bf16 mode x
  | .f32bf16 => Fp.convert Fp.bf16 Fp.fp32 mode (x % 65536)
  | .e4f32 => Fp.convert Fp.fp32 Fp.e4m3 mode x
  | .f32e4 => Fp.convert Fp.e4m3 Fp.fp32 mode (x % 256)
  | .e5f32 => Fp.convert Fp.fp32 Fp.e5m2 mode x
  | .f32e5 => Fp.convert Fp.e5m2 Fp.fp32 mode (x % 256)
  | .e2f32 => Fp.convert Fp.fp32 Fp.e2m1 .rne x
  | .f32e2 => Fp.convert Fp.e2m1 Fp.fp32 mode (x % 16)
  | .i32f32 => ofWord (Fp.toInt32 Fp.fp32 .rz true x)
  | .f32i32 => Fp.ofInteger Fp.fp32 mode (o 0).toInt
  | .n32f32 => ofWord (Fp.toInt32 Fp.fp32 mode false x)
  | .f32n32 => Fp.ofInteger Fp.fp32 mode x
  | .i32f64 => ofWord (Fp.toInt32 Fp.fp64 .rz true (pairNat o 0))
  | .f64i32 => Fp.ofInteger Fp.fp64 mode (o 0).toInt
  | .f16x2 => packed 2 16 (Fp.convert Fp.fp32 Fp.fp16 mode) o
  | .bf16x2 => packed 2 16 (Fp.convert Fp.fp32 Fp.bf16 mode) o
  | .e4x4 => packed 4 8 (Fp.convert Fp.fp32 Fp.e4m3 mode) o
  | .e5x4 => packed 4 8 (Fp.convert Fp.fp32 Fp.e5m2 mode) o
  | .e2x8 => packed 8 4 (Fp.convert Fp.fp32 Fp.e2m1 .rne) o
  | .i8x4 => packed 4 8 (fun x => ((Fp.clampInt8 (BitVec.ofNat 32 x)).toNat, 0)) o

end Cvt

/-- The latency of conversions (R59). -/
def cvtLatency : Nat := 4

/-- CVT (R146). -/
def execCvt (f : CvtF) : State → Host.Outcome State Fault Refusal :=
  runForm
    { g := f.g, sc := f.sc, reads := f.a.group (Cvt.sources f.c), names := if Cvt.wide f.c then f.d.pair else [f.d] }
    fun c o s =>
      let r := Cvt.result f.c c.mode o
      writeFlagged c s (if Cvt.wide f.c then pairResult f.d r else wordResult f.d r) cvtLatency f.t f.q r.2

/-! ## Packed half precision and dot products (R147, R148) -/

/-- HADD2 (R147). -/
def execHadd2 (f : FF) : State → Host.Outcome State Fault Refusal := packed2 f (Fp.add Fp.fp16)

/-- HADD2.bf (R147). -/
def execHadd2Bf (f : FF) : State → Host.Outcome State Fault Refusal := packed2 f (Fp.add Fp.bf16)

/-- HMUL2 (R147). -/
def execHmul2 (f : FF) : State → Host.Outcome State Fault Refusal := packed2 f (Fp.times Fp.fp16)

/-- HMUL2.bf (R147). -/
def execHmul2Bf (f : FF) : State → Host.Outcome State Fault Refusal := packed2 f (Fp.times Fp.bf16)

/-- HFMA2 (R147). -/
def execHfma2 (f : FF) : State → Host.Outcome State Fault Refusal := packed3 f (Fp.fma Fp.fp16)

/-- HFMA2.bf (R147). -/
def execHfma2Bf (f : FF) : State → Host.Outcome State Fault Refusal := packed3 f (Fp.fma Fp.bf16)

/-- DP4 (R148): no flags. -/
def execDp4 (f : FF) : State → Host.Outcome State Fault Refusal :=
  runForm { g := f.g, sc := f.sc, reads := [f.a, f.b, f.d] } fun c o s =>
    writeFixed c s [(f.d, dp4Int (o 0) (o 1) (o 2))] fpLatency f.t

/-- DP4.e4 (R148). -/
def execDp4E4 (f : FF) : State → Host.Outcome State Fault Refusal :=
  runForm { g := f.g, sc := f.sc, reads := [f.a, f.b, f.d] } fun c o s =>
    let r := dp4E4Sum c.mode (o 0) (o 1) (o 2)
    writeFlagged c s (wordResult f.d r) fpLatency f.t f.q r.2

end Sys2Proof.Machine
end

