-- ==== Sys2Proof/Machine/Collective.lean ====
section
/-!
DEFINITION. Cross-lane instructions and group collectives (spec 09 R149..R160; 07 R130..R132, R135; 05 R103; 01 R24, R37):
arriving, completing, mismatch, and the sixteen instructions of XL with XACQ, XREL and GBAR.
-/
namespace Sys2Proof.Machine

open Sys2Proof

/-! ## Who takes part -/

/-- A thread that has not exited. -/
def Thread.live (t : Thread) : Bool := !decide (t.status = .exited)

/-- The live threads of a wave. -/
def State.liveOfWave (s : State) (uid : Nat) : List Thread := s.threads.filter fun t => t.live && t.id.wave == uid

/-- The live threads of a group, by its wave's width. -/
def State.liveOfGroup (s : State) (w : Wave) (g : Nat) : List Thread :=
  s.threads.filter fun t => t.live && t.id.wave == w.uid && w.groupOf t.id.idx == g

/-- The live threads of a launch's present step (R135). -/
def State.liveOfLaunch (s : State) (l : Launch) : List Thread :=
  s.threads.filter fun t => t.live && s.waves.any fun w => w.uid == t.id.wave && w.launch == l.id && w.step == l.step

/-- A waiting thread's arrival. -/
def Thread.arrival? (t : Thread) : Option Arrival :=
  match t.wait with
  | .arrived x => some x
  | _ => none

/-- The lane of a thread in its group. -/
def Wave.laneOf (w : Wave) (idx : Nat) : Nat := idx % w.width

/-- The participants of a cross-lane instruction or collective that thread t of wave w waits at (R130, R135, R150, R157,
R158): live threads only. -/
def State.participants (s : State) (w : Wave) (l : Launch) (t : Thread) (x : Arrival) : List Thread :=
  match x.instr with
  | .gsync _ =>
    (s.liveOfGroup w (w.groupOf t.id.idx)).filter fun u => x.a.getLsbD (w.laneOf u.id.idx)
  | .cbar _ => (s.household w).flatMap fun y => s.liveOfWave y.uid
  | .gbar _ => s.liveOfLaunch l
  | _ => s.liveOfGroup w (w.groupOf t.id.idx)

/-- Another thread has arrived at the same instance: the same offset and, for GSYNC, the same mask (R157). Lanes that fetched different
instructions there, the code having changed in between, are at no common instance: DESIGN CHOICE (log 87). -/
def sameInstance (t : Thread) (x : Arrival) (u : Thread) : Bool :=
  match u.arrival? with
  | some y =>
    u.pc == t.pc && y.instr == x.instr &&
      (match x.instr with
        | .gsync _ => y.a == x.a
        | _ => true)
  | none => false

/-! ## Results (R153..R156) -/

/-- A lane's value in an instance. -/
structure Lane where
  lane : Nat
  a : Word
  c : Word
  deriving DecidableEq, Repr

/-- The value of a lane that takes part. -/
def laneValue (ls : List Lane) (n : Nat) : Option Word := (ls.find? fun l => l.lane == n).map (·.a)

/-- A shuffle (R154): the source lane as a mathematical integer, the lane's own value outside the group, 0 from an absent
lane. -/
def shuffled (ls : List Lane) (width : Nat) (l : Lane) (src : Int) : Word :=
  if src < 0 || (width : Int) ≤ src then l.a else (laneValue ls src.toNat).getD 0

/-- RFADD's tree over lane values, absent lanes contributing nothing (R103): the value and the flags. -/
def rfaddTree : Nat → List (Option Nat) → Option Nat × FpFlags
  | 0, vs => (vs.headD none, 0)
  | k + 1, vs =>
    let n := 2 ^ k
    let left := rfaddTree k (vs.take n)
    let right := rfaddTree k (vs.drop n)
    match left.1, right.1 with
    | none, b => (b, left.2 ||| right.2)
    | a, none => (a, left.2 ||| right.2)
    | some a, some b =>
      let r := Fp.add Fp.fp32 .rne a b
      (some r.1, left.2 ||| right.2 ||| r.2)

/-- What completion gives one lane: register writes, a push, flags. -/
structure LaneResult where
  writes : List (Reg × Word) := []
  push : Option Bool := none
  flags : FpFlags := 0

/-- RFADD over the participants (R103, R155): a lone NaN operand still gives the canonical NaN, and a signalling NaN raises
invalid (R153). -/
def rfaddResult (ls : List Lane) (width : Nat) : Word × FpFlags :=
  let r := rfaddTree (Nat.log2 width) ((List.range width).map fun i => (laneValue ls i).map (·.toNat))
  let v := r.1.getD 0
  let sig := Fp.sigFlag (ls.map fun l => Fp.decode Fp.fp32 l.a.toNat)
  (BitVec.ofNat 32 (if (Fp.decode Fp.fp32 v).isNan then Fp.fp32.nan else v), r.2 ||| sig)

/-- The result of an XL operation in a lane (R153..R156). -/
def laneResult (i : Instr) (ls : List Lane) (width : Nat) (l : Lane) : LaneResult :=
  let sum (xs : List Lane) : Word := xs.foldl (fun n x => n + x.a) 0
  let first := ls.headD l
  match i with
  | .shflIdx f => { writes := [(f.d, shuffled ls width l (l.c.toNat % width : Nat))] }
  | .shflXor f => { writes := [(f.d, shuffled ls width l (l.lane ^^^ (l.c.toNat % width) : Nat))] }
  | .shflUp f => { writes := [(f.d, shuffled ls width l ((l.lane : Int) - l.c.toNat))] }
  | .shflDown f => { writes := [(f.d, shuffled ls width l ((l.lane : Int) + l.c.toNat))] }
  | .voteAll _ => { push := some (ls.all fun x => x.a != 0) }
  | .voteAny _ => { push := some (ls.any fun x => x.a != 0) }
  | .ballot f =>
    let m := ls.foldl (fun n x => if x.a = 0 then n else n + 2 ^ x.lane) 0
    { writes := f.d.pairWrites (BitVec.ofNat 64 m) }
  | .radd f => { writes := [(f.d, sum ls)] }
  | .rfadd f =>
    let r := rfaddResult ls width
    { writes := [(f.d, r.1)], flags := r.2 }
  | .rmin f => { writes := [(f.d, ls.foldl (fun m x => Alu.minS m x.a) first.a)] }
  | .rmax f => { writes := [(f.d, ls.foldl (fun m x => Alu.maxS m x.a) first.a)] }
  | .scan f => { writes := [(f.d, sum (ls.filter fun x => decide (x.lane ≤ l.lane)))] }
  | .elect f =>
    let e := ls.foldl (fun m x => min m x.lane) l.lane
    { writes := [(f.d, BitVec.ofNat 32 e)], push := some (l.lane == e) }
  | _ => {}

/-- The stall count of a cross-lane instruction or collective. -/
def collectiveStall : Instr → Nat
  | .shflIdx f => f.sc
  | .shflXor f => f.sc
  | .shflUp f => f.sc
  | .shflDown f => f.sc
  | .voteAll f => f.sc
  | .voteAny f => f.sc
  | .ballot f => f.sc
  | .radd f => f.sc
  | .rfadd f => f.sc
  | .rmin f => f.sc
  | .rmax f => f.sc
  | .scan f => f.sc
  | .elect f => f.sc
  | .gsync f => f.sc
  | .cbar f => f.sc
  | .xacq f => f.sc
  | .xrel f => f.sc
  | .gbar f => f.sc
  | _ => 0

/-! ## Completion -/

/-- A participant finishes: its results with the STACK check of R150, or a trap at the instruction. -/
def State.finishLane (s : State) (id : ThreadId) (i : Instr) (r : LaneResult) : State :=
  match s.ctx id with
  | none => s
  | some c =>
    if c.t.belowLimit r.writes then s.trap c .stack (c.t.stackAfter r.writes)
    else
      s.mapThread id fun t =>
        let u := t.putBanks r.writes
        let u :=
          match r.push with
          | some b => u.push b
          | none => u
        { u with fflags := addFlags u.fflags false r.flags }.advance 4 (collectiveStall i) s.now

/-- Extended blocks take 128 bytes a thread from the core's pool of 128 KiB (R37). -/
def blockBytes (w : Wave) : Nat := 128 * w.width

/-- The pool bytes in use on a core. -/
def State.poolUsed (s : State) (c : CoreId) : Nat :=
  s.groups.foldl (fun n g =>
    match s.wave? g.wave with
    | some w => if g.ext && w.status == .resident && w.coreId == c then n + blockBytes w else n
    | none => n) 0

/-- Registers g32..g63 set to 0. -/
def clearExtended (regs : Vector Word 64) : Vector Word 64 := Vector.ofFn fun i => if 32 ≤ i.val then 0 else regs[i]

/-- A group receives its extended block, zeroed in every thread of the group, exited ones included (R131). -/
def State.grantBlock (s : State) (w : Wave) (g : Nat) : State :=
  (s.mapGroup w.uid g fun x => { x with ext := true }).mapThreads
    (fun t => t.id.wave == w.uid && w.groupOf t.id.idx == g)
    fun t => { t with
      regs := clearExtended t.regs
      marks := t.marks.filter fun m => !Reg.extended m.reg
      trans := t.trans.filter fun x => !Reg.extended x.reg
      flight := t.flight.filter fun x => !Reg.extended x.reg }

/-- Every participant finishes an instruction without results. -/
def State.finishAll (s : State) (ps : List Thread) (i : Instr) : State := ps.foldl (fun s u => s.finishLane u.id i {}) s

/-- The participants of a barrier come to know what each of them knows (R135, R157, R158). -/
def State.shareAll (s : State) (ps : List Thread) : State :=
  let k := joinAll (ps.map fun p => s.knows p.id)
  s.mapThreads (fun u => ps.any fun p => p.id == u.id) fun u => u.learn k

/-- An instance whose participants have all arrived (R131, R132, R135, R150, R157, R158). An XACQ of a group without a block
enters a request and goes on waiting. -/
def State.completeInstance (s : State) (w : Wave) (t : Thread) (x : Arrival) (ps : List Thread) : State :=
  match x.instr with
  | .xacq _ =>
    let g := w.groupOf t.id.idx
    if ((s.group? w.uid g).map (·.ext)).getD false then s.finishAll ps x.instr
    else
      s.mapCore w.coreId fun c =>
        if c.xacq.contains (w.uid, g) then c else { c with xacq := c.xacq ++ [(w.uid, g)] }
  | .xrel _ => (s.mapGroup w.uid (w.groupOf t.id.idx) fun g => { g with ext := false }).finishAll ps x.instr
  | .cbar _ =>
    ((s.shareAll ps).mapThreads (fun u => ps.any fun p => p.id == u.id) fun u => { u with pending := false }).finishAll ps x.instr
  | .gbar _ => (s.shareAll ps).finishAll ps x.instr
  | .gsync _ => (s.shareAll ps).finishAll ps x.instr
  | _ =>
    let ls := ps.filterMap fun u => u.arrival?.map fun y => (⟨w.laneOf u.id.idx, Word.lo y.a, y.c⟩ : Lane)
    ps.foldl (fun s u =>
      match u.arrival? with
      | some y => s.finishLane u.id x.instr (laneResult x.instr ls w.width ⟨w.laneOf u.id.idx, Word.lo y.a, y.c⟩)
      | none => s) s

/-- The instance at which a thread waits completes when every participant has arrived (R150). -/
def State.tryComplete (s : State) (id : ThreadId) : State :=
  match s.ctx id with
  | none => s
  | some c =>
    match c.t.arrival? with
    | none => s
    | some x =>
      let ps := s.participants c.w c.l c.t x
      if ps.all (sameInstance c.t x) then s.completeInstance c.w c.t x ps else s

/-- A wait that never counts toward mismatch when a whole group stands at it (R151). -/
def exemptAlone : Instr → Bool
  | .gbar _ => true
  | .cbar _ => true
  | .xacq _ => true
  | .xrel _ => true
  | _ => false

/-- The mismatch test of a group (R151): every live thread waits at a cross-lane instruction or collective, none of which
has completed, and they do not all wait at one offset of GBAR, CBAR, XACQ or XREL. -/
def State.mismatch (s : State) (w : Wave) (g : Nat) : Bool :=
  let ts := s.liveOfGroup w g
  let xs := ts.filterMap Thread.arrival?
  !ts.isEmpty && xs.length == ts.length &&
    !((xs.all fun x => exemptAlone x.instr) && ts.all fun t => t.pc == (ts.headD t).pc)

/-- Each live thread of a mismatched group traps at its instruction (R151). -/
def State.trapMismatch (s : State) (w : Wave) (g : Nat) : State :=
  (s.liveOfGroup w g).foldl (fun s t =>
    match s.ctx t.id with
    | some c => if c.t.live then s.trap c .xlmismatch 0 else s
    | none => s) s

/-- After an arrival or an exit: complete what can complete among the waits of the group's wave, its household and its
node, then test the group for mismatch. -/
def State.settleGroup (s : State) (w : Wave) (l : Launch) (g : Nat) : State :=
  let near := (s.household w).map (·.uid)
  let ids := (s.threads.filter fun t => t.arrival?.isSome && (near.contains t.id.wave ||
    (l.nd.cooperative && s.ofLaunch l.id t.id))).map (·.id)
  let s := ids.foldl (fun s id => s.tryComplete id) s
  if s.mismatch w g then s.trapMismatch w g else s

/-! ## Arrival -/

/-- A full fence: the thread's earlier stores take effect, then it takes its place (R172); none while a record of a dropped one
has still to be accepted (R323). -/
def State.fenceFull (s : State) (id : ThreadId) (sc : Scope) : State × Bool :=
  let s := s.drain id
  if s.unposted id then (s, false) else (s.fullFence id sc, true)

/-- A thread has arrived with its operands: it waits, and what can complete completes. -/
def State.arrive (s : State) (c : Ctx) (x : Arrival) : State :=
  (s.mapThread c.t.id fun t => t.stalled (.arrived x) s.now).settleGroup c.w c.l (c.w.groupOf c.t.id.idx)

/-- A cross-lane instruction or collective of the thread `s.cur` (R130, R150): pending results first; then the window is
committed and operands are read; then the thread's own checks and the full fence of a barrier, of a scope; then it waits and what
can complete completes. `check` may trap; `vals` are the operand values kept. The fixed-latency results still open stand in the banks at
arrival, but their distances go on, so that with checking on an operand read too early traps: DEDUCED (log 78). -/
def runArrival (i : Instr) (reads names : List Reg) (preds : Bool) (barrier : Option Scope) (check : Ctx → Option (Cause × DWord))
    (vals : Ctx → (Nat → Word) → DWord × Word) (s : State) : Host.Outcome State Fault Refusal :=
  match s.ctx s.cur with
  | none => .fault .noThread
  | some c0 =>
    let f : Form := { sc := collectiveStall i, reads := reads, names := names, preds := preds }
    .next <|
      if interlocked c0.t f then finish c0 f (.wait s .interlock)
      else if !c0.t.loads.isEmpty then finish c0 f (.wait s .poll)
      else
        let c : Ctx := { c0 with t := c0.t.arriving }
        let s := s.mapThread c.t.id Thread.arriving
        match operandTrap c f with
        | some (cause, ea) => finish c f (.trap s cause ea)
        | none =>
          match check c with
          | some (cause, ea) => finish c f (.trap s cause ea)
          | none =>
            let v := vals c (c.reads s f)
            let s := s.spent f
            match barrier with
            | none => s.arrive c ⟨i, v.1, v.2⟩
            | some sc =>
              let r := s.fenceFull c.t.id sc
              if r.2 then r.1.arrive c ⟨i, v.1, v.2⟩ else finish c f (.wait r.1 .poll)

/-- No check of its own. -/
def noCheck : Ctx → Option (Cause × DWord) := fun _ => none

/-- An XL operation on a source and a destination that a lane selector may be read from (R153). -/
def xlOp (i : Instr) (f : XlF) (selector pair : Bool) : State → Host.Outcome State Fault Refusal :=
  runArrival i (if selector then [f.a, f.d] else [f.a]) (if pair then f.d.pair else [f.d]) false none noCheck
    fun _ o => ((o 0).setWidth 64, if selector then o 1 else 0)

/-- A vote (R153). -/
def voteOp (i : Instr) (f : XlAF) : State → Host.Outcome State Fault Refusal :=
  runArrival i [f.a] [] true none noCheck fun _ o => ((o 0).setWidth 64, 0)

/-! ## XL (R153) -/

/-- SHFL.IDX (R154). -/
def execShflIdx (f : XlF) : State → Host.Outcome State Fault Refusal := xlOp (.shflIdx f) f true false

/-- SHFL.XOR (R154). -/
def execShflXor (f : XlF) : State → Host.Outcome State Fault Refusal := xlOp (.shflXor f) f true false

/-- SHFL.UP (R154). -/
def execShflUp (f : XlF) : State → Host.Outcome State Fault Refusal := xlOp (.shflUp f) f true false

/-- SHFL.DOWN (R154). -/
def execShflDown (f : XlF) : State → Host.Outcome State Fault Refusal := xlOp (.shflDown f) f true false

/-- VOTE.ALL (R153). -/
def execVoteAll (f : XlAF) : State → Host.Outcome State Fault Refusal := voteOp (.voteAll f) f

/-- VOTE.ANY (R153). -/
def execVoteAny (f : XlAF) : State → Host.Outcome State Fault Refusal := voteOp (.voteAny f) f

/-- BALLOT (R153). -/
def execBallot (f : XlF) : State → Host.Outcome State Fault Refusal := xlOp (.ballot f) f false true

/-- RADD (R155). -/
def execRadd (f : XlF) : State → Host.Outcome State Fault Refusal := xlOp (.radd f) f false false

/-- RFADD (R103, R155). -/
def execRfadd (f : XlF) : State → Host.Outcome State Fault Refusal := xlOp (.rfadd f) f false false

/-- RMIN (R155). -/
def execRmin (f : XlF) : State → Host.Outcome State Fault Refusal := xlOp (.rmin f) f false false

/-- RMAX (R155). -/
def execRmax (f : XlF) : State → Host.Outcome State Fault Refusal := xlOp (.rmax f) f false false

/-- SCAN (R155). -/
def execScan (f : XlF) : State → Host.Outcome State Fault Refusal := xlOp (.scan f) f false false

/-- ELECT (R156). -/
def execElect (f : XlDF) : State → Host.Outcome State Fault Refusal :=
  runArrival (.elect f) [] [f.d] true none noCheck fun _ _ => (0, 0)

/-- The mask a lane arrives with at GSYNC: its bits below the width, and its own bit (R157). -/
def gsyncMask (w : Wave) (idx : Nat) (m : DWord) : DWord :=
  BitVec.ofNat 64 ((m.toNat % 2 ^ w.width) ||| 2 ^ (w.laneOf idx))

/-- GSYNC (R157): a full fence of core scope at arrival. -/
def execGsync (f : XlAF) : State → Host.Outcome State Fault Refusal :=
  runArrival (.gsync f) f.a.pair [] false (some .core) noCheck fun c o => (gsyncMask c.w c.t.id.idx (Word.pair (o 0) (o 1)), 0)

/-- CBAR (R158): a full fence of cluster scope at arrival. -/
def execCbar (f : ScF) : State → Host.Outcome State Fault Refusal :=
  runArrival (.cbar f) [] [] false (some .cluster) noCheck fun _ _ => (0, 0)

/-! ## Group collectives of CTL -/

/-- XACQ (R131). -/
def execXacq (f : ScF) : State → Host.Outcome State Fault Refusal :=
  runArrival (.xacq f) [] [] false none noCheck fun _ _ => (0, 0)

/-- XREL (R132). -/
def execXrel (f : ScF) : State → Host.Outcome State Fault Refusal :=
  runArrival (.xrel f) [] [] false none noCheck fun _ _ => (0, 0)

/-- GBAR (R34, R135): a full fence of module scope at arrival; outside a cooperative node it traps. -/
def execGbar (f : ScF) : State → Host.Outcome State Fault Refusal :=
  runArrival (.gbar f) [] [] false (some .module) (fun c => if c.l.nd.cooperative then none else some (.gbar, 0)) fun _ _ => (0, 0)

end Sys2Proof.Machine
end

