-- ==== Sys2Proof/Machine/Control.lean ====
section
/-!
DEFINITION. Branches, calls and returns (spec 07 R116..R118) and the control operations of CTL but its collectives (R119..R129,
R133, R134; special registers 03 R70).
-/
namespace Sys2Proof.Machine

open Sys2Proof

/-! ## Branches, calls, returns -/

/-- The target of a J-format branch (R116). -/
def branchTarget (pc : Word) (disp : BitVec 21) : Word := pc + disp.signExtend 32 * 2

/-- The link register (R68). -/
def linkReg : Reg := 29

/-- The link written by a call: the offset of the following instruction, of the integer class (R116, R117). -/
def Thread.link (t : Thread) : Thread := t.putFixed linkReg (t.pc + 4) intLatency false

/-- A jump to a register's value: an odd target traps at the jump (R117). -/
def jumpTo (c : Ctx) (s : State) (target : Word) (link : Bool) : Effect :=
  if target.getLsbD 0 then .trap s .align (Word.pair target (Word.hi c.l.nd.entry))
  else .jump (if link then c.on s Thread.link else s) target

/-- BR (R116). -/
def execBr (f : JF) : State → Host.Outcome State Fault Refusal :=
  runForm { g := f.g, sc := f.sc } fun c _ s => .jump s (branchTarget c.t.pc f.disp)

/-- CALL (R116). -/
def execCall (f : JF) : State → Host.Outcome State Fault Refusal :=
  runForm { g := f.g, sc := f.sc, names := [linkReg] } fun c _ s =>
    .jump (c.on s Thread.link) (branchTarget c.t.pc f.disp)

/-- JR (R117). -/
def execJr (f : AF) : State → Host.Outcome State Fault Refusal :=
  runForm { g := f.g, sc := f.sc, reads := [f.a] } fun c o s => jumpTo c s (o 0) false

/-- CALLR: the target is read before the link is written (R117). -/
def execCallr (f : AF) : State → Host.Outcome State Fault Refusal :=
  runForm { g := f.g, sc := f.sc, reads := [f.a], names := [linkReg] } fun c o s => jumpTo c s (o 0) true

/-- RET (R117). -/
def execRet (f : GF) : State → Host.Outcome State Fault Refusal :=
  runForm { g := f.g, sc := f.sc, reads := [linkReg] } fun c o s => jumpTo c s (o 0) false

/-! ## CTL -/

/-- NOP (R120). -/
def execNop (f : GF) : State → Host.Outcome State Fault Refusal :=
  runForm { g := f.g, sc := f.sc } fun _ _ s => .done s

/-- DLY: its count adds to the distance and to the wait for the next instruction, guard true or not (R58, R120). -/
def execDly (f : NF) : State → Host.Outcome State Fault Refusal :=
  runForm { g := f.g, sc := f.sc, delay := f.n } fun _ _ s => .done s

/-- The phase of an item in a launch's list; an unlisted item is claiming with an empty list (R283). -/
def Launch.item (l : Launch) (n : Nat) : Item :=
  match l.items.find? fun x => x.n == n with
  | some x => x
  | none => ⟨n, .claiming, [], false⟩

/-- Put an item back. -/
def Launch.setItem (l : Launch) (x : Item) : Launch := { l with items := x :: l.items.filter fun y => !(y.n == x.n) }

/-- A thread is an item of its node (R36, R282). -/
def Ctx.isItem (c : Ctx) : Bool := c.l.nd.reserving && decide (c.w.nodeThread c.t.id.idx < c.l.nd.items)

/-- The executing thread's item. -/
def Ctx.item (c : Ctx) : Item := c.l.item (c.w.nodeThread c.t.id.idx)

/-- An item is counted finished: its claims are discarded; what its accesses pass on stands for later admissions (R283, R290). -/
def Launch.finishItem (l : Launch) (n : Nat) (know : Know) : Launch :=
  { l.setItem { l.item n with phase := .finished, lines := [], overflow := false } with finished := l.finished.join know }

/-- An item executes EXIT. The Barrow counts it finished when its stores have taken effect; in the claiming phase its claims are
discarded at once, and it takes part in no conflict from then on (R283). -/
def exitItem (c : Ctx) (s : State) : State :=
  if !c.isItem then s
  else if c.item.phase = .claiming then
    s.mapLaunch c.l.id fun l =>
      if (s.thread? c.t.id).any Thread.storesDone then l.finishItem c.item.n (s.knows c.t.id)
      else l.setItem { c.item with phase := .leaving, lines := [], overflow := false }
  else s.mapLaunch c.l.id fun l => l.setItem { c.item with phase := .exited }

/-- The thread has ended: its window, marks and outstanding loads are gone (R129, R193). -/
def Thread.end_ (t : Thread) : Thread :=
  { t with status := .exited, trans := [], flight := [], marks := [], loads := [], wait := .none, held := [] }

/-- EXIT (R129): CLUSTEREXIT with the pending bit set (R24); else the thread ends, its accepted stores still to take
effect; a group whose last thread exits releases its block (R37); collectives may complete (R130, R150). -/
def execExit (f : GF) : State → Host.Outcome State Fault Refusal :=
  runForm { g := f.g, sc := f.sc } fun c _ s =>
    if c.l.nd.clusterSet && c.t.pending then .trap s .clusterexit 0
    else
      let g := c.w.groupOf c.t.id.idx
      let s := exitItem c (s.mapThread c.t.id fun t => (t.advance 4 f.sc s.now).end_)
      let s := if (s.liveOfGroup c.w g).isEmpty then s.mapGroup c.w.uid g fun x => { x with ext := false } else s
      .ended (s.settleGroup c.w c.l g)

/-- The safe point of an index in the node's kernel header (R41). -/
def Launch.safePoint? (l : Launch) (n : Nat) : Option SafePoint := l.safePoints.find? fun p => p.index == n

/-- SAFE (R41, R42, R127): it commits the window; at a safe point, in normal mode, with a request pending, the thread
enters the save routine. One that acts as a NOP in another mode does not count as reaching a safe point (R46): DESIGN CHOICE
(log 77). -/
def execSafe (f : NF) : State → Host.Outcome State Fault Refusal :=
  runForm { g := f.g, sc := f.sc } fun c _ s =>
    let s := c.on s Thread.commit
    match c.l.safePoint? f.n with
    | some p =>
      if c.w.request.isSome && c.t.mode == .normal then
        .jump (c.on s fun t => { t with mode := .saving f.n, reached := true, h := t.h.set 0 (t.pc + 4) }) p.save
      else .done s
    | none => .done s

/-- TRAP n (R126). -/
def execTrap (f : NF) : State → Host.Outcome State Fault Refusal :=
  runForm { g := f.g, sc := f.sc } fun _ _ s => .trap s .trapi (BitVec.ofNat 64 f.n)

/-- SYSCALL n (R126). -/
def execSyscall (f : NF) : State → Host.Outcome State Fault Refusal :=
  runForm { g := f.g, sc := f.sc } fun _ _ s => .trap s .syscall (BitVec.ofNat 64 f.n)

/-- BKPT (R126). -/
def execBkpt (f : GF) : State → Host.Outcome State Fault Refusal :=
  runForm { g := f.g, sc := f.sc } fun _ _ s => .trap s .bkpt 0

/-- The virtual address of a wave's scratchpad allocation; 0 if it has none (R70, R163). -/
def Wave.spadAddress (w : Wave) : DWord :=
  if w.spadBytes = 0 then 0 else BitVec.ofNat 64 (windowBase w.firstCore + w.firstOff)

/-- The group and pending and admission bits of %xstat (R70). -/
def Ctx.xstat (c : Ctx) : Word :=
  (if c.g.ext then 1 else 0) + (if c.t.pending then 2 else 0) +
    (if c.isItem && c.item.phase == .executing then 4 else 0)

/-- The die's core-cycle counter. -/
def Ctx.clock (c : Ctx) (s : State) : DWord := ((s.die? c.w.die).map (·.clk)).getD 0

/-- The contents of a special register (R70). -/
def Ctx.special (c : Ctx) (s : State) : SReg → Word
  | .tid => BitVec.ofNat 32 c.t.id.idx
  | .lane => BitVec.ofNat 32 (c.w.laneOf c.t.id.idx)
  | .gwidth => BitVec.ofNat 32 c.w.width
  | .group => BitVec.ofNat 32 (c.w.groupOf c.t.id.idx)
  | .wave => BitVec.ofNat 32 c.w.index
  | .nwave => BitVec.ofNat 32 c.l.nd.waves
  | .node => Word.lo c.l.node
  | .core => BitVec.ofNat 32 c.w.core
  | .die => BitVec.ofNat 32 c.w.die
  | .module => BitVec.ofNat 32 s.moduleNo
  | .clk => Word.lo (c.clock s)
  | .clkh => c.t.clkh
  | .fflags => c.t.fflags
  | .fcr => c.t.fcr
  | .ctl => c.t.ctl
  | .slim => Word.lo c.t.slim
  | .slimh => Word.hi c.t.slim
  | .param => Word.lo c.l.nd.param
  | .paramh => Word.hi c.l.nd.param
  | .spad => Word.lo c.w.spadAddress
  | .spadh => Word.hi c.w.spadAddress
  | .item => if c.l.nd.reserving then BitVec.ofNat 32 (c.w.nodeThread c.t.id.idx) else 0
  | .fport => c.t.fport
  | .step => BitVec.ofNat 32 c.w.step
  | .xstat => c.xstat

/-- SRD (R121); of %clk it also captures the high half (R70). -/
def execSrd (f : SrdF) : State → Host.Outcome State Fault Refusal :=
  runForm { g := f.g, sc := f.sc, names := [f.d] } fun c _ s =>
    let v := c.special s f.i
    checkStack c s [(f.d, v)] <| .done <| c.on s fun t =>
      let u := if f.t then t.putFixed f.d v 0 true else t.putBank f.d v
      if f.i = .clk then { u with clkh := Word.hi (c.clock s) } else u

/-- The bits of a special register that must be zero (R70). -/
def sregMustBeZero : SReg → Word
  | .fflags => 0xFFFFFFE0
  | .fcr => 0xFFFFFFFC
  | .ctl => 0xFFFFFFFE
  | _ => 0

/-- A special register written (R70, R122). -/
def Thread.setSpecial (t : Thread) (i : SReg) (v : Word) : Thread :=
  match i with
  | .fflags => { t with fflags := v }
  | .fcr => { t with fcr := v }
  | .ctl => { t with ctl := v }
  | .slim => { t with slim := Word.pair v (Word.hi t.slim) }
  | .slimh => { t with slim := Word.pair (Word.lo t.slim) v }
  | .fport => { t with fport := v }
  | _ => t

/-- SWR (R121): a must-be-zero bit traps with RI and changes nothing (R70). -/
def execSwr (f : SwrF) : State → Host.Outcome State Fault Refusal :=
  runForm { g := f.g, sc := f.sc, reads := [f.d] } fun c o s =>
    if o 0 &&& sregMustBeZero f.i ≠ 0 then .trap s .ri 0 else .done (c.on s fun t => t.setSpecial f.i (o 0))

/-- HRD (R123). -/
def execHrd (f : HrdF) : State → Host.Outcome State Fault Refusal :=
  runForm { g := f.g, sc := f.sc, names := [f.d] } fun c _ s =>
    let v := c.t.h[f.n]
    checkStack c s [(f.d, v)] <| .done <| c.on s fun t => if f.t then t.putFixed f.d v 0 true else t.putBank f.d v

/-- HWR (R123). -/
def execHwr (f : HwrF) : State → Host.Outcome State Fault Refusal :=
  runForm { g := f.g, sc := f.sc, reads := [f.d] } fun c o s => .done (c.on s fun t => { t with h := t.h.set f.n (o 0) })

/-- YIELD (R128): in saving mode the thread parks while its wave's pre-emption is in progress; with none in progress it
enters its restore routine. -/
def execYield (f : GF) : State → Host.Outcome State Fault Refusal :=
  runForm { g := f.g, sc := f.sc } fun c _ s =>
    match c.t.mode with
    | .saving n =>
      if c.w.request.isSome then .done (c.on s fun t => { t with status := .parked })
      else .jump (c.on s fun t => { t with mode := .restoring }) (((c.l.safePoint? n).map (·.restore)).getD 0)
    | _ => .done s

/-- The deepest a node can stand (R25). -/
def maxDepth : Nat := 8

/-- SPAWN (R133): the thread's stores take effect before the launch is entered; it waits while the launch port is full. Its release
is the launch's edge, and no release fence for later ordinary stores: DESIGN CHOICE (log 92). -/
def execSpawn (f : AF) : State → Host.Outcome State Fault Refusal :=
  runForm { g := f.g, sc := f.sc, reads := f.a.pair } fun c o s =>
    let addr := Word.pair (o 0) (o 1)
    if c.l.depth = maxDepth then .trap s .spawndepth 0
    else if addr.toNat % 64 ≠ 0 then .trap s .align addr
    else
      let s := s.sending c.t.id
      if s.launchHasRoom c.w.die then
        .done (s.enterLaunch c.w.die ⟨addr, c.l.depth + 1, c.l.prio, c.l.domain, c.l.budget, none, s.knows c.t.id⟩)
      else .wait s .poll

/-- ERET (R125). -/
def execEret (f : GF) : State → Host.Outcome State Fault Refusal :=
  runForm { g := f.g, sc := f.sc } fun c _ s => eretEffect c s

end Sys2Proof.Machine
end

