-- ==== Sys2Proof/Machine/MemOps.lean ====
section
/-!
DEFINITION. Load, store, atomic and fence instructions (spec 13 R187..R208).
-/
namespace Sys2Proof.Machine

open Sys2Proof

/-! ## Shared operations -/

/-- The effective address of an M-format access (R194). -/
def effectiveAddress (base : DWord) (imm : BitVec 8) (n : Nat) : DWord := base + imm.signExtend 64 * BitVec.ofNat 64 n

/-- A scratchpad access takes part in the packet's passes at the core where the wave that has the allocation stands, by the words it
touches: an allocation is a multiple of the banks, and the words of each have numbers of their own (R163, R202; log 17). -/
def State.notePass (s : State) (loc : Loc) (n : Nat) (atomic : Bool) : State :=
  match loc with
  | .spad y off =>
    { s with passes := s.passes ++ [⟨((s.wave? y).map Wave.coreId).getD ⟨0, 0⟩, (unitsOf 4 off n).map (y * 2 ^ 20 + ·), atomic⟩] }
  | _ => s

/-- An access has been accepted: its pass, and the pending bit where it reaches a peer's scratchpad (R24, R194). -/
def accept (c : Ctx) (s : State) (loc : Loc) (n : Nat) (atomic peer : Bool) : State :=
  let s := s.notePass loc n atomic
  if peer then c.on s fun t => { t with pending := true } else s

/-- The thread waits between the two halves of a load (R174). -/
def Wait.betweenHalves : Wait → Bool
  | .half _ => true
  | _ => false

/-- A load or atomic with these results has been accepted. A completing one sets the pending bit when it completes (R6, R190). The pass
of a .q load is its first half's, where it stops between its halves. -/
def acceptLoad (c : Ctx) (s : State) (loc : Loc) (n : Nat) (atomic peer : Bool) (vals : List (Reg × Word)) : State :=
  let t := accept c s loc n atomic (peer && !Thread.touchesStack vals)
  if n = 16 && s.relaxed && c.t.wait.betweenHalves then { t with passes := s.passes } else t

/-- The address lies in the thread's own stack region (R10, R295). -/
def Ctx.inOwnStack (c : Ctx) (ea : Nat) : Bool :=
  let base := c.l.nd.stackBase.toNat + c.w.nodeThread c.t.id.idx * c.l.nd.stack
  decide (base ≤ ea) && decide (ea < base + c.l.nd.stack)

/-- The store check of a reserving loop (R295): true where the access traps with CLAIM. -/
def Ctx.claimFails (c : Ctx) (ea n : Nat) : Bool :=
  c.isItem && !onChip ea && !c.inOwnStack ea &&
    !(c.item.phase == .executing &&
      (c.item.overflow || (unitsOf 64 ea n).all fun u => c.item.lines.contains (u, true)))

/-- Two storage ranges overlap: `la` of na bytes and `lb` of nb. -/
def Loc.overlaps (la : Loc) (na : Nat) (lb : Loc) (nb : Nat) : Bool :=
  let meet (a b : Nat) : Bool := decide (a < b + nb) && decide (b < a + na)
  match la, lb with
  | .phys a, .phys b => meet a b
  | .spad w a, .spad v b => w == v && meet a b
  | .fitted r i, .fitted q j => r == q && i == j
  | _, _ => false

/-- The offset of a location in its storage. -/
def Loc.offset : Loc → Nat
  | .phys a => a
  | .spad _ a => a
  | .fitted _ _ => 0

/-- Lay the bytes of a buffered store over the bytes read at offset a. -/
def overlay (a : Nat) (bs : List Byte) (e : StoreEntry) : List Byte :=
  match e.op with
  | .bytes w =>
    bs.zipIdx.map fun x => let p := a + x.2
      if e.loc.offset ≤ p && decide (p < e.loc.offset + w.length) then w.getD (p - e.loc.offset) 0 else x.1
  | _ => bs

/-- A plain store that a load may take its bytes from. -/
def StoreEntry.plain (e : StoreEntry) : Bool :=
  match e.op with
  | .bytes _ => true
  | _ => false

/-- A location in a fitted region. -/
def Loc.isFitted : Loc → Bool
  | .fitted _ _ => true
  | _ => false

/-- Every one of n bytes at a location is one that these buffered stores write. -/
def covered (loc : Loc) (n : Nat) (es : List StoreEntry) : Bool :=
  (List.range n).all fun i => es.any fun e => (loc.byte i).overlaps 1 e.loc e.size

/-- A location of a region. -/
def Loc.inRegion (region : Nat) : Loc → Bool
  | .fitted r _ => r == region
  | _ => false

/-- The bytes a load of a thread takes (R170, R171): its own buffered stores through the same view are forwarded; where one
of them cannot be, and where one is to the fitted region that the load reaches, whose order both obey (R182), the thread's stores take
effect first. Nothing is forwarded from a frame that ignores the store (R165). -/
def State.loadBytes (s : State) (t : Thread) (loc : Loc) (view peer : Bool) (n : Nat) : State × List Byte :=
  let mine := t.stores.filter fun e => e.view == view &&
    match loc with
    | .fitted r _ => e.loc.inRegion r
    | _ => loc.overlaps n e.loc e.size
  if mine.isEmpty || s.ignores loc then s.readBy t.id view peer loc n
  else if mine.all StoreEntry.plain && !loc.isFitted then
    let r := if covered loc n mine then (s, List.replicate n 0) else s.readBy t.id view peer loc n
    (r.1, mine.foldl (overlay loc.offset) r.2)
  else (s.drain t.id).readBy t.id view peer loc n

/-- A load's bytes as register values (R188). -/
def loadValues (z : Size) (d : Reg) (bs : List Byte) : List (Reg × Word) :=
  let v := leNat bs
  match z with
  | .b | .h | .w => [(d, BitVec.ofNat 32 v)]
  | .sb => [(d, (BitVec.ofNat 8 v).signExtend 32)]
  | .sh => [(d, (BitVec.ofNat 16 v).signExtend 32)]
  | .d => d.pairWrites (BitVec.ofNat 64 v)
  | .q => (List.range 4).map fun i => (d.succ i, BitVec.ofNat 32 (field v (32 * i) 32))

/-- An accepted load whose data is to return (R190): completing when its destination includes g30 or g31. -/
def pendingLoad (c : Ctx) (ea : DWord) (vals : List (Reg × Word)) (poisoned : Bool) (push : Option Bool)
    (ticket : Option Nat) (peer : Bool) : PendingLoad where
  pc := c.t.pc
  ea := ea
  vals := if poisoned then vals.map fun v => (v.1, 0) else vals
  poisoned := poisoned
  push := push
  ticket := ticket
  completing := Thread.touchesStack vals
  nibble := false
  peer := peer && Thread.touchesStack vals

/-- Put an accepted load behind the thread's others. -/
def addLoad (c : Ctx) (s : State) (l : PendingLoad) : Effect := .done (c.on s fun t => { t with loads := t.loads ++ [l] })

/-- The number of the packet under way. -/
def State.packetNo (s : State) : Nat := ((s.packets.head?).map (·.number)).getD 0

/-- What a thread's write is, apart from its value. -/
def State.writing (s : State) (id : ThreadId) (view peer : Bool) : Writing :=
  ⟨view, peer, false, match s.thread? id with
    | some t => t.carries (s.coreOf id) peer
    | none => ⟨s.coreOf id, id.wave, none, []⟩⟩

/-- A write of a thread has been accepted under the next number, which the thread knows from then on (R169). -/
def State.numbered (s : State) (id : ThreadId) : State :=
  let s' := { s with stamp := s.stamp + 1 }
  if s.late then s'.learn id ((s.knows id).afterWrites [s.stamp]) else s'

/-- An earlier lane of the packet has a buffered store or RED to some of these bytes: its own buffer empties first, so that they
take effect in packet order (R174, R361; log 12). -/
def State.lanesBefore (s : State) (id : ThreadId) (loc : Loc) (n : Nat) : State :=
  ((s.threads.filter fun t => t.id != id && t.stores.any fun e => e.packet == s.packetNo && loc.overlaps n e.loc e.size).map
    (·.id)).foldl State.drain s

/-- Put an accepted store, STN or RED behind the thread's others (R171, R191). -/
def State.addStore (s : State) (c : Ctx) (loc : Loc) (view peer : Bool) (op : StoreOp) (ea : DWord) : State :=
  let s := s.publish c.t.id
  let x := s.writing c.t.id view peer
  let e : StoreEntry := ⟨loc, view, peer, op, ea, c.t.pc, x.carries, s.packetNo, s.stamp⟩
  ((s.lanesBefore c.t.id loc e.size).mapThread c.t.id fun t => { t with stores := t.stores ++ [e] }).numbered c.t.id

/-- An accepted store of bytes: one of more than 8 is one of each 8, the lower addresses first (R174). -/
def State.addBytes (s : State) (c : Ctx) (loc : Loc) (view peer : Bool) (bs : List Byte) (ea : DWord) : State :=
  if bs.length ≤ 8 then s.addStore c loc view peer (.bytes bs) ea
  else
    (List.range ((bs.length + 7) / 8)).foldl (fun s i =>
      s.addStore c (loc.byte (8 * i)) view peer (.bytes ((bs.drop (8 * i)).take 8)) ea) s

/-- The bytes of an accepted load, then what follows. A .q load is two of 8 bytes, the lower address first, between which other
agents may write (R174). -/
def withBytes (c : Ctx) (s : State) (loc : Loc) (view peer : Bool) (n : Nat) (go : State → List Byte → Effect) : Effect :=
  if n = 16 && s.relaxed then
    match c.t.wait with
    | .half lower =>
      let r := s.loadBytes c.t (loc.byte 8) view peer 8
      go r.1 (lower ++ r.2)
    | _ =>
      let r := s.loadBytes c.t loc view peer 8
      .wait (r.1.notePass loc n false) (.half r.2)
  else
    let r := s.loadBytes c.t loc view peer n
    go r.1 r.2

/-- The checks of R189, then what follows acceptance. -/
def withAccess (c : Ctx) (s : State) (k : AccessKind) (ea : DWord) (go : Loc → Bool → Bool → Effect) : Effect :=
  match s.check c.l.system c.w k ea.toNat with
  | .trap cause => .trap s cause ea
  | .retry => .wait s (.retranslate ea)
  | .at loc view peer => go loc view peer

/-! ## Loads and stores (R194) -/

/-- LD (R194). -/
def execLd (f : MF) : State → Host.Outcome State Fault Refusal :=
  runForm { sc := f.sc, reads := f.a.pair, names := f.d.group f.z.regs } fun c o s =>
    let n := f.z.bytes
    let ea := effectiveAddress (Word.pair (o 0) (o 1)) f.imm n
    withAccess c s ⟨n, true, false, true⟩ ea fun loc view peer =>
      withBytes c s loc view peer n fun s' bs =>
        let vals := loadValues f.z f.d bs
        addLoad c (acceptLoad c s' loc n false peer vals) (pendingLoad c ea vals (s'.poisoned loc n) none none peer)

/-- The low n bytes of a store's source registers (R188). -/
def storeBytes (n : Nat) (ws : List Word) : List Byte := (wordBytes ws).take n

/-- ST (R194, R295). -/
def execSt (f : MF) : State → Host.Outcome State Fault Refusal :=
  runForm { sc := f.sc, reads := f.a.pair ++ f.d.group f.z.regs } fun c o s =>
    let n := f.z.bytes
    let ea := effectiveAddress (Word.pair (o 0) (o 1)) f.imm n
    withAccess c s ⟨n, true, true, true⟩ ea fun loc view peer =>
      if c.claimFails ea.toNat n then .trap s .claim ea
      else
        .done ((accept c s loc n false peer).addBytes c loc view peer
          (storeBytes n ((List.range f.z.regs).map fun i => o (2 + i))) ea)

/-- The notify port an LDNF's record names: %fport, or none where the handle is stale (R196). -/
def State.notifyPort (s : State) (h : Word) : Word := if h = noHandle || s.stale h then noHandle else h

/-- A failing LDNF: it pushes false, after its record, if one is posted, has been accepted (R196); the thread's earlier stores have taken
effect before the posting, which happens-before what follows the FQPOP (R323). `hold`: its destination includes g30 or
g31, so that it holds the thread until the push, though it writes no register: DEDUCED (log 88). `peer`: it reached a peer's scratchpad,
which the push of such a one then marks (R24, R190, R194). -/
def failLdnf (c : Ctx) (s : State) (ea : DWord) (n : Nat) (cause : Option Cause) (hold peer : Bool) : Effect :=
  let fail (ticket : Option Nat) : PendingLoad :=
    { pendingLoad c ea [] false (some false) ticket false with completing := hold, peer := hold && peer }
  match cause with
  | some cause =>
    if c.t.fport = noHandle then addLoad c s (fail none)
    else
      let s := s.sending c.t.id
      let r := s.recordFor c.t.id cause 0 ea c.t.pc (s.notifyPort c.t.fport) 0 n none none
      addLoad c ({ s with nextId := s.nextId + 1 }.post c.w.die r (.load c.t.id s.nextId)) (fail (some s.nextId))
  | none => addLoad c s (fail none)

/-- LDNF (R196). -/
def execLdnf (f : MF) : State → Host.Outcome State Fault Refusal :=
  runForm { sc := f.sc, reads := f.a.pair, names := f.d.group f.z.regs, preds := true } fun c o s =>
    let n := f.z.bytes
    let ea := effectiveAddress (Word.pair (o 0) (o 1)) f.imm n
    let hold := Thread.touchesStack ((f.d.group f.z.regs).map fun r => (r, 0))
    match s.check c.l.system c.w ⟨n, true, false, true⟩ ea.toNat with
    | .trap .xlate => if 2 ^ 57 < ea.toNat + n then .trap s .xlate ea else failLdnf c s ea n (some .xlate) hold false
    | .trap .domain => failLdnf c s ea n none hold false
    | .trap cause => .trap s cause ea
    | .retry => .wait s (.retranslate ea)
    | .at loc view peer =>
      withBytes c s loc view peer n fun s' bs =>
        let vals := loadValues f.z f.d bs
        let s' := acceptLoad c s' loc n false peer vals
        if s'.poisoned loc n then failLdnf c s' ea n (some .poison) hold peer
        else addLoad c s' (pendingLoad c ea vals false (some true) none peer)

/-! ## Nibbles (R197) -/

/-- LDN (R197). -/
def execLdn (f : ADF) : State → Host.Outcome State Fault Refusal :=
  runForm { g := f.g, sc := f.sc, reads := f.a.pair, names := [f.d] } fun c o s =>
    let na := Word.pair (o 0) (o 1)
    let ea := na >>> 1
    withAccess c s ⟨1, false, false, false⟩ ea fun loc view peer =>
      let r := s.loadBytes c.t loc view peer 1
      let vals := [(f.d, BitVec.ofNat 32 (field (leNat r.2) (if na.getLsbD 0 then 4 else 0) 4))]
      addLoad c (acceptLoad c r.1 loc 1 false peer vals)
        { pendingLoad c ea vals (r.1.poisoned loc 1) none none peer with nibble := true }

/-- STN (R197, R295). -/
def execStn (f : ADF) : State → Host.Outcome State Fault Refusal :=
  runForm { g := f.g, sc := f.sc, reads := f.a.pair ++ [f.d] } fun c o s =>
    let na := Word.pair (o 0) (o 1)
    let ea := na >>> 1
    withAccess c s ⟨1, false, true, false⟩ ea fun loc view peer =>
      if c.claimFails ea.toNat 1 then .trap s .claim ea
      else
        .done ((accept c s loc 1 false peer).addStore c loc view peer
          (.nibble (na.getLsbD 0) ((o 2).extractLsb' 0 4)) ea)

/-- PREF has no architectural effect; its address pair is an operand (R198). -/
def execPref (f : PrefF) : State → Host.Outcome State Fault Refusal :=
  runForm { g := f.g, sc := f.sc, reads := f.a.pair } fun _ _ s => .done s

/-! ## Atomics and reductions (R199, R200) -/

/-- The registers of an atomic operand. -/
def atomRegs (r : Reg) (wide : Bool) : List Reg := if wide then r.pair else [r]

/-- An atomic operand's value from operand k on. -/
def atomValue (o : Nat → Word) (k : Nat) (wide : Bool) : DWord := if wide then Word.pair (o k) (o (k + 1)) else (o k).setWidth 64

/-- The old value as register writes. -/
def atomWrites (d : Reg) (wide : Bool) (v : DWord) : List (Reg × Word) := if wide then d.pairWrites v else [(d, Word.lo v)]

/-- An atomic operation of a thread, in order behind its stores: the new state and the old value (R173, R200). -/
def State.atomicBy (s : State) (id : ThreadId) (view peer : Bool) (loc : Loc) (op : AtomOp) (wide : Bool) (b d : DWord) :
    State × DWord :=
  let s := s.publish id
  let r := s.atomicAs (s.viewer id) (s.writing id view peer) s.stamp loc op wide b d
  let s' := r.1.numbered id
  (if s.late then s'.mapThread id fun t => t.meet (s.coreOf id) peer r.2.2 else s', r.2.1)

/-- ATOM (R199): the thread's earlier stores take effect, then the update, which stands whatever becomes of the result (R364), and with
it the pending bit (R24); poison leaves memory as it is (R192). -/
def execAtom (f : AtomF) : State → Host.Outcome State Fault Refusal :=
  runForm { sc := f.sc, reads := f.a.pair ++ atomRegs f.b f.w ++ (if f.op = .cas then atomRegs f.d f.w else []),
            names := atomRegs f.d f.w } fun c o s =>
    let n := if f.w then 8 else 4
    let ea := Word.pair (o 0) (o 1)
    let b := atomValue o 2 f.w
    let d := atomValue o (if f.w then 4 else 3) f.w
    withAccess c s ⟨n, true, true, false⟩ ea fun loc view peer =>
      if c.claimFails ea.toNat n then .trap s .claim ea
      else
        let poisoned := s.poisoned loc n
        let s := if poisoned then acceptLoad c s loc n true peer (atomWrites f.d f.w 0) else accept c s loc n true peer
        let s := s.drain c.t.id
        let r := if poisoned then (s, 0) else s.atomicBy c.t.id view peer loc f.op f.w b d
        addLoad c r.1 (pendingLoad c ea (atomWrites f.d f.w r.2) poisoned none none (peer && poisoned))

/-- RED (R199). -/
def execRed (f : RedF) : State → Host.Outcome State Fault Refusal :=
  runForm { sc := f.sc, reads := f.a.pair ++ atomRegs f.b f.w } fun c o s =>
    let n := if f.w then 8 else 4
    let ea := Word.pair (o 0) (o 1)
    withAccess c s ⟨n, true, true, false⟩ ea fun loc view peer =>
      if c.claimFails ea.toNat n then .trap s .claim ea
      else
        .done ((accept c s loc n true peer).addStore c loc view peer (.red f.op f.w (atomValue o 2 f.w)) ea)

/-! ## Fences and counters (R204..R208) -/

/-- FENCE (R172, R204): a full fence waits until the thread's earlier stores, STNs and REDs have taken effect; each kind then
orders what R172 gives for its scope. -/
def execFence (f : FenceF) : State → Host.Outcome State Fault Refusal :=
  runForm { g := f.g, sc := f.sc } fun c _ s =>
    if f.kind = .full then
      let r := s.fenceFull c.t.id f.scope
      if r.2 then .done r.1 else .wait r.1 .poll
    else .done (s.fence c.t.id f.scope f.kind)

/-- AFENCE: every earlier store of the thread takes effect, for every view; then the thread's views join (R179, R205). -/
def execAfence (f : GF) : State → Host.Outcome State Fault Refusal :=
  runForm { g := f.g, sc := f.sc } fun c _ s =>
    let s := s.drain c.t.id
    if s.unposted c.t.id then .wait s .poll else .done (s.joinViews c.t.id)

/-- BFENCE: store-to-bank makes the writes that happen-before it visible to the bank units; bank-to-load makes those of the BMVs
whose completion the thread has observed visible to its later loads (R180, R181, R206). -/
def execBfence (f : BFenceF) : State → Host.Outcome State Fault Refusal :=
  runForm { g := f.g, sc := f.sc } fun c _ s =>
    let s := if f.kind = .toLoad then s else (s.drain c.t.id).toBank c.t.id
    .done (if f.kind = .toBank then s else s.toLoad c.t.id)

/-- A group's counter of a class (R207). -/
def Group.counter (g : Group) : CounterClass → Nat
  | .copy => g.copyOps.length
  | .matrix => g.matrixOps.length
  | .bank => g.bankOps.length
  | .remote => g.remoteOps.length

/-- The place of a class among a group's counts of issued operations. -/
def classIndex : CounterClass → Fin 4
  | .copy => 0
  | .matrix => 1
  | .bank => 2
  | .remote => 3

/-- What a WAITC with a threshold passes to its thread: what the reported operations pass on, but not the newest n issued (R176). -/
def Group.covered (g : Group) (c : CounterClass) (n : Nat) : Know :=
  joinAll ((g.reported.filter fun x => x.cls == c && decide (x.order + n ≤ g.issued[classIndex c])).map (·.know))

/-- WAITC (R176, R207). -/
def execWaitc (f : WaitF) : State → Host.Outcome State Fault Refusal :=
  runForm { g := f.g, sc := f.sc } fun c _ s =>
    if c.g.counter f.c ≤ f.n then .done (s.learn c.t.id (c.g.covered f.c f.n)) else .wait s .poll

end Sys2Proof.Machine
end

