-- ==== Sys2Proof/Machine/Blocks.lean ====
section
/-!
DEFINITION. Parameter blocks in a wave's scratchpad (spec 15 R218, R219, R363; 17 R257, R269), traps of engine and port
instructions, waiting instructions that a unit finishes, slots and tiles named by addresses (11 R164), and exact
products as the engines form them (05 R87, R96).
-/
namespace Sys2Proof.Machine

open Sys2Proof

/-! ## Parameter blocks -/

/-- The address of offset o of a wave's own allocation (R218). -/
def Ctx.blockAddress (c : Ctx) (o : Word) : DWord := c.w.spadAddress + o.setWidth 64

/-- The checks and the single read of a block of n bytes at an offset that is a multiple of `align`: a read of the thread's, which
its own buffered stores reach (R171, R219, R257). -/
def withBlock (c : Ctx) (s : State) (o : Word) (n align : Nat) (go : State → List Byte → Effect) : Effect :=
  if o.toNat % align ≠ 0 then .trap s .align (c.blockAddress o)
  else if c.w.spadBytes = 0 || decide (c.w.spadBytes < o.toNat + n) then .trap s .perm (c.blockAddress o)
  else if s.poisoned (.spad c.w.uid o.toNat) n then .trap s .poison (c.blockAddress o)
  else
    let r := s.loadBytes c.t (.spad c.w.uid o.toNat) false false n
    go r.1 r.2

/-- What an ENGINE trap reports: a value and a second one (R219, R243). -/
def engineInfo (o : Word) (off : Nat) : DWord := Word.pair o (BitVec.ofNat 32 off)

/-- Check a block's fields, in the order of R363; the first that fails traps with ENGINE. -/
def withFields (s : State) (o : Word) (checks : List (Bool × Nat)) (go : Effect) : Effect :=
  match firstInvalid checks with
  | some off => .trap s .engine (engineInfo o off)
  | none => go

/-- A word of a block. -/
def wordAt (blk : List Byte) (off : Nat) : Word := BitVec.ofNat 32 (fieldAt blk off 4)

/-- A doubleword of a block. -/
def dwordAt (blk : List Byte) (off : Nat) : DWord := BitVec.ofNat 64 (fieldAt blk off 8)

/-! ## Waiting instructions that a unit finishes -/

/-- What earlier operations of a group's class have written: those in progress, given, and those reported (R178, R181). -/
def State.earlierOf (s : State) (id : ThreadId) (group : Nat) (c : CounterClass) (order : Nat) (open_ : List Nat) : Know :=
  Know.ofSeen (open_ ++
    match s.group? id.wave group with
    | some g => (g.reported.filter fun r => r.cls == c && decide (r.order < order)).flatMap (·.wrote)
    | none => [])

/-- A waiting thread's instruction completes with scoreboarded results and the STACK check of R69, R364. -/
def State.finishWaiting (s : State) (id : ThreadId) (ws : List (Reg × Word)) (sc : Nat) : State :=
  match s.ctx id with
  | some c => finish c { sc := sc } (writeAfter c s ws)
  | none => s

/-! ## Slots and tiles by address (R164) -/

/-- Bytes of a slot or tile. -/
def slotBytes : Nat := 16384

/-- The wave, kind (true: tile) and name that an on-chip address in a slot or tile part reaches for wave w: a name that `names` gives w
or a peer whose first core's window it lies in. -/
def State.slotIn? (s : State) (names : Wave → Bool → List Nat) (w : Wave) (va : Nat) : Option (Nat × Bool × Nat) :=
  if !onChip va then none
  else
    let (c, part, o) := windowOf va
    let find (tile : Bool) : Option (Nat × Bool × Nat) :=
      ((s.household w).find? fun y => y.firstCore == c && (names y tile).contains (o / slotBytes)).map fun y =>
        (y.uid, tile, o / slotBytes)
    match part with
    | .slots => find false
    | .tiles => find true
    | _ => none

/-- The same of the names that the waves have claimed. -/
def State.slotOwner? (s : State) : Wave → Nat → Option (Nat × Bool × Nat) :=
  s.slotIn? fun y tile => if tile then y.heldTiles else y.heldSlots

/-- The same of the names in their footprints: a started operation goes on by its names after the stop of its domain has released the
claims (R14, R321). -/
def State.slotHome? (s : State) : Wave → Nat → Option (Nat × Bool × Nat) :=
  s.slotIn? fun y tile => if tile then y.tileNames else y.slotNames

/-- A name of a wave that is held and not releasing (R213). -/
def Wave.usable (w : Wave) (tile : Bool) (n : Nat) : Bool :=
  if tile then w.heldTiles.contains n && !w.relTiles.contains n else w.heldSlots.contains n && !w.relSlots.contains n

/-- The slots and tiles of waves that a copy's addresses reach. -/
def State.copyNames (s : State) (x : CopyOp) : List (Nat × Bool × Nat) :=
  match s.wave? x.thread.wave with
  | none => []
  | some w => (x.src :: x.dests.map (·.base)).filterMap fun a => s.slotOwner? w a.toNat

/-- The slots and tiles that a matrix operation reads or writes. -/
def MatrixOp.names (x : MatrixOp) : List (Nat × Bool × Nat) :=
  match x.kind with
  | .mma fmt _ a b c c2 _ _ _ _ _ _ _ =>
    [(x.thread.wave, false, a), (x.thread.wave, false, b), (x.thread.wave, true, c)] ++
      (if fmt = .f64 then [(x.thread.wave, true, c2)] else [])
  | .azero n => [(x.thread.wave, true, n)]

/-- A release of a slot or tile waits for an operation of this number: its mark, if it stands, came after the operation's entry (R213). -/
def State.markedAfter (s : State) (wave : Nat) (tile : Bool) (n op : Nat) : Bool :=
  (s.wave? wave).all fun w => w.relMarks.all fun m => !(m.tile == tile && m.name == n) || decide (op < m.before)

/-- Some operation that has not completed, entered before the release marked the name, reads or writes a slot or tile (R213, R252). -/
def State.nameInUse (s : State) (wave : Nat) (tile : Bool) (n : Nat) : Bool :=
  (s.matrixOps.any fun x => x.names.contains (wave, tile, n) && s.markedAfter wave tile n x.id) ||
    s.copies.any fun x => !x.completed && (s.copyNames x).contains (wave, tile, n) && s.markedAfter wave tile n x.id

/-! ## Products and sums of the engines -/

/-- The level of a GQ4 code (R87). -/
def gq4Level (q : Nat) : Int :=
  [-256, -181, -139, -107, -80, -55, -33, -11, 11, 33, 55, 80, 107, 139, 181, 256].getD (q % 16) 0

/-- An integer as an exact value. -/
def intVal (v : Int) : Fp.Val := .fin (decide (v < 0)) v.natAbs 0

/-- The exact sum of products with the flags of the operands, the products and the sum (R93, R96). -/
def exactDot (xs ys : List Fp.Val) : Fp.Val × FpFlags :=
  let ps := List.zipWith Fp.mul xs ys
  let r := Fp.sum .rne (ps.map (·.1))
  (r.1, Fp.sigFlag xs ||| Fp.sigFlag ys ||| ps.foldl (fun fl p => fl ||| p.2) 0 ||| r.2)

/-- rne(v, FP32), or rne(acc + v, FP32) where an accumulator stands. -/
def accumulate (acc : Option Nat) (v : Fp.Val) : Nat × FpFlags :=
  match acc with
  | none => Fp.roundVal Fp.fp32 .rne v
  | some a => Fp.sumRound Fp.fp32 .rne [Fp.decode Fp.fp32 a, v] (Fp.sigFlag [Fp.decode Fp.fp32 a])

/-- Sums in aligned groups of n along k (R97, R101), fuel at least the number of groups: the result and flags. -/
def groupedSum (n : Nat) : Nat → List Fp.Val → List Fp.Val → Option Nat → FpFlags → Nat × FpFlags
  | 0, _, _, acc, fl => (acc.getD 0, fl)
  | fuel + 1, xs, ys, acc, fl =>
    if xs.isEmpty then (acc.getD 0, fl)
    else
      let p := exactDot (xs.take n) (ys.take n)
      let r := accumulate acc p.1
      groupedSum n fuel (xs.drop n) (ys.drop n) (some r.1) (fl ||| p.2 ||| r.2)

/-- A K-block of a GQ4 operand: its scale, the number of its superblock, that superblock's scale. -/
structure GqBlock where
  scale : Nat
  sup : Nat
  supScale : Word
  deriving DecidableEq, Repr

/-- Block j's contribution b (R100, R88). Of a block with scale 255 no rounding of p is counted; beside a signalling operand only
invalid is raised: DESIGN CHOICE (log 73). -/
def gqBlock (qs xs : List Fp.Val) (scale : Nat) : Nat × FpFlags :=
  if scale = 255 then (Fp.fp32.nan, .invalid ||| Fp.sigFlag xs)
  else
    let p := exactDot qs xs
    let r := Fp.roundVal Fp.fp32 .rne p.1
    let m := Fp.mul (Fp.decode Fp.fp32 r.1) (intVal scale)
    let b := Fp.roundVal Fp.fp32 .rne m.1
    (b.1, p.2 ||| r.2 ||| m.2 ||| b.2)

/-- A superblock's contribution: t · S · 2^-8 rounded once. -/
def gqScaled (t : Nat) (scale : Word) : Nat × FpFlags :=
  let m := Fp.mul (Fp.decode Fp.fp32 t) (Fp.decode Fp.fp32 scale.toNat)
  let v :=
    match m.1 with
    | .fin neg n e => Fp.Val.fin neg n (e - 8)
    | x => x
  let r := Fp.roundVal Fp.fp32 .rne v
  (r.1, Fp.sigFlag [Fp.decode Fp.fp32 scale.toNat] ||| m.2 ||| r.2)

/-- R100's sum over blocks: `acc` the accumulator, `t` the sum of the present superblock with its number and scale. -/
def gqSum : List GqBlock → List Fp.Val → List Fp.Val → Option Nat → Option (Nat × Nat × Word) → FpFlags → Nat × FpFlags
  | [], _, _, acc, t, fl =>
    match t with
    | none => (acc.getD 0, fl)
    | some (v, _, sc) =>
      let c := gqScaled v sc
      match acc with
      | none => (c.1, fl ||| c.2)
      | some a =>
        let r := accumulate (some a) (Fp.decode Fp.fp32 c.1)
        (r.1, fl ||| c.2 ||| r.2)
  | b :: bs, qs, xs, acc, t, fl =>
    let p := gqBlock (qs.take 64) (xs.take 64) b.scale
    match t with
    | none => gqSum bs (qs.drop 64) (xs.drop 64) acc (some (p.1, b.sup, b.supScale)) (fl ||| p.2)
    | some (v, sup, sc) =>
      if sup = b.sup then
        let r := accumulate (some v) (Fp.decode Fp.fp32 p.1)
        gqSum bs (qs.drop 64) (xs.drop 64) acc (some (r.1, sup, sc)) (fl ||| p.2 ||| r.2)
      else
        let c := gqScaled v sc
        let a :=
          match acc with
          | none => (c.1, 0)
          | some a => accumulate (some a) (Fp.decode Fp.fp32 c.1)
        gqSum bs (qs.drop 64) (xs.drop 64) (some a.1) (some (p.1, b.sup, b.supScale)) (fl ||| p.2 ||| c.2 ||| a.2)

/-! ## Engine operations in groups -/

/-- A group's counters hold at most 63 (R219, R243). -/
def counterRoom : Nat := 63

/-- Entries of a core's matrix queue and of its bank queue (R219, R233). -/
def queueRoom : Nat := 16

/-- OR an operation's flags into its issuing thread's %fflags; those of a hard-stopped thread, whose %fflags lie in its save area,
when it is restored (R94). -/
def State.orFlags (s : State) (id : ThreadId) (fl : FpFlags) : State :=
  s.mapThread id fun t =>
    if t.status = .stopped then { t with owed := t.owed ||| fl } else { t with fflags := addFlags t.fflags false fl }

/-- An operation of a class is issued by a group (R207): its number enters the counter, and it takes its place. -/
def Group.issue (g : Group) (c : CounterClass) (op : Nat) : Group :=
  let g := { g with issued := g.issued.set (classIndex c) (g.issued[classIndex c] + 1) }
  match c with
  | .copy => { g with copyOps := g.copyOps ++ [op] }
  | .matrix => { g with matrixOps := g.matrixOps ++ [op] }
  | .bank => { g with bankOps := g.bankOps ++ [op] }
  | .remote => { g with remoteOps := g.remoteOps ++ [op] }

/-- The operations of a class that a group has issued and that are not reported. -/
def Group.open_ (g : Group) : CounterClass → List Nat
  | .copy => g.copyOps
  | .matrix => g.matrixOps
  | .bank => g.bankOps
  | .remote => g.remoteOps

/-- An operation is the next of its group's counter to be reported (R207). -/
def State.firstOpen (s : State) (id : ThreadId) (group op : Nat) (c : CounterClass) : Bool :=
  ((s.group? id.wave group).map fun g => (g.open_ c).head? == some op).getD true

/-- An operation's completion is reported: it leaves the counter; what it passes on stands for WAITCs, what it wrote for the later
operations of its class (R176, R178, R207). -/
def Group.report (g : Group) (c : CounterClass) (op order : Nat) (know : Know) (wrote : List Nat) : Group :=
  let g := if know = Know.none then g else { g with reported := g.reported ++ [⟨c, order, know, wrote⟩] }
  match c with
  | .copy => { g with copyOps := g.copyOps.filter (· != op) }
  | .matrix => { g with matrixOps := g.matrixOps.filter (· != op) }
  | .bank => { g with bankOps := g.bankOps.filter (· != op) }
  | .remote => { g with remoteOps := g.remoteOps.filter (· != op) }

/-- A completed operation of a thread is reported to its group, and counts among what its wave's step passes on (R176, R185). -/
def State.report (s : State) (id : ThreadId) (group : Nat) (c : CounterClass) (op order : Nat) (waitc step : Know)
    (wrote : List Nat) : State :=
  let s := s.mapGroup id.wave group fun g => g.report c op order waitc wrote
  match s.wave? id.wave with
  | some w => s.mapLaunch w.launch fun l => { l with later := l.later.join step }
  | none => s

end Sys2Proof.Machine
end

