-- ==== Sys2Proof/Machine/Engines.lean ====
section
/-!
DEFINITION. How the copy engine and the bank units reach global memory (spec 11 R165; 23 R329, R330, R345; 15 R231; 17 R248,
R251), and their stalled chunks and rows: posting, tokens, verdicts (23 R324, R325).
-/
namespace Sys2Proof.Machine

open Sys2Proof

/-! ## Global memory, in pieces that lie in one 4 KiB page -/

/-- An engine's access: in system mode, with the remote flag, writing; by a BMV, which does not reach host memory (R340); and who
makes it. -/
structure EngineKind where
  system : Bool
  remote : Bool
  writes : Bool
  bank : Bool
  viewer : Viewer
  deriving DecidableEq, Repr

/-- What an engine's access meets: a result; a wait for a translation (R330); or a fault with its address and size. -/
inductive Reached (α : Type) where
  | ok (x : α)
  | wait
  | fault (c : Cause) (va size : Nat)

/-- The physical address of a piece whose view `accepts` allows, and whether the view is a layout's (R165, R231, R251, R340). A
copy without the remote flag reaches no other module (R344). A BMV does, of which the manual says nothing: DESIGN CHOICE (log 79). -/
def State.enginePlace (s : State) (k : EngineKind) (accepts : Nat → Bool) (va n : Nat) : Reached (Nat × Bool) :=
  if 2 ^ 57 < va + n || onChip va then .fault .xlate va n
  else
    match s.translate k.remote va with
    | none => .fault .xlate va n
    | some l =>
      let pa := l.physical va
      if l.layout = 5 then .wait
      else if (l.system && !k.system) || (k.writes && !l.write) then .fault .perm va n
      else if !accepts l.layout || (l.layout ≠ 0 && s.tagOf pa != l.layout) || (k.bank && hostRange (pa % 2 ^ 46)) then
        .fault .layout va n
      else if k.writes && l.migrating then .wait
      else if !k.bank && !k.remote && pa / 2 ^ 46 != s.moduleNo then .fault .engine va n
      else if s.unreachable pa || (!k.writes && s.poisoned (.phys pa) n) then .fault .poison va n
      else .ok (pa, l.layout != 0)

/-- Bytes until the next 4 KiB boundary, at most n. -/
def pieceBytes (va n : Nat) : Nat := min n (4096 - va % 4096)

/-- The pieces of n bytes at va; fuel at least their number. -/
def pieces : Nat → Nat → Nat → List (Nat × Nat)
  | 0, _, _ => []
  | fuel + 1, va, n => if n = 0 then [] else (va, pieceBytes va n) :: pieces fuel (va + pieceBytes va n) (n - pieceBytes va n)

/-- Read the pieces of a range, with free values from `base` on; the first that cannot be read decides. The address it reports for
poison is the start of the piece that holds the poisoned line: DESIGN CHOICE (log 72). -/
def State.enginePieces (s : State) (k : EngineKind) (accepts : Nat → Bool) (base : Nat) : List (Nat × Nat) → Reached Raced
  | [] => .ok ⟨[], []⟩
  | (va, n) :: ps =>
    match s.enginePlace k accepts va n with
    | .ok (pa, view) =>
      match s.enginePieces k accepts (base + s.racingSpan n) ps with
      | .ok more => .ok ((s.readRacing k.viewer view (.phys pa) n base).append more)
      | r => r
    | .wait => .wait
    | .fault c a m => .fault c a m

/-- Read n bytes at va, with free values from `base` on. -/
def State.engineRead (s : State) (k : EngineKind) (accepts : Nat → Bool) (va n base : Nat) : Reached Raced :=
  s.enginePieces k accepts base (pieces (n / 4096 + 2) va n)

/-- Only the raw view. -/
def rawOnly (l : Nat) : Bool := l == 0

/-- One layout. -/
def onlyLayout (k l : Nat) : Bool := l == k

/-- The raw view or the layout-1 view (R246). -/
def rawOrGq (l : Nat) : Bool := decide (l ≤ 1)

/-- The raw view or a bank view (R248). -/
def rawOrBank (l : Nat) : Bool := decide (l ≤ 3)

/-- Go on with a result. -/
def Reached.bind {α β : Type} (r : Reached α) (f : α → Reached β) : Reached β :=
  match r with
  | .ok x => f x
  | .wait => .wait
  | .fault c va n => .fault c va n

/-! ## Stalled chunks and rows (R324, R325) -/

/-- The chunk or row that a token names on a die. -/
def Die.stalledAt? (d : Die) (token : Nat) : Option Poster :=
  match d.stallSlots.find? fun x => x.idx == token % 4096 && tokenOf x.idx x.count == token with
  | some x => x.what
  | none => none

/-- Free the slots of some tokens of a die. -/
def State.freeTokens (s : State) (d : Nat) (tokens : List Nat) : State :=
  s.mapDie d fun x =>
    { x with
      stallSlots := updateIf (fun y => tokens.contains (tokenOf y.idx y.count)) (fun y => { y with what := none }) x.stallSlots }

/-- Forget who waits for the posting of an operation's records. -/
def State.orphanPosts (s : State) (d op : Nat) : State :=
  let mine (w : Poster) : Bool :=
    match w with
    | .chunk o _ => o == op
    | .row o _ => o == op
    | _ => false
  s.mapDie d fun x => { x with posting := updateIf (fun p => mine p.poster) (fun p => { p with poster := .nobody }) x.posting }

/-- Change a copy. -/
def State.mapCopy (s : State) (op : Nat) (f : CopyOp → CopyOp) : State :=
  { s with copies := updateIf (fun x => x.id == op) f s.copies }

/-- Change a BMV. -/
def State.mapBmv (s : State) (op : Nat) (f : BmvOp → BmvOp) : State := { s with bmvs := updateIf (fun x => x.id == op) f s.bmvs }

/-- A chunk or row waits for a verdict under a token. -/
def State.setToken (s : State) (who : Poster) (token : Option Nat) : State :=
  match who with
  | .chunk op ch =>
    s.mapCopy op fun x => { x with stalled := updateIf (fun y => y.1 == ch) (fun y => (y.1, token)) x.stalled }
  | .row op row =>
    s.mapBmv op fun x => { x with stalled := updateIf (fun y => y.1 == row) (fun y => (y.1, token)) x.stalled }
  | _ => s

/-- Verdict fatal: the chunk or row is not done again (R231, R251). One that no longer stalls has had its end. -/
def State.declareFatal (s : State) (who : Poster) : State :=
  match who with
  | .chunk op ch =>
    s.mapCopy op fun x =>
      if x.stalled.any fun y => y.1 == ch then { x with stalled := x.stalled.filter fun y => !(y.1 == ch), fatal := true } else x
  | .row op row =>
    s.mapBmv op fun x =>
      if x.stalled.any fun y => y.1 == row then
        { x with stalled := x.stalled.filter fun y => !(y.1 == row), done := x.done ++ [row], fatal := true }
      else x
  | _ => s

/-- Verdict retry: the chunk or row starts again from its beginning. -/
def State.retry (s : State) (who : Poster) : State :=
  match who with
  | .chunk op ch =>
    s.mapCopy op fun x =>
      if x.stalled.any fun y => y.1 == ch then
        { x with stalled := x.stalled.filter fun y => !(y.1 == ch), retry := x.retry ++ [ch] }
      else x
  | .row op row => s.mapBmv op fun x => { x with stalled := x.stalled.filter fun y => !(y.1 == row) }
  | _ => s

/-- Firmware resolves a token of a die: the chunk or row, which no longer stalls, is fatal or to be done again at once (R325, R339);
that it starts, or that a fatal copy's stream goes on, is an event of its own. What the writer of %fres knows is released to the chunk or
row that is done again, a row too, whose reads R180 orders otherwise (log 94). A token that names nothing is ignored and counted. -/
def State.giveVerdict (s : State) (die : Nat) (know : Know) (v : Word) : State :=
  let token := v.toNat % 65536
  match (s.die? die).bind fun d => d.stalledAt? token with
  | none => s.countError die
  | some who =>
    let s := s.freeTokens die [token]
    let s := (if v.getLsbD 31 then s.declareFatal who else s.retry who).mapDie die fun d =>
      { d with verdicts := d.verdicts ++ [(who, v.getLsbD 31)] }
    match who with
    | .chunk op ch => if v.getLsbD 31 then s else s.mapCopy op fun x => { x with lent := x.lent ++ [(ch, know)] }
    | .row op row => if v.getLsbD 31 then s else s.mapBmv op fun x => { x with lent := x.lent ++ [(row, know)] }
    | _ => s

/-- A chunk or row of a die is to be done again and has not yet been started: its retry is still to come (R325). -/
def State.toRetry (s : State) (die : Nat) (who : Poster) : Bool := (s.die? die).any fun d => d.verdicts.contains (who, false)

end Sys2Proof.Machine
end

