-- ==== Sys2Proof/Machine/Matrix.lean ====
section
/-!
DEFINITION. Operand slots, accumulator tiles and the matrix engine (spec 15 R209..R225; 05 R97..R100): TILE, MMA, and the steps
that grant a claim, end a release, start and complete an operation.
-/
namespace Sys2Proof.Machine

open Sys2Proof

/-! ## Claiming and releasing (R211..R213) -/

/-- A wave's names of a kind. -/
def Wave.names (w : Wave) (tile : Bool) : List Nat := if tile then w.tileNames else w.slotNames
def Wave.held (w : Wave) (tile : Bool) : List Nat := if tile then w.heldTiles else w.heldSlots
def Wave.releasing (w : Wave) (tile : Bool) : List Nat := if tile then w.relTiles else w.relSlots
def Wave.claims (w : Wave) (tile : Bool) : List Nat := if tile then w.tileQueue else w.slotQueue

/-- The lowest of some numbers. -/
def lowest : List Nat → Option Nat
  | [] => none
  | x :: xs => some (xs.foldl min x)

/-- The name the next claim of a kind receives, when the quota leaves one (R212). -/
def Wave.nextName (w : Wave) (tile : Bool) : Option Nat :=
  if (w.held tile).length < (w.names tile).length then
    lowest ((w.names tile).filter fun n => !(w.held tile).contains n && !(w.releasing tile).contains n)
  else none

/-- Take a name. -/
def Wave.hold (w : Wave) (tile : Bool) (n : Nat) : Wave :=
  if tile then { w with heldTiles := w.heldTiles ++ [n] } else { w with heldSlots := w.heldSlots ++ [n] }

/-- Put a claim at the tail of its queue, once. -/
def Wave.enqueueClaim (w : Wave) (tile : Bool) (idx : Nat) : Wave :=
  if (w.claims tile).contains idx then w
  else if tile then { w with tileQueue := w.tileQueue ++ [idx] }
  else { w with slotQueue := w.slotQueue ++ [idx] }

/-- Remove a claim from its queue. -/
def Wave.dequeueClaim (w : Wave) (tile : Bool) (idx : Nat) : Wave :=
  if tile then { w with tileQueue := w.tileQueue.filter (· != idx) } else { w with slotQueue := w.slotQueue.filter (· != idx) }

/-- Mark a name releasing, the next operation being to have the number `before`. -/
def Wave.markReleasing (w : Wave) (tile : Bool) (n before : Nat) : Wave :=
  let w := { w with relMarks := w.relMarks ++ [(⟨tile, n, before⟩ : RelMark)] }
  if tile then { w with relTiles := w.relTiles ++ [n] } else { w with relSlots := w.relSlots ++ [n] }

/-- Drop a name's mark. -/
def Wave.unmark (w : Wave) (tile : Bool) (n : Nat) : Wave :=
  let w := { w with relMarks := w.relMarks.filter fun m => !(m.tile == tile && m.name == n) }
  if tile then { w with relTiles := w.relTiles.filter (· != n) } else { w with relSlots := w.relSlots.filter (· != n) }

/-- Give a name back. -/
def Wave.giveBack (w : Wave) (tile : Bool) (n : Nat) : Wave :=
  let w := w.unmark tile n
  if tile then { w with heldTiles := w.heldTiles.filter (· != n) } else { w with heldSlots := w.heldSlots.filter (· != n) }

/-- A claim (R212): SLOT with a quota of 0; at the head of its queue with a name to give, the name; else it waits in the
queue. -/
def claimName (c : Ctx) (s : State) (tile : Bool) (d : Reg) (sc : Nat) : Effect :=
  if (c.w.names tile).isEmpty then .trap s .slot (Word.pair 0xFFFFFFFF 0)
  else
    match (c.w.claims tile).isEmpty, c.w.nextName tile with
    | true, some n =>
      writeAfter c (s.mapWave c.w.uid fun w => w.hold tile n) [(d, BitVec.ofNat 32 n)]
    | _, _ => .wait (s.mapWave c.w.uid fun w => w.enqueueClaim tile c.t.id.idx) (.claim tile d sc)

/-- A release (R213): SLOT for a name not held or releasing; with no operation that names it the name is given back; else
it is marked and the thread waits. -/
def releaseName (c : Ctx) (s : State) (tile : Bool) (n sc : Nat) : Effect :=
  if !c.w.usable tile n then .trap s .slot (Word.pair (BitVec.ofNat 32 n) 0)
  else if s.nameInUse c.w.uid tile n then
    .wait (s.mapWave c.w.uid fun w => w.markReleasing tile n s.nextId) (.release tile n sc)
  else .done (s.mapWave c.w.uid fun w => w.giveBack tile n)

/-- SCLAIM (R212). -/
def execSclaim (f : DF) : State → Host.Outcome State Fault Refusal :=
  runForm { g := f.g, sc := f.sc, names := [f.d] } fun c _ s => claimName c s false f.d f.sc

/-- ACLAIM (R212). -/
def execAclaim (f : DF) : State → Host.Outcome State Fault Refusal :=
  runForm { g := f.g, sc := f.sc, names := [f.d] } fun c _ s => claimName c s true f.d f.sc

/-- SREL (R213). -/
def execSrel (f : AF) : State → Host.Outcome State Fault Refusal :=
  runForm { g := f.g, sc := f.sc, reads := [f.a] } fun c o s => releaseName c s false (o 0).toNat f.sc

/-- AREL (R213). -/
def execArel (f : AF) : State → Host.Outcome State Fault Refusal :=
  runForm { g := f.g, sc := f.sc, reads := [f.a] } fun c o s => releaseName c s true (o 0).toNat f.sc

/-- The claim at the head of a wave's queue of a kind is granted, when a name is free (R212). -/
def execSlotClaimGrant (wave : Nat) (tile : Bool) (s : State) : Host.Outcome State Fault Refusal :=
  .next <|
    match s.wave? wave with
    | none => s
    | some w =>
      match w.claims tile, w.nextName tile with
      | idx :: _, some n =>
        match s.thread? ⟨wave, idx⟩ with
        | some t =>
          match t.wait with
          | .claim k d sc =>
            if k = tile then
              (s.mapWave wave fun w => (w.dequeueClaim tile idx).hold tile n).finishWaiting t.id [(d, BitVec.ofNat 32 n)] sc
            else s
          | _ => s.mapWave wave fun w => w.dequeueClaim tile idx
        | none => s.mapWave wave fun w => w.dequeueClaim tile idx
      | _, _ => s

/-- A release ends when no operation entered before the mark names its slot or tile any more (R213). -/
def execSlotReleaseComplete (wave : Nat) (tile : Bool) (n : Nat) (s : State) : Host.Outcome State Fault Refusal :=
  .next <|
    match s.wave? wave with
    | none => s
    | some w =>
      if !(w.releasing tile).contains n || s.nameInUse wave tile n then s
      else
        let s := s.mapWave wave fun w => w.giveBack tile n
        (s.threads.filter fun t => t.id.wave == wave &&
          (match t.wait with
            | .release k m _ => k == tile && m == n
            | _ => false)).foldl (fun s t =>
          match t.wait with
          | .release _ _ sc => s.finishWaiting t.id [] sc
          | _ => s) s

/-! ## Formats (R215) -/

/-- How an MMA reads the elements of an operand. -/
inductive Elem where
  | float (f : Fp.Format)
  | int (bits : Nat)
  | gq4
  deriving DecidableEq, Repr

/-- An element's bits. -/
def Elem.bits : Elem → Nat
  | .float f => f.width
  | .int n => n
  | .gq4 => 4

/-- An element's exact value. -/
def Elem.value (e : Elem) (x : Nat) : Fp.Val :=
  match e with
  | .float f => Fp.decode f x
  | .int n => intVal (if 2 ^ (n - 1) ≤ x then (x : Int) - 2 ^ n else x)
  | .gq4 => intVal (gq4Level x)

/-- The format of A (R215). -/
def aElem : MmaFmt → Elem
  | .f64 => .float Fp.fp64
  | .f32 => .float Fp.fp32
  | .bf16 => .float Fp.bf16
  | .f16 => .float Fp.fp16
  | .e4 => .float Fp.e4m3
  | .e5 => .float Fp.e5m2
  | .e4e5 => .float Fp.e4m3
  | .e2 => .float Fp.e2m1
  | .bfgq4 => .float Fp.bf16
  | .e4gq4 => .float Fp.e4m3
  | .i8 => .int 8
  | .i4 => .int 4

/-- The format of B (R215). -/
def bElem : MmaFmt → Elem
  | .f64 => .float Fp.fp64
  | .f32 => .float Fp.fp32
  | .bf16 => .float Fp.bf16
  | .f16 => .float Fp.fp16
  | .e4 => .float Fp.e4m3
  | .e5 => .float Fp.e5m2
  | .e4e5 => .float Fp.e5m2
  | .e2 => .float Fp.e2m1
  | .bfgq4 => .gq4
  | .e4gq4 => .gq4
  | .i8 => .int 8
  | .i4 => .int 4

/-- FMT 8 and 9. -/
def isGq (f : MmaFmt) : Bool := f == .bfgq4 || f == .e4gq4

/-- The bytes that 64 · K elements occupy (R215). -/
def operandBytes (e : Elem) (k : Nat) : Nat := 64 * k * e.bits / 8

/-- The largest K from one full slot (R215). -/
def largestK (f : MmaFmt) : Nat := 2048 / max (aElem f).bits (bElem f).bits

/-- An offset is a multiple of the element size; any byte for 4-bit elements (R217). -/
def aligned (e : Elem) (o : Nat) : Bool := o % ((e.bits + 7) / 8) == 0

/-! ## MMA (R216..R220) -/

/-- A field that holds a name: above 15 it is an invalid field, else the name must be held and not releasing (R219). -/
def nameCheck (w : Wave) (o : Word) (blk : List Byte) (off : Nat) (tile : Bool) : Option (Cause × DWord) :=
  let n := fieldAt blk off 1
  if 15 < n then some (.engine, engineInfo o off)
  else if w.usable tile n then none
  else some (.slot, Word.pair (BitVec.ofNat 32 n) 0)

/-- An ENGINE trap at a field when its limit does not hold. -/
def fieldCheck (o : Word) (ok : Bool) (off : Nat) : Option (Cause × DWord) := if ok then none else some (.engine, engineInfo o off)

/-- The checks of an MMA block (R217, R219, R363): the first trap. -/
def mmaTrap (w : Wave) (fmt : MmaFmt) (o : Word) (blk : List Byte) : Option (Cause × DWord) :=
  let u1 (off : Nat) : Nat := fieldAt blk off 1
  let k := fieldAt blk 4 2
  let oA := fieldAt blk 16 2
  let oB := fieldAt blk 18 2
  let quad := fmt == .f64
  let nibble := fmt == .e2 || fmt == .i4
  let notify := fieldAt blk 20 4 == 1
  [ nameCheck w o blk 0 false, nameCheck w o blk 1 false, nameCheck w o blk 2 true,
    if quad then nameCheck w o blk 3 true else fieldCheck o (u1 3 == 0) 3,
    fieldCheck o (!quad || u1 3 != u1 2) 3,
    fieldCheck o (decide (1 ≤ k) && decide (k ≤ largestK fmt) && (!nibble || k % 2 == 0) && (!isGq fmt || k % 64 == 0)) 4,
    fieldCheck o (decide (u1 6 ≤ 1) && (!nibble || u1 6 == 0)) 6,
    fieldCheck o (decide (u1 7 ≤ 1) && (!(nibble || isGq fmt) || u1 7 == 0)) 7,
    fieldCheck o (fieldAt blk 8 4 == 0) 8,
    fieldCheck o (isGq fmt || fieldAt blk 12 4 == 0) 12,
    fieldCheck o (aligned (aElem fmt) oA && decide (oA + operandBytes (aElem fmt) k ≤ slotBytes)) 16,
    fieldCheck o (aligned (bElem fmt) oB && (!isGq fmt || oB % 2048 == 0) &&
      decide (oB + operandBytes (bElem fmt) k ≤ slotBytes)) 18,
    fieldCheck o (decide (fieldAt blk 20 4 ≤ 1)) 20,
    fieldCheck o (notify || fieldAt blk 24 4 == 0) 24,
    fieldCheck o (notify || fieldAt blk 28 4 == 0) 28 ].findSome? id

/-- What a snapshot may see of a lane's register: its bank, or, while writes spread late, the bank before a write still under
way that does not happen-before the issue (R220). -/
def Thread.bankSeen (t : Thread) (late : Bool) (known : List Nat) (r : Reg) : List Word :=
  t.bank r :: ((t.open_ r).takeWhile fun x => late && x.event.all fun e => !known.contains e).map (·.bank)

/-- The scale snapshot (R220): the byte of column n for K-block i at place 64·i + n. `own` are the issuing lane's values of
SR and SR + 1. Of another lane's register that carries a poison mark the bank's value is taken, without a trap: DESIGN CHOICE (log 25). -/
def State.scaleSnapshot (s : State) (c : Ctx) (sr : Reg) (bsel oB k : Nat) (own : Word × Word) : List Nat :=
  let seen (t : Thread) (r : Reg) : List Word := t.bankSeen s.late c.t.sight.know.seen r
  let regs (n : Nat) : Word × Word :=
    if n = c.w.laneOf c.t.id.idx then own
    else
      match s.thread? ⟨c.w.uid, c.w.groupOf c.t.id.idx * c.w.width + n⟩ with
      | none => (0, 0)
      | some t =>
        if t.live then
          (chooseAt 0 (s.free + 2 * n) (seen t sr), chooseAt 0 (s.free + 2 * n + 1) (seen t (sr.succ 1)))
        else (0, 0)
  (List.range (k / 64)).flatMap fun i =>
    let p := (oB / 2048 + i + 16 - bsel) % 8
    (List.range 64).map fun n =>
      let r := regs n
      field (if p < 4 then r.1 else r.2).toNat (8 * (p % 4)) 8

/-- The operations in a core's matrix queue. -/
def State.matrixQueue (s : State) (c : CoreId) : List MatrixOp := s.matrixOps.filter fun x => x.core == c

/-- Room for one more operation of a group in its core's matrix engine (R219). When an entry leaves the queue the manual does not say; an
operation stands in it until it completes, while it executes too: DESIGN CHOICE (log 86). -/
def matrixRoom (c : Ctx) (s : State) : Bool :=
  decide (c.g.matrixOps.length < counterRoom) && decide ((s.matrixQueue c.w.coreId).length < queueRoom)

/-- Enter an operation (R219): the issue is a release toward it. `port` is the completion port of one that sends a message. -/
def enterMatrix (c : Ctx) (s : State) (kind : MatrixKind) (port : Option Word) (tag : Word) : State :=
  let s := s.sending c.t.id
  let g := c.w.groupOf c.t.id.idx
  let op : MatrixOp :=
    { id := s.nextId, thread := c.t.id, group := g, pc := c.t.pc, core := c.w.coreId, kind := kind,
      notifies := port.isSome, port := port.getD noHandle, tag := tag, started := false, fflags := 0, fatal := false,
      order := c.g.issued[classIndex .matrix] + 1, know := s.knows c.t.id }
  let s := s.mapGroup c.w.uid g fun x => x.issue .matrix s.nextId
  { s with matrixOps := s.matrixOps ++ [op], nextId := s.nextId + 1 }

/-- MMA (R216, R219, R220). -/
def execMma (f : MmaF) : State → Host.Outcome State Fault Refusal :=
  runForm { sc := f.sc, reads := f.a :: (if isGq f.fmt then f.sr.pair else []) } fun c o s =>
    if !matrixRoom c s then .wait s .poll
    else
      withBlock c s (o 0) 32 8 fun s blk =>
        if isGq f.fmt && c.w.width != 64 then .trap s .engine (engineInfo (o 0) 0x100)
        else
          match mmaTrap c.w f.fmt (o 0) blk with
          | some (cause, ea) => .trap s cause ea
          | none =>
            let k := fieldAt blk 4 2
            let oB := fieldAt blk 18 2
            let notify := fieldAt blk 20 4 = 1
            let scales := if isGq f.fmt then s.scaleSnapshot c f.sr f.bsel oB k (o 1, o 2) else []
            let s : State := if isGq f.fmt then { s with free := s.free + 128 } else s
            .done (enterMatrix c s
              (.mma f.fmt f.mode (fieldAt blk 0 1) (fieldAt blk 1 1) (fieldAt blk 2 1) (fieldAt blk 3 1) k
                (fieldAt blk 6 1 == 1) (fieldAt blk 7 1 == 1) (wordAt blk 12) (fieldAt blk 16 2) oB scales)
              (if notify then some (wordAt blk 24) else none) (wordAt blk 28))

/-- AZERO (R214). -/
def execAzero (f : AF) : State → Host.Outcome State Fault Refusal :=
  runForm { g := f.g, sc := f.sc, reads := [f.a] } fun c o s =>
    if !matrixRoom c s then .wait s .poll
    else if !c.w.usable true (o 0).toNat then .trap s .slot (Word.pair (o 0) 0)
    else .done (enterMatrix c s (.azero (o 0).toNat) none 0)

/-! ## What an MMA computes (R210, R215, R221) -/

/-- Element i of a packed array of elements of b bits: a byte-aligned size, or nibbles (R86). -/
def packedElem (bs : Array Byte) (b i : Nat) : Nat :=
  if b = 4 then field (bs.getD (i / 2) 0).toNat (4 * (i % 2)) 4
  else leNat ((List.range (b / 8)).map fun j => bs.getD (i * (b / 8) + j) 0)

/-- The values of an operand's 64 · K elements. -/
def operandElems (slots : Memory) (slot off k : Nat) (e : Elem) : Array Fp.Val :=
  let bs := (slots.run (slot * slotBytes + off) (operandBytes e k)).toArray
  ((List.range (64 * k)).map fun i => e.value (packedElem bs e.bits i)).toArray

/-- Row m of A (R215). -/
def rowOfA (a : Array Fp.Val) (col : Bool) (k m : Nat) : List Fp.Val :=
  (List.range k).map fun j => a.getD (if col then j * 64 + m else m * k + j) (.nan false)

/-- Column n of B (R215). -/
def colOfB (b : Array Fp.Val) (col : Bool) (k n : Nat) : List Fp.Val :=
  (List.range k).map fun j => b.getD (if col then n * k + j else j * 64 + n) (.nan false)

/-- The group size of R97. -/
def groupSize : MmaFmt → Nat
  | .f32 => 8
  | .e2 => 64
  | _ => 32

/-- FP64: a chain of fused multiply-adds in increasing k (R98). -/
def chain64 : List (Fp.Val × Fp.Val) → Option Nat → FpFlags → Nat × FpFlags
  | [], acc, fl => (acc.getD 0, fl)
  | (x, y) :: r, acc, fl =>
    let p := Fp.mul x y
    let fl := fl ||| Fp.sigFlag [x, y] ||| p.2
    match acc with
    | none =>
      let v := Fp.roundVal Fp.fp64 .rne p.1
      chain64 r (some v.1) (fl ||| v.2)
    | some a =>
      let v := Fp.sumRound Fp.fp64 .rne [p.1, Fp.decode Fp.fp64 a] (Fp.sigFlag [Fp.decode Fp.fp64 a])
      chain64 r (some v.1) (fl ||| v.2)

/-- The integer sum of R99. -/
def intDot (xs ys : List Fp.Val) : Int :=
  (List.zipWith (fun x y => Fp.units 0 x * Fp.units 0 y) xs ys).foldl (· + ·) 0

/-- One output element from a row of A and a column of B, `old` being the element that MODE 1 starts from (R97..R100). -/
def outputElem (fmt : MmaFmt) (xs ys : List Fp.Val) (old : Option Nat) (scales : List Nat) (scale : Word) : Nat × FpFlags :=
  match fmt with
  | .f64 => chain64 (List.zip xs ys) old 0
  | .i8 | .i4 => ((BitVec.ofInt 32 ((old.getD 0 : Nat) + intDot xs ys)).toNat, 0)
  | .bfgq4 | .e4gq4 => gqSum (scales.map fun b => ⟨b, 0, scale⟩) ys xs old none 0
  | _ => groupedSum (groupSize fmt) (xs.length + 1) xs ys old 0

/-- The address of output element (m, n) in a wave's tiles (R210). -/
def outputPlace (fmt : MmaFmt) (c c2 m n : Nat) : Nat :=
  if fmt = .f64 then (if m < 32 then c * slotBytes + 8 * (64 * m + n) else c2 * slotBytes + 8 * (64 * (m - 32) + n))
  else c * slotBytes + 4 * (64 * m + n)

/-- All outputs of an MMA on a wave's slots and tiles, with the flags. -/
def mmaCompute (w : Wave) (fmt : MmaFmt) (mode : MmaMode) (a b c c2 k : Nat) (aCol bCol : Bool) (scale : Word) (oA oB : Nat)
    (scales : List Nat) : Memory × FpFlags :=
  let av := operandElems w.slotMem a oA k (aElem fmt)
  let bv := operandElems w.slotMem b oB k (bElem fmt)
  let cols := (List.range 64).map (colOfB bv bCol k)
  let size := if fmt = .f64 then 8 else 4
  let old := (w.tileMem.run (c * slotBytes) slotBytes).toArray ++
    (if fmt = .f64 then (w.tileMem.run (c2 * slotBytes) slotBytes).toArray else #[])
  let oldElem (m n : Nat) : Option Nat :=
    if mode = .acc then some (packedElem old (8 * size) (64 * m + n)) else none
  let column (n : Nat) : List Nat := (List.range (k / 64)).map fun i => scales.getD (64 * i + n) 0
  let out := (List.range 64).flatMap fun m =>
    let row := rowOfA av aCol k m
    cols.zipIdx.map fun y => outputElem fmt row y.1 (oldElem m y.2) (column y.2) scale
  let bytes := out.flatMap fun r => leBytes size r.1
  let t := w.tileMem.splice (c * slotBytes) (bytes.take slotBytes)
  (if fmt = .f64 then t.splice (c2 * slotBytes) (bytes.drop slotBytes) else t, out.foldl (fun fl r => fl ||| r.2) 0)

/-- The poisoned words that an MMA reads, as on-chip addresses (R224). -/
def mmaPoison (w : Wave) (fmt : MmaFmt) (mode : MmaMode) (a b c c2 k oA oB : Nat) : List Nat :=
  let slots (slot off : Nat) (e : Elem) : List Nat :=
    ((unitsOf 4 (slot * slotBytes + off) (operandBytes e k)).filter w.slotPoison.contains).map (0x100000 + 4 * ·)
  let tiles (t : Nat) : List Nat := ((unitsOf 4 (t * slotBytes) slotBytes).filter w.tilePoison.contains).map (0x200000 + 4 * ·)
  (slots a oA (aElem fmt) ++ slots b oB (bElem fmt) ++
    (if mode = .acc then tiles c ++ (if fmt = .f64 then tiles c2 else []) else [])).map (windowBase w.firstCore + ·)

/-- What the operation at the head of a queue does to its wave's tiles (R214, R221, R224): the state, its flags, whether it
met poison. Which poisoned word its record names is free. -/
def State.runMatrix (s : State) (x : MatrixOp) (w : Wave) : State × FpFlags × Bool :=
  match x.kind with
  | .azero n =>
    (s.mapWave w.uid fun w =>
      { w with
        tileMem := w.tileMem.zero (n * slotBytes) slotBytes
        tilePoison := w.tilePoison.filter fun u => !(u / 4096 == n) }, 0, false)
  | .mma fmt mode a b c c2 k aCol bCol scale oA oB scales =>
    let bad := mmaPoison w fmt mode a b c c2 k oA oB
    if bad.isEmpty then
      let r := mmaCompute w fmt mode a b c c2 k aCol bCol scale oA oB scales
      (s.mapWave w.uid fun w => { w with tileMem := r.1 }, r.2, false)
    else
      let va := chooseAt 0 s.free bad
      let r := s.recordFor x.thread .poison 3 (BitVec.ofNat 64 va) x.pc x.port 3 4 (some x.core.core) none
      let s : State := { s with free := s.free + 1 }
      (s.post r.die r (.matrix x.id), 0, true)

/-- The matrix engine of a core takes the next entered operation, one at a time in order of entry, reads its operands and
writes its tiles (R222). -/
def execMatrixOpStart (c : CoreId) (s : State) : Host.Outcome State Fault Refusal :=
  .next <|
    match s.matrixQueue c with
    | [] => s
    | x :: _ =>
      if x.started then s
      else
        match s.wave? x.thread.wave with
        | none => s
        | some w =>
          let r := s.runMatrix x w
          let mark (y : MatrixOp) : MatrixOp := { y with started := true, fflags := r.2.1, fatal := r.2.2 }
          { r.1 with matrixOps := updateIf (fun y => y.id == x.id) mark r.1.matrixOps }

/-- The record of an operation still waits to be accepted (R323). -/
def State.posting (s : State) (die : Nat) (who : Poster) : Bool := (s.die? die).any fun d => d.posting.any fun p => p.poster == who

/-- What a matrix operation's accesses pass on: what happens-before them, and so before its writes of tiles. -/
def MatrixOp.passesOn (x : MatrixOp) : Know := if x.fatal then x.know else x.know.afterWrites []

/-- An operation completes (R223): its group's counter, its flags, its message. -/
def execMatrixOpCompletion (c : CoreId) (s : State) : Host.Outcome State Fault Refusal :=
  .next <|
    match s.matrixQueue c with
    | [] => s
    | x :: _ =>
      if !x.started || s.posting x.core.die (.matrix x.id) then s
      else
        let s : State := { s with matrixOps := s.matrixOps.filter fun y => !(y.id == x.id) }
        let s := s.report x.thread x.group .matrix x.id x.order x.passesOn x.passesOn []
        let s := s.orFlags x.thread x.fflags
        if x.notifies then s.notify x.core.die x.port (if x.fatal then 1 else 0) x.tag 1 x.passesOn else s

end Sys2Proof.Machine
end

