-- ==== Sys2Proof/Machine/Bank.lean ====
section
/-!
DEFINITION. The bank units (spec 15 R226..R233; 05 R100, R101; 11 R180, R181): BMV, the computing of one row, and a BMV's
completion.
-/
namespace Sys2Proof.Machine

open Sys2Proof

/-- The bytes of a row (R228). -/
def rowBytes (form : BankForm) (k : Nat) : Nat :=
  match form with
  | .gq4 => k / 2
  | .e4m3 => k
  | .bf16 => 2 * k

/-- The layout and tag a form requires (R227). -/
def BankForm.layout : BankForm → Nat
  | .gq4 => 1
  | .e4m3 => 2
  | .bf16 => 3

/-- The checks of a BMV block (R228, R363). -/
def bmvChecks (form : BankForm) (blk : List Byte) : List (Bool × Nat) :=
  let a (off : Nat) : Nat := fieldAt blk off 8
  let gq := form == .gq4
  let m := fieldAt blk 40 4
  let k := fieldAt blk 44 4
  let pitch := fieldAt blk 48 4
  let notify := fieldAt blk 54 2 == 1
  [ (a 0 % 64 == 0 && !onChip (a 0), 0),
    (if gq then !onChip (a 8) else a 8 == 0, 8),
    (if gq then a 16 % 4 == 0 && !onChip (a 16) else a 16 == 0, 16),
    (a 24 % 2 == 0 && !onChip (a 24), 24),
    (a 32 % 4 == 0 && !onChip (a 32), 32),
    (decide (1 ≤ m) && decide (m ≤ 2 ^ 24), 40),
    (decide (1 ≤ k) && decide (k ≤ 65536) && k % (if gq then 128 else 64) == 0, 44),
    (pitch % 64 == 0 && decide (rowBytes form k ≤ pitch), 48),
    (decide (fieldAt blk 52 1 ≤ 1), 52),
    (decide (fieldAt blk 53 1 ≤ 1), 53),
    (decide (fieldAt blk 54 2 ≤ 1), 54),
    (notify || fieldAt blk 56 4 == 0, 56),
    (notify || fieldAt blk 60 4 == 0, 60) ]

/-- The operation a block describes, with what it sees. -/
def bmvOf (c : Ctx) (form : BankForm) (id : Nat) (sight : Sight) (blk : List Byte) : BmvOp where
  id := id
  thread := c.t.id
  group := c.w.groupOf c.t.id.idx
  pc := c.t.pc
  system := c.l.system
  core := c.w.coreId
  form := form
  w := dwordAt blk 0
  scaleArray := dwordAt blk 8
  superArray := dwordAt blk 16
  x := dwordAt blk 24
  y := dwordAt blk 32
  m := fieldAt blk 40 4
  k := fieldAt blk 44 4
  pitch := fieldAt blk 48 4
  xBf16 := fieldAt blk 52 1 == 1
  accumulate := fieldAt blk 53 1 == 1
  notifies := fieldAt blk 54 2 == 1
  port := if fieldAt blk 54 2 = 1 then wordAt blk 56 else noHandle
  tag := wordAt blk 60
  done := []
  stalled := []
  fflags := 0
  fatal := false
  begun := false
  completed := false
  order := c.g.issued[classIndex .bank] + 1
  sight := sight
  lent := []
  wrote := []
  met := []

/-- The ranges a BMV reads, as virtual addresses: start and length (R229). -/
def BmvOp.reads (x : BmvOp) : List (Nat × Nat) :=
  [ (x.x.toNat, 2 * x.k), (x.w.toNat, (x.m - 1) * x.pitch + rowBytes x.form x.k) ] ++
    (if x.form = .gq4 then
      [ (x.scaleArray.toNat, x.m * x.k / 64), (x.superArray.toNat, 4 * ((x.m * x.k + 16383) / 16384)) ]
    else [])

/-- y meets a range that the operation reads (R229). -/
def BmvOp.overlaps (x : BmvOp) : Bool :=
  x.reads.any fun r => decide (r.1 < x.y.toNat + 4 * x.m) && decide (x.y.toNat < r.1 + r.2)

/-- Room for one more BMV of a group in its core's bank queue (R219, R233). -/
def bankRoom (c : Ctx) (s : State) : Bool :=
  decide (c.g.bankOps.length < counterRoom) &&
    decide ((s.bmvs.filter fun x => x.core == c.w.coreId && !x.completed).length < queueRoom)

/-- BMV (R227..R229): its issue is no release. -/
def runBmv (form : BankForm) (f : AF) : State → Host.Outcome State Fault Refusal :=
  runForm { g := f.g, sc := f.sc, reads := [f.a] } fun c o s =>
    if !bankRoom c s then .wait s .poll
    else
      withBlock c s (o 0) 64 8 fun s blk =>
        withFields s (o 0) (bmvChecks form blk) <|
          let op := bmvOf c form s.nextId (s.bankSight c.t.id) blk
          if op.overlaps then .trap s .overlap (engineInfo (o 0) 0x20)
          else
            let s := s.mapGroup c.w.uid op.group fun g => g.issue .bank op.id
            .done { s with bmvs := s.bmvs ++ [op], nextId := s.nextId + 1 }

/-- BMV.GQ4 (R227). -/
def execBmvGq4 (f : AF) : State → Host.Outcome State Fault Refusal := runBmv .gq4 f

/-- BMV.E4M3 (R227). -/
def execBmvE4m3 (f : AF) : State → Host.Outcome State Fault Refusal := runBmv .e4m3 f

/-- BMV.BF16 (R227). -/
def execBmvBf16 (f : AF) : State → Host.Outcome State Fault Refusal := runBmv .bf16 f

/-! ## Computing a row (R230, R231) -/

/-- What the earlier BMVs of a BMV's group have written (R178, R181). -/
def State.earlierRows (s : State) (x : BmvOp) : Know :=
  s.earlierOf x.thread x.group .bank x.order
    ((s.bmvs.filter fun y => y.thread.wave == x.thread.wave && y.group == x.group && decide (y.order < x.order)).flatMap (·.wrote))

/-- A BMV as a row of it sees: with what the verdict that let the row start again releases to it, which R325 gives without a
store-to-bank fence (log 94). -/
def BmvOp.lending (x : BmvOp) (row : Nat) : BmvOp :=
  { x with sight := { x.sight with know := x.sight.know.also ((x.lent.filter fun y => y.1 == row).map (·.2)) } }

/-- An engine access of a BMV: to its operands, whose reads the store-to-bank fence alone orders (R180). -/
def BmvOp.access (x : BmvOp) : EngineKind := ⟨x.system, false, false, true, ⟨.bank x.id x.thread, x.core, x.sight⟩⟩

/-- An engine access of a BMV to y, in issue order behind the earlier ones of its group (R181). -/
def State.bankOutput (s : State) (x : BmvOp) (writes : Bool) : EngineKind :=
  let sight := { x.sight with know := x.sight.know.join (s.earlierRows x) }
  ⟨x.system, false, writes, true, ⟨.bank x.id x.thread, x.core, sight⟩⟩

/-- Room for the free values of each of a row's reads. -/
def State.rowSpan (s : State) : Nat := 64 * s.racingSpan 4096

/-- The weights of a row: its bytes, through the form's view, within one page (R230, R231). -/
def State.rowWeights (s : State) (x : BmvOp) (row : Nat) : Reached Raced :=
  let va := x.w.toNat + row * x.pitch
  let rb := rowBytes x.form x.k
  (s.enginePlace (x.access) (onlyLayout x.form.layout) va (pieceBytes va rb)).bind fun _ =>
    match s.leafFor va with
    | some l =>
      if va % l.size + rb ≤ l.size then s.engineRead (x.access) (onlyLayout x.form.layout) va rb s.free
      else .fault .engine va (pieceBytes va rb)
    | none => .fault .xlate va (pieceBytes va rb)

/-- The K-blocks of a GQ4 row, with block scales and superblock scales read (R230), and the writes that those reads return. -/
def State.rowBlocks (s : State) (x : BmvOp) (row : Nat) : Reached (List GqBlock × List Nat) :=
  let nb := x.k / 64
  let b0 := row * nb
  let s0 := b0 / 256
  let ns := (b0 + nb - 1) / 256 - s0 + 1
  (s.engineRead (x.access) (onlyLayout 1) (x.scaleArray.toNat + b0) nb (s.free + s.rowSpan)).bind fun sc =>
    (s.engineRead (x.access) rawOnly (x.superArray.toNat + 4 * s0) (4 * ns)
      (s.free + 2 * s.rowSpan)).bind fun ss =>
      let block (j : Nat) : GqBlock :=
        let sup := (b0 + j) / 256
        ⟨(sc.bytes.getD j 0).toNat, sup, BitVec.ofNat 32 (fieldAt ss.bytes (4 * (sup - s0)) 4)⟩
      .ok ((List.range nb).map block, union sc.met ss.met)

/-- All elements of a packed run of n elements. -/
def packedRun (e : Elem) (bs : List Byte) (n : Nat) : List Fp.Val :=
  let a := bs.toArray
  (List.range n).map fun i => e.value (packedElem a e.bits i)

/-- A row's result with its flags, where it is written, and the writes that its reads return. -/
structure RowResult where
  value : Nat
  flags : FpFlags
  pa : Nat
  met : List Nat
  deriving DecidableEq, Repr

/-- Row m's result; nothing is written (R230). -/
def State.rowResult (s : State) (x : BmvOp) (row : Nat) : Reached RowResult :=
  (s.rowWeights x row).bind fun ws =>
    (if x.form = .gq4 then s.rowBlocks x row else .ok ([], [])).bind fun blocks =>
      (s.engineRead (x.access) rawOnly x.x.toNat (2 * x.k) (s.free + 3 * s.rowSpan)).bind fun xb =>
        let xs := packedRun (.float (if x.xBf16 then Fp.bf16 else Fp.fp16)) xb.bytes x.k
        let yva := x.y.toNat + 4 * row
        (if x.accumulate then s.engineRead (s.bankOutput x false) rawOnly yva 4 (s.free + 4 * s.rowSpan) else .ok ⟨[], []⟩).bind
          fun yb =>
          (s.enginePlace (s.bankOutput x true) rawOnly yva 4).bind fun pa =>
            let acc := if x.accumulate then some (leNat yb.bytes) else none
            let r :=
              match x.form with
              | .gq4 => gqSum blocks.1 (packedRun .gq4 ws.bytes x.k) xs acc none 0
              | .e4m3 => groupedSum 32 (x.k + 1) (packedRun (.float Fp.e4m3) ws.bytes x.k) xs acc 0
              | .bf16 => groupedSum 32 (x.k + 1) (packedRun (.float Fp.bf16) ws.bytes x.k) xs acc 0
            .ok ⟨r.1, r.2, pa.1, union (union ws.met blocks.2) (union xb.met yb.met)⟩

/-- The stack that holds a row's weights; 0xFF where no translation gives one (R226, R322). -/
def State.rowStack (s : State) (x : BmvOp) (row : Nat) : Nat :=
  let va := x.w.toNat + row * x.pitch
  match s.translate false va with
  | some l => if l.layout = 5 || hostRange (l.physical va % 2 ^ 46) then 0xFF else l.physical va % 2 ^ 46 / 2 ^ 36
  | none => 0xFF

/-- Where a row's y lies, when it can be written now. -/
def State.rowPlace (s : State) (x : BmvOp) (row : Nat) : Option Nat :=
  match s.enginePlace (s.bankOutput x true) rawOnly (x.y.toNat + 4 * row) 4 with
  | .ok (pa, _) => some pa
  | _ => none

/-- An earlier BMV of the same group has yet to write this row's y (R181). -/
def State.rowHeld (s : State) (x : BmvOp) (row : Nat) : Bool :=
  s.bmvs.any fun e => !e.completed && e.thread.wave == x.thread.wave && e.group == x.group && decide (e.order < x.order) &&
    (List.range e.m).any fun r => !e.done.contains r &&
      match s.rowPlace e r, s.rowPlace x row with
      | some p, some q => decide (p < q + 4) && decide (q < p + 4)
      | _, _ => e.y.toNat + 4 * r == x.y.toNat + 4 * row

/-- A row is written: one single-copy write of 4 bytes (R181, R230). -/
def State.writeRow (s : State) (x : BmvOp) (row : Nat) (y : RowResult) : State :=
  let r := s.engineWrite (s.bankOutput x true).viewer false (.phys y.pa) 4 (leBytes 4 y.value)
  { r.1 with free := r.1.free + 5 * s.rowSpan }.mapBmv x.id fun x =>
    { x with
      done := x.done ++ [row]
      fflags := x.fflags ||| y.flags
      begun := true
      wrote := x.wrote ++ r.2
      met := union x.met y.met }

/-- A row stalls and its record is handed to the fault queue of the issuing thread's die (R231). -/
def State.stallRow (s : State) (x : BmvOp) (row : Nat) (c : Cause) (va n : Nat) (writes : Bool) : State :=
  let r := s.recordFor x.thread c 2 (BitVec.ofNat 64 va) x.pc x.port (if writes then 4 else 3) n (some 0xFF)
    (some (s.rowStack x row))
  (s.mapBmv x.id fun x => { x with stalled := x.stalled ++ [(row, none)], begun := true }).post x.core.die r (.row x.id row)

/-- The faulting access is the write of y: an accumulating row reads y first (R230, R322). -/
def State.faultWrites (s : State) (x : BmvOp) (row va : Nat) (c : Cause) : Bool :=
  va == x.y.toNat + 4 * row &&
    (!x.accumulate || (c != .poison &&
      match s.enginePlace (s.bankOutput x false) rawOnly va 4 with
      | .ok _ => true
      | _ => false))

/-- The bank units compute and write one row, or the row stalls; a row on a demoted or migrating page waits (R230, R231). -/
def execBankRowCompute (op row : Nat) (s : State) : Host.Outcome State Fault Refusal :=
  .next <|
    match s.bmvs.find? fun x => x.id == op with
    | none => s
    | some x =>
      if x.completed || x.m ≤ row || x.done.contains row || (x.stalled.any fun y => y.1 == row) || s.toRetry x.core.die (.row op row) ||
          s.rowHeld x row then s
      else
        match s.rowResult (x.lending row) row with
        | .ok y => s.writeRow (x.lending row) row y
        | .wait => s
        | .fault c va n => s.stallRow x row c va n (s.faultWrites x row va c)

/-- What a BMV's accesses pass on: what happens-before them, what their reads have returned, its writes of y (R169, R181). -/
def BmvOp.accesses (x : BmvOp) : Know :=
  let k := (x.sight.know.join (Know.ofSeen x.met)).also (x.lent.map (·.2))
  if x.done.isEmpty then k else k.afterWrites x.wrote

/-- A BMV completes: its stalled rows have their end, and it leaves its bank queue (R231, R232, R233). -/
def State.completeBmv (s : State) (x : BmvOp) : State :=
  let s := (s.freeTokens x.core.die (x.stalled.filterMap (·.2))).orphanPosts x.core.die x.id
  s.mapBmv x.id fun y => { y with completed := true, stalled := [] }

/-- Its completion is reported in issue order; then its message is sent. Where something may know of its accesses the completion has a
number, by which who observes it has them at a bank-to-load fence (R181, R207). -/
def State.reportBmv (s : State) (x : BmvOp) : State :=
  let s : State := { s with bmvs := s.bmvs.filter fun y => !(y.id == x.id) }
  let seen : Know := if x.accesses = Know.none then Know.none else Know.ofSeen [s.stamp]
  let s := if x.accesses = Know.none then s else s.addFenced .completion x.accesses
  let s := s.report x.thread x.group .bank x.id x.order seen x.accesses x.wrote
  let s := s.orFlags x.thread x.fflags
  if x.notifies then s.notify x.core.die x.port (if x.fatal then 1 else 0) x.tag 2 seen else s

/-- Every row has been written, or with a fatal row every other has finished or stalled (R231, R232). -/
def BmvOp.finished (x : BmvOp) : Bool := x.done.length + (if x.fatal then x.stalled.length else 0) == x.m

/-- A BMV completes, and is reported behind the earlier BMVs of its group (R207, R232). -/
def execBmvCompletion (c : CoreId) (op : Nat) (s : State) : Host.Outcome State Fault Refusal :=
  .next <|
    match s.bmvs.find? fun x => x.id == op && x.core == c with
    | none => s
    | some x =>
      if !(x.completed || x.finished) then s
      else
        let s := if x.completed then s else s.completeBmv x
        if s.firstOpen x.thread x.group op .bank then s.reportBmv x else s

end Sys2Proof.Machine
end

