-- ==== Sys2Proof/Machine/Copy.lean ====
section
/-!
DEFINITION. The copy front end (spec 17 R235..R253; 05 R105; 11 R178, R186; 13 R192): CPY, CPYSTAT, the start of a chunk, the
applying of reducing elements, reduction streams, and a copy's completion.
-/
namespace Sys2Proof.Machine

open Sys2Proof

/-! ## The parameter block (R238..R242, R245) -/

/-- Element sizes in nibbles (R239). -/
def copyNibbles (fmt : Nat) : Nat := [2, 4, 8, 16, 16, 8, 4, 4, 2, 2, 1, 8, 2, 1, 1].getD fmt 0

/-- Element sizes in bytes; 0 for 4-bit elements. -/
def copyBytes (fmt : Nat) : Nat := copyNibbles fmt / 2

/-- The format pairs a mode accepts (R240). -/
def pairAccepted (mode sf df : Nat) : Bool :=
  match mode with
  | 0 | 2 | 5 => sf == df && decide (1 ≤ copyBytes sf)
  | 1 => decide (4 ≤ sf) && decide (sf ≤ 14) && decide (4 ≤ df) && decide (df ≤ 13) && sf != df
  | 3 => sf == df && [10, 13, 14].contains sf
  | 4 => sf == df && [5, 7, 11].contains sf
  | _ => false

/-- A signed 32-bit field. -/
def strideAt (blk : List Byte) (off : Nat) : Int := (wordAt blk off).toInt

/-- The multicast mask (R238). -/
def maskOf (flags : Nat) : Nat := field flags 8 4

/-- A part of a window that a multicast destination may lie in, its die and core bits ignored (R162, R245). -/
def multicastPart (dst : Nat) : Bool :=
  onChip dst && decide (dst - mapBase < 2 ^ 31) &&
    (decide (dst % 2 ^ 22 < 0x80000) || (decide (0x100000 ≤ dst % 2 ^ 22) && decide (dst % 2 ^ 22 < 0x140000)))

/-- The checks of a CPY block in the order of R363: the governing fields alone, then every field. The multicast mask of a node
without the cluster-set flag is tested in the second pass: DESIGN CHOICE (log 70). An element of an array field is reported at its own
offset: DESIGN CHOICE (log 96). -/
def copyChecks (clusterSet : Bool) (blk : List Byte) : List (Bool × Nat) :=
  let u (off n : Nat) : Nat := fieldAt blk off n
  let sf := u 16 1
  let df := u 17 1
  let mode := u 18 1
  let flags := u 20 4
  let r := u 24 1
  let es := copyBytes sf
  let ed := copyBytes df
  let sequenced := mode == 4 && flags.testBit 0
  let gq := mode == 1 && sf == 14
  let mask := maskOf flags
  let flagBits := flags % 2 ^ 12 / 2 ^ 2 % 2 ^ 6 == 0 && decide (flags < 2 ^ 12)
  let superArray := u 112 8
  [ (decide (sf ≤ 14), 16), (decide (df ≤ 14), 17), (decide (mode ≤ 5), 18), (flagBits, 20),
    (decide (1 ≤ r) && decide (r ≤ 6), 24),
    (if mode = 5 then u 0 8 == 0 else es == 0 || u 0 8 % es == 0, 0),
    ((ed == 0 || u 8 8 % ed == 0) && (mask == 0 || multicastPart (u 8 8)), 8),
    (pairAccepted mode sf df, 18),
    (decide (u 19 1 ≤ 3), 19),
    ((!flags.testBit 0 || mode == 4) && (clusterSet || decide (mask ≤ 1)), 20),
    (mode != 2 || r == 2, 24),
    (u 25 3 == 0, 25),
    (u 32 8 == 0, 32) ] ++
  ((List.range 6).map fun i =>
    (if i < r then decide (1 ≤ u (40 + 4 * i) 4) && decide (u (40 + 4 * i) 4 ≤ 0x7FFFFFFF) else u (40 + 4 * i) 4 == 0,
      40 + 4 * i)) ++
  ((List.range 6).map fun i =>
    (if decide (i < r) && mode != 5 then es == 0 || strideAt blk (64 + 4 * i) % es == 0 else u (64 + 4 * i) 4 == 0,
      64 + 4 * i)) ++
  ((List.range 6).map fun i =>
    (if i < r then ed == 0 || strideAt blk (88 + 4 * i) % ed == 0 else u (88 + 4 * i) 4 == 0, 88 + 4 * i)) ++
  [ (if gq then !onChip superArray else sequenced || u 112 4 == 0, 112),
    (if gq then true else if sequenced then decide (u 116 4 ≤ 4095) else u 116 4 == 0, 116),
    (if gq then !onChip (u 120 8) else mode == 5 || u 120 8 == 0, 120) ]

/-- The members of a wave's cluster set that a mask selects, by their bits from the lowest on; a wave of another node is member 0
(R245). In which order the destinations are checked the manual does not say; it is this one: DESIGN CHOICE (log 81). -/
def State.selected (s : State) (c : Ctx) (mask : Nat) : List Wave :=
  ((List.range 4).filter mask.testBit).flatMap fun k =>
    (s.household c.w).filter fun y => (if c.l.nd.clusterSet then y.index % 4 else 0) == k

/-- The destinations of a copy: one, or one for each member a mask selects, at the window of its first core (R245). -/
def State.copyDests (s : State) (c : Ctx) (dst : DWord) (mask : Nat) : List CopyDest :=
  if mask = 0 then [⟨dst, none⟩]
  else
    (s.selected c mask).map fun y => ⟨BitVec.ofNat 64 (windowBase y.firstCore + dst.toNat % 2 ^ 22), some y.uid⟩

/-- The copy a block describes; mode 2 exchanges the destination strides (R241). -/
def State.copyOf (s : State) (c : Ctx) (blk : List Byte) (handle : Word) : CopyOp :=
  let u (off n : Nat) : Nat := fieldAt blk off n
  let r := u 24 1
  let mode := u 18 1
  let flags := u 20 4
  let ds := (List.range r).map fun i => strideAt blk (88 + 4 * i)
  { id := 0
    thread := c.t.id
    group := c.w.groupOf c.t.id.idx
    pc := c.t.pc
    system := c.l.system
    core := c.w.coreId
    src := dwordAt blk 0
    dests := s.copyDests c (dwordAt blk 8) (maskOf flags)
    srcFmt := u 16 1
    dstFmt := u 17 1
    mode := mode
    cls := u 19 1
    sequenced := flags.testBit 0
    remote := flags.testBit 1
    tag := wordAt blk 28
    extents := (List.range r).map fun i => u (40 + 4 * i) 4
    srcStrides := (List.range r).map fun i => strideAt blk (64 + 4 * i)
    dstStrides := if mode = 2 then ds.reverse else ds
    seqNo := wordAt blk 112
    stream := u 116 4
    superArray := dwordAt blk 112
    blockArray := dwordAt blk 120
    fill := dwordAt blk 120
    handle := handle
    next := 0
    written := 0
    stalled := []
    retry := []
    updates := []
    applied := 0
    begun := false
    fatal := false
    passed := false
    settled := false
    completed := false
    saved := []
    order := 0
    sight := Sight.none
    lent := []
    wrote := []
    met := [] }

/-! ## Element addresses and ranges (R241, R242) -/

/-- A base in units: bytes, or nibbles for 4-bit elements. -/
def unitBase (base : DWord) (nibbles : Nat) : Int := if nibbles = 1 then 2 * (base.toNat : Int) else base.toNat

/-- The unit address of an ordinal: i_0 fastest. -/
def unitAt : Int → List Nat → List Int → Nat → Int
  | a, e :: es, st :: sts, n => unitAt (a + (n % e : Nat) * st) es sts (n / e)
  | a, _, _, _ => a

/-- The number of elements. -/
def CopyOp.total (x : CopyOp) : Nat := x.extents.foldl (· * ·) 1

/-- Element sizes of a copy's operands in nibbles. -/
def CopyOp.srcNibbles (x : CopyOp) : Nat := copyNibbles x.srcFmt
def CopyOp.dstNibbles (x : CopyOp) : Nat := copyNibbles x.dstFmt

/-- An element's address: the byte, and for 4-bit elements whether it is the high nibble. -/
structure Spot where
  va : Nat
  high : Bool
  deriving DecidableEq, Repr

/-- A unit address as a spot. -/
def spotOf (nibbles : Nat) (a : Int) : Spot :=
  if nibbles = 1 then ⟨(a / 2).toNat, a % 2 == 1⟩ else ⟨a.toNat, false⟩

/-- The source element of an ordinal. -/
def CopyOp.srcSpot (x : CopyOp) (n : Nat) : Spot :=
  spotOf x.srcNibbles (unitAt (unitBase x.src x.srcNibbles) x.extents x.srcStrides n)

/-- The destination element of an ordinal. -/
def CopyOp.dstSpot (x : CopyOp) (d : CopyDest) (n : Nat) : Spot :=
  spotOf x.dstNibbles (unitAt (unitBase d.base x.dstNibbles) x.extents x.dstStrides n)

/-- Bytes an element touches. -/
def spanBytes (nibbles : Nat) : Nat := max 1 (nibbles / 2)

/-- An operand's range: lowest byte and the byte after the last (R242). -/
def rangeOf (base : DWord) (nibbles : Nat) (extents : List Nat) (strides : List Int) : Int × Int :=
  let ends := List.zipWith (fun (e : Nat) (st : Int) => ((e - 1 : Nat) : Int) * st) extents strides
  let lo := ends.foldl (fun a d => a + min 0 d) (unitBase base nibbles)
  let hi := ends.foldl (fun a d => a + max 0 d) (unitBase base nibbles)
  if nibbles = 1 then (lo / 2, hi / 2 + 1) else (lo, hi + (nibbles / 2 : Nat))

def CopyOp.srcRange (x : CopyOp) : Int × Int := rangeOf x.src x.srcNibbles x.extents x.srcStrides
def CopyOp.dstRange (x : CopyOp) (d : CopyDest) : Int × Int := rangeOf d.base x.dstNibbles x.extents x.dstStrides

/-- Two ranges meet. -/
def rangesMeet (a b : Int × Int) : Bool := decide (a.1 < b.2) && decide (b.1 < a.2)

/-- The source range meets a destination range. -/
def CopyOp.overlaps (x : CopyOp) : Bool := x.mode != 5 && x.dests.any fun d => rangesMeet x.srcRange (x.dstRange d)

/-- The check of one range at issue (R244); `off` is the address field's offset, `dest` whether it is a destination. That a destination of
mode 4 in the on-chip map traps with ENGINE before its XLATE, PERM or SLOT is a DESIGN CHOICE, R244 gives no order (log 102). -/
def State.rangeTrap (s : State) (c : Ctx) (o : Word) (mode : Nat) (dest : Bool) (r : Int × Int) : Option (Cause × DWord) :=
  let lowest := BitVec.ofInt 64 r.1
  let off := if dest then 8 else 0
  let lo := r.1.toNat
  let n := (r.2 - r.1).toNat
  let (core, part, at_) := windowOf lo
  let inService := s.coreInService core
  if r.1 < 0 || decide (2 ^ 57 < r.2) then some (.xlate, lowest)
  else if r.2 ≤ mapBase || decide (2 ^ 57 ≤ r.1) then none
  else if dest && mode == 4 then some (.engine, engineInfo o 8)
  else if lo < mapBase then some (.xlate, lowest)
  else
    match part with
    | .none => some (.xlate, lowest)
    | .spad =>
      match s.resolveSpad c.w core at_ n with
      | some _ => none
      | none => some (if inService then .perm else .xlate, lowest)
    | .slots | .tiles =>
      let crosses := decide (slotBytes < at_ % slotBytes + n)
      match s.slotOwner? c.w lo with
      | some (y, tile, name) =>
        if crosses then some (.engine, engineInfo o off)
        else if (s.wave? y).any fun w => w.usable tile name then none
        else some (.slot, Word.pair (BitVec.ofNat 32 name) 0)
      | none =>
        if !inService then some (.xlate, lowest)
        else if crosses then some (.engine, engineInfo o off)
        else some (.slot, Word.pair (BitVec.ofNat 32 (at_ / slotBytes)) 0)

/-- The checks after the fields: the ranges, source first, then the overlap (R243, R244). A multicast mask that selects a
member no longer there has no range to resolve. -/
def State.copyTrap (s : State) (c : Ctx) (o : Word) (x : CopyOp) : Option (Cause × DWord) :=
  let ranges := (if x.mode = 5 then [] else [(false, x.srcRange)]) ++ x.dests.map fun d => (true, x.dstRange d)
  match ranges.findSome? fun r => s.rangeTrap c o x.mode r.1 r.2 with
  | some t => some t
  | none => if decide (1 ≤ x.mode) && decide (x.mode ≤ 4) && x.overlaps then some (.overlap, engineInfo o 8) else none

/-! ## CPY and CPYSTAT (R236, R237, R243, R253) -/

/-- Entries of a class queue (R235). -/
def classRoom : Nat := 64

/-- The copies in a core's class queue: a completed one has left it (R235). -/
def State.classQueue (s : State) (c : CoreId) (k : Nat) : List CopyOp :=
  s.copies.filter fun x => x.core == c && x.cls == k && !x.completed

/-- Room for a copy in its class queue and its group's counter (R243). -/
def copyRoom (c : Ctx) (s : State) (x : CopyOp) : Bool :=
  decide ((s.classQueue c.w.coreId x.cls).length < classRoom) &&
    decide ((if x.remote then c.g.remoteOps else c.g.copyOps).length < counterRoom)

/-- The counter of a copy (R176). -/
def CopyOp.counter (x : CopyOp) : CounterClass := if x.remote then .remote else .copy

/-- Enter a copy (R243): the issue is a release toward it. -/
def enterCopy (c : Ctx) (s : State) (x : CopyOp) (sc : Nat) : Effect :=
  if !copyRoom c s x then .wait s (.copy x sc)
  else
    let s := s.sending c.t.id
    let sight := ((s.thread? c.t.id).map Thread.lendsCopy).getD Sight.none
    let s := s.mapGroup c.w.uid x.group fun g => g.issue x.counter s.nextId
    .done { s with
      copies := s.copies ++ [{ x with id := s.nextId, order := c.g.issued[classIndex x.counter] + 1, sight := sight }]
      nextId := s.nextId + 1 }

/-- CPY (R236, R237, R243): a thread that waits for room holds its block as it read it. -/
def execCpy (f : ADF) : State → Host.Outcome State Fault Refusal :=
  runForm { g := f.g, sc := f.sc, reads := [f.a, f.d] } fun c o s =>
    match c.t.wait with
    | .copy x _ => enterCopy c s x f.sc
    | _ =>
      if c.w.groupOf c.t.id.idx ≠ c.l.nd.producer then .trap s .issue 0
      else
        withBlock c s (o 0) 128 8 fun s blk =>
          withFields s (o 0) (copyChecks c.l.nd.clusterSet blk) <|
            let x := s.copyOf c blk (o 1)
            match s.copyTrap c (o 0) x with
            | some (cause, ea) => .trap s cause ea
            | none => enterCopy c s x f.sc

/-- CPYSTAT (R253). -/
def execCpystat (f : ADF) : State → Host.Outcome State Fault Refusal :=
  runForm { g := f.g, sc := f.sc, reads := [f.a], names := [f.d] } fun c o s =>
    let free := classRoom - (s.classQueue c.w.coreId ((o 0).toNat % 4)).length
    writeBoard c s [(f.d, BitVec.ofNat 32 (free * 2 ^ 16 + c.g.remoteOps.length * 2 ^ 8 + c.g.copyOps.length))]

/-! ## Where a chunk's elements lie (R163, R164, R248, R251) -/

/-- Storage that a copy reaches, memory with whether through a layout's view. -/
inductive Store where
  | mem (loc : Loc) (view : Bool)
  | sram (wave : Nat) (tile : Bool) (off : Nat)
  deriving DecidableEq, Repr

/-- The poison units that n bytes of a slot or tile touch are marked. -/
def State.storePoisoned (s : State) (p : Store) (n : Nat) : Bool :=
  match p with
  | .mem loc _ => s.poisoned loc n
  | .sram w tile off => (s.wave? w).any fun y => (unitsOf 4 off n).any fun u => (if tile then y.tilePoison else y.slotPoison).contains u

/-- A copy as a chunk of it sees, one that holds element n: with what the verdicts that let it start again release to it (R325). -/
def CopyOp.lending (x : CopyOp) (n : Nat) : CopyOp :=
  let lent := (x.lent.filter fun y => decide (y.1.start ≤ n) && decide (n < y.1.start + y.1.count)).map (·.2)
  { x with sight := { x.sight with know := x.sight.know.also lent } }

/-- A copy as it looks at memory. -/
def CopyOp.viewer (x : CopyOp) : Viewer := ⟨.copy x.id x.thread, x.core, x.sight⟩

/-- A copy's access to global memory. -/
def CopyOp.access (x : CopyOp) (writes : Bool) : EngineKind := ⟨x.system, x.remote, writes, false, x.viewer⟩

/-- Where n bytes at an address lie, or the fault a chunk meets there (R251). -/
def State.copyStore (s : State) (x : CopyOp) (w : Wave) (writes : Bool) (va n : Nat) : Reached Store :=
  let found (p : Store) : Reached Store := if !writes && s.storePoisoned p n then .fault .poison va n else .ok p
  if onChip va then
    let (c, part, o) := windowOf va
    match part with
    | .spad =>
      match s.resolveSpad w c o n with
      | some (y, a) => found (.mem (.spad y a) false)
      | none => .fault .perm va n
    | _ =>
      match s.slotHome? w va with
      | some (y, tile, name) => found (.sram y tile (name * slotBytes + o % slotBytes))
      | none => .fault .perm va n
  else
    match s.enginePlace (x.access writes) rawOrBank va n with
    | .ok (pa, view) => .ok (.mem (.phys pa) view)
    | .wait => .wait
    | .fault c a m => .fault c a m

/-- Byte i of a run of storage. -/
def Store.byte (p : Store) (i : Nat) : Store :=
  match p with
  | .mem loc view => .mem (loc.byte i) view
  | .sram w tile off => .sram w tile (off + i)

/-- Bytes of storage as a copy reads them, with free values from `base` on. -/
def State.storeRead (s : State) (x : CopyOp) (p : Store) (n base : Nat) : Raced :=
  match p with
  | .mem loc view => s.readRacing x.viewer view loc n base
  | .sram w tile off =>
    match s.wave? w with
    | some y => ⟨(if tile then y.tileMem else y.slotMem).bytes off n, []⟩
    | none => ⟨List.replicate n 0, []⟩

/-- A stream's record; one never used has expected number 0 (R247, R348). -/
def State.stream (s : State) (id : Nat) : Stream := (s.streams.find? fun x => x.id == id).getD ⟨id, 0, none, [], []⟩

/-- Put a stream's record back. -/
def State.setStream (s : State) (x : Stream) : State := { s with streams := x :: s.streams.filter fun y => !(y.id == x.id) }

/-- What the earlier copies of a copy's group and counter have written (R178). -/
def State.earlierWrites (s : State) (x : CopyOp) : Know :=
  s.earlierOf x.thread x.group x.counter x.order
    ((s.copies.filter fun y =>
      y.thread.wave == x.thread.wave && y.group == x.group && y.remote == x.remote && decide (y.order < x.order)).flatMap (·.wrote))

/-- A copy as it writes: it does not go below what earlier copies of its group and counter wrote, nor a sequenced one below the
updates of its stream so far, whose copies apply in the order of their numbers (R105, R186). -/
def State.copyWriter (s : State) (x : CopyOp) : Viewer :=
  let stream := Know.ofSeen (if x.sequenced then (s.stream x.stream).updates else [])
  { x.viewer with sight := { x.sight with know := joinAll [x.sight.know, s.earlierWrites x, stream] } }

/-- A copy comes to know writes of its own. -/
def State.copyLearns (s : State) (op : Nat) (events : List Nat) : State :=
  if events.isEmpty then s
  else
    s.mapCopy op fun x =>
      { x with
        sight := { x.sight with know := x.sight.know.afterWrites events }
        wrote := union x.wrote events }

/-- A copy's reads have returned these writes (R170). -/
def State.copyMeets (s : State) (op : Nat) (events : List Nat) : State :=
  if events.isEmpty then s else s.mapCopy op fun x => { x with met := union x.met events }

/-- Write one byte of storage. -/
def State.storeByte (s : State) (x : CopyOp) (p : Store) (i : Nat) (b : Byte) : State :=
  match p with
  | .mem loc view =>
    let r := s.engineWrite (s.copyWriter x) view (loc.byte i) 1 [b]
    r.1.copyLearns x.id r.2
  | .sram w tile off =>
    s.mapWave w fun y =>
      if tile then { y with tileMem := y.tileMem.set (off + i) b } else { y with slotMem := y.slotMem.set (off + i) b }

/-- A sequenced copy's update is the latest of its stream. -/
def State.streamUpdated (s : State) (x : CopyOp) (event : Nat) : State :=
  if x.sequenced then
    let st := s.stream x.stream
    s.setStream { st with updates := union st.updates [event] }
  else s

/-- Update bytes of memory indivisibly. -/
def State.copyUpdate (s : State) (x : CopyOp) (loc : Loc) (view : Bool) (n : Nat) (f : List Byte → List Byte) : State :=
  let r := s.update (s.copyWriter x) (Writing.plain view) s.stamp loc n f
  if s.late then
    (({ r.1 with stamp := s.stamp + 1 }.copyLearns x.id [s.stamp]).copyMeets x.id r.2.events).streamUpdated x s.stamp
  else r.1

/-- A poison unit of storage that holds byte i, by a name of its own. -/
inductive PoisonUnit where
  | line (n : Nat)
  | spad (wave n : Nat)
  | sram (wave : Nat) (tile : Bool) (n : Nat)
  deriving DecidableEq, Repr

/-- The unit of byte i and the byte's place in it. -/
def Store.unitOf (p : Store) (i : Nat) : PoisonUnit × Nat :=
  match p with
  | .mem (.phys pa) _ => (.line ((pa + i) / 64), (pa + i) % 64)
  | .mem (.spad w off) _ => (.spad w ((off + i) / 4), (off + i) % 4)
  | .mem (.fitted _ e) _ => (.line e, i)
  | .sram w tile off => (.sram w tile ((off + i) / 4), (off + i) % 4)

/-- A unit's bytes. -/
def PoisonUnit.size : PoisonUnit → Nat
  | .line _ => 64
  | _ => 4

/-- Clean a unit. -/
def State.cleanUnit (s : State) (u : PoisonUnit) : State :=
  match u with
  | .line n => { s with poison := s.poison.filter (· != n) }
  | .spad w n => s.mapWave w fun y => { y with spadPoison := y.spadPoison.filter (· != n) }
  | .sram w tile n =>
    s.mapWave w fun y =>
      if tile then { y with tilePoison := y.tilePoison.filter (· != n) }
      else { y with slotPoison := y.slotPoison.filter (· != n) }

/-- The units that a list of whole bytes covers (R192, R250). -/
def wholeUnits (bs : List (PoisonUnit × Nat)) : List PoisonUnit :=
  (bs.map (·.1)).dedup.filter fun u => ((bs.filter fun b => b.1 == u).map (·.2)).dedup.length == u.size

/-! ## Values (R246, R105) -/

/-- A value as an integer of b bits: nearest even, saturated; a NaN gives 0. -/
def saturated (b : Nat) (v : Fp.Val) : Nat :=
  let lo : Int := -(2 ^ (b - 1))
  let hi : Int := 2 ^ (b - 1) - 1
  let z : Int :=
    match v with
    | .nan _ => 0
    | .inf neg => if neg then lo else hi
    | .fin neg m e =>
      let r := if 64 ≤ e + (Nat.log2 m : Int) && decide (m ≠ 0) then 2 ^ 64 else (Fp.roundUnits .rne neg m e false 0).1
      max lo (min hi (if neg then -(r : Int) else r))
  (z % 2 ^ b).toNat

/-- The floating-point format of a copy format. -/
def copyFloat : Nat → Option Fp.Format
  | 4 => some Fp.fp64
  | 5 => some Fp.fp32
  | 6 => some Fp.fp16
  | 7 => some Fp.bf16
  | 8 => some Fp.e4m3
  | 9 => some Fp.e5m2
  | 10 => some Fp.e2m1
  | _ => none

/-- An element's exact value (R246). -/
def copyValue (fmt x : Nat) : Fp.Val :=
  match copyFloat fmt with
  | some f => Fp.decode f x
  | none =>
    let b := 4 * copyNibbles fmt
    intVal (if 2 ^ (b - 1) ≤ x then (x : Int) - 2 ^ b else x)

/-- A value rounded to a destination format (R95, R246). -/
def copyRound (fmt : Nat) (v : Fp.Val) : Nat :=
  match copyFloat fmt with
  | some f => (Fp.roundVal f .rne v).1
  | none => saturated (4 * copyNibbles fmt) v

/-- The value of a GQ4 element under its scales (R88, R246). That a zero has the product of the signs, a block scale and level 0 counting as
positive, is a DESIGN CHOICE, the manual gives the sign of that zero nowhere (log 104). -/
def gqValue (q scale : Nat) (sup : Nat) : Fp.Val :=
  if scale = 255 then .nan false
  else
    match (Fp.mul (Fp.mul (intVal (gq4Level q)) (intVal scale)).1 (Fp.decode Fp.fp32 sup)).1 with
    | .fin neg m e => .fin neg m (e - 8)
    | v => v

/-- A reducing update (R105). -/
def reduced (fmt old x : Nat) : Nat :=
  match copyFloat fmt with
  | some f => (Fp.add f .rne old x).1
  | none => (old + x) % 2 ^ 32

/-! ## One chunk (R246, R248) -/

/-- Apply a fallible function to every member; the first that does not answer decides. -/
def Reached.each {α β : Type} (f : α → Reached β) : List α → Reached (List β)
  | [] => .ok []
  | x :: xs => (f x).bind fun y => (Reached.each f xs).bind fun ys => .ok (y :: ys)

/-- The ordinals of a chunk. -/
def Chunk.ordinals (ch : Chunk) : List Nat := (List.range ch.count).map (ch.start + ·)

/-- The free values that a read of one element may draw on. -/
def State.copySpan (s : State) : Nat := s.racingSpan 8

/-- A byte that the copy has overwritten of its own source. -/
def CopyOp.saved? (x : CopyOp) (va : Nat) : Option SavedByte := x.saved.find? fun y => y.va == va

/-- The bits of an element, and the writes that its reads return. -/
structure ElementRead where
  bits : Nat
  met : List Nat
  deriving DecidableEq, Repr

/-- A source element's bits. Bytes that the copy has itself overwritten count as they were, poison included (R243). -/
def State.readElement (s : State) (x : CopyOp) (w : Wave) (n : Nat) : Reached ElementRead :=
  let a := x.srcSpot n
  let size := spanBytes x.srcNibbles
  let own := (List.range size).filterMap fun i => x.saved? (a.va + i)
  let value (bs : List Byte) (met : List Nat) : Reached ElementRead :=
    if own.any (·.poisoned) then .fault .poison a.va size
    else
      .ok ⟨if x.srcNibbles = 1 then field (leNat bs) (if a.high then 4 else 0) 4 else leNat bs, union met (own.flatMap (·.met))⟩
  if own.length = size then value (own.map (·.old)) []
  else
    (s.copyStore x w false a.va size).bind fun p =>
      let r := s.storeRead x p size (s.free + 3 * n * s.copySpan)
      value (r.bytes.zipIdx.map fun b => ((x.saved? (a.va + b.2)).map (·.old)).getD b.1) r.met

/-- A scale array's bytes: through a raw or layout-1 view, like source bytes (R246). -/
def State.readScale (s : State) (x : CopyOp) (va n base : Nat) : Reached ElementRead :=
  (s.engineRead (x.access false) rawOrGq va n base).bind fun r => .ok ⟨leNat r.bytes, r.met⟩

/-- The bits written for an element: by mode (R246); in mode 4 the source element itself. -/
def State.elementBits (s : State) (x : CopyOp) (w : Wave) (n : Nat) : Reached ElementRead :=
  if x.mode = 5 then .ok ⟨x.fill.toNat % 2 ^ (4 * x.dstNibbles), []⟩
  else
    (s.readElement x w n).bind fun v =>
      if x.mode ≠ 1 then .ok v
      else if x.srcFmt ≠ 14 then .ok { v with bits := copyRound x.dstFmt (copyValue x.srcFmt v.bits) }
      else
        let b := n / 64
        (s.readScale x (x.blockArray.toNat + b) 1 (s.free + (3 * n + 1) * s.copySpan)).bind fun scale =>
          (s.readScale x (x.superArray.toNat + 4 * (b / 256)) 4 (s.free + (3 * n + 2) * s.copySpan)).bind fun sup =>
            .ok ⟨copyRound x.dstFmt (gqValue v.bits scale.bits sup.bits), union v.met (union scale.met sup.met)⟩

/-- An ordinal is in a chunk that is to be done again. -/
def CopyOp.outstanding (x : CopyOp) (n : Nat) : Bool :=
  (x.stalled.any fun c => decide (c.1.start ≤ n) && decide (n < c.1.start + c.1.count)) ||
    x.retry.any fun c => decide (c.start ≤ n) && decide (n < c.start + c.count)

/-- Two runs of storage meet. -/
def Store.meets (p : Store) (n : Nat) (q : Store) (m : Nat) : Bool :=
  match p, q with
  | .mem a _, .mem b _ => a.overlaps n b m
  | .sram w t a, .sram v u b => w == v && t == u && decide (a < b + m) && decide (b < a + n)
  | _, _ => false

/-- Where an element of a copy is written, when it can be now. -/
def State.storeOf (s : State) (x : CopyOp) (va : Nat) : Option Store :=
  match s.wave? x.thread.wave with
  | none => none
  | some w =>
    match s.copyStore x w true va (spanBytes x.dstNibbles) with
    | .ok p => some p
    | _ => none

/-- A later element of the copy has already written this byte or nibble, `p` the byte's storage: a chunk done again leaves it (R248). -/
def State.superseded (s : State) (x : CopyOp) (d : CopyDest) (ch : Chunk) (p : Store) (va : Nat) (high : Bool) : Bool :=
  decide (ch.start + ch.count < x.next) && (List.range x.next).any fun n =>
    decide (ch.start + ch.count ≤ n) && !x.outstanding n &&
      (let a := x.dstSpot d n
       (x.dstNibbles != 1 || a.high == high) &&
         match s.storeOf x a.va with
         | some q => q.meets (spanBytes x.dstNibbles) p 1
         | none => decide (a.va ≤ va) && decide (va < a.va + spanBytes x.dstNibbles))

/-- An element to be written: its destination, spot, storage and bits. -/
structure Written where
  dest : CopyDest
  spot : Spot
  store : Store
  bits : Nat

/-- What a mode-0 copy with overlapping ranges keeps of its source before overwriting it (R243). -/
def State.keepOld (s : State) (x : CopyOp) (p : Store) (va i : Nat) : State :=
  if x.mode = 0 && x.overlaps && decide (x.srcRange.1 ≤ va) && decide ((va : Int) < x.srcRange.2) then
    let r := s.storeRead x (p.byte i) 1 s.free
    let kept : SavedByte := ⟨va, r.bytes.headD 0, s.storePoisoned (p.byte i) 1, r.met⟩
    { s with free := s.free + s.racingSpan 1 }.mapCopy x.id fun y =>
      if (y.saved? va).isSome then y else { y with saved := kept :: y.saved }
  else s

/-- Write one element: its bytes, or its nibble with the other kept (R174, R246). -/
def State.writeElement (s : State) (x : CopyOp) (ch : Chunk) (e : Written) : State :=
  if x.dstNibbles = 1 then
    if s.superseded x e.dest ch e.store e.spot.va e.spot.high then s
    else
      let put (b : Byte) : Byte := withNibble b e.spot.high (BitVec.ofNat 4 e.bits)
      match e.store with
      | .mem loc view => s.copyUpdate x loc view 1 fun bs => [put (bs.headD 0)]
      | p => s.storeByte x p 0 (put ((s.storeRead x p 1 0).bytes.headD 0))
  else
    (leBytes (x.dstNibbles / 2) e.bits).zipIdx.foldl (fun s b =>
      if s.superseded x e.dest ch (e.store.byte b.2) (e.spot.va + b.2) false then s
      else (s.keepOld x e.store (e.spot.va + b.2) b.2).storeByte x e.store b.2 b.1) s

/-- The bytes that elements of a chunk write whole, with their poison units. -/
def State.wholeBytes (s : State) (x : CopyOp) (ch : Chunk) (es : List Written) : List (PoisonUnit × Nat) :=
  if x.dstNibbles = 1 then
    (es.filter fun e => !e.spot.high && es.any fun f => f.dest == e.dest && f.spot == ⟨e.spot.va, true⟩).map fun e => e.store.unitOf 0
  else
    es.flatMap fun e => ((List.range (x.dstNibbles / 2)).filter fun i =>
      !s.superseded x e.dest ch (e.store.byte i) (e.spot.va + i) false).map e.store.unitOf

/-- The last element of a chunk that touches a unit. -/
def lastOf (es : List (Nat × Written)) (u : PoisonUnit) : Option Nat :=
  ((es.filter fun e => (e.2.store.unitOf 0).1 == u).map (·.1)).getLast?

/-- Elements of two copies at these addresses share a byte of storage; where one of them cannot be reached now, of the address
space. -/
def State.sameByte (s : State) (x : CopyOp) (a : Nat) (y : CopyOp) (b : Nat) : Bool :=
  match s.storeOf x a, s.storeOf y b with
  | some p, some q => p.meets (spanBytes x.dstNibbles) q (spanBytes y.dstNibbles)
  | _, _ => decide (a < b + spanBytes y.dstNibbles) && decide (b < a + spanBytes x.dstNibbles)

/-- A reducing element whose turn has gone by is not applied: of a copy that is settled, and where a later element of the copy at its
place was sent ahead of it, which happens in a fatal copy alone (R105, R247, R251). -/
def State.overtaken (s : State) (x : CopyOp) (ch : Chunk) (e : Nat × Written) : Bool :=
  x.settled || (x.fatal && decide (ch.start + ch.count < x.next) && (List.range x.next).any fun k =>
    decide (e.1 < k) && !x.outstanding k && x.dests.any fun d => s.sameByte x (x.dstSpot d k).va x e.2.spot.va)

/-- The free values of a chunk's reads are used up. -/
def State.pastReads (s : State) (ch : Chunk) : State := { s with free := s.free + 3 * (ch.start + ch.count) * s.copySpan }

/-- It gave an answer. -/
def Reached.isOk {α : Type} : Reached α → Bool
  | .ok _ => true
  | _ => false

/-- What the elements of a chunk are to be written as, from source and scales in iteration order. -/
def State.chunkValues (s : State) (x : CopyOp) (w : Wave) (ch : Chunk) : Reached (List (Nat × ElementRead)) :=
  Reached.each (fun n => (s.elementBits x w n).bind fun v => .ok (n, v)) ch.ordinals

/-- A chunk is done: its elements written, or, reducing, sent to their memory controllers (R246, R247, R250). Of
several faults it meets, the one recorded is the first of its reads, source before scales element by element in iteration order, else the
first of its writes, destination by destination: DESIGN CHOICE, R251 gives no order (log 103). -/
def State.runChunk (s : State) (x : CopyOp) (w : Wave) (ch : Chunk) : Reached State :=
  (s.chunkValues x w ch).bind fun vals =>
    (Reached.each (fun d => Reached.each (fun nv =>
      let a := x.dstSpot d nv.1
      (s.copyStore x w true a.va (spanBytes x.dstNibbles)).bind fun p => .ok (nv.1, (⟨d, a, p, nv.2.bits⟩ : Written))) vals)
      x.dests).bind fun outs =>
      let es := outs.flatten
      let s := (s.pastReads ch).copyMeets x.id (vals.flatMap (·.2.met))
      let units := wholeUnits (s.wholeBytes x ch (es.map (·.2)))
      if x.mode = 4 then
        let lasts := units.filterMap (lastOf es)
        let ups := (es.filter fun e => !s.overtaken x ch e).filterMap fun e =>
          match e.2.store with
          | .mem (.phys pa) view => some (⟨e.1, e.2.spot.va, pa, view, e.2.bits, lasts.contains e.1⟩ : Update)
          | _ => none
        .ok (s.mapCopy x.id fun y => { y with updates := y.updates ++ ups })
      else
        let s := es.foldl (fun s e => s.writeElement x ch e.2) s
        .ok ((units.foldl State.cleanUnit s).mapCopy x.id fun y => { y with written := y.written + ch.count })

/-! ## Which chunk starts (R248, R249) -/

/-- The bytes of a chunk on one side. -/
def chunkBytes (nibbles count : Nat) : Nat := (nibbles * count + 1) / 2

/-- The larger byte count of a chunk. -/
def CopyOp.chunkSize (x : CopyOp) (ch : Chunk) : Nat :=
  max (if x.mode = 5 then 0 else chunkBytes x.srcNibbles ch.count) (chunkBytes x.dstNibbles ch.count)

/-- The page of an address: its base and size. -/
def State.pageOf (s : State) (va : Nat) : Nat × Nat :=
  let size := if onChip va then 2 ^ 22 else ((s.leafFor va).map (·.size)).getD 4096
  (va / size, size)

/-- An ordinal may stand in one chunk with the chunk's first element (R248). -/
def State.samePages (s : State) (x : CopyOp) (first n : Nat) : Bool :=
  (x.mode == 5 || s.pageOf (x.srcSpot first).va == s.pageOf (x.srcSpot n).va) &&
    x.dests.all fun d => s.pageOf (x.dstSpot d first).va == s.pageOf (x.dstSpot d n).va

/-- Grow a chunk up to a number of elements within the bounds of R248. -/
def State.growChunk (s : State) (x : CopyOp) (first : Nat) : Nat → Nat → Nat
  | 0, n => n
  | fuel + 1, n =>
    if first + n < x.total && decide (chunkBytes (if x.mode = 5 then 0 else x.srcNibbles) (n + 1) ≤ 2048) &&
        decide (chunkBytes x.dstNibbles (n + 1) ≤ 2048) && s.samePages x first (first + n) then
      s.growChunk x first fuel (n + 1)
    else n

/-- The next chunk of a copy: one to be done again, or the next elements, at most so many. -/
def State.nextChunk (s : State) (x : CopyOp) (elements : Nat) : Option Chunk :=
  match x.retry.filter fun ch => !s.toRetry x.core.die (.chunk x.id ch) with
  | ch :: _ => some ch
  | [] => if x.next < x.total then some ⟨x.next, s.growChunk x x.next (elements - 1) 1⟩ else none

/-- Some byte of a chunk's destinations is yet to be written by an earlier copy of the same group and counter; reducing
copies are not ordered so (R178, R186). -/
def State.chunkHeld (s : State) (x : CopyOp) (ch : Chunk) : Bool :=
  x.mode != 4 && s.copies.any fun e =>
    decide (e.order < x.order) && e.mode != 4 && e.thread.wave == x.thread.wave && e.group == x.group && e.remote == x.remote &&
    (List.range e.total).any fun n => (decide (e.next ≤ n) || e.outstanding n) &&
      e.dests.any fun d => ch.ordinals.any fun k => x.dests.any fun f =>
        s.sameByte e (e.dstSpot d n).va x (x.dstSpot f k).va

/-- The early-arrival buffer of a stream in bytes (R247). -/
def streamBuffer : Nat := 65536

/-- The bytes of a stream's early arrivals. -/
def State.buffered (s : State) (id : Nat) : Nat :=
  (s.copies.filter fun x => x.sequenced && x.stream == id && x.applied == 0 && x.seqNo != (s.stream id).expected).foldl
    (fun n x => n + x.updates.length * (x.dstNibbles / 2)) 0

/-- A chunk of an early copy waits at its source while the buffer is full. -/
def State.bufferFull (s : State) (x : CopyOp) (ch : Chunk) : Bool :=
  x.sequenced && x.applied == 0 && x.seqNo != (s.stream x.stream).expected &&
    decide (streamBuffer < s.buffered x.stream + ch.count * (x.dstNibbles / 2))

/-- What the next chunk of a copy would do if it started now; none where it cannot start. -/
def State.tryChunk (s : State) (x : CopyOp) (elements : Nat) : Option (CopyOp × Chunk × Reached State) :=
  if x.passed then none
  else
    match s.nextChunk x elements, s.wave? x.thread.wave with
    | some ch, some w =>
      if s.chunkHeld x ch || s.bufferFull x ch then none
      else
        match s.runChunk (x.lending ch.start) w ch with
        | .wait => none
        | r => some (x, ch, r)
    | _, _ => none

/-- The chunk that a class would start: the copies at the head of its queue, at most 8, take chunks in rotation. -/
def State.classChunk (s : State) (c : Core) (id : CoreId) (k elements : Nat) : Option (CopyOp × Chunk × Reached State) :=
  let heads := (s.classQueue id k).take 8
  let last := c.rotor.toList.getD k 0
  ((heads.filter fun x => decide (last < x.id)) ++ heads.filter fun x => decide (x.id ≤ last)).findSome? fun x =>
    s.tryChunk x elements

/-- The weights of R249. -/
def classWeight (k : Nat) : Nat := [8, 4, 2, 1].getD k 1

/-- A class's deficit set. -/
def Core.setDeficit (c : Core) (k d : Nat) : Core := { c with deficits := c.deficits.set! k d }

/-- Deficit round-robin to the next chunk (R249): the core's arbitration and the chunk. -/
def State.arbitrate (s : State) (id : CoreId) (elements : Nat) : Nat → Core → Option (Core × CopyOp × Chunk × Reached State)
  | 0, _ => none
  | fuel + 1, c =>
    let k := c.turn
    let d := c.deficits.toList.getD k 0
    let on : Core := { c with turn := (k + 1) % 4, visited := false }
    match s.classChunk c id k elements with
    | none => s.arbitrate id elements fuel (if (s.classQueue id k).isEmpty then on.setDeficit k 0 else on)
    | some (x, ch, r) =>
      let size := x.chunkSize ch
      if c.visited then
        if size ≤ d then some ({ c with rotor := c.rotor.set! k x.id }.setDeficit k (d - size), x, ch, r)
        else s.arbitrate id elements fuel on
      else s.arbitrate id elements fuel ({ c with visited := true }.setDeficit k (d + 2048 * classWeight k))

/-! ## Streams (R247) -/

/-- Skip the numbers of fatal copies that ended ahead of their turn; fuel at least their number. -/
def skipFinished : Nat → Stream → Stream
  | 0, x => x
  | fuel + 1, x =>
    if x.finished.contains x.expected then
      skipFinished fuel { x with expected := x.expected + 1, finished := x.finished.filter (· != x.expected) }
    else x

/-- Every chunk of a copy has finished or, for a fatal copy, stalled. -/
def CopyOp.finished (x : CopyOp) : Bool :=
  x.next == x.total && x.retry.isEmpty && x.updates.isEmpty && (x.stalled.isEmpty || x.fatal)

/-- A copy's number has passed. -/
def numberPassed (n e : Word) : Bool := (n - e).getLsbD 31

/-- When every element of a sequenced copy has applied, or the copy is fatal, its stream goes on (R247, R251). -/
def State.settleCopy (s : State) (op : Nat) : State :=
  match s.copies.find? fun x => x.id == op with
  | none => s
  | some x =>
    if !x.sequenced || x.settled || x.passed || !x.finished then s
    else
      let st := s.stream x.stream
      let s := s.mapCopy op fun x => { x with settled := true }
      if st.expected = x.seqNo then
        s.setStream (skipFinished (st.finished.length + 1) { st with expected := x.seqNo + 1 })
      else if numberPassed x.seqNo st.expected then s
      else s.setStream { st with finished := x.seqNo :: st.finished }

/-- A copy of the stream has begun to apply and has not been applied (R247). -/
def State.streamActive (s : State) (id : Nat) : Bool :=
  s.copies.any fun x => x.sequenced && x.stream == id && decide (0 < x.applied) && !x.settled

/-- A written expected number takes effect, when no copy of the stream is being applied (R247, R339). The numbers of fatal copies that
ended ahead of their turn are then skipped no more: DESIGN CHOICE (log 28). -/
def State.updateExpected (s : State) (id : Nat) : State :=
  let st := s.stream id
  match st.written with
  | some v => if s.streamActive id then s else s.setStream { st with expected := v, written := none, finished := [] }
  | none => s

/-! ## Steps -/

/-- A chunk stalls and its record is handed to the fault queue of the issuing die (R251): an engine read where what the chunk reads
cannot all be had, else an engine write (R322). -/
def State.stallChunk (s : State) (x : CopyOp) (ch : Chunk) (c : Cause) (va : Nat) : State :=
  let reads := (s.wave? x.thread.wave).any fun w => !(s.chunkValues (x.lending ch.start) w ch).isOk
  let r := s.recordFor x.thread c 1 (BitVec.ofNat 64 va) x.pc x.handle (if reads then 3 else 4)
    (chunkBytes (if reads then x.srcNibbles else x.dstNibbles) ch.count) none none
  (s.mapCopy x.id fun y => { y with stalled := y.stalled ++ [(ch, none)] }).post x.core.die r (.chunk x.id ch)

/-- A copy's place in its elements after a chunk has started. -/
def CopyOp.startedChunk (x : CopyOp) (ch : Chunk) : CopyOp :=
  { x with begun := true, next := max x.next (ch.start + ch.count), retry := x.retry.filter fun y => !(y == ch) }

/-- The copy front end of a core starts one chunk, of at most so many elements (R249). -/
def execCopyChunkStart (c : CoreId) (elements : Nat) (s : State) : Host.Outcome State Fault Refusal :=
  .next <|
    match s.core? c with
    | none => s
    | some core =>
      match s.arbitrate c elements 16 core with
      | none => s
      | some (core, x, ch, r) =>
        let go (s : State) : State := ((s.mapCopy x.id fun y => y.startedChunk ch).mapCore c fun _ => core).settleCopy x.id
        match r with
        | .ok s' => go s'
        | .wait => s
        | .fault cause va _ => go (s.stallChunk x ch cause va)

/-- Apply one element with one read-modify-write (R105, R186); on a module that the fabric cannot reach any more it is dropped with
a POISON record (R345). -/
def State.applyUpdate (s : State) (x : CopyOp) (u : Update) : State :=
  let n := x.dstNibbles / 2
  if s.unreachable u.pa then
    let r := s.recordFor x.thread .poison 1 (BitVec.ofNat 64 u.va) x.pc x.handle 4 n none none
    s.record r.die r
  else
    let s := s.copyUpdate (x.lending u.ordinal) (.phys u.pa) u.view n fun bs => leBytes n (reduced x.dstFmt (leNat bs) u.val)
    if u.cleans then s.cleanUnit (.line (u.pa / 64)) else s

/-- Apply elements in turn, up to one that is to be dropped while the fault queue does not take its record (R323): the state and how
many. -/
def State.applyAll (s : State) (x : CopyOp) : List Update → State × Nat
  | [] => (s, 0)
  | u :: us =>
    if s.unreachable u.pa && !s.faultHasRoom (s.recordFor x.thread .poison 1 0 x.pc x.handle 4 0 none none).die then (s, 0)
    else
      let r := (s.applyUpdate x u).applyAll x us
      (r.1, r.2 + 1)

/-- Insert by ordinal. -/
def insertUpdate (u : Update) : List Update → List Update
  | [] => [u]
  | v :: vs => if u.ordinal < v.ordinal then u :: v :: vs else v :: insertUpdate u vs

/-- An element waits at its memory controller: an earlier element of the copy that is to be done again meets its destination, or cannot
be reached now, so that it may. Elements of one copy apply in iteration order (R105, R247); a copy with a fatal chunk holds nothing back
(R251). Where an earlier destination cannot be reached the later ones wait, though other chunks proceed: DESIGN CHOICE (log 28). -/
def State.updateHeld (s : State) (x : CopyOp) (u : Update) : Bool :=
  !x.fatal && (List.range u.ordinal).any fun k => x.outstanding k && x.dests.any fun d =>
    match s.storeOf x (x.dstSpot d k).va with
    | some p => p.meets (spanBytes x.dstNibbles) (.mem (.phys u.pa) u.view) (spanBytes x.dstNibbles)
    | none => true

/-- Apply at most so many of a copy's elements, in iteration order. -/
def State.applyUpdates (s : State) (x : CopyOp) (elements : Nat) : State :=
  let sorted := x.updates.foldl (fun l u => insertUpdate u l) []
  let ready := (sorted.filter fun u => !s.updateHeld x u).take elements
  let r := s.applyAll x ready
  let now := ready.take r.2
  (r.1.mapCopy x.id fun y =>
    { y with updates := y.updates.filter fun u => !now.contains u, applied := y.applied + now.length }).settleCopy x.id

/-- The memory controllers apply elements of a reducing copy; a sequenced one only at its turn, and a passed one never
(R247). Whether one controller may begin the next number before another has finished the last the manual leaves open; the copies
of a stream are applied whole, one after another: DESIGN CHOICE (log 83). -/
def execReductionApply (op elements : Nat) (s : State) : Host.Outcome State Fault Refusal :=
  .next <|
    match s.copies.find? fun x => x.id == op with
    | none => s
    | some x =>
      if x.mode ≠ 4 || x.passed then s
      else if !x.sequenced || decide (0 < x.applied) then s.applyUpdates x elements
      else
        let s := s.updateExpected x.stream
        let st := s.stream x.stream
        if st.written.isSome then s
        else if st.expected = x.seqNo then s.applyUpdates x elements
        else if numberPassed x.seqNo st.expected && !x.settled then
          s.mapCopy op fun x => { x with passed := true, updates := [] }
        else s.settleCopy op

/-- A value written to %streamexp takes effect (R247). -/
def execStreamExpectedUpdate (stream : Nat) (s : State) : Host.Outcome State Fault Refusal := .next (s.updateExpected stream)

/-- A copy completes: its stream goes on, its stalled chunks have their end, and it leaves its class queue (R235, R250, R251). -/
def State.completeCopy (s : State) (x : CopyOp) : State :=
  let s := s.settleCopy x.id
  let s := (s.freeTokens x.core.die (x.stalled.filterMap (·.2))).orphanPosts x.core.die x.id
  let s := s.mapCopy x.id fun y => { y with completed := true, stalled := [] }
  if (s.classQueue x.core x.cls).isEmpty then s.mapCore x.core fun y => y.setDeficit x.cls 0 else s

/-- What a copy's accesses pass on: what happens-before them, what their reads have returned, their writes. -/
def CopyOp.passesOn (x : CopyOp) : Know :=
  let k := (x.sight.know.join (Know.ofSeen x.met)).also (x.lent.map (·.2))
  if x.written + x.applied = 0 then k else k.afterWrites x.wrote

/-- Its completion is reported in issue order; then its message is sent (R207, R250). -/
def State.reportCopy (s : State) (x : CopyOp) : State :=
  let s : State := { s with copies := s.copies.filter fun y => !(y.id == x.id) }
  let s := s.report x.thread x.group x.counter x.id x.order x.passesOn x.passesOn x.wrote
  if x.handle = noHandle then s
  else
    s.notify x.core.die x.handle (if x.passed then 2 else if x.fatal then 1 else 0) x.tag (if x.remote then 3 else 0) x.passesOn

/-- A copy completes when every chunk has written every destination, when its number has passed, or with a fatal chunk when every
other has finished or stalled (R247, R250, R251); its report follows those of the earlier copies. -/
def execCopyCompletion (c : CoreId) (op : Nat) (s : State) : Host.Outcome State Fault Refusal :=
  .next <|
    match s.copies.find? fun x => x.id == op && x.core == c with
    | none => s
    | some x =>
      if !(x.completed || x.passed || x.finished) then s
      else
        let s := if x.completed then s else s.completeCopy x
        if s.firstOpen x.thread x.group op x.counter then s.reportCopy x else s

/-! ## Verdicts (R325, R339) -/

/-- The oldest verdict given on a die: the chunk or row to be done again may start; a fatal copy's stream goes on where that was all
it waited for. Nothing happens where the oldest is of the other kind. -/
def State.resolve (s : State) (die : Nat) (fatal : Bool) : State :=
  match (s.die? die).map (·.verdicts) with
  | some ((who, verdict) :: rest) =>
    if verdict != fatal then s
    else
      let s := s.mapDie die fun d => { d with verdicts := rest }
      match fatal, who with
      | true, .chunk op _ => s.settleCopy op
      | _, _ => s
  | _ => s

/-- Verdict retry (R325). -/
def execFresRetry (die : Nat) (s : State) : Host.Outcome State Fault Refusal := .next (s.resolve die false)

/-- Verdict fatal (R325). -/
def execFresFatal (die : Nat) (s : State) : Host.Outcome State Fault Refusal := .next (s.resolve die true)

end Sys2Proof.Machine
end

