-- ==== Sys2Proof/Machine/Rings.lean ====
section
/-!
DEFINITION. Rings (spec 17 R254..R263): the checks of a ring reference and its descriptor, and the six ring instructions.
-/
namespace Sys2Proof.Machine

open Sys2Proof

/-- A ring as an instruction finds it: where its descriptor lies, its fields (R254), and the count n (R256). -/
structure Ring where
  va : DWord
  pa : Nat
  size : Nat
  notify : Word
  head : Word
  claim : Word
  commit : Word
  n : Nat
  deriving DecidableEq, Repr

/-- The descriptor's bytes; those of a poisoned line are free. -/
def State.descriptor (s : State) (pa : Nat) : State × List Byte :=
  if s.poisoned (.phys pa) 64 then
    ({ s with free := s.free + 64 }, (List.range 64).map fun i => BitVec.ofNat 8 (Config.choice (s.free + i)))
  else (s, s.readLoc (.phys pa) 64)

/-- A power of two from 1 to 65,536. -/
def ringSize (z : Nat) : Bool := (List.range 17).any fun i => z == 2 ^ i

/-- The checks of R257 in order, then the ring operation; `writes`: the instruction changes the descriptor. The thread's own earlier
stores take effect first. That every write made to the 64 bytes of the descriptor before is from then on seen by all, so that the ring acts
on the newest values in coherence order, is a DESIGN CHOICE: R263 fixes what the ring instruction itself reads alone (log 98). A
descriptor address in a scratchpad allocation, which R254 forbids and for which R257 names no cause, traps with LAYOUT: DESIGN CHOICE
(log 80). Item 6 checks for a write too with every instruction that may change the descriptor, one that pushes false also: DESIGN CHOICE
(log 97). -/
def withRing (c : Ctx) (s : State) (o : Word) (writes : Bool) (go : Ring → State → Effect) : Effect :=
  withBlock c s o 16 16 fun s blk =>
    if fieldAt blk 12 4 ≠ 0 then .trap s .engine (engineInfo o 12)
    else
      let va := dwordAt blk 0
      let n := fieldAt blk 8 4
      if va.toNat % 64 ≠ 0 then .trap s .align va
      else
        withAccess c s ⟨8, true, writes, false⟩ va fun loc view _ =>
          match loc with
          | .phys pa =>
            if view then .trap s .layout va
            else
              let r := ((s.drain c.t.id).settlePhys pa 64).descriptor pa
              let z := fieldAt r.2 8 4
              if !ringSize z then .trap s .engine (engineInfo o 0x108)
              else if leNat (r.2.drop 28) ≠ 0 then .trap s .engine (engineInfo o 0x11C)
              else if n = 0 || decide (z < n) then .trap s .engine (engineInfo o 8)
              else go ⟨va, pa, z, wordAt r.2 12, wordAt r.2 16, wordAt r.2 20, wordAt r.2 24, n⟩ r.1
          | _ => .trap s .layout va

/-- Claimed granules (R255). -/
def Ring.claimed (r : Ring) : Nat := (r.claim - r.head).toNat

/-- Committed, unretired granules (R255). -/
def Ring.committed (r : Ring) : Nat := (r.commit - r.head).toNat

/-- n granules as a word. -/
def Ring.step (r : Ring) : Word := BitVec.ofNat 32 r.n

/-- At least n granules are free; a ring whose fields break R255 has fewer than none. -/
def Ring.room (r : Ring) : Bool := decide (r.claimed + r.n ≤ r.size)

/-- What a ring instruction that goes on, or pushes false, takes over from what it has read, all of the descriptor: what its words carry
(R171, R172, R257). One that waits or traps takes over nothing, and nothing is taken over from a poisoned line: DESIGN CHOICE
(log 98). -/
def State.meetRing (s : State) (id : ThreadId) (r : Ring) : State :=
  if s.poisoned (.phys r.pa) 64 then s else (s.readBy id false false (.phys r.pa) 64).1

/-- What a write of H, C or M carries: what any store of its thread does (R171, R172), and of a release one of module scope (R262). -/
def State.ringCarries (s : State) (id : ThreadId) (releases : Bool) : Carried :=
  let x := (s.writing id false false).carries
  if releases then { x with releases := addReleased ⟨.module, s.coreOf id, id.wave, s.knows id⟩ x.releases } else x

/-- Write H, C or M: one indivisible read-modify-write of the descriptor (R257), `releases` where it is a release of module scope (R262);
no release fence for later ordinary stores: DESIGN CHOICE (log 92). On a module that the fabric cannot reach it is dropped with a POISON
record (R345). -/
def State.putRing (s : State) (id : ThreadId) (pc : Word) (r : Ring) (releases : Bool) (off : Nat) (v : Word) : State :=
  if s.unreachable r.pa then
    let x := s.recordFor id .poison 4 (r.va + BitVec.ofNat 64 off) pc noHandle 2 4 none none
    (s.post x.die x (.store id)).mapThread id fun t => { t with unposted := t.unposted + 1 }
  else
    let s := s.publish id
    let x : Writing := ⟨false, false, true, s.ringCarries id releases⟩
    (s.writeAs (s.viewer id) x (fun _ => s.stamp) (.phys (r.pa + off)) (leBytes 4 v.toNat)).numbered id

/-- An acquire of module scope (R262). -/
def State.ringAcquire (s : State) (id : ThreadId) : State :=
  if s.late then s.mapThread id fun t => t.acquire (s.coreOf id) .module else s

/-- A claim: what is read, C moved on, then the acquire (R258, R262). -/
def State.claimRing (s : State) (c : Ctx) (r : Ring) : State :=
  ((s.meetRing c.t.id r).putRing c.t.id c.t.pc r false 20 (r.claim + r.step)).ringAcquire c.t.id

/-- An await that goes on: what is read, then the acquire (R258, R262). -/
def State.awaitRing (s : State) (c : Ctx) (r : Ring) : State := (s.meetRing c.t.id r).ringAcquire c.t.id

/-- RCLAIM (R258). -/
def execRclaim (f : ADF) : State → Host.Outcome State Fault Refusal :=
  runForm { g := f.g, sc := f.sc, reads := [f.a], names := [f.d] } fun c o s =>
    withRing c s (o 0) true fun r s =>
      if r.room then
        writeAfter c (s.claimRing c r) [(f.d, r.claim)]
      else .wait s .poll

/-- Register results and a push after them. -/
def writePush (c : Ctx) (s : State) (ws : List (Reg × Word)) : Effect :=
  checkStack c s ws (.done (c.on s fun t => (t.putBanks ws).push true))

/-- RCLAIMNF (R258); a failing STACK check leaves the claim alone standing (R364). -/
def execRclaimnf (f : ADF) : State → Host.Outcome State Fault Refusal :=
  runForm { g := f.g, sc := f.sc, reads := [f.a], names := [f.d], preds := true } fun c o s =>
    withRing c s (o 0) true fun r s =>
      if r.room then
        writePush c (s.claimRing c r) [(f.d, r.claim)]
      else pushDone c (s.meetRing c.t.id r) false

/-- RAWAIT (R258); a failing STACK check comes before its acquire, as before every effect (R69). -/
def execRawait (f : ADF) : State → Host.Outcome State Fault Refusal :=
  runForm { g := f.g, sc := f.sc, reads := [f.a], names := [f.d] } fun c o s =>
    withRing c s (o 0) false fun r s =>
      if r.n ≤ r.committed then writeWith c s (s.awaitRing c r) [(f.d, r.head)] else .wait s .poll

/-- RAWAITNF (R258); a failing STACK check leaves its push standing (R364). -/
def execRawaitnf (f : ADF) : State → Host.Outcome State Fault Refusal :=
  runForm { g := f.g, sc := f.sc, reads := [f.a], names := [f.d], preds := true } fun c o s =>
    withRing c s (o 0) false fun r s =>
      if r.n ≤ r.committed then
        writeAfter c (c.on (s.awaitRing c r) fun t => t.push true) [(f.d, r.head)]
      else pushDone c (s.meetRing c.t.id r) false

/-- What an RCOMMIT delivers to the notify handle (R261). -/
def Ring.notice (r : Ring) (die : Nat) (m : Word) (know : Know) : Delivery where
  handle := r.notify
  msg := [Word.lo r.va, Word.hi r.va, m, r.step]
  delta := r.n
  ring := true
  errDie := die
  know := know

/-- RCOMMIT (R259, R261, R262). -/
def execRcommit (f : ADF) : State → Host.Outcome State Fault Refusal :=
  runForm { g := f.g, sc := f.sc, reads := [f.a, f.d] } fun c o s =>
    withRing c s (o 0) true fun r s =>
      let p := o 1
      if (r.claim - r.commit).toNat < (p - r.commit).toNat + r.n then .trap s .engine (engineInfo (o 0) 0x200)
      else if r.commit = p then
        let m := r.commit + r.step
        let s := (s.meetRing c.t.id r).putRing c.t.id c.t.pc r true 24 m
        .done (if r.notify = noHandle then s else s.deliver (r.notice c.w.die m (s.knows c.t.id)))
      else .wait s .poll

/-- RRETIRE (R260, R262). -/
def execRretire (f : AF) : State → Host.Outcome State Fault Refusal :=
  runForm { g := f.g, sc := f.sc, reads := [f.a] } fun c o s =>
    withRing c s (o 0) true fun r s =>
      if r.committed < r.n then .trap s .engine (engineInfo (o 0) 0x200)
      else .done ((s.meetRing c.t.id r).putRing c.t.id c.t.pc r true 16 (r.head + r.step))

end Sys2Proof.Machine
end

