-- ==== Sys2Proof/Machine/Ports.lean ====
section
/-!
DEFINITION. Ports and join patterns (spec 17 R264..R281): the eleven PORT instructions, the firing of a pattern, and the retry
of a held delivery.
-/
namespace Sys2Proof.Machine

open Sys2Proof

/-- What a trap on a handle reports (R269). -/
def handleInfo (h : Word) : DWord := Word.pair h 0

/-- A handle's port, or PORTSTALE (R269). -/
def withPort (s : State) (h : Word) (go : Die → Effect) : Effect :=
  match s.portDie h with
  | none => .trap s .portstale (handleInfo h)
  | some d => go d

/-- A port's kind, the launch port having none. -/
def Die.kind? (d : Die) (h : Word) : Option PortKind := (d.ports.find? fun p => p.idx == handleIdx h).map (·.kind)

/-- A port is named by an armed pattern (R273). -/
def Die.bound (d : Die) (h : Word) : Bool := d.patterns.any fun p => p.armed && p.ports.contains h

/-- The threads that wait in RECV on a handle trap there (R271, R273). -/
def State.trapWaiting (s : State) (h : Word) (cause : Cause) : State :=
  (s.threads.filter fun t => t.wait == .recv h).foldl (fun s t =>
    match s.ctx t.id with
    | some c => s.trap c cause (handleInfo h)
    | none => s) s

/-! ## Allocating and freeing (R266, R270, R271) -/

/-- The checks of a configuration word (R266, R363). -/
def pallocChecks (blk : List Byte) : List (Bool × Nat) :=
  let count := (fieldAt blk 1 1).testBit 0
  [ (!count || fieldAt blk 0 1 == 0, 0), (fieldAt blk 1 1 / 2 == 0, 1), (count || fieldAt blk 2 2 == 0, 2),
    (fieldAt blk 4 4 == 0, 4) ]

/-- The port a configuration word describes. -/
def portOf (idx : Nat) (blk : List Byte) : Port :=
  let r := (BitVec.ofNat 16 (fieldAt blk 2 2)).toInt
  let depth := fieldAt blk 0 1
  ⟨idx, if (fieldAt blk 1 1).testBit 0 then .count r r Know.none else .queue (if depth = 0 then 256 else depth) []⟩

/-- The lowest free port index of a die (R270). -/
def Die.freePort (d : Die) : Option Nat := ((List.range 65535).find? fun i => !d.ports.any fun p => p.idx == i + 1).map (· + 1)

/-- PALLOC (R270). -/
def execPalloc (f : ADF) : State → Host.Outcome State Fault Refusal :=
  runForm { g := f.g, sc := f.sc, reads := [f.a], names := [f.d] } fun c o s =>
    withBlock c s (o 0) 8 8 fun s blk =>
      withFields s (o 0) (pallocChecks blk) <|
        match (s.die? c.w.die).bind fun d => d.freePort.map fun i => (d, i) with
        | none => writeAfter c s [(f.d, noHandle)]
        | some (d, i) =>
          writeAfter c (s.mapDie d.idx fun d => { d with ports := d.ports ++ [portOf i blk] })
            [(f.d, handleOf d.idx (genOf d.portGens i) i)]

/-- A port is freed in one event (R271). -/
def State.freePort (s : State) (h : Word) : State :=
  let s := s.mapDie (handleDie h) fun d =>
    { d with
      ports := d.ports.filter fun p => !(p.idx == handleIdx h)
      portGens := bumpGen d.portGens (handleIdx h)
      patterns := updateIf (fun p => p.ports.contains h) (fun p => { p with armed := false }) d.patterns }
  s.trapWaiting h .portstale

/-- PFREE (R271). -/
def execPfree (f : AF) : State → Host.Outcome State Fault Refusal :=
  runForm { g := f.g, sc := f.sc, reads := [f.a] } fun _ o s =>
    withPort s (o 0) fun _ =>
      if handleIdx (o 0) = 0 then .trap s .portbound (handleInfo (o 0)) else .done (s.freePort (o 0))

/-! ## Sending (R265, R272) -/

/-- The new state after a message or a count of k at a port that takes it: a release of module scope (R177). -/
def sent (c : Ctx) (s : State) (h : Word) (msg : List Word) (k : Int) : Option State :=
  (s.sending c.t.id).deliver? ⟨h, msg, k, false, c.w.die, (s.sending c.t.id).knows c.t.id⟩

/-- SEND and PADD: PORTOVF where the port does not take it. -/
def sendOrTrap (c : Ctx) (s : State) (h : Word) (msg : List Word) (k : Int) : Effect :=
  withPort s h fun _ =>
    match sent c s h msg k with
    | some s => .done s
    | none => .trap s .portovf (handleInfo h)

/-- SEND (R272). -/
def execSend (f : ADF) : State → Host.Outcome State Fault Refusal :=
  runForm { g := f.g, sc := f.sc, reads := f.a :: f.d.group 4 } fun c o s =>
    sendOrTrap c s (o 0) [o 1, o 2, o 3, o 4] (o 1).toInt

/-- SENDNF (R272). -/
def execSendnf (f : ADF) : State → Host.Outcome State Fault Refusal :=
  runForm { g := f.g, sc := f.sc, reads := f.a :: f.d.group 4, preds := true } fun c o s =>
    withPort s (o 0) fun _ =>
      match sent c s (o 0) [o 1, o 2, o 3, o 4] (o 1).toInt with
      | some s => pushDone c s true
      | none => pushDone c (s.sending c.t.id) false

/-- PADD (R272). -/
def execPadd (f : ADF) : State → Host.Outcome State Fault Refusal :=
  runForm { g := f.g, sc := f.sc, reads := [f.a, f.d] } fun c o s => sendOrTrap c s (o 0) [o 1, 0, 0, 0] (o 1).toInt

/-! ## Consuming (R273, R274) -/

/-- What a consumption takes from a port: the four words, the port afterwards, what it passes on; none while there is nothing to
take. -/
def PortKind.take : PortKind → Option (List Word × PortKind × Know)
  | .queue depth (m :: ms) => some (m.words, .queue depth ms, m.know)
  | .queue _ [] => none
  | .count v r know => if v = 0 then some ([BitVec.ofInt 32 v, 0, 0, 0], .count r r Know.none, know) else none

/-- The checks of a consumption and what there is to take (R265, R273). -/
def withConsumption (s : State) (h : Word) (go : Option (List Word × PortKind × Know) → Effect) : Effect :=
  withPort s h fun d =>
    match d.kind? h with
    | none => .trap s .portbound (handleInfo h)
    | some k => if d.bound h then .trap s .portbound (handleInfo h) else go k.take

/-- The state after a consumption: what the message passes on is taken over (R177, R181). It is no acquire fence for the releases that
earlier ordinary reads have met: DESIGN CHOICE (log 92). -/
def consumed (c : Ctx) (s : State) (h : Word) (k : PortKind) (know : Know) : State :=
  (s.mapPort h fun _ => k).learn c.t.id know

/-- The words of a message as writes to a group of four registers. -/
def messageWrites (d : Reg) (ws : List Word) : List (Reg × Word) := (List.range 4).map fun i => (d.succ i, ws.getD i 0)

/-- RECV (R273). -/
def execRecv (f : ADF) : State → Host.Outcome State Fault Refusal :=
  runForm { g := f.g, sc := f.sc, reads := [f.a], names := f.d.group 4 } fun c o s =>
    withConsumption s (o 0) fun
      | some (ws, k, ops) => writeAfter c (consumed c s (o 0) k ops) (messageWrites f.d ws)
      | none => .wait s (.recv (o 0))

/-- RECVNF (R273); a failing STACK check leaves the consumption alone standing (R364). -/
def execRecvnf (f : ADF) : State → Host.Outcome State Fault Refusal :=
  runForm { g := f.g, sc := f.sc, reads := [f.a], names := f.d.group 4, preds := true } fun c o s =>
    withConsumption s (o 0) fun
      | some (ws, k, ops) => writePush c (consumed c s (o 0) k ops) (messageWrites f.d ws)
      | none => pushDone c s false

/-- What PINFO reads of a port (R274). -/
def Die.portInfo (d : Die) (h : Word) : Word :=
  match d.kind? h with
  | none => BitVec.ofNat 32 d.launchPort.length
  | some (.queue _ ms) => BitVec.ofNat 32 ms.length
  | some (.count v _ _) => BitVec.ofInt 32 v

/-- PINFO (R274). -/
def execPinfo (f : ADF) : State → Host.Outcome State Fault Refusal :=
  runForm { g := f.g, sc := f.sc, reads := [f.a], names := [f.d] } fun c o s =>
    withPort s (o 0) fun d => writeBoard c s [(f.d, d.portInfo (o 0))]

/-! ## Patterns (R275..R277) -/

/-- The patterns of a die (R275). -/
def patternRoom : Nat := 8192

/-- The pattern of a handle that is not stale (R275). -/
def State.pattern? (s : State) (h : Word) : Option (Die × Pattern) :=
  match s.die? (handleDie h) with
  | none => none
  | some d =>
    if !d.inService || genOf d.patGens (handleIdx h) != handleGen h then none
    else (d.patterns.find? fun p => p.idx == handleIdx h).map fun p => (d, p)

/-- The checks of a PATDEF block (R276, R363): the port count first, then every field in increasing offset.
Of two equal handles the later one is the invalid element: DESIGN CHOICE (log 96). -/
def patdefTrap (s : State) (d : Die) (o : Word) (blk : List Byte) : Option (Cause × DWord) :=
  let count := fieldAt blk 42 1
  let handle (i : Nat) : Word := wordAt blk (4 * i)
  let req (i : Nat) : Nat := fieldAt blk (16 + 4 * i) 4
  let queue (i : Nat) : Bool :=
    match d.kind? (handle i) with
    | some (.queue _ _) => true
    | _ => false
  let one (i : Nat) : Option (Cause × DWord) :=
    let h := handle i
    if count ≤ i then fieldCheck o (h == 0) (4 * i)
    else if s.stale h then some (.portstale, handleInfo h)
    else
      fieldCheck o (handleDie h == d.idx && handleIdx h != 0 && !(List.range i).any fun j => handle j == h) (4 * i)
  let used := (List.range count).foldl (fun n i => n + (if queue i then req i else 1)) 0
  ([ fieldCheck o (decide (1 ≤ count) && decide (count ≤ 4)) 42 ] ++ (List.range 4).map one ++
    ((List.range 4).map fun i =>
      fieldCheck o
        (if count ≤ i then req i == 0
          else if queue i then decide (1 ≤ req i) && decide (req i ≤ 4)
          else decide (req i < 2 ^ 31)) (16 + 4 * i)) ++
    [ fieldCheck o (decide (used ≤ 4)) 16, fieldCheck o (fieldAt blk 32 8 % 64 == 0) 32,
      fieldCheck o (decide (fieldAt blk 40 1 ≤ 15)) 40, fieldCheck o (decide (fieldAt blk 41 1 ≤ 1)) 41,
      fieldCheck o (leNat (blk.drop 43) == 0) 43 ]).findSome? id

/-- The pattern a block describes, disarmed. -/
def patternOf (idx : Nat) (blk : List Byte) : Pattern where
  idx := idx
  armed := false
  ports := (List.range (fieldAt blk 42 1)).map fun i => wordAt blk (4 * i)
  reqs := (List.range (fieldAt blk 42 1)).map fun i => fieldAt blk (16 + 4 * i) 4
  node := dwordAt blk 32
  prio := fieldAt blk 40 1
  rotate := fieldAt blk 41 1 == 1

/-- PATDEF (R276). -/
def execPatdef (f : ADF) : State → Host.Outcome State Fault Refusal :=
  runForm { g := f.g, sc := f.sc, reads := [f.a], names := [f.d] } fun c o s =>
    withBlock c s (o 0) 64 8 fun s blk =>
      match s.die? c.w.die with
      | none => writeAfter c s [(f.d, noHandle)]
      | some d =>
        match patdefTrap s d (o 0) blk with
        | some (cause, ea) => .trap s cause ea
        | none =>
          match lowestFree (d.patterns.map (·.idx)) patternRoom with
          | none => writeAfter c s [(f.d, noHandle)]
          | some i =>
            writeAfter c (s.mapDie d.idx fun d => { d with patterns := d.patterns ++ [patternOf i blk] })
              [(f.d, handleOf d.idx (genOf d.patGens i) i)]

/-- PATDEL (R277). -/
def execPatdel (f : AF) : State → Host.Outcome State Fault Refusal :=
  runForm { g := f.g, sc := f.sc, reads := [f.a] } fun _ o s =>
    match s.pattern? (o 0) with
    | none => .trap s .portstale (handleInfo (o 0))
    | some (d, p) =>
      .done (s.mapDie d.idx fun d =>
        { d with patterns := d.patterns.filter fun q => !(q.idx == p.idx), patGens := bumpGen d.patGens p.idx })

/-- Arm or disarm a pattern. -/
def State.setArmed (s : State) (die idx : Nat) (b : Bool) : State :=
  s.mapDie die fun d => { d with patterns := updateIf (fun q => q.idx == idx) (fun q => { q with armed := b }) d.patterns }

/-- PATARM (R273, R277). Of several ports that have been freed, h2 names the first in the pattern's order: DESIGN CHOICE, R277 says 'that
port's handle' (log 105). -/
def execPatarm (f : ADF) : State → Host.Outcome State Fault Refusal :=
  runForm { g := f.g, sc := f.sc, reads := [f.a, f.d] } fun _ o s =>
    match s.pattern? (o 0) with
    | none => .trap s .portstale (handleInfo (o 0))
    | some (d, p) =>
      if 1 < (o 1).toNat then .trap s .engine (engineInfo (o 1) 0)
      else if o 1 = 0 then .done (s.setArmed d.idx p.idx false)
      else if p.armed then .done s
      else
        match p.ports.find? fun h => s.stale h with
        | some h => .trap s .portstale (handleInfo h)
        | none =>
          .done (p.ports.foldl (fun s h => s.trapWaiting h .portbound) (s.setArmed d.idx p.idx true))

/-! ## Firing (R278..R280) -/

/-- A port meets a requirement. -/
def PortKind.meets (k : PortKind) (req : Nat) : Bool :=
  match k with
  | .queue _ ms => decide (req ≤ ms.length)
  | .count v _ _ => if req = 0 then v == 0 else decide ((req : Int) ≤ v)

/-- What a firing takes from a port: the bytes it contributes, the port afterwards, what it passes on. -/
def PortKind.contribute (k : PortKind) (req : Nat) : List Byte × PortKind × Know :=
  match k with
  | .queue depth ms =>
    ((ms.take req).flatMap (fun m => wordBytes m.words), .queue depth (ms.drop req), joinAll ((ms.take req).map (·.know)))
  | .count v r know =>
    (wordBytes [BitVec.ofInt 32 v, 0, 0, 0],
      .count (if req = 0 then r else v - req) r (if req = 0 then Know.none else know), know)

/-- An armed pattern every port of which meets its requirement (R278). -/
def Die.satisfied (d : Die) (p : Pattern) : Bool :=
  p.armed && (List.zip p.ports p.reqs).all fun x => (d.kind? x.1).any fun k => k.meets x.2

/-- The pattern that fires and the rotation pointers afterwards (R279). -/
def Die.choosePattern (d : Die) : Option (Pattern × Vector Nat 16) :=
  let ready := d.patterns.filter d.satisfied
  let top := ready.foldl (fun m p => max m p.prio) 0
  let tied := ready.filter fun p => p.prio == top
  let least (ps : List Pattern) : Option Pattern :=
    (lowest (ps.map (·.idx))).bind fun i => ps.find? fun p => p.idx == i
  match least (tied.filter fun p => !p.rotate) with
  | some p => some (p, d.rotation)
  | none =>
    let start := d.rotation.toList.getD top 0
    let first :=
      match least (tied.filter fun p => decide (start ≤ p.idx)) with
      | some p => some p
      | none => least tied
    first.map fun p => (p, d.rotation.set! top ((p.idx + 1) % patternRoom))

/-- Fire a pattern: consume from its ports in order and enter the handler's launch (R278, R280). -/
def State.fire (s : State) (die : Nat) (p : Pattern) : State :=
  let r := (List.zip p.ports p.reqs).foldl (fun acc x =>
    match (acc.1.die? die).bind fun d => d.kind? x.1 with
    | some k =>
      let t := k.contribute x.2
      (acc.1.mapPort x.1 fun _ => t.2.1, acc.2.1 ++ t.1, acc.2.2.join t.2.2)
    | none => acc) (s, ([] : List Byte), Know.none)
  let bytes := r.2.1 ++ List.replicate (64 - r.2.1.length) 0
  r.1.enterLaunch die (.root p.node (some bytes) r.2.2)

/-- The Posy of a die fires one satisfied pattern, when the launch port has room (R278, R279). -/
def execPatternFiring (die : Nat) (s : State) : Host.Outcome State Fault Refusal :=
  .next <|
    match s.die? die with
    | none => s
    | some d =>
      if !d.inService || !s.launchHasRoom die then s
      else
        match d.choosePattern with
        | none => s
        | some (p, rotation) => (s.mapDie die fun d => { d with rotation := rotation }).fire die p

/-- A held delivery is tried again; those held earlier for the same port come first (R19, R223, R261, R267). -/
def execHeldDeliveryRetry (die n : Nat) (s : State) : Host.Outcome State Fault Refusal :=
  .next <|
    match s.die? die with
    | none => s
    | some d =>
      match d.deliveries[n]? with
      | none => s
      | some x =>
        if (d.deliveries.take n).any fun y => y.handle == x.handle then s
        else
          match s.deliver? x with
          | none => s
          | some s => s.mapDie die fun d => { d with deliveries := d.deliveries.eraseIdx n }

end Sys2Proof.Machine
end

