-- ==== Sys2Proof/Machine/Reserve.lean ====
section
/-!
DEFINITION. Reserving loops (spec 19 R282..R299): claims, admission, RSVINFO, and the Barrow's steps. The store check of R295 is
in MemOps.
-/
namespace Sys2Proof.Machine

open Sys2Proof

/-- The exact list's length (R285). -/
def claimRoom : Nat := 32

/-- A claim of a line (R285). -/
def Item.claim (x : Item) (line : Nat) (w : Bool) : Item :=
  if x.lines.any fun y => y.1 == line then { x with lines := updateIf (fun y => y.1 == line) (fun y => (y.1, y.2 || w)) x.lines }
  else if x.lines.length < claimRoom then { x with lines := x.lines ++ [(line, w)] }
  else { x with overflow := true }

/-- Two items conflict (R286). -/
def Item.conflicts (x y : Item) : Bool :=
  x.overflow || y.overflow || x.lines.any fun a => y.lines.any fun b => a.1 == b.1 && (a.2 || b.2)

/-- CLAIM.R and CLAIM.W (R292). -/
def runClaim (w : Bool) (f : AF) : State → Host.Outcome State Fault Refusal :=
  runForm { g := f.g, sc := f.sc, reads := f.a.pair } fun c o s =>
    let addr := Word.pair (o 0) (o 1)
    if !c.isItem then .trap s .claim 0
    else if 2 ^ 57 ≤ addr.toNat then .trap s .xlate addr
    else if onChip addr.toNat then .trap s .claim addr
    else if c.item.phase ≠ .claiming then .trap s .claim addr
    else .done (s.mapLaunch c.l.id fun l => l.setItem (c.item.claim (addr.toNat / 64) w))

/-- CLAIM.R (R292). -/
def execClaimR (f : AF) : State → Host.Outcome State Fault Refusal := runClaim false f

/-- CLAIM.W (R292). -/
def execClaimW (f : AF) : State → Host.Outcome State Fault Refusal := runClaim true f

/-- ADMIT (R293): the claiming phase ends at its first arrival. -/
def execAdmit (f : GF) : State → Host.Outcome State Fault Refusal :=
  runForm { g := f.g, sc := f.sc } fun c _ s =>
    if !c.isItem then .trap s .claim 0
    else
      match c.item.phase with
      | .claiming => .wait (s.mapLaunch c.l.id fun l => l.setItem { c.item with phase := .waiting }) (.admitItem f.sc)
      | .waiting => .wait s (.admitItem f.sc)
      | _ => .done s

/-- A phase's code in RSVINFO; the manual gives none for the waiting phase (R294). -/
def phaseCode (free : Nat) : Phase → Nat
  | .claiming => 1
  | .executing => 2
  | _ => Config.choice free % 4

/-- The executing thread's item state (R294). -/
def Ctx.rsvInfo (c : Ctx) (s : State) : Word :=
  if !c.isItem then 0
  else
    BitVec.ofNat 32 (phaseCode s.free c.item.phase * 512 + (if c.item.overflow then 256 else 0) + c.item.lines.length)

/-- RSVINFO (R294). -/
def execRsvinfo (f : DF) : State → Host.Outcome State Fault Refusal :=
  runForm { g := f.g, sc := f.sc, names := [f.d] } fun c _ s =>
    writeBoard c { s with free := s.free + 1 } [(f.d, c.rsvInfo s)]

/-! ## The Barrow -/

/-- An item is unfinished (R283). -/
def Item.unfinished (x : Item) : Bool := x.phase != .finished

/-- The lowest unfinished item; the item count when all have finished (R288). -/
def Launch.lowestUnfinished (l : Launch) : Nat :=
  ((List.range l.nd.items).find? fun i => (l.item i).unfinished).getD l.nd.items

/-- The items a waiting item may run ahead of the lowest unfinished one (R288). -/
def admissionWindow : Nat := 4096

/-- An executing item, which has not yet been counted finished (R283); one that left while claiming is none. -/
def Item.running (x : Item) : Bool := x.phase == .executing || x.phase == .exited

/-- The four conditions of R288 for item i; tested on exact lists (R287). -/
def Launch.admissible (l : Launch) (i : Nat) : Bool :=
  let x := l.item i
  x.phase == .waiting && decide (i < l.nd.items) &&
  ((List.range i).all fun j => (l.item j).phase != .claiming) &&
  (l.items.all fun y => y.n == i || !y.running || !x.conflicts y) &&
  ((List.range i).all fun j => (l.item j).phase != .waiting || !x.conflicts (l.item j)) &&
  decide (i < l.lowestUnfinished + admissionWindow)

/-- The thread of an item: the node thread of its number in the present step (R282). -/
def State.itemThread (s : State) (l : Launch) (i : Nat) : Option Thread :=
  s.threads.find? fun t => s.waves.any fun w =>
    w.uid == t.id.wave && w.launch == l.id && w.step == l.step && w.nodeThread t.id.idx == i

/-- The Barrow admits a waiting item, whose thread goes on: an acquire of module scope, which takes over what the finished items released
and the releases that the thread's reads have met (R172, R288, R290, R293). -/
def execItemAdmission (launch item : Nat) (s : State) : Host.Outcome State Fault Refusal :=
  .next <|
    match s.launch? launch with
    | none => s
    | some l =>
      match s.itemThread l item with
      | none => s
      | some t =>
        match t.wait with
        | .admitItem sc =>
          if l.admissible item then
            let s := s.mapLaunch launch fun l => l.setItem { l.item item with phase := .executing }
            ((s.fence t.id .module .acquire).learn t.id l.finished).finishWaiting t.id [] sc
          else s
        | _ => s

/-- An item that has executed EXIT and is not yet counted finished (R283). -/
def Item.gone (x : Item) : Bool := x.phase == .exited || x.phase == .leaving

/-- The Barrow counts an exited item finished when its stores have taken effect; its claims are discarded, and it releases
(R283, R290). -/
def execItemFinish (launch item : Nat) (s : State) : Host.Outcome State Fault Refusal :=
  .next <|
    match s.launch? launch with
    | none => s
    | some l =>
      let know := (((s.itemThread l item).map (·.sight.know))).getD Know.none
      if (l.item item).gone && (s.itemThread l item).all Thread.storesDone then
        s.mapLaunch launch fun l => l.finishItem item know
      else s

end Sys2Proof.Machine
end

