-- ==== Sys2Proof/Machine/Fitted.lean ====
section
/-!
DEFINITION. Fitted regions: the FIT instructions (spec 21 R313..R316), FITMAKE and FITDROP (R305..R307), refits (R311, R312), and
how a SYS instruction runs (03 R77, R78). Loads and stores through a fitted view are in Access and MemOps.
-/
namespace Sys2Proof.Machine

open Sys2Proof

/-! ## FIT (R313, R314) -/

/-- What the checks of R314 find: the region and the byte of its element range, a trap, or a wait (R330). -/
inductive FitChecked where
  | ok (r : Region) (byte : Nat)
  | trap (c : Cause)
  | retry

/-- A live region that holds a frame, with the byte of its element range. -/
def State.regionOf (s : State) (pa : Nat) : Option (Region × Nat) :=
  s.regions.findSome? fun r => (r.byteOf pa).map fun k => (r, k)

/-- The checks of R314 on an address. `element`: FITX's checks 2 and 6 too, check 2 at its place in R189 where the address
reaches a region (log 31). -/
def State.fitCheck (s : State) (system : Bool) (w : Wave) (element : Bool) (ea : Nat) : FitChecked :=
  if 2 ^ 57 < ea + 1 then .trap .xlate
  else if onChip ea then
    match s.check system w ⟨1, false, false, false⟩ ea with
    | .trap c => .trap c
    | _ => .trap .layout
  else
    match s.translate false ea with
    | none => .trap .xlate
    | some l =>
      let pa := l.physical ea
      let found := if l.layout = 4 then s.regionOf pa else none
      let misaligned := element && found.any fun x => ea % x.1.esize != 0
      if misaligned then .trap .align
      else if l.layout = 5 then .retry
      else if l.system && !system then .trap .perm
      else if l.layout ≠ 4 || s.tagOf pa ≠ 4 then .trap .layout
      else
        match found with
        | none => .trap .domain
        | some (r, k) => if element && decide (r.count ≤ k / r.esize) then .trap .domain else .ok r k

/-- A FIT instruction: the checks of its address, then its place in region order. The thread's own earlier stores to the region come
before it, and where it is a release all of them (R175, R182, R314; log 12). -/
def runFit (f : ADF) (reads names : List Reg) (element release : Bool)
    (body : Ctx → (Nat → Word) → State → DWord → Region → Nat → Effect) : State → Host.Outcome State Fault Refusal :=
  runForm { g := f.g, sc := f.sc, reads := f.a.pair ++ reads, names := names } fun c o s =>
    let ea := Word.pair (o 0) (o 1)
    match s.fitCheck c.l.system c.w element ea.toNat with
    | .trap cause => .trap s cause ea
    | .retry => .wait s (.retranslate ea)
    | .ok r k =>
      let s := if release || c.t.stores.any fun e => e.loc.inRegion r.id then s.drain c.t.id else s
      if release && s.unposted c.t.id then .wait s .poll else body c o s ea ((s.region? r.id).getD r) k

/-- What reads the region gives 0 with a poison mark where its module is out of reach, as a load does (R345). -/
def markedZero (c : Ctx) (s : State) (d : Reg) (ea : DWord) : Effect :=
  checkStack c s [(d, 0)] (.done (c.on s fun t =>
    let u := t.putBank d 0
    { u with marks := ⟨d, ea⟩ :: u.marks }))

/-- FITX (R315): the exact value; uncorrectable data in the reference, and a module out of reach (R345), give 0 with a poison
mark. -/
def execFitx (f : ADF) : State → Host.Outcome State Fault Refusal :=
  runFit f [] [f.d] true false fun c _ s ea r k =>
    let n := k / r.esize
    if r.badRef n || s.unreachable r.home then markedZero c s f.d ea
    else writeWith c s (s.readBy c.t.id true false (.fitted r.id n) r.esize).1 [(f.d, BitVec.ofNat 32 (r.exactValue n))]

/-- FITGEN (R315); of a region out of reach, 0 with a poison mark (R314, R345). -/
def execFitgen (f : ADF) : State → Host.Outcome State Fault Refusal :=
  runFit f [] [f.d] false false fun c _ s ea r _ =>
    if s.unreachable r.home then markedZero c s f.d ea else writeBoard c s [(f.d, r.gen)]

/-- FITSTAT's result (R315). -/
def Region.stat (r : Region) : Word :=
  BitVec.ofNat 32 ((if r.running then 2 ^ 23 else 0) + (if r.normal then 0 else 2 ^ 22) + r.entries.length)

/-- FITSTAT (R315); of a region out of reach, 0 with a poison mark (R314, R345). -/
def execFitstat (f : ADF) : State → Host.Outcome State Fault Refusal :=
  runFit f [] [f.d] false false fun c _ s ea r _ =>
    if s.unreachable r.home then markedZero c s f.d ea else writeBoard c s [(f.d, r.stat)]

/-! ## Refits (R311, R312, R316) -/

/-- The stack of a region's granules, so its home Tansy (R301). -/
def Region.stack (r : Region) : Nat := r.granules.headD 0 / 2 ^ 20

/-- The requests that wait at a Tansy. -/
def State.refitsPending (s : State) (stack : Nat) : Nat :=
  s.regions.foldl (fun n r => if r.stack = stack then n + r.pending.length else n) 0

/-- The requests a Tansy holds (R316). -/
def refitRoom : Nat := 64

/-- The last generation (R311). -/
def lastGen : Word := 0xFFFFFFFF

/-- The completion of a request: class 4, the tag the generation (R316, R223). -/
def State.reportRefit (s : State) (q : RefitReq) (status : Nat) (gen : Word) : State :=
  if q.handle = noHandle then s else s.notify q.die q.handle status gen 4 q.know

/-- The completions of several requests. -/
def State.reportRefits (s : State) (qs : List RefitReq) (status : Nat) (gen : Word) : State :=
  qs.foldl (fun s q => s.reportRefit q status gen) s

/-- A REFIT of a region whose module is out of reach is dropped with a POISON record, as a store is; no request is entered and no
completion follows: DESIGN CHOICE (log 91). -/
def State.dropRefit (s : State) (c : Ctx) (ea : DWord) (r : Region) : State :=
  let x := s.recordFor c.t.id .poison 4 ea c.t.pc noHandle 1 r.esize none none
  (s.post x.die x (.store c.t.id)).mapThread c.t.id fun t => { t with unposted := t.unposted + 1 }

/-- REFIT (R316): the issue is a release toward the operation (R175). -/
def execRefit (f : ADF) : State → Host.Outcome State Fault Refusal :=
  runFit f [f.d] [] false true fun c o s ea r _ =>
    let s := s.publish c.t.id
    let q : RefitReq := ⟨c.w.die, o 2, false, s.knows c.t.id⟩
    if s.unreachable r.home then .done (s.dropRefit c ea r)
    else if refitRoom ≤ s.refitsPending r.stack then .wait s .poll
    else if r.gen = lastGen then .done (s.reportRefit q 1 r.gen)
    else .done (s.mapRegion r.id fun x => { x with pending := x.pending ++ [q] })

/-- The Tansy starts a refit of a region (R311); when it does is not architectural. -/
def execRefitStart (region : Nat) (s : State) : Host.Outcome State Fault Refusal :=
  .next <| s.mapRegion region fun r =>
    if r.running || r.gen == lastGen then r
    else { r with running := true, pending := r.pending.map fun q => { q with started := true } }

/-- A parameter set has the region's hidden count, and zero weights beyond its dimensions (R300, R311). -/
def Region.accepts (r : Region) (ps : FitParams) : Bool :=
  ps.neurons.length == r.hidden && ps.neurons.all fun w =>
    w.length == 5 && (List.range 3).all fun i => decide (i < r.dims) || w.getD i 0 == 0

/-- The exception table that a parameter set needs, with other elements kept exact (R311). -/
def Region.tableFor (r : Region) (ps : FitParams) (extra : List Nat) : List (Nat × Nat) :=
  (List.range r.count).filterMap fun n =>
    let x := r.exactValue n
    if !r.fits ps n x || extra.contains n then some (n, x) else none

/-- The swap of a refit in progress (R311): parameter set, table, count, mode and generation in one event; every pending
request completes. A set that R311 does not allow is no swap. -/
def execRefitSwap (region : Nat) (params : FitParams) (extra : List Nat) (s : State) : Host.Outcome State Fault Refusal :=
  .next <|
    match s.region? region with
    | none => s
    | some r =>
      let table := r.tableFor params extra
      if !r.running || r.gen == lastGen || !r.accepts params || decide (r.capacity < table.length) then s
      else
        (s.mapRegion region fun x =>
          { x with params := params, entries := table, normal := true, gen := x.gen + 1, running := false,
                   pending := [] }).reportRefits r.pending 0 (r.gen + 1)

/-- A refit is abandoned: the region is unchanged, and the requests entered before it started complete (R311, R316). -/
def State.abandonRefit (s : State) (r : Region) : State :=
  if !r.running then s
  else
    (s.mapRegion r.id fun x =>
      { x with running := false, pending := x.pending.filter fun q => !q.started }).reportRefits
      (r.pending.filter (·.started)) 1 r.gen

/-- REFIT_ABANDON (R311). -/
def execRefitAbandon (region : Nat) (s : State) : Host.Outcome State Fault Refusal :=
  .next <|
    match s.region? region with
    | none => s
    | some r => s.abandonRefit r

/-! ## SYS instructions (R77, R78, R333) -/

/-- A SYS instruction: outside system mode PRIV, before the guard and every other condition (R77, R78). -/
def runSys (f : Form) (body : Ctx → (Nat → Word) → State → Effect) (s : State) : Host.Outcome State Fault Refusal :=
  match s.ctx s.cur with
  | none => .fault .noThread
  | some c =>
    if c.l.system || c.t.completing then runForm f body s
    else .next (finish c f (.trap s .priv 0))

/-- A word that is no instruction: PRIV for a SYS encoding outside system mode, else RI, before the guard and every other condition
but a completing load (R76..R78, R190). -/
def illegalEncoding (sys : Bool) (s : State) : Host.Outcome State Fault Refusal :=
  match s.ctx s.cur with
  | none => .fault .noThread
  | some c =>
    let f : Form := { sc := 0 }
    .next <|
      if c.t.completing then finish c f (.wait s .interlock)
      else finish c f (.trap s (if sys && !c.l.system then .priv else .ri) 0)

/-! ## FITMAKE (R300, R301, R306) -/

/-- Go on with what an area gave. -/
def AreaResult.bind {α β : Type} (r : AreaResult α) (f : α → AreaResult β) : AreaResult β :=
  match r with
  | .ok x => f x
  | .wait va => .wait va
  | .fault c va => .fault c va

/-- A piece of memory reached through a raw PTE. -/
structure RawPiece where
  va : Nat
  n : Nat
  pa : Nat
  deriving DecidableEq, Repr

/-- One piece through a raw PTE; any other view faults with LAYOUT (R306). -/
def State.rawPiece (s : State) (c : Ctx) (writes : Bool) (va n : Nat) : AreaResult RawPiece :=
  match s.check c.l.system c.w ⟨n, false, writes, false⟩ va with
  | .at (.phys pa) false _ => .ok ⟨va, n, pa⟩
  | .at _ _ _ => .fault .layout va
  | .trap cause => .fault cause va
  | .retry => .wait va

/-- The pieces of a range through raw PTEs. -/
def State.rawPieces (s : State) (c : Ctx) (writes : Bool) : List (Nat × Nat) → AreaResult (List RawPiece)
  | [] => .ok []
  | (va, n) :: ps => (s.rawPiece c writes va n).bind fun p => (s.rawPieces c writes ps).bind fun more => .ok (p :: more)

/-- The bytes of pieces as a thread reads them, in address order; what it takes over stands in the state (R171, R172). -/
def State.rawBytes (s : State) (id : ThreadId) : List RawPiece → State × List Byte
  | [] => (s, [])
  | p :: ps =>
    let r := s.readBy id false false (.phys p.pa) p.n
    let more := r.1.rawBytes id ps
    (more.1, r.2 ++ more.2)

/-- Some piece meets poison. -/
def State.rawPoisoned (s : State) (ps : List RawPiece) : Bool := ps.any fun p => s.poisoned (.phys p.pa) p.n

/-- Write a field of a record whose pieces are known, as a thread's write. -/
def State.writeField (s : State) (id : ThreadId) (ps : List RawPiece) (va : Nat) (bs : List Byte) : State :=
  match ps.find? fun p => decide (p.va ≤ va) && decide (va < p.va + p.n) with
  | some p =>
    (s.writeAs (s.viewer id) (s.writing id false false) (fun _ => s.stamp) (.phys (p.pa + (va - p.va))) bs).numbered id
  | none => s

/-- The elements of a source, in index order, piece by piece, with the state in which the thread has read them; the first that cannot be
read decides (R306). -/
def State.sourceElements (s : State) (c : Ctx) (e : Nat) : List (Nat × Nat) → AreaResult (State × List Nat)
  | [] => .ok (s, [])
  | (va, n) :: ps =>
    (s.rawPiece c false va n).bind fun p =>
      match (List.range (n / e)).find? fun i => s.poisoned (.phys (p.pa + e * i)) e with
      | some i => .fault .poison (va + e * i)
      | none =>
        let r := s.rawBytes c.t.id [p]
        (r.1.sourceElements c e ps).bind fun more =>
          .ok (more.1, (List.range (n / e)).map (fun i => fieldAt r.2 (e * i) e) ++ more.2)

/-- Frames of this module's HBM tagged 4 that pieces of virtual memory reach through leaves of a layout: virtual address
and physical address of each piece. -/
def State.taggedFrames (s : State) (layout : Nat) : List (Nat × Nat) → AreaResult (List (Nat × Nat))
  | [] => .ok []
  | (va, n) :: ps =>
    if 2 ^ 57 < va + n || onChip va then .fault .engine va
    else
      match s.translate false va with
      | none => .fault .engine va
      | some l =>
        let pa := l.physical va
        if l.layout = 5 then .wait va
        else if l.layout ≠ layout || s.tagOf pa ≠ 4 || !s.ownHbm pa then .fault .engine va
        else (s.taggedFrames layout ps).bind fun more => .ok ((va, pa) :: more)

/-- No physical granule is reached at two places (R301). -/
def distinctFrames (xs : List (Nat × Nat)) : Bool :=
  xs.all fun x => xs.all fun y => x.2 / 65536 != y.2 / 65536 || x.1 + y.2 == y.1 + x.2

/-- The granules of frames, each once, in order. -/
def granulesOf (xs : List (Nat × Nat)) : List Nat := (xs.map fun x => x.2 / 65536).dedup

/-- A region descriptor's fields (R300). -/
structure FitDesc where
  dims : Nat
  fmt : Nat
  act : Nat
  hidden : Nat
  extents : List Nat
  step : List Word
  offset : List Word
  bound : Word
  capacity : Nat
  table : Nat
  base : Nat
  cb : BitVec 16
  neurons : List (List (BitVec 16))
  deriving DecidableEq, Repr

/-- Read a descriptor. -/
def FitDesc.parse (d : List Byte) : FitDesc :=
  let r := fieldAt d 0 1
  { dims := r
    fmt := fieldAt d 1 1
    act := fieldAt d 2 1
    hidden := fieldAt d 3 1
    extents := (List.range r).map fun i => fieldAt d (4 + 4 * i) 4
    step := (List.range r).map fun i => wordAt d (16 + 4 * i)
    offset := (List.range r).map fun i => wordAt d (28 + 4 * i)
    bound := wordAt d 40
    capacity := fieldAt d 48 4
    table := fieldAt d 56 8
    base := fieldAt d 72 8
    cb := BitVec.ofNat 16 (fieldAt d 84 2)
    neurons := (List.range (fieldAt d 3 1)).map fun j =>
      (List.range 5).map fun k => BitVec.ofNat 16 (fieldAt d (88 + 10 * j + 2 * k) 2) }

/-- The number of elements. -/
def FitDesc.count (x : FitDesc) : Nat := x.extents.foldl (· * ·) 1

/-- The element size. -/
def FitDesc.esize (x : FitDesc) : Nat := if x.fmt = 2 then 4 else 2

/-- The limits of fields +0 to +52 in the order of R363. -/
def fitChecksLow (d : List Byte) : List (Bool × Nat) :=
  let x := FitDesc.parse d
  let unused (off : Nat) : List (Bool × Nat) :=
    (List.range 3).map fun i => (decide (i < x.dims) || fieldAt d (off + 4 * i) 4 == 0, off + 4 * i)
  [ (decide (1 ≤ x.dims) && decide (x.dims ≤ 3), 0), (decide (x.fmt ≤ 2), 1),
    (decide (1 ≤ x.hidden) && decide (x.hidden ≤ 32), 3), (decide (x.act ≤ 1), 2) ] ++
  ((List.range 3).map fun i =>
    ((if i < x.dims then decide (1 ≤ fieldAt d (4 + 4 * i) 4) else fieldAt d (4 + 4 * i) 4 == 0) &&
      (i != 0 || decide (x.count ≤ 2 ^ 24)), 4 + 4 * i)) ++
  unused 16 ++ unused 28 ++
  [ (!x.bound.getLsbD 31 && x.bound.extractLsb' 23 8 != 0xFF, 40), (fieldAt d 44 4 == 0, 44),
    (decide (1 ≤ x.capacity) && decide (x.capacity ≤ 2 ^ 20), 48), (fieldAt d 52 4 == 0, 52), (x.table % 64 == 0, 56) ]

/-- The limits of fields +80 on. -/
def fitChecksHigh (d : List Byte) : List (Bool × Nat) :=
  let x := FitDesc.parse d
  [ (fieldAt d 80 4 == 0, 80), (fieldAt d 86 2 == 0, 86) ] ++
  ((List.range 32).flatMap fun j => (List.range 5).map fun k =>
    (fieldAt d (88 + 10 * j + 2 * k) 2 == 0 || (decide (j < x.hidden) && (decide (3 ≤ k) || decide (k < x.dims))),
      88 + 10 * j + 2 * k)) ++
  [ ((d.drop 408).all (· == 0), 408) ]

/-- The 64 KiB pieces of an element range. -/
def rangePieces (base n : Nat) : List (Nat × Nat) := (List.range ((n + 65535) / 65536)).map fun i => (base + 65536 * i, 65536)

/-- The granules of the element range and the frames of the table area, or what the descriptor's check comes to: an invalid field's offset,
or a wait. -/
inductive FitFrames where
  | ok (range table : List Nat)
  | invalid (off : Nat)
  | wait (va : Nat)

/-- Every field of a descriptor in the order of R363, with the frames of R301. -/
def State.fitFrames (s : State) (d : List Byte) : FitFrames :=
  let x := FitDesc.parse d
  match firstInvalid (fitChecksLow d) with
  | some off => .invalid off
  | none =>
    match s.taggedFrames 0 (pieces (16 * x.capacity / 4096 + 2) x.table (16 * x.capacity)) with
    | .wait va => .wait va
    | .fault _ _ => .invalid 56
    | .ok table =>
      if fieldAt d 64 8 ≠ 0 then .invalid 64
      else if x.base % 65536 ≠ 0 then .invalid 72
      else
        match s.taggedFrames 4 (rangePieces x.base (x.count * x.esize)) with
        | .wait va => .wait va
        | .fault _ _ => .invalid 72
        | .ok range =>
          let gs := granulesOf range ++ granulesOf table
          let live := s.regions.any fun r => gs.any fun g => r.granules.contains g || r.tableGranules.contains g
          let joint := distinctFrames range && distinctFrames table &&
            (gs.all fun g => g / 2 ^ 20 == gs.headD 0 / 2 ^ 20) &&
            ((granulesOf range).all fun g => !(granulesOf table).contains g)
          if !joint || live then .invalid 72
          else
            match firstInvalid (fitChecksHigh d) with
            | some off => .invalid off
            | none => .ok (granulesOf range) (table.map (·.2))

/-- The live regions that a module holds (R306). -/
def regionRoom : Nat := 4096

/-- The live regions of this module (R306, R310). -/
def State.ownRegions (s : State) : List Region := s.regions.filter fun r => r.home / 2 ^ 46 == s.moduleNo

/-- The region a descriptor and a source make (R306). -/
def FitDesc.region (x : FitDesc) (id : Nat) (range table : List Nat) (reference : List Nat) : Region :=
  let ps : FitParams := ⟨x.cb, x.neurons⟩
  let r : Region :=
    { id := id
      base := x.base
      dims := x.dims
      fmt := x.fmt
      clamp := x.act == 1
      hidden := x.hidden
      extents := x.extents
      step := x.step
      offset := x.offset
      bound := x.bound
      capacity := x.capacity
      granules := range
      tableFrames := table
      params := ps
      reference := reference
      entries := []
      gen := 1
      normal := true
      running := false
      pending := []
      badRefs := []
      badParams := false }
  let es := r.tableFor ps []
  if x.capacity < es.length then { r with normal := false } else { r with entries := es }

/-- FITMAKE (R306). It makes the region whether or not the capacity tier has room left for its reference, of which R306 and R346 say
nothing: DESIGN CHOICE (log 75). Of a FITMAKE that traps neither its reads nor its release leave anything (R6). -/
def execFitmake (f : ADF) : State → Host.Outcome State Fault Refusal :=
  runSys { g := f.g, sc := f.sc, reads := f.a.pair ++ f.d.pair } fun c o s =>
    let desc := Word.pair (o 0) (o 1)
    let src := Word.pair (o 2) (o 3)
    let s := s.drain c.t.id
    let at_ (n : Nat) : DWord := BitVec.ofNat 64 n
    if desc.toNat % 64 ≠ 0 then .trap s .align desc
    else
      match s.rawPieces c true (pieces 3 desc.toNat 512) with
      | .fault cause va => .trap s cause (at_ va)
      | .wait va => .wait s (.retranslate (at_ va))
      | .ok ps =>
        if s.rawPoisoned ps then .trap s .poison desc
        else
          let read := s.rawBytes c.t.id ps
          let d := read.2
          let x := FitDesc.parse d
          let out (s : State) (off n v : Nat) : State := s.writeField c.t.id ps (desc.toNat + off) (leBytes n v)
          match read.1.fitFrames d with
          | .invalid off => .trap s .engine (at_ (desc.toNat + off))
          | .wait va => .wait s (.retranslate (at_ va))
          | .ok range table =>
            if src.toNat % x.esize ≠ 0 then .trap s .align src
            else if s.unposted c.t.id then .wait s .poll
            else
              let released := read.1.fence c.t.id .module .release
              if regionRoom ≤ released.ownRegions.length then .done (out released 80 4 2)
              else
                let n := x.count * x.esize
                match released.sourceElements c x.esize (pieces (n / 4096 + 2) src.toNat n) with
                | .fault cause va => .trap s cause (at_ va)
                | .wait va => .wait s (.retranslate (at_ va))
                | .ok (s, reference) =>
                  let r := x.region s.nextId range table reference
                  let s := out (out s 44 4 r.entries.length) 52 4 1
                  let s := out s 64 8 (Config.referenceId s.nextId).toNat
                  let s := out s 80 4 (if r.normal then 0 else 1)
                  .done { s with regions := s.regions ++ [r], nextId := s.nextId + 1 }

/-! ## FITDROP (R307) -/

/-- FITDROP (R307): it waits for the accesses in flight; the refit in progress is abandoned, every pending request completes with
status 1, and the region is gone. Of two live regions of this module made at one base it ends the older: DESIGN CHOICE
(log 38). -/
def execFitdrop (f : AF) : State → Host.Outcome State Fault Refusal :=
  runSys { g := f.g, sc := f.sc, reads := f.a.pair } fun c o s =>
    let ea := Word.pair (o 0) (o 1)
    match s.ownRegions.find? fun r => r.base == ea.toNat with
    | none => .trap s .engine ea
    | some r =>
      let s := s.drain c.t.id
      if s.threads.any fun t => t.stores.any fun e => e.loc.inRegion r.id then .wait s .poll
      else
        let r := (s.region? r.id).getD r
        .done ({ s with regions := s.regions.filter fun x => !(x.id == r.id) }.reportRefits r.pending 1 r.gen)

end Sys2Proof.Machine
end

