-- ==== Sys2Proof/Machine/Preempt.lean ====
section
/-!
DEFINITION. Results of accepted loads and stores (spec 13 R190, R191), and taking a wave off its core: requests, hard pre-emption,
leaving (01 R40..R48; 23 R331, R332; 09 R152; 07 R136).
-/
namespace Sys2Proof.Machine

open Sys2Proof

/-! ## Loads and stores come to an end (R190, R191) -/

/-- An accepted load ends in a trap at its own instruction: since then the thread has issued and executed no other, so that the windows
stand one instruction back (R27, R64, R190). Its acceptance has counted it among the M of a pre-emption request (R46), and it stays
counted: DESIGN CHOICE (log 77). -/
def trapAtLoad (s : State) (id : ThreadId) (l : PendingLoad) (cause : Cause) (ea : DWord) : State :=
  match s.ctx id with
  | some c =>
    let back (x : Transient) : Transient := { x with age := x.age - 1 }
    s.trap { c with t := { c.t with pc := l.pc, wait := .poll, trans := c.t.trans.map back } } cause ea
  | none => s

/-- The data of the n-th accepted load of a thread arrives. A completing load that meets poison traps, and any other
completing load makes the STACK check (R190, R192); an LDNF whose record is not yet accepted waits (R196). -/
def State.returnLoad (s : State) (id : ThreadId) (n : Nat) : State :=
  match s.thread? id with
  | none => s
  | some t =>
    match t.loads[n]? with
    | none => s
    | some l =>
      if l.ticket.isSome then s
      else
        let s := s.mapThread id fun t => { t with loads := t.loads.eraseIdx n }
        if l.completing && l.poisoned && !l.nibble then trapAtLoad s id l .poison l.ea
        else if l.completing && !l.poisoned && t.belowLimit l.vals then trapAtLoad s id l .stack (t.stackAfter l.vals)
        else s.mapThread id fun t => t.takeLoad l

/-- LOAD_DATA_RETURN. -/
def execLoadDataReturn (t : ThreadId) (n : Nat) (s : State) : Host.Outcome State Fault Refusal := .next (s.returnLoad t n)

/-- The oldest accepted store, STN or RED of a thread takes effect (R171, R191). -/
def State.storeEffect (s : State) (id : ThreadId) : State :=
  match s.thread? id with
  | none => s
  | some u =>
    match u.stores with
    | [] => s
    | e :: es => (s.applyStore id e).mapThread id fun u => { u with stores := es }

/-- STORE_TAKES_EFFECT. -/
def execStoreTakesEffect (t : ThreadId) (s : State) : Host.Outcome State Fault Refusal := .next (s.storeEffect t)

/-- Every load of a thread ends; fuel at least their number. -/
def State.finishLoads (s : State) (id : ThreadId) : Nat → State
  | 0 => s
  | fuel + 1 =>
    match (s.thread? id).bind fun t => t.loads.findIdx? fun l => l.ticket.isNone with
    | some n => (s.returnLoad id n).finishLoads id fuel
    | none => s

/-! ## Hard pre-emption (R46, R47, R331, R332) -/

/-- A thread is taken out of the wait it stands in, before its instruction: its claim, its releasing mark and its arrival
are withdrawn (R47, R152, R136). -/
def State.leaveWait (s : State) (c : Ctx) : State :=
  let idx := c.t.id.idx
  let s :=
    match c.t.wait with
    | .claim tile _ _ => s.mapWave c.w.uid fun w => w.dequeueClaim tile idx
    | .release tile n _ => s.mapWave c.w.uid fun w => w.unmark tile n
    | .arrived _ => s.mapCore c.w.coreId fun x => { x with xacq := x.xacq.filter (· != (c.w.uid, c.w.groupOf idx)) }
    | _ => s
  s.mapThread c.t.id fun t => { t with wait := .none, held := [] }

/-- A hard save that meets a fault posts a record and stops the domain with its cause (R332); none while the fault queue is full
(R323). -/
def State.failArea (s : State) (c : Ctx) (cause : Cause) (va : Nat) : Option State :=
  let r := s.recordFor c.t.id cause 6 (BitVec.ofNat 64 va) c.t.pc noHandle 6 16 none none
  if s.faultHasRoom r.die then some ((s.record r.die r).stopDomain c.l.domain cause) else none

/-- Hard-stop one thread that is running: out of its wait, its loads ended, its stores in effect, its state saved; its marks keep
the addresses of the accesses that set them (R193). None while the save must wait for a translation (R330) or a fault record
(R323). Whether a fixed-latency distance still open carries over to the restore the manual does not say; it is closed: DESIGN CHOICE
(log 78). -/
def State.hardStop (s : State) (id : ThreadId) : Option State :=
  match s.ctx id with
  | none => some s
  | some c0 =>
    if c0.t.status ≠ .running then some s
    else
      let s := s.leaveWait c0
      let s := (s.finishLoads id c0.t.loads.length).drain id
      match s.ctx id with
      | none => some s
      | some c =>
        if c.t.status ≠ .running then some s
        else
          let t := c.t.settle
          match s.hardSave c t t.pc with
          | .wait _ => none
          | .fault cause va => s.failArea c cause va
          | .ok s' => some (s'.mapThread id fun u => { t with status := .stopped, trans := [], sight := u.sight })

/-- Hard-stop several threads. -/
def State.hardStops (s : State) : List ThreadId → Option State
  | [] => some s
  | id :: ids =>
    match s.hardStop id with
    | some s' => s'.hardStops ids
    | none => none

/-- Hard pre-emption of a wave (R46): every thread that has neither parked nor exited. It takes place once the record of every
failing LDNF has been accepted and every save area can be reached (log 35). -/
def State.hardPreempt (s : State) (w : Wave) : State :=
  let ts := (s.threads.filter fun t => t.id.wave == w.uid && decide (t.status = .running))
  if ts.any fun t => t.loads.any fun l => l.ticket.isSome then s
  else (s.hardStops (ts.map (·.id))).getD s

/-! ## Requests (R40, R338) -/

/-- The waves that are pre-empted and restored together with a wave (R40). -/
def State.together (s : State) (w : Wave) : List Wave :=
  match s.launch? w.launch with
  | some l =>
    if l.nd.cooperative || l.nd.reserving then (s.wavesOf l.id).filter fun y => decide (y.step = w.step)
    else if l.nd.clusterSet then s.household w
    else [w]
  | none => [w]

/-- A wave that a request can name: on its core, of a node that runs. -/
def State.preemptible (s : State) (w : Wave) : Bool :=
  decide (w.status = .resident) && (s.launch? w.launch).any fun l => l.live

/-- The clock of a die (R349). -/
def State.clockOf (s : State) (d : Nat) : Nat := ((s.die? d).map (·.clk.toNat)).getD 0

/-- The steal of a cluster is cancelled; the record stays the victim's (R31). -/
def State.cancelSteal (s : State) (c : ClusterId) : State :=
  match (s.cluster? c).bind (·.copied) with
  | none => s
  | some (v, k, _) =>
    let s := s.mapCluster c fun x => { x with copied := none }
    s.mapCluster ⟨c.die, v⟩ fun x =>
      { x with queues := x.queues.set! k ((x.queues.toList.getD k []).map fun r =>
          if r.transit = some c.cluster then { r with transit := none } else r) }

/-- The cluster of a wave's core. -/
def Wave.clusterId (w : Wave) : ClusterId := ⟨w.die, w.core / 4⟩

/-- The longest that a request waits, in cycles (R46). -/
def requestCycles : Nat := 65536

/-- The cycle limit of a wave's request is reached (R46). -/
def State.cycleLimit (s : State) (w : Wave) : Bool :=
  s.preemptible w && w.request.any fun t0 => decide (t0 + requestCycles ≤ s.clockOf w.die)

/-- The instruction limit of a wave's request is reached: a thread has executed M instructions since it and has reached no safe
point; with M = 0 at once (R46). Only threads that still run count, not one whose M-th instruction was its EXIT, or the YIELD with which
it parked: DESIGN CHOICE (log 35). -/
def State.instrLimit (s : State) (w : Wave) : Bool :=
  w.request.isSome && s.preemptible w && (s.launch? w.launch).any fun l =>
    s.threads.any fun t =>
      t.id.wave == w.uid && decide (t.status = .running) && !t.reached && decide (l.maxInterval ≤ t.sinceRequest)

/-- A wave whose hard pre-emption is due: none of its threads issues any more (R46). -/
def State.overdue (s : State) (w : Wave) : Bool := s.cycleLimit w || s.instrLimit w

/-- Request the pre-emption of one wave (R40, R46): without a declared interval it is hard at once. -/
def State.requestOne (s : State) (w : Wave) : State :=
  if w.request.isSome || !s.preemptible w then s
  else
    let s := s.cancelSteal w.clusterId
    let s := s.mapWave w.uid fun y => { y with request := some (s.clockOf w.die) }
    let s := s.mapThreads (fun t => t.id.wave == w.uid) fun t => { t with sinceRequest := 0, reached := false }
    if (s.launch? w.launch).any fun l => l.maxInterval == 0 then s.hardPreempt w else s

/-- Request the pre-emption of a wave and of those that go with it (R40). -/
def State.requestPreemption (s : State) (w : Wave) : State := (s.together w).foldl State.requestOne s

/-- PREEMPTION_REQUEST: the scheduler's request (R40). -/
def execPreemptionRequest (wave : Nat) (s : State) : Host.Outcome State Fault Refusal :=
  .next <|
    match s.wave? wave with
    | none => s
    | some w => if w.request.isSome || !s.preemptible w then s else s.requestPreemption w

/-- HARD_PREEMPT_CYCLE_LIMIT (R46). -/
def execHardPreemptCycleLimit (wave : Nat) (s : State) : Host.Outcome State Fault Refusal :=
  .next <|
    match s.wave? wave with
    | none => s
    | some w => if s.cycleLimit w then s.hardPreempt w else s

/-- HARD_PREEMPT_INSTR_LIMIT (R46). -/
def execHardPreemptInstrLimit (wave : Nat) (s : State) : Host.Outcome State Fault Refusal :=
  .next <|
    match s.wave? wave with
    | none => s
    | some w => if s.instrLimit w then s.hardPreempt w else s

/-! ## Leaving the core (R43) -/

/-- The wave has engine operations that have not completed (R43, R252). -/
def State.hasOps (s : State) (wave : Nat) : Bool :=
  (s.copies.any fun x => x.thread.wave == wave) || (s.matrixOps.any fun x => x.thread.wave == wave) ||
    s.bmvs.any fun x => x.thread.wave == wave

/-- The scoreboarded results of a parked thread have been written. -/
def Thread.off (t : Thread) : Bool :=
  match t.status with
  | .running => false
  | .parked => t.loads.isEmpty
  | _ => true

/-- What is kept of a thread that leaves (R43): of a parked one g30:g31 and the registers listed there; %clkh is not among
them (log 36). The distances of g30:g31 are closed, and where their latest write is a transient past its window the bank's value is kept,
which is then not stale: DESIGN CHOICE (logs 78, 68). A hard-stopped one is in its area. -/
def Thread.leave (t : Thread) (free : Nat) : Thread :=
  if t.status = .parked then
    let u := t.settle.commit
    { u with
      regs := Vector.ofFn fun i => if i.val = 30 ∨ i.val = 31 then u.regs[i] else 0
      marks := t.marks.filter fun m => m.reg == 30 || m.reg == 31
      trans := []
      clkh := BitVec.ofNat 32 (Config.choice free) }
  else t

/-- The waves of a launch's step that await restore together and have no record yet are put, as one record, at the head of
their class queue in the cluster that the first of them left, once none that goes with them is still to leave (R40, R338). -/
def State.queuePreempted (s : State) (w : Wave) : State :=
  let w := (s.wave? w.uid).getD w
  let set := s.together w
  let out := set.filter fun y => decide (y.status = .preempted)
  let queued (uid : Nat) : Bool :=
    s.dies.any fun d => d.clusters.any fun c => c.queues.toList.any fun q => q.any fun r => r.uids.contains uid
  let fresh := out.filter fun y => !queued y.uid
  if set.any fun y => decide (y.status = .resident) && y.request.isSome then s
  else
    match fresh, s.launch? w.launch with
    | y :: ys, some l =>
      let r : QRec := ⟨l.id, w.step, (y :: ys).map (·.index), (y :: ys).map (·.uid), none⟩
      s.mapCluster y.clusterId fun c =>
        { c.setQueue l.prio (r :: c.queues.toList.getD l.prio []) with lastVictim := none }
    | _, _ => s

/-- WAVE_LEAVES_CORE (R43): every thread has exited, parked or been stopped, and every engine operation has completed. A wave
whose threads have all exited is released instead (R14). -/
def execWaveLeavesCore (wave : Nat) (s : State) : Host.Outcome State Fault Refusal :=
  .next <|
    match s.wave? wave with
    | none => s
    | some w =>
      let ts := s.threads.filter fun t => t.id.wave == wave
      if w.request.isNone || !s.preemptible w || !(ts.all Thread.off) || !(ts.any Thread.live) || s.hasOps wave then s
      else
        let n := w.size
        let s := s.takesAlong w
        let s : State :=
          { s with
            threads := updateIf (fun t => t.id.wave == wave) (fun t => t.leave (s.free + t.id.idx)) s.threads
            free := s.free + n }
        let s := s.mapCore w.coreId fun c => { c with xacq := c.xacq.filter fun x => x.1 != wave }
        let s := s.mapWave wave fun y => { y with status := .preempted, request := none }
        s.queuePreempted w

end Sys2Proof.Machine
end

