-- ==== Sys2Proof/Machine/System.lean ====
section
/-!
DEFINITION. The privileged instructions of SYS (spec 23 R333..R339; 11 R183, R184). FITMAKE and FITDROP are in Fitted.
-/
namespace Sys2Proof.Machine

open Sys2Proof

/-! ## TLBINV (R334, R183) -/

/-- A range of virtual addresses whose translations are invalidated: all, or one page. -/
inductive Invalidated where
  | all
  | page (base size : Nat)
  deriving DecidableEq, Repr

/-- The scope that TLBINV's register gives (R334). -/
def Invalidated.of (v : Word) (va : Nat) : Invalidated :=
  if v.getLsbD 31 then .all
  else
    let size := 4096 * 4 ^ field v.toNat 0 4
    .page (va - va % size) size

/-- An address is covered. -/
def Invalidated.covers (x : Invalidated) (va : Nat) : Bool :=
  match x with
  | .all => true
  | .page base size => decide (base ≤ va) && decide (va < base + size)

/-- A page lies in the scope. -/
def Invalidated.holds (x : Invalidated) (start n : Nat) : Bool :=
  match x with
  | .all => true
  | .page base size => decide (base ≤ start) && decide (start + n ≤ base + size)

/-- An accepted store reached its place through a translation. -/
def StoreEntry.translated (e : StoreEntry) : Bool :=
  match e.loc with
  | .spad _ _ => false
  | _ => true

/-- Accesses under a covered translation are in flight: accepted stores, and reducing elements sent to memory (R183; log 33). Of a page
that is smaller than the leaf that maps it, these are the accesses inside the page: DESIGN CHOICE (log 71). -/
def State.inFlight (s : State) (x : Invalidated) : Bool :=
  (s.threads.any fun t => t.stores.any fun e => e.translated && x.covers e.ea.toNat) ||
    s.copies.any fun y => y.updates.any fun u => x.covers u.va

/-- The cached translations of the pages that the scope holds leave the cache (R328); accesses that wait at an address in it
translate again (R330). -/
def State.invalidate (s : State) (x : Invalidated) : State :=
  let waits (t : Thread) : Bool :=
    match t.wait with
    | .retranslate va => x.covers va.toNat
    | _ => false
  { s with tlb := s.tlb.filter fun e => !x.holds e.base (Leaf.ofEntry e.leaf).size }.mapThreads waits fun t =>
    { t with wait := .retry }

/-- TLBINV (R334): a full fence of module scope first. -/
def execTlbinv (f : ADF) : State → Host.Outcome State Fault Refusal :=
  runSys { g := f.g, sc := f.sc, reads := f.a.pair ++ [f.d] } fun c o s =>
    let v := o 2
    if field v.toNat 4 27 ≠ 0 then .trap s .engine 0
    else
      let x := Invalidated.of v (Word.pair (o 0) (o 1)).toNat
      let r := s.fenceFull c.t.id .module
      if !r.2 || r.1.inFlight x then .wait r.1 .poll else .done (r.1.invalidate x)

/-! ## FQPOP (R335, R322) -/

/-- A record's 64 bytes (R322). -/
def FaultRecord.bytes (r : FaultRecord) : List Byte :=
  leBytes 2 r.cause.code ++ leBytes 2 (r.source + (if r.token.isSome then 8 else 0)) ++ leBytes 4 r.thread.toNat ++
  leBytes 8 r.node.toNat ++ leBytes 8 r.va.toNat ++ leBytes 8 r.pc.toNat ++ leBytes 4 r.notify.toNat ++
  leBytes 4 (r.core + 2 ^ 8 * r.die + 2 ^ 16 * r.stack) ++ leBytes 8 r.time.toNat ++
  leBytes 4 (r.kind + 2 ^ 16 * r.size) ++ List.replicate 12 0

/-- What FQPOP answers for a record. -/
def FaultRecord.answer (r : FaultRecord) : Word :=
  match r.token with
  | some t => BitVec.ofNat 32 (0x40000000 + t)
  | none => 0

/-- FQPOP (R323, R335): what posted the record happens-before what follows; the record stays popped and stored when the STACK check then fails (R364). -/
def execFqpop (f : ADF) : State → Host.Outcome State Fault Refusal :=
  runSys { g := f.g, sc := f.sc, reads := f.a.pair, names := [f.d] } fun c o s =>
    let dst := Word.pair (o 0) (o 1)
    if dst.toNat % 64 ≠ 0 then .trap s .align dst
    else
      withAccess c s ⟨64, true, true, false⟩ dst fun loc view peer =>
        match (s.die? c.w.die).bind fun d => d.faultQ.head? with
        | none => writeBoard c s [(f.d, 0xFFFFFFFF)]
        | some r =>
          let s := (s.mapDie c.w.die fun d => { d with faultQ := d.faultQ.drop 1 }).learn c.t.id r.know
          writeAfter c ((accept c s loc 64 false peer).addBytes c loc view peer r.bytes dst) [(f.d, r.answer)]

/-! ## LAYOUT (R336, R184) -/

/-- Set the tag of a granule; an untagged granule is raw. -/
def State.setTag (s : State) (g tag : Nat) : State :=
  let rest := s.tags.filter fun x => x.1 != g
  { s with tags := if tag = 0 then rest else (g, tag) :: rest }

/-- Zero a granule and clean its poison units (R192, R336). -/
def State.scrub (s : State) (pa : Nat) : State :=
  { s with
    mem := s.mem.zero pa 65536
    poison := s.poison.filter fun u => decide (u < pa / 64) || decide (pa / 64 + 1024 ≤ u) }

/-- Accesses to a granule are in flight (R184). -/
def State.granuleBusy (s : State) (g : Nat) : Bool :=
  (s.threads.any fun t => t.stores.any fun e =>
    match e.loc with
    | .phys pa => pa / 65536 == g
    | _ => false) ||
    s.copies.any fun y => y.updates.any fun u => u.pa / 65536 == g

/-- A live region holds a granule (R310). -/
def State.regionHolds (s : State) (g : Nat) : Bool :=
  s.regions.any fun r => r.granules.contains g || r.tableGranules.contains g

/-- LAYOUT (R184, R336): the accesses to the granule have finished, and all see them. -/
def execLayout (f : ADF) : State → Host.Outcome State Fault Refusal :=
  runSys { g := f.g, sc := f.sc, reads := f.a.pair ++ [f.d] } fun c o s =>
    let pa := Word.pair (o 0) (o 1)
    let v := o 2
    let g := pa.toNat / 65536
    let tag := field v.toNat 0 4
    if pa.toNat % 65536 ≠ 0 then .trap s .align pa
    else if !s.ownHbm pa.toNat then .trap s .xlate pa
    else if 4 < tag || v &&& 0xFFFFFEF0 ≠ 0 || s.regionHolds g then .trap s .engine pa
    else
      let s := s.drain c.t.id
      if s.granuleBusy g then .wait s .poll
      else
        let zero := v.getLsbD 8 || s.tagOf pa.toNat == 4 || tag == 4
        let s := s.settlePhys pa.toNat 65536
        .done ((if zero then s.scrub pa.toNat else s).setTag g tag)

/-! ## NODEKILL (R337) -/

/-- A pending launch of a node waits for a page before its node can be read (R17). -/
def State.killWaits (s : State) (node : DWord) : Option Nat :=
  s.dies.findSome? fun d =>
    if d.launchPort.any fun p => p.node == node then
      match s.readPieces node.toNat 8 with
      | .wait va => some va
      | _ => none
    else none

/-- The fault queue of some die does not take the records of the pending launches of a node that cannot be read (R17, R323). -/
def State.killPosts (s : State) (node : DWord) : Bool :=
  match s.readPieces node.toNat 8 with
  | .fault _ _ =>
    s.dies.any fun d =>
      let n := (d.launchPort.filter fun p => p.node == node).length
      decide (0 < n) && (!d.onlySlots || decide (faultRoom < d.faultQ.length + n))
  | _ => false

/-- End every launch of a node: the state and the number ended. -/
def State.killNode (s : State) (node : DWord) : State × Nat :=
  let ls := s.launches.filter fun l => l.live && l.node == node
  let s := ls.foldl (fun s l => s.endLaunch l 4 0) s
  let r := s.endPendings (fun p => p.node == node) (fun _ _ => true) 4 0
  (r.1, ls.length + r.2)

/-- NODEKILL (R337): the kill stands when the STACK check then fails (R364). -/
def execNodekill (f : ADF) : State → Host.Outcome State Fault Refusal :=
  runSys { g := f.g, sc := f.sc, reads := f.a.pair, names := [f.d] } fun c o s =>
    let node := Word.pair (o 0) (o 1)
    match s.killWaits node with
    | some va => .wait s (.retranslate (BitVec.ofNat 64 va))
    | none =>
      if s.killPosts node then .wait s .poll
      else
        let r := s.killNode node
        writeAfter c r.1 [(f.d, BitVec.ofNat 32 r.2)]

/-! ## PREEMPT (R338) -/

/-- The wave at a place of a core of a die that runs a node's threads. -/
def State.waveAt (s : State) (die core place : Nat) : Option Wave :=
  s.waves.find? fun w => w.die == die && w.core == core && w.place == place && s.preemptible w

/-- PREEMPT (R338): the request stands when the STACK check then fails (R364). The trap of a set bit that must be zero carries no
address (R39). -/
def execPreempt (f : ADF) : State → Host.Outcome State Fault Refusal :=
  runSys { g := f.g, sc := f.sc, reads := [f.a], names := [f.d] } fun c o s =>
    let v := (o 0).toNat
    if o 0 &&& 0xFFF8C0C0 ≠ 0 then .trap s .engine 0
    else
      match s.waveAt (field v 16 3) (field v 8 6) (field v 0 6) with
      | some w =>
        if w.request.isSome then writeAfter c s [(f.d, 0)]
        else writeAfter c (s.requestPreemption w) [(f.d, 1)]
      | none => writeAfter c s [(f.d, 0)]

/-! ## SRDP and SWRP (R339) -/

/-- A privileged register's contents. -/
def State.privileged (s : State) (d : Die) : PReg → Word
  | .ptroot => Word.lo s.ptroot
  | .ptrooth => Word.hi s.ptroot
  | .fqcount => BitVec.ofNat 32 d.faultQ.length
  | .fres => 0
  | .coremask => d.coreMask.extractLsb' 0 32
  | .coremaskh => (d.coreMask.extractLsb' 32 24).setWidth 32
  | .unitmask =>
    BitVec.ofNat 32 ((List.range 8).foldl (fun n i => if s.dieInService i then n + 2 ^ i else n) 0 + 2 ^ 8 * s.stackMask.toNat)
  | .streamsel => d.streamsel
  | .streamexp =>
    let st := s.stream d.streamsel.toNat
    st.written.getD st.expected
  | .errcnt => d.errcnt
  | .coresel => d.coresel
  | .conflicts => ((d.cores.find? fun c => c.idx == d.coresel.toNat).map (·.conflicts)).getD 0

/-- SRDP (R339). -/
def execSrdp (f : PrivF) : State → Host.Outcome State Fault Refusal :=
  runSys { g := f.g, sc := f.sc, names := [f.d] } fun c _ s =>
    writeBoard c s [(f.d, ((s.die? c.w.die).map fun d => s.privileged d f.i).getD 0)]

/-- A value that sets a must-be-zero bit of a privileged register (R325, R339). -/
def privilegedInvalid (i : PReg) (v : Word) : Bool :=
  match i with
  | .ptroot => v &&& 0xFFF != 0
  | .ptrooth => v &&& 0xFFF00000 != 0
  | .fres => v &&& 0x7FFF0000 != 0
  | .streamsel => v &&& 0xFFFFF000 != 0
  | .coresel => decide (56 ≤ v.toNat)
  | _ => false

/-- A privileged register written by a thread of a die, with what the thread knows. A write of %fres resolves its token at once
(R325). -/
def State.setPrivileged (s : State) (d : Die) (know : Know) (i : PReg) (v : Word) : State :=
  match i with
  | .ptroot => { s with ptroot := Word.pair v (Word.hi s.ptroot) }
  | .ptrooth => { s with ptroot := Word.pair (Word.lo s.ptroot) v }
  | .fres => s.giveVerdict d.idx know v
  | .streamsel => s.mapDie d.idx fun x => { x with streamsel := v }
  | .streamexp => s.setStream { s.stream d.streamsel.toNat with written := some v }
  | .errcnt => s.mapDie d.idx fun x => { x with errcnt := v }
  | .coresel => s.mapDie d.idx fun x => { x with coresel := v }
  | .conflicts => s.mapCore ⟨d.idx, d.coresel.toNat⟩ fun x => { x with conflicts := v }
  | _ => s

/-- SWRP (R339): of a read-only register it is no instruction; a write to %fres is a release toward the chunk or row (R325). -/
def execSwrp (f : PrivF) : State → Host.Outcome State Fault Refusal :=
  if !f.i.writable then illegalEncoding true
  else
    runSys { g := f.g, sc := f.sc, reads := [f.d] } fun c o s =>
      if privilegedInvalid f.i (o 0) then .trap s .ri 0
      else
        match s.die? c.w.die with
        | none => .done s
        | some d =>
          let s := if f.i = .fres then s.sending c.t.id else s
          if f.i = .fres && s.unposted c.t.id then .wait s .poll else .done (s.setPrivileged d (s.knows c.t.id) f.i (o 0))

end Sys2Proof.Machine
end

