-- ==== Sys2Proof/Machine/Launch.lean ====
section
/-!
DEFINITION. The node dispatcher (spec 01 R15..R22, R29, R33; 19 R284; 23 R360): launch messages, admission, step boundaries, the
release of footprints, completion.
-/
namespace Sys2Proof.Machine

open Sys2Proof

/-- The newest launch in a log came from outside. -/
def markOutside : List LogEntry → List LogEntry
  | [] => []
  | [.launch l _] => [.launch l true]
  | e :: es => e :: markOutside es

/-- A die's launch port is open (25 R348). -/
def State.takesLaunches (s : State) (die : Nat) : Bool := (s.die? die).any fun d => d.inService && d.portsOpen

/-- LAUNCH_MESSAGE: a message from outside the module arrives at a die's launch port (R17); while 256 launches are pending it
waits (R265), and until the launch ports are open (25 R348). -/
def execLaunchMessage (die : Nat) (lo hi : DWord) (s : State) : Host.Outcome State Fault Refusal :=
  .next <|
    if s.takesLaunches die && s.launchHasRoom die then
      let s' := s.launchMessage die lo hi Know.none
      if s.recording && hi == 0 && lo.toNat % 64 == 0 then s'.mapDie die fun d => { d with log := markOutside d.log } else s'
    else s

/-! ## What a wave needs and what a core has (R12, R2) -/

/-- The scratchpad allocation of each wave (R12, R13). -/
def Launch.spadAlloc (l : Launch) : Nat :=
  let b := if l.contrib.isSome then max l.nd.spad 1024 else l.nd.spad
  (b + 1023) / 1024 * 1024

/-- A wave's footprint with its place: base-register bytes, scratchpad bytes, slots, tiles, places. -/
def Launch.need (l : Launch) : List Nat := [128 * l.nd.threads, l.spadAlloc, l.nd.slots, l.nd.accs, 1]

/-- What a core has of each (R2, R12). -/
def coreCapacity : List Nat := [262144, 524288, 16, 16, 64]

/-- How many waves of a need fit in what is free. -/
def wholeFits (need free : List Nat) : Nat :=
  (List.zip need free).foldl (fun n x => if x.1 = 0 then n else min n (x.2 / x.1)) 64

/-- The cores of a die in service. -/
def State.coresOf (s : State) (d : Nat) : List Nat := (List.range 56).filter fun k => s.coreInService ⟨d, k⟩

/-- The waves of a step on a granted die. -/
def Launch.wavesOn (l : Launch) (d : Nat) : Nat := ((List.range l.nd.waves).filter fun w => l.dieOf w == d).length

/-- The check of a cooperative node (R33). -/
def State.cooperativeFits (s : State) (l : Launch) : Bool :=
  let q := wholeFits l.need coreCapacity
  let cores (d : Nat) : Nat := (l.wavesOn d + q - 1) / q
  q != 0 && (l.granted.all fun d => decide (cores d ≤ (s.coresOf d).length)) &&
    (l.budget == 0xFFFF || decide (l.granted.foldl (fun n d => n + cores d) 0 ≤ l.budget))

/-! ## Granted dies (R22) -/

/-- The dies in service. -/
def State.diesInService (s : State) : List Nat := (List.range 8).filter s.dieInService

/-- A choice of granted dies that R22 allows. -/
def State.grantable (s : State) (n : NodeRec) (home : Nat) (dies : List Nat) : Bool :=
  (s.diesInService.filter fun d => dies.contains d) == dies && dies.contains home &&
    decide (n.dieMin ≤ dies.length) && decide (dies.length ≤ n.dieMax)

/-! ## Admission (R16..R18, R284) -/

/-- The launch that a node, its header and its pending launch make. -/
def PendingLaunch.admitItem (p : PendingLaunch) (n : NodeRec) (h : Header) (id home : Nat) (dies : List Nat) (held : Bool) :
    Launch where
  id := id
  node := p.node
  nd := n
  maxInterval := h.maxInterval
  safePoints := h.safePoints
  homeDie := home
  depth := p.depth
  prio := if n.prio = 0xFF then p.prio else n.prio
  domain := p.domainOf n
  budget := if n.budget = 0 then p.budget else n.budget
  contrib := p.contrib
  know := p.know
  later := Know.none
  finished := Know.none
  granted := dies
  step := 0
  dispatched := 0
  released := 0
  held := held
  placed := !n.cooperative
  items := []
  system := false
  ended := false

/-- The reserving nodes a die's Trestle serves. -/
def State.reserving (s : State) (d : Nat) : Nat :=
  (s.launches.filter fun l => l.nd.reserving && l.homeDie == d && l.live && !l.held).length

/-- A launch that cannot be read is discarded with a record, once the fault queue takes it (R17, R323). -/
def State.discardLaunch (s : State) (die : Nat) (p : PendingLaunch) (c : Cause) (size : Nat) : Option State :=
  if s.faultHasRoom die then some (s.record die (launchRecord die p.node c size p.know)) else none

/-- The oldest pending launch of a die is admitted, rejected, discarded with a record, or waits (R17, R18). `dies` are the
dispatcher's choice (R22). Of several rejections the first of these is reported: an invalid node, an invalid header, too few dies, a
cooperative node that does not fit: DESIGN CHOICE, R18 gives no order (log 51). -/
def State.admitHead (s : State) (die : Nat) (p : PendingLaunch) (dies : List Nat) : Option State :=
  match s.readPieces p.node.toNat 8 with
  | .wait _ => none
  | .fault c _ => s.discardLaunch die p c 128
  | .ok bs =>
    let n := NodeRec.parse bs
    let reject (status detail : Nat) : Option State := some (s.reportNode die n.port status detail p.node p.know)
    match firstInvalid n.checks with
    | some off => reject 1 off
    | none =>
      match s.readHeader n.header.toNat with
      | .wait _ => none
      | .fault c size => s.discardLaunch die p c size
      | .invalid off => reject 1 off
      | .ok h =>
        if s.diesInService.length < n.dieMin then reject 5 0
        else if !s.grantable n die dies then none
        else
          let l := p.admitItem n h s.nextId die dies (n.reserving && decide (trestleRoom ≤ s.reserving die))
          if n.cooperative && !s.cooperativeFits l then reject 2 0
          else some ({ s with launches := s.launches ++ [l], nextId := s.nextId + 1 }.enqueueStep l)

/-- NODE_ADMISSION (R18): the launch leaves the port first, so that a report to the port itself finds room. -/
def execNodeAdmission (die : Nat) (dies : List Nat) (s : State) : Host.Outcome State Fault Refusal :=
  .next <|
    match s.die? die with
    | none => s
    | some d =>
      match d.launchPort with
      | [] => s
      | p :: ps =>
        if !s.takesLaunches die then s
        else ((s.mapDie die fun d => { d with launchPort := ps }).admitHead die p dies).getD s

/-! ## Steps and completion (R19, R21) -/

/-- Every wave of the present step has exited and been released. -/
def Launch.stepDone (l : Launch) : Bool := l.live && !l.held && l.placed && l.released == l.nd.waves

/-- A launch leaves the machine. -/
def State.removeLaunch (s : State) (l : Launch) : State :=
  { s with launches := s.launches.filter fun x => !(x.id == l.id) }.unhold l.homeDie

/-- STEP_BOUNDARY (R21, R22, R33): the next step's waves are created; every access of this step happens-before theirs (R185). -/
def execStepBoundary (launch : Nat) (dies : List Nat) (s : State) : Host.Outcome State Fault Refusal :=
  .next <|
    match s.launch? launch with
    | none => s
    | some l =>
      if !l.stepDone || decide (l.nd.stepCount ≤ l.step + 1) then s
      else
        let reject (status : Nat) : State := (s.removeLaunch l).reportNode l.homeDie l.nd.port status 0 l.node l.later
        if s.diesInService.length < l.nd.dieMin then reject 5
        else if !s.grantable l.nd l.homeDie dies then s
        else
          let next : Launch :=
            { l with step := l.step + 1, dispatched := 0, released := 0, granted := dies, items := [],
                     placed := !l.nd.cooperative, know := l.know.join l.later, finished := Know.none }
          if l.nd.cooperative && !s.cooperativeFits next then reject 2
          else (s.mapLaunch launch fun _ => next).enqueueStep next

/-- NODE_COMPLETION (R19, R185). -/
def execNodeCompletion (launch : Nat) (s : State) : Host.Outcome State Fault Refusal :=
  .next <|
    match s.launch? launch with
    | none => s
    | some l =>
      if l.stepDone && decide (l.nd.stepCount ≤ l.step + 1) then
        (s.removeLaunch l).reportNode l.homeDie l.nd.port 0 0 l.node l.later
      else s

/-! ## Footprints (R14) -/

/-- Every thread of a wave has exited, its stores have taken effect and its operations have completed. -/
def State.exited (s : State) (w : Wave) : Bool :=
  decide (w.status = .resident) && (s.threads.all fun t => t.id.wave != w.uid || (!t.live && t.storesDone)) && !s.hasOps w.uid

/-- The items of a wave that have exited are counted finished, if the Barrow has not counted them yet: their stores have taken effect
(R283, R290). -/
def State.finishItems (s : State) (w : Wave) : State :=
  (s.threads.filter fun t => t.id.wave == w.uid).foldl (fun s t =>
    s.mapLaunch w.launch fun l =>
      if l.nd.reserving && (l.item (w.nodeThread t.id.idx)).gone then l.finishItem (w.nodeThread t.id.idx) t.sight.know else l) s

/-- A wave goes; the scratchpad words it leaves poisoned stay so where they lie on its core (R192). -/
def State.letGo (s : State) (w : Wave) : State :=
  let left := if w.coreId = w.firstCore then w.spadPoison.map (w.firstOff / 4 + ·) else []
  (s.mapCore w.coreId fun c => { c with spadPoison := left ++ c.spadPoison }).dropWave w.uid

/-- The waves of a set, all released, go. -/
def State.dropWaves (s : State) (ws : List Wave) : State := ws.foldl State.letGo s

/-- FOOTPRINT_RELEASE (R14): base registers, slots, tiles and the place at once; the scratchpads of a cluster set with its last
wave. What the wave did happens-before the next step (R185). -/
def execFootprintRelease (wave : Nat) (s : State) : Host.Outcome State Fault Refusal :=
  .next <|
    match s.wave? wave with
    | none => s
    | some w =>
      match s.launch? w.launch with
      | none => s
      | some l =>
        if l.system || !s.exited w then s
        else
          let s := (s.finishItems w).mapLaunch l.id fun l => { l with later := l.later.join (s.waveKnows wave) }
          let set := s.household w
          let others := set.filter fun y => y.uid != wave
          let s :=
            if others.all fun y => decide (y.status = .released) then
              (s.dropWaves set).mapLaunch l.id fun l => { l with released := l.released + set.length }
            else
              s.mapWave wave fun w =>
                { w with status := .released, slotNames := [], tileNames := [], heldSlots := [], heldTiles := [],
                         slotMem := [], tileMem := [], slotPoison := [], tilePoison := [], request := none }
          let s := s.queuePreempted w
          if l.ended then s.sweepLaunch l.id else s

end Sys2Proof.Machine
end

