-- ==== Sys2Proof/Machine/Dispatching.lean ====
section
/-!
DEFINITION. Placing waves on cores (spec 01 R9, R12, R23, R28..R36, R44, R45, R48; 11 R163; 15 R209; 17 R280; 23 R331): selection and
aging, dispatch, stealing, cooperative placement, restore, and the grant of extended blocks (07 R131).
-/
namespace Sys2Proof.Machine

open Sys2Proof

/-! ## What is free on a core -/

/-- What a wave occupies of its core. -/
def Wave.uses (w : Wave) : List Nat :=
  match w.status with
  | .resident => [128 * w.size, w.spadBytes, w.slotNames.length, w.tileNames.length, 1]
  | .released => [0, w.spadBytes, 0, 0, 0]
  | .preempted => [0, 0, 0, 0, 0]

/-- What is free on a core. -/
def State.freeOn (s : State) (c : CoreId) : List Nat :=
  (s.waves.filter fun w => w.coreId == c).foldl (fun f w => List.zipWith (· - ·) f w.uses) coreCapacity

/-- The cooperative node that holds resources on a die: the one admitted first of those not yet placed (R33). -/
def State.holder (s : State) (d : Nat) : Option Launch :=
  s.launches.find? fun l => l.nd.cooperative && !l.placed && l.live && l.granted.contains d

/-- How many whole waves, of n still to hold for, each core is held for. -/
def holdWhole (need : List Nat) : Nat → List (List Nat) → List Nat
  | _, [] => []
  | n, f :: fs => min n (wholeFits need f) :: holdWhole need (n - wholeFits need f) fs

/-- What each core is held for of a rest that no core can take whole. -/
def holdRest : List Nat → List (List Nat) → List (List Nat)
  | _, [] => []
  | rest, f :: fs => List.zipWith min rest f :: holdRest (List.zipWith (· - ·) rest f) fs

/-- What the dispatcher holds on the cores of a die for its holder: whole footprints first, then what is free up to the
footprints that the node's waves there still need (R33, log 41). -/
def State.holds (s : State) (l : Launch) (d : Nat) : List (Nat × List Nat) :=
  let cores := s.coresOf d
  let free := cores.map fun k => s.freeOn ⟨d, k⟩
  let whole := holdWhole l.need (l.wavesOn d) free
  let taken := whole.map fun n => l.need.map (n * ·)
  let rest := l.need.map ((l.wavesOn d - whole.foldl (· + ·) 0) * ·)
  let more := holdRest rest (List.zipWith (List.zipWith (· - ·)) free taken)
  List.zip cores (List.zipWith (List.zipWith (· + ·)) taken more)

/-- What a core offers the records of a launch: what is free and not held for another. -/
def State.offered (s : State) (l : Nat) (c : CoreId) : List Nat :=
  match s.holder c.die with
  | none => s.freeOn c
  | some h =>
    if h.id = l then s.freeOn c
    else
      match (s.holds h c.die).find? fun x => x.1 == c.core with
      | some x => List.zipWith (· - ·) (s.freeOn c) x.2
      | none => s.freeOn c

/-- A need fits an offer. -/
def needFits (need offer : List Nat) : Bool := (List.zip need offer).all fun x => decide (x.1 ≤ x.2)

/-- A cluster that takes records: in service and not power-gated. -/
def State.clusterOpen (s : State) (c : ClusterId) : Bool :=
  s.clusterInService c && (s.cluster? c).any fun x => !x.gated

/-- A place of a core is free. -/
def State.placeFree (s : State) (c : CoreId) (place : Nat) : Bool :=
  decide (place < 64) && !s.waves.any fun w => w.coreId == c && w.place == place && decide (w.status = .resident)

/-- Waves whose names and offset are those of this core: first placed on it and still there. -/
def State.natives (s : State) (c : CoreId) : List Wave :=
  s.waves.filter fun w => w.coreId == c && w.firstCore == c && decide (w.status ≠ .preempted)

/-- Names for a wave: as many as its quota, below 16, distinct, none of them another's. -/
def namesOk (quota : Nat) (names taken : List Nat) : Bool :=
  names.length == quota && names.all (fun n => decide (n < 16)) && decide names.Nodup && names.all fun n => !taken.contains n

/-- A placement of a first-placed wave on a core (R12, R163, R209). -/
def State.placementOk (s : State) (l : Launch) (c : CoreId) (p : Placement) : Bool :=
  let ys := s.natives c
  s.coreInService c && p.core == c.core && needFits l.need (s.offered l.id c) && s.placeFree c p.place &&
    p.offset % 1024 == 0 && decide (p.offset + l.spadAlloc ≤ 524288) &&
    (ys.all fun y => decide (p.offset + l.spadAlloc ≤ y.firstOff) || decide (y.firstOff + y.spadBytes ≤ p.offset)) &&
    namesOk l.nd.slots p.slots (ys.flatMap (·.slotNames)) && namesOk l.nd.accs p.tiles (ys.flatMap (·.tileNames))

/-- The cores that hold a launch's waves, with further ones (R15's budget). -/
def State.withinBudget (s : State) (l : Launch) (cs : List CoreId) : Bool :=
  l.budget == 0xFFFF ||
    decide (((((s.wavesOf l.id).filter fun w => decide (w.status = .resident)).map Wave.coreId) ++ cs).dedup.length ≤ l.budget)

/-! ## A wave's first placement (R9, R10, R24, R36, R209, R280) -/

/-- The wave at its first placement: slots and tiles zeroed (R209), a handler's contributions in the scratchpad (R280). -/
def Launch.firstWave (l : Launch) (uid index : Nat) (peers : List Nat) (c : CoreId) (p : Placement) : Wave where
  uid := uid
  launch := l.id
  step := l.step
  index := index
  die := c.die
  core := c.core
  place := p.place
  firstCore := c
  firstOff := p.offset
  width := l.nd.width
  groups := l.nd.groups
  status := .resident
  peers := peers
  spadBytes := l.spadAlloc
  spad := Memory.setBytes [] 0 (l.contrib.getD [])
  spadPoison := []
  slotNames := p.slots
  tileNames := p.tiles
  heldSlots := []
  heldTiles := []
  relSlots := []
  relTiles := []
  relMarks := []
  slotMem := []
  tileMem := []
  slotPoison := []
  tilePoison := []
  slotQueue := []
  tileQueue := []
  request := none

/-- A thread at its first instruction: the pending bit of a cluster set is set (R24); beyond a reserving node's items it
starts exited (R36). -/
def Launch.firstThread (l : Launch) (uid index idx now : Nat) : Thread :=
  let n := index * l.nd.threads + idx
  let t := Thread.start l.nd uid idx n now
  { t with
    pending := l.nd.clusterSet
    sight := ⟨l.know, [], []⟩
    status := if l.nd.reserving && decide (l.nd.items ≤ n) then .exited else .running }

/-- Place one wave for the first time; scratchpad words that were left poisoned in its allocation are its own (R192). -/
def State.placeWave (s : State) (l : Launch) (uid index : Nat) (peers : List Nat) (c : CoreId) (p : Placement) : State :=
  let inside (u : Nat) : Bool := decide (p.offset / 4 ≤ u) && decide (u < (p.offset + l.spadAlloc) / 4)
  let left := ((s.core? c).map (·.spadPoison)).getD []
  let w := { l.firstWave uid index peers c p with spadPoison := (left.filter inside).map (· - p.offset / 4) }
  let s := s.mapCore c fun x => { x with spadPoison := x.spadPoison.filter fun u => !inside u }
  { s with
    waves := s.waves ++ [w]
    groups := s.groups ++ (List.range l.nd.groups).map (Group.start uid)
    threads := s.threads ++ (List.range l.nd.threads).map fun i => l.firstThread uid index i s.now }

/-- The placements of a set agree: core k of the cluster, one offset, one set of names (R23, R163, R209). -/
def setAgrees (ps : List Placement) : Bool :=
  match ps with
  | [] => true
  | p :: _ => ps.zipIdx.all fun x =>
      x.1.core == p.core + x.2 && x.1.offset == p.offset && x.1.slots == p.slots && x.1.tiles == p.tiles

/-- Place the waves of one record on a die: those of a set become peers. None where one does not fit. -/
def State.placeRecord (s : State) (l : Launch) (die : Nat) (indices : List Nat) (ps : List Placement) : Option State :=
  let uids := (List.range ps.length).map (s.nextId + ·)
  let ok := indices.length == ps.length && (ps.all fun p => s.placementOk l ⟨die, p.core⟩ p) &&
    (!l.nd.clusterSet || (setAgrees ps && (ps.headD ⟨0, 0, 0, [], []⟩).core % 4 == 0)) &&
    s.withinBudget l (ps.map fun p => ⟨die, p.core⟩)
  if !ok then none
  else
    let s' := (List.zip uids (List.zip indices ps)).foldl (fun s x =>
      s.placeWave l x.1 x.2.1 (uids.filter (· != x.1)) ⟨die, x.2.2.core⟩ x.2.2) s
    some ({ s' with nextId := s.nextId + ps.length }.mapLaunch l.id fun l => { l with dispatched := l.dispatched + ps.length })

/-! ## Selection and dispatch (R30, R35) -/

/-- The class a cluster dispatches from. -/
def Cluster.selected (c : Cluster) : Option Nat := c.choose.chosen

/-- The record a cluster dispatches next. -/
def Cluster.head? (c : Cluster) : Option (Nat × QRec) :=
  c.selected.bind fun k => (c.queues.toList.getD k []).head?.map fun r => (k, r)

/-- A record has been dispatched from a class: it leaves its queue, the counts change, and the cluster selects anew. -/
def Cluster.dispatched (c : Cluster) (d : Nat) : Cluster :=
  let queues := c.queues.set! d ((c.queues.toList.getD d []).drop 1)
  { c with
    queues := queues
    chosen := none
    aging := Vector.ofFn fun k : Fin 4 =>
      if k.val = d || (queues.toList.getD k.val []).isEmpty then 0
      else if d < k.val then c.aging[k] + 1
      else c.aging[k] }.choose

/-- The order of an ordered or reserving node's waves (R35, R36). -/
def Launch.inOrder (l : Launch) (indices : List Nat) : Bool :=
  !(l.nd.ordered || l.nd.reserving) || indices.head? == some l.dispatched

/-- WAVE_DISPATCH (R30): the head record of the selected queue, once it fits. -/
def execWaveDispatch (cl : ClusterId) (ps : List Placement) (s : State) : Host.Outcome State Fault Refusal :=
  .next <|
    match s.cluster? cl with
    | none => s
    | some c =>
      match c.head? with
      | none => s
      | some (k, r) =>
        match s.launch? r.launch with
        | none => s
        | some l =>
          if !s.clusterOpen cl || r.transit.isSome || !r.uids.isEmpty || !l.live || !l.inOrder r.waves ||
              ps.any fun p => p.core / 4 != cl.cluster then s
          else
            match s.placeRecord l cl.die r.waves ps with
            | none => s
            | some s => s.mapCluster cl fun c => c.dispatched k

/-- COOPERATIVE_PLACEMENT (R33): all waves at once, or none. -/
def State.placeAll (s : State) (l : Launch) : List (Nat × List Nat) → List (ClusterId × Placement) → Option State
  | [], ps => if ps.isEmpty then some s else none
  | (die, indices) :: rs, ps =>
    let here := ps.take indices.length
    if here.all fun x => x.1.die == die && x.2.core / 4 == x.1.cluster && s.clusterOpen x.1 then
      match s.placeRecord l die indices (here.map (·.2)) with
      | some s => s.placeAll l rs (ps.drop indices.length)
      | none => none
    else none

/-- COOPERATIVE_PLACEMENT (R33). A node that does not hold on a die, since an earlier one does, is placed all the same where what is free and
not held suffices: R33 lets it wait to hold and does not say that it waits to be placed: DESIGN CHOICE (log 93). -/
def execCooperativePlacement (launch : Nat) (ps : List (ClusterId × Placement)) (s : State) : Host.Outcome State Fault Refusal :=
  .next <|
    match s.launch? launch with
    | none => s
    | some l =>
      if !l.nd.cooperative || l.placed || !l.live then s
      else
        match s.placeAll l (l.records.map fun r => (r.1, r.2.waves)) ps with
        | none => s
        | some s => s.mapLaunch launch fun l => { l with placed := true }

/-! ## Stealing (R31) -/

/-- A cluster that steals: its queues are empty and it has no steal under way. -/
def Cluster.idle (c : Cluster) : Bool := c.queues.toList.all List.isEmpty && c.copied.isNone

/-- The victim an idle cluster tries next. -/
def State.nextVictim (s : State) (cl : ClusterId) (c : Cluster) : Option Nat :=
  let start := (c.lastVictim.getD cl.cluster) + 1
  ((List.range 14).map fun i => (start + i) % 14).find? fun k => k != cl.cluster && s.clusterInService ⟨cl.die, k⟩

/-- An idle cluster of lower index, which has not tried in this cycle yet, tries the same victim. -/
def State.outranked (s : State) (cl : ClusterId) (victim : Nat) : Bool :=
  (s.die? cl.die).any fun d => d.clusters.any fun c =>
    decide (c.idx < cl.cluster) && c.idle && c.triedAt != some s.now &&
      s.clusterOpen ⟨cl.die, c.idx⟩ && s.nextVictim ⟨cl.die, c.idx⟩ c == some victim

/-- STEAL_ATTEMPT (R31): an idle cluster tries its next victim, one in a cycle, which grants at most one thief in a cycle. -/
def execStealAttempt (cl : ClusterId) (s : State) : Host.Outcome State Fault Refusal :=
  .next <|
    match s.cluster? cl with
    | none => s
    | some c =>
      if !s.clusterOpen cl || !c.idle || c.triedAt == some s.now then s
      else
        match s.nextVictim cl c with
        | none => s
        | some v =>
          let tried := s.mapCluster cl fun c => { c with lastVictim := some v, triedAt := some s.now }
          match (s.cluster? ⟨cl.die, v⟩).bind fun y => y.head?.map fun h => (y, h) with
          | none => tried
          | some (y, k, r) =>
            if r.transit.isSome || y.grantedAt == some s.now || s.outranked cl v then tried
            else
              let s := tried.mapCluster ⟨cl.die, v⟩ fun y =>
                { y with
                  grantedAt := some s.now
                  queues := y.queues.set! k ({ r with transit := some cl.cluster } :: (y.queues.toList.getD k []).drop 1) }
              s.mapCluster cl fun c => { c with copied := some (v, k, r) }

/-- STEAL_ACKNOWLEDGE (R31): the record is the thief's, and leaves the victim's queue; a class of the victim
that is then empty counts from 0 (R30; log 100). -/
def execStealAcknowledge (cl : ClusterId) (s : State) : Host.Outcome State Fault Refusal :=
  .next <|
    match (s.cluster? cl).bind (·.copied) with
    | none => s
    | some (v, k, r) =>
      let s := s.mapCluster ⟨cl.die, v⟩ fun y =>
        { y with chosen := none }.setQueue k ((y.queues.toList.getD k []).filter fun x => x.transit != some cl.cluster)
      s.mapCluster cl fun c =>
        { c.setQueue k (c.queues.toList.getD k [] ++ [r]) with copied := none, lastVictim := none }

/-! ## Restore (R44, R45, R48, R331, R332) -/

/-- Read the pieces of an area, 16 bytes each, with the permissions of a load, as the thread sees memory. The
restore takes nothing over from what it reads, as R171 and R172 have an access of the thread do: whether a restore's reads are such
accesses the manual does not say, DESIGN CHOICE (log 101). -/
def State.loadArea (s : State) (c : Ctx) (va : Nat) : Nat → AreaResult (List Byte)
  | 0 => .ok []
  | n + 1 =>
    match s.check c.l.system c.w ⟨16, false, false, false⟩ va with
    | .at loc view peer =>
      if s.poisoned loc 16 then .fault .poison va
      else (s.loadArea c (va + 16) n).bind fun bs => .ok ((s.readAs (s.viewer c.t.id) view peer loc 16).bytes ++ bs)
    | .trap c => .fault c va
    | .retry => .wait va

/-- The mode of a code (R331). -/
def modeOf (code safePoint : Nat) : Mode :=
  match code with
  | 0 => .normal
  | 1 => .handler
  | 2 => .saving safePoint
  | _ => .restoring

/-- A hard-stopped thread restored from its area (R331, R332): `low` g0 to g31, `high` g32 to g63, `rest` offset 256 on. Flags that its
operations raised meanwhile are ORed in (R94). A mark that it had keeps its address (R193), one that software has put there has
the address `mark`. It counts as waiting to issue from now on: DESIGN CHOICE (log 63). No distance is open any more: DESIGN CHOICE (log
78). -/
def Thread.restored (t : Thread) (low high rest : List Byte) (mark : DWord) (now : Nat) : Thread :=
  let m := fieldAt rest 37 1
  let mask := fieldAt rest 64 8
  { t with
    status := .running
    regs := Vector.ofFn fun i => if i.val < 32 then wordAt low (4 * i.val) else wordAt high (4 * (i.val - 32))
    h := Vector.ofFn fun i => wordAt rest (4 * i.val)
    pc := wordAt rest 32
    preds := BitVec.ofNat 8 (fieldAt rest 36 1)
    mode := modeOf (m % 4) (fieldAt rest 38 1)
    pending := m / 4 % 2 == 1
    modeHigh := BitVec.ofNat 5 (m / 8)
    spare := BitVec.ofNat 8 (fieldAt rest 39 1)
    fflags := addFlags (wordAt rest 40) false t.owed
    owed := 0
    fcr := wordAt rest 44
    ctl := wordAt rest 48
    fport := wordAt rest 52
    slim := dwordAt rest 56
    marks := ((List.range 64).filter fun i => mask.testBit i && (decide (i < 32) || !high.isEmpty)).map fun i =>
      ⟨Fin.ofNat 64 i, (t.mark? (Fin.ofNat 64 i)).getD mark⟩
    clkh := wordAt rest 72
    trans := []
    flight := []
    wait := .none
    held := []
    readyAt := now
    lastIssue := now }

/-- A parked thread starts its restore routine (R45). -/
def Thread.resumed (t : Thread) (l : Launch) (now : Nat) : Thread :=
  let sp :=
    match t.mode with
    | .saving n => n
    | _ => 0
  { t with
    status := .running
    mode := .restoring
    pc := ((l.safePoint? sp).map (·.restore)).getD 0
    wait := .none
    held := []
    readyAt := now
    lastIssue := now }

/-- Restore one thread by the kind of its stop (R48). None while its area, or the fault queue, is to be waited for. -/
def State.restoreThread (s : State) (id : ThreadId) : Option State :=
  match s.ctx id with
  | none => some s
  | some c =>
    match c.t.status with
    | .parked => some (s.mapThread id fun t => t.resumed c.l s.now)
    | .stopped =>
      let area (off n : Nat) : AreaResult (List Byte) := s.loadArea c (c.saveArea + off) n
      let high := if c.g.ext then area 128 8 else .ok []
      match area 0 8, high, area 256 8 with
      | .wait _, _, _ => none
      | _, .wait _, _ => none
      | _, _, .wait _ => none
      | .fault cause va, _, _ => s.failArea c cause va
      | _, .fault cause va, _ => s.failArea c cause va
      | _, _, .fault cause va => s.failArea c cause va
      | .ok low, .ok hi, .ok rest =>
        some ({ s with free := s.free + 1 }.mapThread id fun t => t.restored low hi rest (Config.restoredMark s.free) s.now)
    | _ => some s

/-- Restore several threads. -/
def State.restoreThreads (s : State) : List ThreadId → Option State
  | [] => some s
  | id :: ids =>
    match s.restoreThread id with
    | some s' => s'.restoreThreads ids
    | none => none

/-- The extended-pool bytes of a wave's groups (R44). -/
def State.blocksOf (s : State) (w : Wave) : Nat :=
  ((s.groups.filter fun g => g.wave == w.uid && g.ext).length) * blockBytes w

/-- The extended pool of a core (R2). -/
def poolBytes : Nat := 131072

/-- A pre-empted wave fits a core and a place (R44). -/
def State.restoreFits (s : State) (l : Launch) (w : Wave) (core place : Nat) : Bool :=
  let c : CoreId := ⟨w.die, core⟩
  s.coreInService c && s.clusterOpen ⟨w.die, core / 4⟩ && needFits l.need (s.offered l.id c) && s.placeFree c place &&
    decide (s.poolUsed c + s.blocksOf w ≤ poolBytes)

/-- Put pre-empted waves on their cores, all or none. -/
def State.seatWaves (s : State) (l : Launch) : List (Nat × Nat × Nat) → Option State
  | [] => some s
  | (uid, core, place) :: xs =>
    match s.wave? uid with
    | none => none
    | some w =>
      if decide (w.status = .preempted) && s.restoreFits l w core place then
        (s.mapWave uid fun w => { w with status := .resident, core := core, place := place, request := none }).seatWaves l xs
      else none

/-- The cores of restored sets: core k of one cluster for member k of each set (R40, R44). -/
def State.setSeats (s : State) (uids : List Nat) (ps : List (Nat × Nat)) : Bool :=
  let seats := (List.zip uids ps).filterMap fun x => (s.wave? x.1).map fun w => (w.index, x.2.1)
  seats.all fun x => x.2 % 4 == x.1 % 4 && seats.all fun y => x.1 / 4 != y.1 / 4 || x.2 / 4 == y.2 / 4

/-- WAVE_RESTORE (R44, R45, R48): the head record of the selected queue, when it is of pre-empted waves and they all fit. -/
def execWaveRestore (cl : ClusterId) (ps : List (Nat × Nat)) (s : State) : Host.Outcome State Fault Refusal :=
  .next <|
    match s.cluster? cl with
    | none => s
    | some c =>
      match c.head? with
      | none => s
      | some (k, r) =>
        match s.launch? r.launch with
        | none => s
        | some l =>
          let cores := (List.zip r.uids ps).filterMap fun x => (s.wave? x.1).map fun w => (⟨w.die, x.2.1⟩ : CoreId)
          if !s.clusterOpen cl || r.transit.isSome || r.uids.isEmpty || r.uids.length != ps.length || !l.live ||
              (l.nd.clusterSet && !s.setSeats r.uids ps) || !s.withinBudget l cores then s
          else
            match s.seatWaves l (List.zip r.uids ps) with
            | none => s
            | some s' =>
              let ids := (s'.threads.filter fun t => r.uids.contains t.id.wave && t.live).map (·.id)
              let s' := s'.mapCluster cl fun c => c.dispatched k
              (s'.restoreThreads ids).getD s

/-! ## Extended blocks (R131) -/

/-- EXTENDED_BLOCK_GRANT: the oldest request of a core is served when the pool has room; its group's threads go on. -/
def execExtendedBlockGrant (c : CoreId) (s : State) : Host.Outcome State Fault Refusal :=
  .next <|
    match s.core? c with
    | none => s
    | some core =>
      match core.xacq with
      | [] => s
      | (uid, g) :: rest =>
        let pop (s : State) : State := s.mapCore c fun x => { x with xacq := rest }
        match s.wave? uid with
        | none => pop s
        | some w =>
          if poolBytes < s.poolUsed c + blockBytes w then s
          else
            let s := (pop s).grantBlock w g
            (s.liveOfGroup w g).foldl (fun s t =>
              match t.arrival? with
              | some x => s.finishLane t.id x.instr {}
              | none => s) s

end Sys2Proof.Machine
end

