-- ==== Sys2Proof/Machine/Events.lean ====
section
/-!
DEFINITION. The other steps of the machine's units: fault records (spec 23 R322..R324), migration (23 R330; 25 R346, R347), reset
and boot (25 R348), units out of service and ECC errors (25 R350), the host (25 R340..R342), the fabric (25 R343..R345), power
(25 R349), replay (25 R351); and encodings that are no instruction (03 R76..R78).
-/
namespace Sys2Proof.Machine

open Sys2Proof

/-! ## Fault records (R323, R324) -/

/-- What a record's acceptance does to its poster (R191, R196, R231, R251, R323, R324). -/
def State.accepted (s : State) (p : Post) (token : Option Nat) : State :=
  match p.poster with
  | .store t => s.mapThread t fun u => { u with unposted := u.unposted - 1 }
  | .load t ticket =>
    s.mapThread t fun u =>
      { u with loads := updateIf (fun l => l.ticket == some ticket) (fun l => { l with ticket := none }) u.loads }
  | .chunk op _ => if token.isSome then s.setToken p.poster token else (s.declareFatal p.poster).settleCopy op
  | .row _ _ => if token.isSome then s.setToken p.poster token else s.declareFatal p.poster
  | _ => s

/-- The record as the queue holds it: the time of its posting, and its token. -/
def Post.recorded (p : Post) (clk : DWord) (token : Option Nat) : FaultRecord := { p.record with time := clk, token := token }

/-- FAULT_RECORD_POST: the first record that can be accepted enters the queue (R323, R324). -/
def execFaultRecordPost (die : Nat) (s : State) : Host.Outcome State Fault Refusal :=
  .next <|
    match s.die? die with
    | none => s
    | some d =>
      if faultRoom ≤ d.faultQ.length then s
      else
        match d.posting.findIdx? fun p => !p.stalls || (d.takeSlot p.poster).isSome with
        | none => s
        | some n =>
          match d.posting[n]? with
          | none => s
          | some p =>
            let taken := if p.stalls then d.takeSlot p.poster else none
            let token := taken.map (·.1)
            let d := (taken.map (·.2)).getD d
            let s := s.mapDie die fun _ =>
              { d with posting := d.posting.eraseIdx n, faultQ := d.faultQ ++ [p.recorded d.clk token] }
            s.accepted p token

/-! ## Migration (R330, R346, R347) -/

/-- The leaf entry a walk reaches: its level, its address, its contents. -/
def State.leafPath (s : State) (va : Nat) : Nat → Nat → Option (Nat × Nat × Nat)
  | 0, table =>
    let a := table + 8 * (va / 2 ^ 12 % 512)
    let x := s.mem.nat a 8
    if s.ownMemory table && field x 1 1 == 1 && leafValid s.isM 0 x then some (0, a, x) else none
  | level + 1, table =>
    let a := table + 8 * (va / 2 ^ (12 + 9 * (level + 1)) % 512)
    let x := s.mem.nat a 8
    if !s.ownMemory table then none
    else if field x 1 1 = 1 then (if leafValid s.isM (level + 1) x then some (level + 1, a, x) else none)
    else if pointerValid (level + 1) x then s.leafPath va level (field x 12 40 * 4096)
    else none

/-- Write a page's leaf in each of its replicas (R326). -/
def State.writeLeaf (s : State) (va level at_ x : Nat) : State :=
  let span := 2 ^ (12 + 9 * level)
  let size := (Leaf.ofEntry x).size
  let first := at_ - 8 * (va % size / span)
  (List.range (max 1 (size / span))).foldl (fun s i =>
    (s.settlePhys (first + 8 * i) 8).writeLoc (.phys (first + 8 * i)) (leBytes 8 x)) s

/-- The granules of a range of physical memory. -/
def granuleRange (pa n : Nat) : List Nat := unitsOf 65536 pa n

/-- The ranges that a BMV reads through bank layouts: its weight rows and, of GQ4, the block scales (R230). -/
def BmvOp.banked (b : BmvOp) : List (Nat × Nat) :=
  (b.w.toNat, b.w.toNat + b.m * b.pitch) ::
    if b.form = .gq4 then [(b.scaleArray.toNat, b.scaleArray.toNat + b.m * b.k / 64)] else []

/-- The capacity tier's bytes: 2 TiB (R1, R346). -/
def tierBytes : Nat := 2 ^ 41

/-- The bytes of the tier in use: a demoted page counts with its size, though its compressed lines may take less, a live region with
its reference (R303, R346): DESIGN CHOICE (log 74). -/
def State.tierUsed (s : State) : Nat :=
  s.ownRegions.foldl (fun n r => n + r.count * r.esize) (s.tier.foldl (fun n p => n + p.size) 0)

/-- A page that the migration engine may demote (R310, R330, R346): its form's own tier, with room, not a system page, in this
module's HBM, no granule of a live region, no bank page of a BMV in flight, no access to it in flight. -/
def State.demotable (s : State) (l : Leaf) (va : Nat) : Bool :=
  let base := va - va % l.size
  let bank := decide (1 ≤ l.layout) && decide (l.layout ≤ 3)
  s.isM && l.layout != 5 && !l.system && s.ownHbm l.frame && s.ownHbm (l.frame + l.size - 1) &&
    decide (s.tierUsed + l.size ≤ tierBytes) &&
    ((granuleRange l.frame l.size).all fun g => !s.regionHolds g) &&
    !(bank && s.bmvs.any fun b => !b.completed && b.banked.any fun r => decide (r.1 < base + l.size) && decide (base < r.2)) &&
    !s.inFlight (.page base l.size)

/-- PAGE_DEMOTION: the page's bytes, poison units included, go to the tier; its leaf names them with layout 5. -/
def execPageDemotion (va tierId : Nat) (s : State) : Host.Outcome State Fault Refusal :=
  .next <|
    match s.leafPath va 4 s.ptroot.toNat with
    | none => s
    | some (level, at_, x) =>
      let l := Leaf.ofEntry x
      if !s.demotable l va || decide (2 ^ 40 ≤ tierId) || s.tier.any fun p => p.id == tierId then s
      else
        let s := s.settlePhys l.frame l.size
        let p : TierPage :=
          { id := tierId
            size := l.size
            layout := l.layout
            tags := (granuleRange l.frame l.size).map fun g => s.tagOf (g * 65536)
            mem := s.mem.extract l.frame l.size
            poison := (s.poison.filter fun u => decide (l.frame / 64 ≤ u) && decide (u < (l.frame + l.size) / 64)).map
              (· - l.frame / 64) }
        let x := l.k * 2 ^ 60 + tierId * 2 ^ 12 + 5 * 2 ^ 6 + field x 0 5
        (({ s with tier := s.tier ++ [p] }.writeLeaf va level at_ x).invalidate (.page (va - va % l.size) l.size))

/-- A frame that a demoted page may be promoted to: aligned, in this module's HBM, its granules tagged as the old frame's
were and held by no region (R330). -/
def State.frameFits (s : State) (l : Leaf) (p : TierPage) (frame : Nat) : Bool :=
  frame % l.size == 0 && s.ownHbm frame && s.ownHbm (frame + l.size - 1) &&
    ((granuleRange frame l.size).map fun g => s.tagOf (g * 65536)) == p.tags &&
    (granuleRange frame l.size).all fun g => !s.regionHolds g

/-- PAGE_PROMOTION: the page comes back to a frame bit for bit, and the accesses that wait for it translate again. -/
def execPagePromotion (va frame : Nat) (s : State) : Host.Outcome State Fault Refusal :=
  .next <|
    match s.leafPath va 4 s.ptroot.toNat with
    | none => s
    | some (level, at_, x) =>
      let l := Leaf.ofEntry x
      match s.tier.find? fun p => p.id == l.frame / 4096 with
      | none => s
      | some p =>
        if l.layout ≠ 5 || !s.frameFits l p frame then s
        else
          let s := s.settlePhys frame l.size
          let s : State :=
            { s with
              mem := (s.mem.zero frame l.size).implant frame p.mem
              poison := (s.poison.filter fun u => decide (u < frame / 64) || decide ((frame + l.size) / 64 ≤ u)) ++
                p.poison.map (· + frame / 64)
              tier := s.tier.filter fun y => y.id != p.id }
          let x := l.k * 2 ^ 60 + frame + p.layout * 2 ^ 6 + field x 0 5
          (s.writeLeaf va level at_ x).invalidate (.page (va - va % l.size) l.size)

/-! ## Reset, units, errors (R348, R350) -/

/-- A die without the units that are out of service. -/
def Die.without (d : Die) (out : List HwUnit) : Die := { d with inService := d.inService && !out.contains (.die d.idx) }

/-- The stacks in service without those that are out. -/
def stacksWithout (mask : BitVec 16) (out : List HwUnit) : BitVec 16 :=
  (List.range 16).foldl (fun m n => if out.contains (.stack n) then m &&& ~~~(BitVec.ofNat 16 (2 ^ n)) else m) mask

/-- The state after a module reset: what R348 leaves, with the form, the module's number and its peers as they stand, the units in
service less those that leave service at a reset (R350), and memory outside the module's HBM unchanged. -/
def State.moduleReset (s : State) : State :=
  let r := State.afterReset s.boot s.isM
  let out := s.unitsOut ++ s.outAtReset
  let up (d : Nat) : Bool := s.dieInService d && !out.contains (.die d)
  let outside (a : Nat) : Bool := !(a / 2 ^ 46 == s.moduleNo && decide (a % 2 ^ 46 < 2 ^ 40))
  let mem := s.mem.filter fun c => outside c.1
  let poison := s.poison.filter fun u => outside (64 * u)
  let tags := s.tags.filter fun x => outside (65536 * x.1)
  { r with
    threads := r.threads.filter fun t => up t.id.wave
    groups := r.groups.filter fun g => up g.wave
    waves := r.waves.filter fun w => up w.uid
    launches := r.launches.filter fun l => up l.id
    regions := s.regions.filter fun x => outside x.home
    dies := r.dies.map fun d =>
      match s.die? d.idx with
      | some o => { d with inService := o.inService, coreMask := o.coreMask }.without out
      | none => d
    mem := mem
    poison := poison
    tags := tags
    stackMask := stacksWithout s.stackMask out
    unitsOut := out
    moduleNo := s.moduleNo
    peers := s.peers
    image := r.image.map fun _ => (mem, poison, tags)
    reports := s.reports ++ r.reports
    hostReads := s.hostReads
    relaxed := s.relaxed
    nextId := s.nextId
    stamp := s.stamp
    free := s.free
    now := s.now
    sched := s.sched }

/-- MODULE_RESET (R348). -/
def execModuleReset (s : State) : Host.Outcome State Fault Refusal := .next s.moduleReset

/-- CLUSTER_RESET: queues are in die memory and lose nothing; a steal not yet acknowledged is undone (R31, R32). -/
def execClusterReset (cl : ClusterId) (s : State) : Host.Outcome State Fault Refusal :=
  .next ((s.cancelSteal cl).mapCluster cl fun c => { c with lastVictim := none })

/-- UNIT_OUT_OF_SERVICE (R350): a core leaves service once its waves have been pre-empted; a die, stack or channel at the next
reset, and so a bank unit, of which the manual gives no moment: DESIGN CHOICE (log 43). -/
def execUnitOutOfService (u : HwUnit) (s : State) : Host.Outcome State Fault Refusal :=
  .next <|
    match u with
    | .core c =>
      if !s.coreInService c then s
      else
        match s.waves.filter fun w => w.coreId == c && decide (w.status ≠ .preempted) with
        | [] => s.mapDie c.die fun d => { d with coreMask := d.coreMask &&& ~~~(BitVec.ofNat 56 (2 ^ c.core)) }
        | ws => ws.foldl (fun s w => if w.request.isNone && s.preemptible w then s.requestPreemption w else s) s
    | _ => if s.outAtReset.contains u then s else { s with outAtReset := s.outAtReset ++ [u] }

/-- Count a corrected error of a unit (R350). -/
def countCorrected (u : HwUnit) : List (HwUnit × Nat) → List (HwUnit × Nat)
  | [] => [(u, 1)]
  | (v, n) :: xs => if u = v then (v, n + 1) :: xs else (v, n) :: countCorrected u xs

/-- Add a unit to a list of poisoned units. -/
def addUnit (u : Nat) (us : List Nat) : List Nat := if us.contains u then us else u :: us

/-- ECC_ERROR: a corrected error is counted and reported; uncorrectable data is poisoned, the whole unit that holds it: a line of memory,
of a region's reference or of its table, which lies in memory, a word of a scratchpad, slot or tile (R192, R308, R350). -/
def execEccError (e : EccReport) (s : State) : Host.Outcome State Fault Refusal :=
  .next <|
    match e with
    | .corrected unit => { s with corrected := countCorrected unit s.corrected, reports := s.reports ++ [.corrected unit] }
    | .memory pa => if s.ownHbm pa then { s with poison := addUnit (pa / 64) s.poison } else s
    | .scratchpad wave byte =>
      s.mapWave wave fun w => if byte < w.spadBytes then { w with spadPoison := addUnit (byte / 4) w.spadPoison } else w
    | .slot wave byte =>
      s.mapWave wave fun w =>
        if w.slotNames.contains (byte / slotBytes) then { w with slotPoison := addUnit (byte / 4) w.slotPoison } else w
    | .tile wave byte =>
      s.mapWave wave fun w =>
        if w.tileNames.contains (byte / slotBytes) then { w with tilePoison := addUnit (byte / 4) w.tilePoison } else w
    | .region region part =>
      match s.region? region, part with
      | none, _ => s
      | some r, .reference n => s.mapRegion region fun x => { x with badRefs := addUnit (r.refLine n) x.badRefs }
      | some r, .entry n =>
        match r.entryLine? n with
        | some u => { s with poison := addUnit u s.poison }
        | none => s
      | some _, .params => s.mapRegion region fun x => { x with badParams := true }

/-! ## The host (R340..R342) -/

/-- Log what the host did, on every die, in recording mode (R351). -/
def State.logAll (s : State) (e : LogEntry) : State :=
  if s.recording then { s with dies := s.dies.map fun d => if d.inService then { d with log := d.log ++ [e] } else d } else s

/-- The four words of 16 bytes. -/
def messageOf (data : List Byte) : List Word := (List.range 4).map fun i => wordAt data (4 * i)

/-- HOST_DOORBELL_STORE (R341): the SEND of 16 aligned bytes to an index; what is dropped or discarded is counted. Before the
launch ports open every store is discarded (R348). What the host knows passes with it (R342). -/
def execHostDoorbellStore (offset : Nat) (data : List Byte) (s : State) : Host.Outcome State Fault Refusal :=
  .next <|
    let die := offset / 2 ^ 20
    match s.die? die with
    | none => s
    | some d =>
      if !d.inService then s
      else
        let s := s.logAll (.doorbell offset data)
        let idx := offset % 2 ^ 20 / 16
        if !d.portsOpen || data.length ≠ 16 || offset % 16 ≠ 0 then s.countError die
        else
          let m := messageOf data
          let h := handleOf die (if idx = 0 then 0 else genOf d.portGens idx) idx
          match s.deliver? ⟨h, m, (m.getD 0 0).toInt, false, die, s.host.know⟩ with
          | some s => s
          | none => s.countError die

/-- What a host read of a doorbell window returns (R341). -/
def State.doorbellRead (s : State) (offset bytes : Nat) : List Byte :=
  if bytes ≠ 4 || offset % 16 ≠ 0 then List.replicate bytes 0
  else
    let die := offset / 2 ^ 20
    let idx := offset % 2 ^ 20 / 16
    match s.die? die with
    | none => List.replicate bytes 0
    | some d =>
      let h := handleOf die (if idx = 0 then 0 else genOf d.portGens idx) idx
      leBytes 4 (if s.stale h then 0xFFFFFFFF else (d.portInfo h).toNat)

/-- HOST_DOORBELL_READ (R341). -/
def execHostDoorbellRead (offset bytes : Nat) (s : State) : Host.Outcome State Fault Refusal :=
  .next { s with hostReads := s.hostReads ++ [s.doorbellRead offset bytes] }

/-- HOST_MEM_ACCESS: byte a of the host's range is byte a of this module's HBM (R340, R342). What a read of poisoned bytes returns
the manual does not say (log 47). -/
def execHostMemAccess (a : HostAccess) (s : State) : Host.Outcome State Fault Refusal :=
  .next <|
    match a with
    | .read pa n =>
      let p := s.moduleNo * 2 ^ 46 + pa
      if !((List.range n).all fun i => s.ownHbm (p + i)) then s
      else if s.poisoned (.phys p) n then
        { s with free := s.free + n
                 hostReads := s.hostReads ++ [(List.range n).map fun i => BitVec.ofNat 8 (Config.choice (s.free + i))] }
      else
        let r := s.hostRead p n
        { r.1 with hostReads := s.hostReads ++ [r.2] }
    | .write pa bs =>
      let p := s.moduleNo * 2 ^ 46 + pa
      if !((List.range bs.length).all fun i => s.ownHbm (p + i)) then s
      else (s.logAll (.hostWrite pa bs)).hostWrite p bs

/-! ## Other agents of the domain (R310, R340, R344) -/

/-- The granules that n bytes at an address touch. -/
def granuleCount (va n : Nat) : Nat := (unitsOf 65536 va n).length

/-- The frames that another module may give a region: distinct granules of one of its stacks, tagged 4, of no live region (R301). -/
def State.peerFrames (s : State) (gs : List Nat) : Bool :=
  let home := gs.headD 0 * 65536
  decide gs.Nodup && home / 2 ^ 46 != s.moduleNo && gs.all fun g =>
    g / 2 ^ 20 == gs.headD 0 / 2 ^ 20 && s.reaches false (g * 65536) && !hostRange (g * 65536 % 2 ^ 46) &&
      s.tagOf (g * 65536) == 4 && !s.regionHolds g

/-- The region that another module makes there, as its FITMAKE makes it (R300, R301, R306). -/
def State.peerRegion (s : State) (desc : List Byte) (range table reference : List Nat) : Option Region :=
  let x := FitDesc.parse desc
  let home := range.headD 0 * 65536 / 2 ^ 46
  let room := decide ((s.regions.filter fun r => r.home / 2 ^ 46 == home).length < regionRoom)
  if desc.length = 512 && (firstInvalid (fitChecksLow desc ++ fitChecksHigh desc)).isNone && fieldAt desc 64 8 == 0 &&
      x.base % 65536 == 0 && range.length == (x.count * x.esize + 65535) / 65536 &&
      table.length == granuleCount x.table (16 * x.capacity) && s.peerFrames (range ++ table) && room &&
      reference.length == x.count && reference.all fun v => decide (v < 2 ^ (8 * x.esize)) then
    let frames := (pieces (16 * x.capacity / 4096 + 2) x.table (16 * x.capacity)).map fun p =>
      table.getD (p.1 / 65536 - x.table / 65536) 0 * 65536 + p.1 % 65536
    some (x.region s.nextId range frames reference)
  else none

/-- A region of another module is dropped there, once no store of this module to it is in flight: its requests complete (R307,
R316). -/
def State.peerDrop (s : State) (region : Nat) : State :=
  match s.region? region with
  | none => s
  | some r =>
    if r.home / 2 ^ 46 = s.moduleNo || s.threads.any fun t => t.stores.any fun e => e.loc.inRegion region then s
    else { s with regions := s.regions.filter fun x => !(x.id == region) }.reportRefits r.pending 1 r.gen

/-- An agent of another module stores to an element of a region, here or there, at its place in region order (R309, R310). -/
def State.peerStore (s : State) (who : OutsideId) (region elem value : Nat) : State :=
  match s.region? region with
  | none => s
  | some r =>
    if r.count ≤ elem || decide (2 ^ (8 * r.esize) ≤ value) then s
    else s.outsideElement who (.fitted region elem) (leBytes r.esize value)

/-- It loads one, which orders what it does later (R182). -/
def State.peerLoad (s : State) (who : OutsideId) (region elem : Nat) : State :=
  match s.region? region with
  | none => s
  | some r => if r.count ≤ elem then s else s.outsideRead who true (.fitted region elem) r.esize

/-- Another module's thread requests a refit of a region; the completion goes to a port of its own module (R316). -/
def State.peerRefit (s : State) (region : Nat) : State :=
  match s.region? region with
  | none => s
  | some r =>
    if refitRoom ≤ s.refitsPending r.stack || r.gen == lastGen then s
    else s.mapRegion region fun x => { x with pending := x.pending ++ [⟨0, noHandle, false, Know.none⟩] }

/-- Another module tags a granule of its own, as its LAYOUT does: none of a live region, none that an access of this module is in
flight to; from and to tag 4 the granule is zeroed (R184, R310, R336). -/
def State.peerTag (s : State) (g tag : Nat) : State :=
  let pa := g * 65536
  if pa / 2 ^ 46 = s.moduleNo || hostRange (pa % 2 ^ 46) || decide (4 < tag) || s.regionHolds g || s.granuleBusy g then s
  else
    let zero := s.tagOf pa == 4 || tag == 4
    let s := s.settlePhys pa 65536
    (if zero then s.scrub pa else s).setTag g tag

/-- Bytes are reached through this view: the layout view reaches frames tagged 1 to 3 (R165, R167). -/
def State.viewed (s : State) (view : Bool) (pa n : Nat) : Bool :=
  !view || (granuleRange pa n).all fun g => decide (1 ≤ s.tagOf (g * 65536)) && decide (s.tagOf (g * 65536) ≤ 3)

/-- An agent of another module acts on memory, on a region's elements, or on what it knows. The memory of this module's host it does not
reach (log 48). -/
def State.peerActs (s : State) (who : OutsideId) (o : Outside) : State :=
  let hosts (pa : Nat) : Bool := pa / 2 ^ 46 == s.moduleNo && hostRange (pa % 2 ^ 46)
  if !s.inDomain who.module then s
  else
    match o with
    | .write _ view pa bs => if hosts pa || !s.viewed view pa bs.length then s else s.outsideStore who view pa bs
    | .read _ view pa n => if hosts pa || !s.viewed view pa n then s else s.outsideRead who view (.phys pa) n
    | .update _ view pa op wide b d =>
      let n := if wide then 8 else 4
      if hosts pa || pa % n ≠ 0 || !s.viewed view pa n || s.poisoned (.phys pa) n then s else s.outsideUpdate who view pa op wide b d
    | .load _ region elem => s.peerLoad who region elem
    | .store _ region elem value => s.peerStore who region elem value
    | .fence _ scope kind => s.outsideFence who scope kind
    | .afence _ => s.outsideJoin who
    | .inform _ whom => if s.inDomain whom.module then s.setOutsider ((s.outsider whom).learn (s.outsider who).sight.know) else s
    | .see _ event =>
      if s.history.any fun e => e.event == event then s.setOutsider ((s.outsider who).learn (Know.ofSeen [event])) else s
    | .glimpse _ event on => let x := s.outsider who; s.setOutsider { x with sight := x.sight.glimpse event on }
    | _ => s

/-- Another agent acts: the host on its own memory, an agent of another module on memory anywhere in the domain but the host's here and
on the elements of any region, another module on the tags and regions of its own. -/
def State.outsideActs (s : State) (o : Outside) : State :=
  match o with
  | .hostStore pa bs => if pa / 2 ^ 46 = s.moduleNo && hostRange (pa % 2 ^ 46) then s.hostWrite pa bs else s
  | .write who _ _ _ | .read who _ _ _ | .update who _ _ _ _ _ _ | .load who _ _ | .store who _ _ _ | .fence who _ _ | .afence who
  | .inform who _ | .see who _ | .glimpse who _ _ => s.peerActs who o
  | .tag g tag => s.peerTag g tag
  | .make desc range table reference =>
    match s.peerRegion desc range table reference with
    | some r => { s with regions := s.regions ++ [r], nextId := s.nextId + 1 }
    | none => s
  | .drop region => s.peerDrop region
  | .refit region => s.peerRefit region
  | .poison unit on =>
    if unit * 64 / 2 ^ 46 = s.moduleNo then s
    else { s with poison := if on then addUnit unit s.poison else s.poison.filter (· != unit) }

/-! ## Fabric, power, replay (R343, R345, R349, R351) -/

/-- FLIT_RETRY: a lost flit is delivered once; nothing architectural changes (R343). -/
def execFlitRetry (_port : Nat) (s : State) : Host.Outcome State Fault Refusal := .next s

/-- FABRIC_CANNOT_REACH_MODULE: whether the fabric reaches a module changes; accesses to one it cannot reach behave as to
poisoned storage (R345). -/
def execFabricCannotReachModule (module : Nat) (reachable : Bool) (s : State) : Host.Outcome State Fault Refusal :=
  .next { s with peers := updateIf (fun p => p.number == module) (fun p => { p with reachable := reachable }) s.peers }

/-- POWER_ADJUST: a cluster with no resident wave is gated or ungated; gating undoes a steal not yet acknowledged (R31, R349). -/
def execPowerAdjust (cl : ClusterId) (gated : Bool) (s : State) : Host.Outcome State Fault Refusal :=
  .next <|
    if gated && s.waves.any fun w => w.clusterId == cl && decide (w.status ≠ .preempted) then s
    else
      (if gated then s.cancelSteal cl else s).mapCluster cl fun c =>
        { c with gated := gated, lastVictim := if gated then none else c.lastVictim }

/-- An entry that every die's log holds: what the host did. -/
def LogEntry.fromHost : LogEntry → Bool
  | .launch _ _ => false
  | _ => true

/-- The delivery of a host's entry: a doorbell store to a launch port that the die's next entry shows to have entered a launch waits
for room there, any other access is made as it was. -/
def replayHost (after : List (Nat × Nat)) (logs : List (Nat × List LogEntry)) : LogEntry → List Redelivery
  | .doorbell offset data =>
    let entered := logs.any fun x => x.1 == offset / 2 ^ 20 &&
      match x.2 with
      | .launch l false :: _ => offset % 2 ^ 20 / 16 == 0 && l.node == dwordAt data 0
      | _ => false
    [⟨after, if entered then some (offset / 2 ^ 20) else none, .hostDoorbellStore offset data⟩]
  | .hostWrite pa data => [⟨after, none, .hostMemAccess (.write pa data)⟩]
  | .launch _ _ => []

/-- The launches from outside among the first entries of a die's log, of which the die's log has had `place`; of the other dies what
`others` says. -/
def replayLaunches (die : Nat) (others : List (Nat × Nat)) : Nat → List LogEntry → List Redelivery
  | place, .launch l own :: es =>
    (if own then [⟨(die, place) :: others, some die, .launchMessage die l.node 0⟩] else []) ++ replayLaunches die others (place + 1) es
  | _, _ => []

/-- The deliveries of the dies' logs in order: launches from outside where they stand between the host's accesses, which every log
holds; `past` says how many entries of each log stand before (R351). Fuel: the entries of all logs. -/
def replayLog : Nat → List (Nat × Nat) → List (Nat × List LogEntry) → List Redelivery
  | 0, _, _ => []
  | fuel + 1, past, logs =>
    let before (d : Nat) : Nat := ((past.find? fun x => x.1 == d).map (·.2)).getD 0
    let launches := logs.flatMap fun x => replayLaunches x.1 (past.filter fun y => y.1 != x.1) (before x.1) x.2
    let now := logs.map fun x => (x.1, before x.1 + (x.2.takeWhile fun e => !e.fromHost).length)
    let rest := logs.map fun x => (x.1, x.2.dropWhile fun e => !e.fromHost)
    match (rest.filterMap fun x => x.2.head?).head? with
    | none => launches
    | some e =>
      let rest := rest.map fun x => (x.1, x.2.drop 1)
      launches ++ replayHost now rest e ++ replayLog fuel (now.map fun x => (x.1, x.2 + 1)) rest

/-- REPLAY: the recorded memory image is restored, and the log, with what firmware has drained from it, is delivered in order (R351):
`State.replay` holds what is still to be delivered. -/
def execReplay (s : State) : Host.Outcome State Fault Refusal :=
  .next <|
    match s.image with
    | none => s
    | some (mem, poison, tags) =>
      let logs := (s.dies.filter (·.inService)).map fun d => (d.idx, d.drained ++ d.log)
      let n := logs.foldl (fun n x => n + x.2.length) 1
      { s.moduleReset with
        mem := mem
        poison := poison
        tags := tags
        image := some (mem, poison, tags)
        replay := replayLog n [] logs }

/-! ## Encodings that are no instruction (R76..R78) -/

/-- The major of SYS (R77). -/
def sysMajor : Nat := 0x3F

/-- RESERVED_OR_ILLEGAL_ENCODING (R76..R78). -/
def execReservedOrIllegalEncoding (w : Word) : State → Host.Outcome State Fault Refusal :=
  illegalEncoding (field w.toNat 1 6 == sysMajor)

end Sys2Proof.Machine
end

