-- ==== Sys2Proof/Machine/Predicate.lean ====
section
/-!
DEFINITION. Comparisons (spec 07 R114), the 16-bit CMP.LT (03 R51), and the predicate stack (07 R115).
-/
namespace Sys2Proof.Machine

open Sys2Proof

/-! ## Comparisons -/

/-- CMP.LT d, a in 16 bits: push (d < a), signed (R51). -/
def execCmpLt16 (f : H) : State → Host.Outcome State Fault Refusal :=
  runForm { len := 2, sc := f.sc, reads := [f.d.wide, f.a.wide], preds := true } fun c o s =>
    pushDone c s (condHolds .lt (o 0) (o 1))

/-- CMP: push the condition on a and b (R114). -/
def execCmp (f : CmpF) : State → Host.Outcome State Fault Refusal :=
  runForm { g := f.g, sc := f.sc, reads := [f.a, f.b], preds := true } fun c o s =>
    pushDone c s (condHolds f.c (o 0) (o 1))

/-- CMPI: push the condition on a and sext(imm9) (R114). -/
def execCmpi (f : CmpIF) : State → Host.Outcome State Fault Refusal :=
  runForm { g := f.g, sc := f.sc, reads := [f.a], preds := true } fun c o s =>
    pushDone c s (condHolds f.c (o 0) (f.imm.signExtend 32))

/-! ## PRD -/

/-- A change of the predicate stack alone. -/
def predOp (f : GF) (op : Thread → Thread) : State → Host.Outcome State Fault Refusal :=
  runForm { g := f.g, sc := f.sc, preds := true } fun c _ s => .done (c.on s op)

/-- Pop two entries and push their combination (R115). -/
def Thread.combine (t : Thread) (op : Bool → Bool → Bool) : Thread := t.pop.pop.push (op (t.p 0) (t.p 1))

/-- PPOP (R115). -/
def execPpop (f : GF) : State → Host.Outcome State Fault Refusal := predOp f Thread.pop

/-- PDUP (R115). -/
def execPdup (f : GF) : State → Host.Outcome State Fault Refusal := predOp f fun t => t.push (t.p 0)

/-- PSWAP (R115). -/
def execPswap (f : GF) : State → Host.Outcome State Fault Refusal :=
  predOp f fun t => (t.pop.pop.push (t.p 0)).push (t.p 1)

/-- PNOT (R115). -/
def execPnot (f : GF) : State → Host.Outcome State Fault Refusal := predOp f fun t => t.pop.push (!t.p 0)

/-- PAND (R115). -/
def execPand (f : GF) : State → Host.Outcome State Fault Refusal := predOp f fun t => t.combine (· && ·)

/-- POR (R115). -/
def execPor (f : GF) : State → Host.Outcome State Fault Refusal := predOp f fun t => t.combine (· || ·)

/-- PXOR (R115). -/
def execPxor (f : GF) : State → Host.Outcome State Fault Refusal := predOp f fun t => t.combine xor

/-- PROT: every entry moves down one, p0 to p7 (R115). -/
def execProt (f : GF) : State → Host.Outcome State Fault Refusal :=
  predOp f fun t => { t with preds := t.preds.rotateRight 1 }

/-- PSAVE: p(i) in bit i (R115). -/
def execPsave (f : DTF) : State → Host.Outcome State Fault Refusal :=
  runForm { g := f.g, sc := f.sc, names := [f.d], preds := true } fun c _ s =>
    writeFixed c s [(f.d, c.t.preds.setWidth 32)] intLatency f.t

/-- PLOAD: p(i) := a[i] (R115). -/
def execPload (f : AF) : State → Host.Outcome State Fault Refusal :=
  runForm { g := f.g, sc := f.sc, reads := [f.a], preds := true } fun c o s =>
    .done (c.on s fun t => { t with preds := (o 0).setWidth 8 })

/-- PSET: push (a ≠ 0) (R115). -/
def execPset (f : AF) : State → Host.Outcome State Fault Refusal :=
  runForm { g := f.g, sc := f.sc, reads := [f.a], preds := true } fun c o s => pushDone c s (o 0 != 0)

/-- PGET: d := 1 if p0, else 0 (R115). -/
def execPget (f : DTF) : State → Host.Outcome State Fault Refusal :=
  runForm { g := f.g, sc := f.sc, names := [f.d], preds := true } fun c _ s =>
    writeFixed c s [(f.d, if c.t.p 0 then 1 else 0)] intLatency f.t

end Sys2Proof.Machine
end

