-- ==== Sys2Proof/Machine/Dispatch.lean ====
section
/-! DEFINITION. The meaning of every instruction and event, one direct call for each row of the opcode table. -/
namespace Sys2Proof.Machine
open Sys2Proof

/-- Execute an instruction of the thread `State.cur`, or take an event. -/
def exec (i : Instr) (s : State) : Host.Outcome State Fault Refusal :=
  match i with
  | .mov16 f => Sys2Proof.Machine.execMov16 f s
  | .add16 f => Sys2Proof.Machine.execAdd16 f s
  | .sub16 f => Sys2Proof.Machine.execSub16 f s
  | .and16 f => Sys2Proof.Machine.execAnd16 f s
  | .or16 f => Sys2Proof.Machine.execOr16 f s
  | .xor16 f => Sys2Proof.Machine.execXor16 f s
  | .shl16 f => Sys2Proof.Machine.execShl16 f s
  | .shr16 f => Sys2Proof.Machine.execShr16 f s
  | .addi16 f => Sys2Proof.Machine.execAddi16 f s
  | .fadd16 f => Sys2Proof.Machine.execFadd16 f s
  | .fsub16 f => Sys2Proof.Machine.execFsub16 f s
  | .fmul16 f => Sys2Proof.Machine.execFmul16 f s
  | .fmax16 f => Sys2Proof.Machine.execFmax16 f s
  | .fmin16 f => Sys2Proof.Machine.execFmin16 f s
  | .cmpLt16 f => Sys2Proof.Machine.execCmpLt16 f s
  | .fcmpLt16 f => Sys2Proof.Machine.execFcmpLt16 f s
  | .add f => Sys2Proof.Machine.execAdd f s
  | .sub f => Sys2Proof.Machine.execSub f s
  | .mul f => Sys2Proof.Machine.execMul f s
  | .mulh f => Sys2Proof.Machine.execMulh f s
  | .mulhN f => Sys2Proof.Machine.execMulhN f s
  | .and f => Sys2Proof.Machine.execAnd f s
  | .or f => Sys2Proof.Machine.execOr f s
  | .xor f => Sys2Proof.Machine.execXor f s
  | .andn f => Sys2Proof.Machine.execAndn f s
  | .shl f => Sys2Proof.Machine.execShl f s
  | .shr f => Sys2Proof.Machine.execShr f s
  | .shrA f => Sys2Proof.Machine.execShrA f s
  | .rot f => Sys2Proof.Machine.execRot f s
  | .rotR f => Sys2Proof.Machine.execRotR f s
  | .min f => Sys2Proof.Machine.execMin f s
  | .minN f => Sys2Proof.Machine.execMinN f s
  | .max f => Sys2Proof.Machine.execMax f s
  | .maxN f => Sys2Proof.Machine.execMaxN f s
  | .add64 f => Sys2Proof.Machine.execAdd64 f s
  | .sub64 f => Sys2Proof.Machine.execSub64 f s
  | .mov f => Sys2Proof.Machine.execMov f s
  | .not f => Sys2Proof.Machine.execNot f s
  | .neg f => Sys2Proof.Machine.execNeg f s
  | .abs f => Sys2Proof.Machine.execAbs f s
  | .clz f => Sys2Proof.Machine.execClz f s
  | .popc f => Sys2Proof.Machine.execPopc f s
  | .brev f => Sys2Proof.Machine.execBrev f s
  | .bswap f => Sys2Proof.Machine.execBswap f s
  | .sxb f => Sys2Proof.Machine.execSxb f s
  | .sxh f => Sys2Proof.Machine.execSxh f s
  | .zxb f => Sys2Proof.Machine.execZxb f s
  | .zxh f => Sys2Proof.Machine.execZxh f s
  | .mov64 f => Sys2Proof.Machine.execMov64 f s
  | .sel f => Sys2Proof.Machine.execSel f s
  | .addi f => Sys2Proof.Machine.execAddi f s
  | .andi f => Sys2Proof.Machine.execAndi f s
  | .ori f => Sys2Proof.Machine.execOri f s
  | .xori f => Sys2Proof.Machine.execXori f s
  | .shli f => Sys2Proof.Machine.execShli f s
  | .shri f => Sys2Proof.Machine.execShri f s
  | .shriA f => Sys2Proof.Machine.execShriA f s
  | .lil f => Sys2Proof.Machine.execLil f s
  | .lih f => Sys2Proof.Machine.execLih f s
  | .cmp f => Sys2Proof.Machine.execCmp f s
  | .cmpi f => Sys2Proof.Machine.execCmpi f s
  | .fcmp f => Sys2Proof.Machine.execFcmp f s
  | .fcmpD f => Sys2Proof.Machine.execFcmpD f s
  | .ppop f => Sys2Proof.Machine.execPpop f s
  | .pdup f => Sys2Proof.Machine.execPdup f s
  | .pswap f => Sys2Proof.Machine.execPswap f s
  | .pnot f => Sys2Proof.Machine.execPnot f s
  | .pand f => Sys2Proof.Machine.execPand f s
  | .por f => Sys2Proof.Machine.execPor f s
  | .pxor f => Sys2Proof.Machine.execPxor f s
  | .prot f => Sys2Proof.Machine.execProt f s
  | .psave f => Sys2Proof.Machine.execPsave f s
  | .pload f => Sys2Proof.Machine.execPload f s
  | .pset f => Sys2Proof.Machine.execPset f s
  | .pget f => Sys2Proof.Machine.execPget f s
  | .br f => Sys2Proof.Machine.execBr f s
  | .call f => Sys2Proof.Machine.execCall f s
  | .jr f => Sys2Proof.Machine.execJr f s
  | .callr f => Sys2Proof.Machine.execCallr f s
  | .ret f => Sys2Proof.Machine.execRet f s
  | .nop f => Sys2Proof.Machine.execNop f s
  | .dly f => Sys2Proof.Machine.execDly f s
  | .exit f => Sys2Proof.Machine.execExit f s
  | .safe f => Sys2Proof.Machine.execSafe f s
  | .trap f => Sys2Proof.Machine.execTrap f s
  | .syscall f => Sys2Proof.Machine.execSyscall f s
  | .bkpt f => Sys2Proof.Machine.execBkpt f s
  | .srd f => Sys2Proof.Machine.execSrd f s
  | .swr f => Sys2Proof.Machine.execSwr f s
  | .xacq f => Sys2Proof.Machine.execXacq f s
  | .xrel f => Sys2Proof.Machine.execXrel f s
  | .yield f => Sys2Proof.Machine.execYield f s
  | .spawn f => Sys2Proof.Machine.execSpawn f s
  | .gbar f => Sys2Proof.Machine.execGbar f s
  | .eret f => Sys2Proof.Machine.execEret f s
  | .hrd f => Sys2Proof.Machine.execHrd f s
  | .hwr f => Sys2Proof.Machine.execHwr f s
  | .fadd f => Sys2Proof.Machine.execFadd f s
  | .fsub f => Sys2Proof.Machine.execFsub f s
  | .fmul f => Sys2Proof.Machine.execFmul f s
  | .ffma f => Sys2Proof.Machine.execFfma f s
  | .fmin f => Sys2Proof.Machine.execFmin f s
  | .fminD f => Sys2Proof.Machine.execFminD f s
  | .fmax f => Sys2Proof.Machine.execFmax f s
  | .fmaxD f => Sys2Proof.Machine.execFmaxD f s
  | .fneg f => Sys2Proof.Machine.execFneg f s
  | .fabs f => Sys2Proof.Machine.execFabs f s
  | .fsqrt f => Sys2Proof.Machine.execFsqrt f s
  | .frcp f => Sys2Proof.Machine.execFrcp f s
  | .frsq f => Sys2Proof.Machine.execFrsq f s
  | .fex2 f => Sys2Proof.Machine.execFex2 f s
  | .flg2 f => Sys2Proof.Machine.execFlg2 f s
  | .ffloor f => Sys2Proof.Machine.execFfloor f s
  | .fceil f => Sys2Proof.Machine.execFceil f s
  | .ftrunc f => Sys2Proof.Machine.execFtrunc f s
  | .frint f => Sys2Proof.Machine.execFrint f s
  | .fclass f => Sys2Proof.Machine.execFclass f s
  | .fsat f => Sys2Proof.Machine.execFsat f s
  | .cvt f => Sys2Proof.Machine.execCvt f s
  | .dadd f => Sys2Proof.Machine.execDadd f s
  | .dsub f => Sys2Proof.Machine.execDsub f s
  | .dmul f => Sys2Proof.Machine.execDmul f s
  | .dfma f => Sys2Proof.Machine.execDfma f s
  | .dneg f => Sys2Proof.Machine.execDneg f s
  | .dabs f => Sys2Proof.Machine.execDabs f s
  | .dsqrt f => Sys2Proof.Machine.execDsqrt f s
  | .drcp f => Sys2Proof.Machine.execDrcp f s
  | .dfloor f => Sys2Proof.Machine.execDfloor f s
  | .dceil f => Sys2Proof.Machine.execDceil f s
  | .dtrunc f => Sys2Proof.Machine.execDtrunc f s
  | .drint f => Sys2Proof.Machine.execDrint f s
  | .dclass f => Sys2Proof.Machine.execDclass f s
  | .dmov f => Sys2Proof.Machine.execDmov f s
  | .hadd2 f => Sys2Proof.Machine.execHadd2 f s
  | .hadd2Bf f => Sys2Proof.Machine.execHadd2Bf f s
  | .hmul2 f => Sys2Proof.Machine.execHmul2 f s
  | .hmul2Bf f => Sys2Proof.Machine.execHmul2Bf f s
  | .hfma2 f => Sys2Proof.Machine.execHfma2 f s
  | .hfma2Bf f => Sys2Proof.Machine.execHfma2Bf f s
  | .dp4 f => Sys2Proof.Machine.execDp4 f s
  | .dp4E4 f => Sys2Proof.Machine.execDp4E4 f s
  | .ld f => Sys2Proof.Machine.execLd f s
  | .st f => Sys2Proof.Machine.execSt f s
  | .ldnf f => Sys2Proof.Machine.execLdnf f s
  | .atom f => Sys2Proof.Machine.execAtom f s
  | .red f => Sys2Proof.Machine.execRed f s
  | .fence f => Sys2Proof.Machine.execFence f s
  | .afence f => Sys2Proof.Machine.execAfence f s
  | .bfence f => Sys2Proof.Machine.execBfence f s
  | .waitc f => Sys2Proof.Machine.execWaitc f s
  | .stn f => Sys2Proof.Machine.execStn f s
  | .ldn f => Sys2Proof.Machine.execLdn f s
  | .pref f => Sys2Proof.Machine.execPref f s
  | .cpy f => Sys2Proof.Machine.execCpy f s
  | .cpystat f => Sys2Proof.Machine.execCpystat f s
  | .rclaim f => Sys2Proof.Machine.execRclaim f s
  | .rcommit f => Sys2Proof.Machine.execRcommit f s
  | .rawait f => Sys2Proof.Machine.execRawait f s
  | .rretire f => Sys2Proof.Machine.execRretire f s
  | .rclaimnf f => Sys2Proof.Machine.execRclaimnf f s
  | .rawaitnf f => Sys2Proof.Machine.execRawaitnf f s
  | .mma f => Sys2Proof.Machine.execMma f s
  | .sclaim f => Sys2Proof.Machine.execSclaim f s
  | .srel f => Sys2Proof.Machine.execSrel f s
  | .aclaim f => Sys2Proof.Machine.execAclaim f s
  | .arel f => Sys2Proof.Machine.execArel f s
  | .azero f => Sys2Proof.Machine.execAzero f s
  | .bmvGq4 f => Sys2Proof.Machine.execBmvGq4 f s
  | .bmvE4m3 f => Sys2Proof.Machine.execBmvE4m3 f s
  | .bmvBf16 f => Sys2Proof.Machine.execBmvBf16 f s
  | .palloc f => Sys2Proof.Machine.execPalloc f s
  | .pfree f => Sys2Proof.Machine.execPfree f s
  | .send f => Sys2Proof.Machine.execSend f s
  | .sendnf f => Sys2Proof.Machine.execSendnf f s
  | .padd f => Sys2Proof.Machine.execPadd f s
  | .recv f => Sys2Proof.Machine.execRecv f s
  | .recvnf f => Sys2Proof.Machine.execRecvnf f s
  | .patdef f => Sys2Proof.Machine.execPatdef f s
  | .patdel f => Sys2Proof.Machine.execPatdel f s
  | .patarm f => Sys2Proof.Machine.execPatarm f s
  | .pinfo f => Sys2Proof.Machine.execPinfo f s
  | .claimR f => Sys2Proof.Machine.execClaimR f s
  | .claimW f => Sys2Proof.Machine.execClaimW f s
  | .admitItem f => Sys2Proof.Machine.execAdmit f s
  | .rsvinfo f => Sys2Proof.Machine.execRsvinfo f s
  | .shflIdx f => Sys2Proof.Machine.execShflIdx f s
  | .shflXor f => Sys2Proof.Machine.execShflXor f s
  | .shflUp f => Sys2Proof.Machine.execShflUp f s
  | .shflDown f => Sys2Proof.Machine.execShflDown f s
  | .voteAll f => Sys2Proof.Machine.execVoteAll f s
  | .voteAny f => Sys2Proof.Machine.execVoteAny f s
  | .ballot f => Sys2Proof.Machine.execBallot f s
  | .radd f => Sys2Proof.Machine.execRadd f s
  | .rfadd f => Sys2Proof.Machine.execRfadd f s
  | .rmin f => Sys2Proof.Machine.execRmin f s
  | .rmax f => Sys2Proof.Machine.execRmax f s
  | .scan f => Sys2Proof.Machine.execScan f s
  | .elect f => Sys2Proof.Machine.execElect f s
  | .gsync f => Sys2Proof.Machine.execGsync f s
  | .cbar f => Sys2Proof.Machine.execCbar f s
  | .fitx f => Sys2Proof.Machine.execFitx f s
  | .fitgen f => Sys2Proof.Machine.execFitgen f s
  | .refit f => Sys2Proof.Machine.execRefit f s
  | .fitstat f => Sys2Proof.Machine.execFitstat f s
  | .fitmake f => Sys2Proof.Machine.execFitmake f s
  | .fitdrop f => Sys2Proof.Machine.execFitdrop f s
  | .tlbinv f => Sys2Proof.Machine.execTlbinv f s
  | .fqpop f => Sys2Proof.Machine.execFqpop f s
  | .layout f => Sys2Proof.Machine.execLayout f s
  | .nodekill f => Sys2Proof.Machine.execNodekill f s
  | .preempt f => Sys2Proof.Machine.execPreempt f s
  | .srdp f => Sys2Proof.Machine.execSrdp f s
  | .swrp f => Sys2Proof.Machine.execSwrp f s
  | .launchMessage die lo hi => Sys2Proof.Machine.execLaunchMessage die lo hi s
  | .nodeAdmission die dies => Sys2Proof.Machine.execNodeAdmission die dies s
  | .stepBoundary launch dies => Sys2Proof.Machine.execStepBoundary launch dies s
  | .nodeCompletion launch => Sys2Proof.Machine.execNodeCompletion launch s
  | .waveDispatch cl ps => Sys2Proof.Machine.execWaveDispatch cl ps s
  | .footprintRelease wave => Sys2Proof.Machine.execFootprintRelease wave s
  | .loadDataReturn t n => Sys2Proof.Machine.execLoadDataReturn t n s
  | .preemptionRequest wave => Sys2Proof.Machine.execPreemptionRequest wave s
  | .waveLeavesCore wave => Sys2Proof.Machine.execWaveLeavesCore wave s
  | .waveRestore cl ps => Sys2Proof.Machine.execWaveRestore cl ps s
  | .extendedBlockGrant c => Sys2Proof.Machine.execExtendedBlockGrant c s
  | .matrixOpStart c => Sys2Proof.Machine.execMatrixOpStart c s
  | .matrixOpCompletion c => Sys2Proof.Machine.execMatrixOpCompletion c s
  | .copyChunkStart c elements => Sys2Proof.Machine.execCopyChunkStart c elements s
  | .copyCompletion c op => Sys2Proof.Machine.execCopyCompletion c op s
  | .reductionApply op elements => Sys2Proof.Machine.execReductionApply op elements s
  | .bankRowCompute op row => Sys2Proof.Machine.execBankRowCompute op row s
  | .bmvCompletion c op => Sys2Proof.Machine.execBmvCompletion c op s
  | .faultRecordPost die => Sys2Proof.Machine.execFaultRecordPost die s
  | .refitStart region => Sys2Proof.Machine.execRefitStart region s
  | .refitSwap region params extra => Sys2Proof.Machine.execRefitSwap region params extra s
  | .patternFiring die => Sys2Proof.Machine.execPatternFiring die s
  | .itemAdmission launch item => Sys2Proof.Machine.execItemAdmission launch item s
  | .itemFinish launch item => Sys2Proof.Machine.execItemFinish launch item s
  | .moduleReset => Sys2Proof.Machine.execModuleReset s
  | .hostDoorbellStore offset data => Sys2Proof.Machine.execHostDoorbellStore offset data s
  | .hostMemAccess a => Sys2Proof.Machine.execHostMemAccess a s
  | .reservedOrIllegalEncoding w => Sys2Proof.Machine.execReservedOrIllegalEncoding w s
  | .storeTakesEffect t => Sys2Proof.Machine.execStoreTakesEffect t s
  | .fresRetry die => Sys2Proof.Machine.execFresRetry die s
  | .fresFatal die => Sys2Proof.Machine.execFresFatal die s
  | .streamExpectedUpdate stream => Sys2Proof.Machine.execStreamExpectedUpdate stream s
  | .heldDeliveryRetry die n => Sys2Proof.Machine.execHeldDeliveryRetry die n s
  | .stealAttempt cl => Sys2Proof.Machine.execStealAttempt cl s
  | .stealAcknowledge cl => Sys2Proof.Machine.execStealAcknowledge cl s
  | .cooperativePlacement launch ps => Sys2Proof.Machine.execCooperativePlacement launch ps s
  | .hardPreemptCycleLimit wave => Sys2Proof.Machine.execHardPreemptCycleLimit wave s
  | .hardPreemptInstrLimit wave => Sys2Proof.Machine.execHardPreemptInstrLimit wave s
  | .slotClaimGrant wave tile => Sys2Proof.Machine.execSlotClaimGrant wave tile s
  | .slotReleaseComplete wave tile n => Sys2Proof.Machine.execSlotReleaseComplete wave tile n s
  | .refitAbandon region => Sys2Proof.Machine.execRefitAbandon region s
  | .pageDemotion va tierId => Sys2Proof.Machine.execPageDemotion va tierId s
  | .pagePromotion va frame => Sys2Proof.Machine.execPagePromotion va frame s
  | .clusterReset cl => Sys2Proof.Machine.execClusterReset cl s
  | .unitOutOfService u => Sys2Proof.Machine.execUnitOutOfService u s
  | .eccError e => Sys2Proof.Machine.execEccError e s
  | .hostDoorbellRead offset bytes => Sys2Proof.Machine.execHostDoorbellRead offset bytes s
  | .flitRetry port => Sys2Proof.Machine.execFlitRetry port s
  | .powerAdjust cl gated => Sys2Proof.Machine.execPowerAdjust cl gated s
  | .replay => Sys2Proof.Machine.execReplay s
  | .fabricCannotReachModule module reachable => Sys2Proof.Machine.execFabricCannotReachModule module reachable s

end Sys2Proof.Machine
end

