-- ==== Sys2Proof/Machine/Fetch.lean ====
section
/-!
DEFINITION. Fetching an instruction (spec 23 R329; 07 R118; 03 R49) and running the thread `State.cur` for one instruction.
-/
namespace Sys2Proof.Machine

open Sys2Proof

/-- What fetching comes to: something, a trap at an address, or a wait for a translation (R330). -/
inductive Fetched (α : Type) where
  | ok (x : α)
  | trap (c : Cause) (va : Nat)
  | wait (va : Nat)

/-- The address of an offset in the thread's code window (R15). -/
def Ctx.codeAddress (c : Ctx) (off : Word) : Nat := (Word.pair off (Word.hi c.l.nd.entry)).toNat

/-- Where a halfword is fetched from: R189 checks 1 and 3 to 5 with execute permission (R329). -/
def State.fetchPlace (s : State) (c : Ctx) (va : Nat) : Fetched (Nat × Bool) :=
  if 2 ^ 57 < va + 2 then .trap .xlate va
  else if onChip va then
    let (core, part, _) := windowOf va
    if part = .none || !s.coreInService core then .trap .xlate va else .trap .perm va
  else
    match s.translate false va with
    | none => .trap .xlate va
    | some l =>
      let pa := l.physical va
      if l.layout = 5 then .wait va
      else if (l.system && !c.l.system) || !l.execute then .trap .perm va
      else if l.layout = 4 || (l.layout ≠ 0 && s.tagOf pa ≠ l.layout) then .trap .layout va
      else if s.poisoned (.phys pa) 2 then .trap .poison va
      else .ok (pa, l.layout != 0)

/-- A halfword at an offset, read as a load of the thread. -/
def State.fetchHalf (s : State) (c : Ctx) (off : Word) : Fetched (State × List Byte) :=
  match s.fetchPlace c (c.codeAddress off) with
  | .ok (pa, view) => .ok (s.loadBytes c.t (.phys pa) view false 2)
  | .trap cause va => .trap cause va
  | .wait va => .wait va

/-- The instruction that bytes are; what is none is a reserved or illegal encoding (R76). -/
def instrOf (bs : List Byte) : Instr :=
  match decode bs with
  | .ok (i, _) => i
  | .error _ => .reservedOrIllegalEncoding (BitVec.ofNat 32 (leNat bs))

/-- The instruction at the thread's PC; bit 0 of its first halfword tells its length (R49). -/
def State.fetch (s : State) (c : Ctx) : Fetched (State × Instr) :=
  match s.fetchHalf c c.t.pc with
  | .trap cause va => .trap cause va
  | .wait va => .wait va
  | .ok (s, lo) =>
    if leNat lo % 2 = 0 then .ok (s, instrOf lo)
    else
      match s.fetchHalf c (c.t.pc + 2) with
      | .trap cause va => .trap cause va
      | .wait va => .wait va
      | .ok (s, hi) => .ok (s, instrOf (lo ++ hi))

/-- The thread `State.cur` fetches its next instruction and executes it. A fetch that faults is a trap of the instruction at
the PC (R118). -/
def threadStep (s : State) : Host.Outcome State Fault Refusal :=
  match s.ctx s.cur with
  | none => .fault .noThread
  | some c =>
    if c.t.completing then .next (s.mapThread s.cur fun t => t.stalled .interlock s.now)
    else
      match s.fetch c with
      | .trap cause va => .next (s.trap c cause (BitVec.ofNat 64 va))
      | .wait va => .next (s.mapThread s.cur fun t => t.stalled (.retranslate (BitVec.ofNat 64 va)) s.now)
      | .ok (s, i) => exec i s

end Sys2Proof.Machine
end

