-- ==== Sys2Proof/Machine/Run.lean ====
section
/-!
DEFINITION. What moves next (spec 01 R26..R28, R361; 13 R190, R202, R203; 23 R328): packets and their passes, waiting instructions, the
passing of a cycle, cached translations, the spreading of writes, the schedule and what happens without one (log 6).
-/
namespace Sys2Proof.Machine

open Sys2Proof

/-! ## Packets (R26, R27, R361) -/

/-- A wait that ends when the thread tests its instruction again. -/
def Wait.polled : Wait → Bool
  | .poll | .recv _ | .copy _ _ | .half _ | .lanes _ | .retry => true
  | _ => false

/-- A wait that the test of a condition has not ended. -/
def Wait.same : Wait → Bool
  | .poll | .recv _ | .copy _ _ => true
  | _ => false

/-- A wait for a translation to change (R330). -/
def Wait.translation : Wait → Bool
  | .retranslate _ => true
  | _ => false

/-- The wait in which a thread would stand if it executed its next instruction now. -/
def State.tried (s : State) (id : ThreadId) : Wait :=
  match threadStep { s with cur := id } with
  | .next s' => ((s'.thread? id).map (·.wait)).getD .none
  | _ => .none

/-- A thread on its core whose stall count has elapsed and whose wave is not to be pre-empted at once (R26, R46). -/
def State.onCore (s : State) (t : Thread) : Bool :=
  decide (t.status = .running) && decide (t.readyAt ≤ s.now) &&
    (s.wave? t.id.wave).any fun w => decide (w.status = .resident) && !s.overdue w

/-- A thread that stands in front of an instruction which it has not issued. -/
def Thread.fresh (t : Thread) : Bool := t.wait == .none || t.wait == .interlock

/-- A ready thread: it does not wait in an instruction, and no interlock holds its next one (R26). -/
def State.canIssue (s : State) (t : Thread) : Bool := s.onCore t && t.fresh && s.tried t.id != .interlock

/-- A ready thread with its wave. -/
structure Ready where
  t : Thread
  w : Wave
  deriving DecidableEq, Repr

/-- Waiting longer; a tie goes to the lower wave place, then to the lower thread index (R27). -/
def Ready.before (x y : Ready) : Bool :=
  decide (x.t.lastIssue < y.t.lastIssue) || (x.t.lastIssue == y.t.lastIssue &&
    (decide (x.w.place < y.w.place) || (x.w.place == y.w.place && decide (x.t.id.idx < y.t.id.idx))))

/-- Packet order: by wave index in the step, then by thread index (R361). -/
def Ready.lower (x y : Ready) : Bool :=
  decide (x.w.index < y.w.index) || (x.w.index == y.w.index && decide (x.t.id.idx < y.t.id.idx))

/-- Insert in an order. -/
def insertBy (lt : Ready → Ready → Bool) (x : Ready) : List Ready → List Ready
  | [] => [x]
  | y :: ys => if lt x y then x :: y :: ys else y :: insertBy lt x ys

/-- Sort by an order. -/
def sortBy (lt : Ready → Ready → Bool) (xs : List Ready) : List Ready := xs.foldl (fun ys x => insertBy lt x ys) []

/-- The ready threads of a core, longest waiting first. -/
def State.readyOn (s : State) (c : CoreId) : List Ready :=
  sortBy Ready.before <|
    (s.threads.filter fun t => s.coreOf t.id == c && s.canIssue t).filterMap fun t =>
      (s.wave? t.id.wave).map fun w => ⟨t, w⟩

/-- The group of a ready thread. -/
def Ready.group (x : Ready) : Nat × Nat := (x.w.uid, x.w.groupOf x.t.id.idx)

/-- Names in the order of their first appearance. -/
def firsts : List (Nat × Nat) → List (Nat × Nat)
  | [] => []
  | x :: xs => x :: (firsts xs).filter (· != x)

/-- Packet size (R27). -/
def packetRoom : Nat := 64

/-- Add whole groups to a packet that has its leader (R27 step 3). -/
def State.addGroups (s : State) (same : List Ready) : List (Nat × Nat) → List Ready → List Ready
  | [], packet => packet
  | g :: gs, packet =>
    let mine := same.filter fun x => x.group == g
    let whole := (mine.headD ⟨Thread.start bootNode 0 0 0 0, firmwareWave bootImage 0⟩).w
    let extra := mine.filter fun x => !packet.contains x
    if mine.length = (s.liveOfGroup whole g.2).length && decide (packet.length + extra.length ≤ packetRoom) then
      s.addGroups same gs (packet ++ extra)
    else s.addGroups same gs packet

/-- One slot's packet from the ready threads not yet chosen (R27). -/
def State.packet (s : State) (ready : List Ready) : List Ready :=
  match ready with
  | [] => []
  | leader :: _ =>
    let same := ready.filter fun x => x.w.launch == leader.w.launch && x.t.pc == leader.t.pc
    let p := s.addGroups same (firsts (same.map Ready.group)) [leader]
    p ++ (same.filter fun x => !p.contains x).take (packetRoom - p.length)

/-- The packets of some slots in turn (R27). -/
def State.packets_ (s : State) : Nat → List Ready → List (List Ready)
  | 0, _ => []
  | n + 1, ready =>
    let p := s.packet ready
    if p.isEmpty then [] else p :: s.packets_ n (ready.filter fun x => !p.contains x)

/-- A packet of some members under the next number. -/
def State.addPacket (s : State) (members : List ThreadId) (started : Bool) : State :=
  { s with packets := s.packets ++ [⟨s.stamp, members, started, none⟩], stamp := s.stamp + 1 }

/-- The four issue slots of a core choose their packets for a cycle, once in a cycle; members run in packet order (R27, R361). -/
def State.issueCore (s : State) (c : CoreId) : State :=
  if (s.core? c).all fun x => x.issuedAt == some s.now then s
  else
    ((s.packets_ 4 (s.readyOn c)).map fun p => (sortBy Ready.lower p).map (·.t.id)).foldl (fun s ids => s.addPacket ids false)
      (s.mapCore c fun x => { x with issuedAt := some s.now })

/-! ## The lanes of a packet together (R190) -/

/-- The lanes whose access waits with a thread's: those of its packet, in packet order, that still stand at its instruction. -/
def State.gang (s : State) (t : Thread) : List Thread :=
  let of_ (u : Thread) : Option (List ThreadId) :=
    match u.wait with
    | .lanes ids => if ids.contains t.id then some ids else none
    | _ => none
  match s.threads.findSome? of_ with
  | some ids => (ids.filterMap s.thread?).filter fun u => u.pc == t.pc && decide (u.status = .running) && u.wait != .none
  | none => [t]

/-- A thread that waits in an instruction may test it again: of lanes that wait together none waits for a translation or for a
condition that is not met, and the test of a condition ends the wait. -/
def State.canResume (s : State) (t : Thread) : Bool :=
  s.onCore t && t.wait.polled &&
    match t.wait with
    | .lanes _ | .retry => (s.gang t).all fun u => !u.wait.translation && (!u.wait.same || !(s.tried u.id).same)
    | .half _ => true
    | _ => !(s.tried t.id).same

/-- A thread tests its waiting instruction again, with the lanes that wait with it. -/
def State.resume (s : State) (id : ThreadId) : State :=
  match s.thread? id with
  | none => s
  | some t => if s.canResume t then s.addPacket ((s.gang t).map (·.id)) false else s

/-- A packet begins: where some lane's access waits for a translation, no lane's access is accepted; the others wait for it (R190). -/
def State.begin (s : State) (p : Packet) (more : List Packet) : State :=
  let held := p.members.filter fun id => (s.tried id).translation
  let able (t : Thread) : Bool := p.members.contains t.id && !held.contains t.id && s.onCore t
  if held.isEmpty then { s with packets := { p with started := true } :: more }
  else
    { s with packets := { p with started := true, members := held } :: more }.mapThreads able fun t =>
      t.stalled (.lanes p.members) s.now

/-! ## Lanes that act one at a time (R211, R219, R229, R243, R256, R268, R313, R333, R361) -/

/-- The low seven bits of the instructions whose lanes act one at a time in increasing lane order: CPY, RING, MMA, TILE, BMV, PORT, FIT
and SYS. -/
def laneMajors : List Nat := [0x6D, 0x6F, 0x71, 0x73, 0x75, 0x77, 0x7D, 0x7F]

/-- An instruction whose lanes act one at a time in increasing lane order. -/
def Instr.oneLaneAtATime (i : Instr) : Bool := (encode i).any fun w => laneMajors.contains ((w.bytes.headD 0).toNat % 128)

/-- The member of a packet that ran last waits for a condition of an instruction whose lanes act one at a time, at which the next
member stands. One that waits in SCLAIM, ACLAIM, SREL or AREL has acted, its claim or release being entered, and holds back no
other: DESIGN CHOICE (log 82). -/
def State.heldBack (s : State) (p : Packet) (id : ThreadId) : Bool :=
  (p.last.bind s.thread?).any fun u => u.wait.same && decide (u.status = .running) &&
    (s.ctx id).any fun c => c.t.pc == u.pc &&
      match s.fetch c with
      | .ok (_, i) => Instr.oneLaneAtATime i
      | _ => false

/-- The members of a packet still to run wait behind the one that ran last; when its condition is met they act after it, in packet
order. Whether they may act while it waits the manual does not say: DESIGN CHOICE (log 82). -/
def State.holdBack (s : State) (p : Packet) (more : List Packet) : State :=
  let able (t : Thread) : Bool := p.members.contains t.id && s.onCore t
  { s with packets := { p with members := [] } :: more }.mapThreads able fun t =>
    t.stalled (.lanes (p.last.toList ++ p.members)) s.now

/-! ## Passes (R202, R203) -/

/-- The words a pass takes: a lane joins when each of its banks is free or has its word, an atomic only when no lane names
its word. The lanes left for later passes. -/
def onePass : List Nat → List PassEntry → List PassEntry
  | _, [] => []
  | chosen, l :: ls =>
    if (l.words.all fun w => chosen.all fun x => x % 64 != w % 64 || x == w) &&
        (!l.atomic || l.words.all fun w => !chosen.contains w) then onePass (l.words ++ chosen) ls
    else l :: onePass chosen ls

/-- The passes that some lanes need; fuel at least their number. -/
def countPasses : Nat → List PassEntry → Nat
  | 0, _ => 0
  | fuel + 1, ls => if ls.isEmpty then 0 else 1 + countPasses fuel (onePass [] ls)

/-- A packet has been served: passes less one count as conflicts of each core reached (R203). -/
def State.closePacket (s : State) : State :=
  let cores := (s.passes.map (·.core)).dedup
  let s' := cores.foldl (fun s' c =>
    let mine := s.passes.filter fun x => x.core == c
    s'.mapCore c fun y => { y with conflicts := y.conflicts + BitVec.ofNat 32 (countPasses mine.length mine - 1) }) s
  { s' with passes := [] }

/-! ## Cycles and cached translations -/

/-- A cycle passes: the clocks of the dies advance (R349). -/
def State.tick (s : State) : State :=
  { s with now := s.now + 1, dies := s.dies.map fun d => if d.inService then { d with clk := d.clk + 1 } else d }

/-- A walk's leaf enters the cache (R328). -/
def State.cacheLeaf (s : State) (va : Nat) : State :=
  match s.walkFrom va 4 s.ptroot.toNat with
  | some x => { s with tlb := s.tlb ++ [⟨va - va % (Leaf.ofEntry x).size, x⟩] }
  | none => s

/-! ## What moves next -/

/-- A step of a unit, as against an instruction of a thread. -/
def Instr.isEvent (i : Instr) : Bool :=
  match i with
  | .reservedOrIllegalEncoding _ => false
  | _ => (encode i).isNone

/-- From now on writes spread late: what the threads have stored takes effect before (log 12). -/
def State.relax (s : State) (on : Bool) : State :=
  if on then { s.threads.foldl (fun s t => s.drain t.id) s with relaxed := true } else { s with relaxed := false }

/-- A write is among those that some agent may not see yet. -/
def State.spreads (s : State) (event : Nat) : Bool := s.history.any fun e => e.event == event

/-- Firmware drains the oldest entries of a die's log, and keeps them (R351). -/
def State.drainLog (s : State) (die n : Nat) : State :=
  s.mapDie die fun d => { d with log := d.log.drop n, drained := d.drained ++ d.log.take n }

/-- The steps of a die's fault queue, ports and blocks that take no choice. -/
def Die.steps (d : Die) : List (State → Host.Outcome State Fault Refusal) :=
  [execFaultRecordPost d.idx, execFresRetry d.idx, execFresFatal d.idx] ++
    (List.range d.deliveries.length).map (execHeldDeliveryRetry d.idx) ++
    (if d.patterns.isEmpty then [] else [execPatternFiring d.idx]) ++
    (d.cores.filter fun c => !c.xacq.isEmpty).map fun c => execExtendedBlockGrant ⟨d.idx, c.idx⟩

/-- The steps of a wave that take no choice. -/
def Wave.steps (w : Wave) : List (State → Host.Outcome State Fault Refusal) :=
  [execHardPreemptCycleLimit w.uid, execHardPreemptInstrLimit w.uid, execWaveLeavesCore w.uid, execFootprintRelease w.uid,
      execSlotClaimGrant w.uid false, execSlotClaimGrant w.uid true] ++
    w.relSlots.map (execSlotReleaseComplete w.uid false) ++ w.relTiles.map (execSlotReleaseComplete w.uid true)

/-- The steps of a launch that take no choice. -/
def Launch.steps (l : Launch) : List (State → Host.Outcome State Fault Refusal) :=
  execNodeCompletion l.id :: l.items.flatMap fun x => [execItemAdmission l.id x.n, execItemFinish l.id x.n]

/-- The steps of a BMV: its first row that is neither done nor stalled, its completion. -/
def BmvOp.steps (b : BmvOp) : List (State → Host.Outcome State Fault Refusal) :=
  let row := (List.range b.m).find? fun r => !(b.done.contains r || b.stalled.any fun x => x.1 == r)
  (row.map (execBankRowCompute b.id)).toList ++ [execBmvCompletion b.core b.id]

/-- The steps of units that take no choice (log 6). -/
def State.unitSteps (s : State) : List (State → Host.Outcome State Fault Refusal) :=
  s.dies.flatMap Die.steps ++ s.waves.flatMap Wave.steps ++ s.launches.flatMap Launch.steps ++
  (s.matrixOps.flatMap fun o => [execMatrixOpStart o.core, execMatrixOpCompletion o.core]) ++
  (s.copies.flatMap fun x => [execCopyChunkStart x.core x.total, execReductionApply x.id x.total, execCopyCompletion x.core x.id]) ++
  (s.streams.map fun x => execStreamExpectedUpdate x.id) ++ s.bmvs.flatMap BmvOp.steps

/-- What the first of some steps that changes the state gives. -/
def State.firstStep (s : State) : List (State → Host.Outcome State Fault Refusal) → Option State
  | [] => none
  | f :: fs =>
    match f s with
    | .next s' => if s' = s then s.firstStep fs else some s'
    | _ => s.firstStep fs

/-! ## Replay (R351) -/

/-- Every log holds the entries that stood before a delivery in the recorded one: what the module's own threads and patterns launched
there is launched again by then. -/
def State.reached (s : State) (x : Redelivery) : Bool :=
  x.after.all fun y => (s.die? y.1).all fun d => decide (y.2 ≤ d.drained.length + d.log.length)

/-- Nothing more happens until something is delivered: no thread goes on, no launch and no wave waits for a place, no operation is
under way. -/
def State.quiet (s : State) : Bool :=
  (s.threads.all fun t => t.stores.isEmpty && t.loads.isEmpty &&
    (decide (t.status ≠ .running) || (!t.fresh && decide (t.readyAt ≤ s.now) && !s.canResume t))) &&
  (s.dies.all fun d => d.launchPort.isEmpty && d.clusters.all Cluster.idle) &&
  s.copies.isEmpty && s.bmvs.isEmpty && s.matrixOps.isEmpty

/-- A replayed delivery can be made: what stood before it in the logs has come, or nothing more will; a launch, by message or doorbell,
once its die's launch port takes it (R265). At which moment from then on a host's access comes the log does not say, and so the
schedule does: DESIGN CHOICE (log 46). -/
def State.deliverable (s : State) (x : Redelivery) : Bool :=
  (s.reached x || s.quiet) && x.room.all fun d => !s.dieInService d || (s.takesLaunches d && s.launchHasRoom d)

/-- The next delivery of a replay is made, if it can be. -/
def State.redeliver (s : State) : State :=
  match s.replay with
  | [] => s
  | x :: rest =>
    if !s.deliverable x then s
    else
      match exec x.instr s with
      | .next s' => { s' with replay := rest }
      | _ => { s with replay := rest }

/-- Without a schedule: a load's data arrives, else a store takes effect, else a unit takes a step, else a waiting thread goes on, else
a core with a ready thread issues, else, where nothing more happens, a replay delivers, else a cycle passes (log 6). -/
def State.idle (s : State) : State :=
  match s.threads.find? fun t => t.loads.any fun l => l.ticket.isNone with
  | some t => s.returnLoad t.id ((t.loads.findIdx? fun l => l.ticket.isNone).getD 0)
  | none =>
    match s.threads.find? fun t => !t.stores.isEmpty with
    | some t => s.storeEffect t.id
    | none =>
      match s.firstStep s.unitSteps with
      | some s' => s'
      | none =>
        match s.threads.find? s.canResume with
        | some t => s.resume t.id
        | none =>
          match s.threads.find? fun t => s.canIssue t && (s.core? (s.coreOf t.id)).any fun x => x.issuedAt != some s.now with
          | some t => s.issueCore (s.coreOf t.id)
          | none => if (s.replay.head?).any s.deliverable && s.quiet then s.redeliver else s.tick

/-- Take an action of the schedule. -/
def State.act (s : State) (a : Action) : Host.Outcome State Fault Refusal :=
  match a with
  | .event i => if Instr.isEvent i then exec i s else .next s
  | .issue c => .next (s.issueCore c)
  | .resume id => .next (s.resume id)
  | .tick => .next s.tick
  | .tlbFill va => .next (s.cacheLeaf va)
  | .relax on => .next (s.relax on)
  | .spread event => .next (s.spread event)
  | .see t event => .next (if s.spreads event then s.learn t (Know.ofSeen [event]) else s)
  | .glimpse t event on =>
    .next (s.mapThread t fun u => { u with sight := u.sight.glimpse event on })
  | .reland event => .next (s.reland event)
  | .outside o => .next (s.outsideActs o)
  | .drainLog die n => .next (s.drainLog die n)
  | .deliver => .next s.redeliver

/-- A member of a packet runs if it still can: a lane before it may have stopped it. Where the instruction of a lane before it was the M-th
of its thread since the request, the wave is to be pre-empted at once, and the lane does not execute any more: DESIGN CHOICE
(log 35). -/
def State.runMember (s : State) : Host.Outcome State Fault Refusal :=
  match s.thread? s.cur with
  | some t => if s.onCore t && (t.fresh || t.wait.polled) then threadStep s else .next s
  | none => .next s

/-- What happens next: the packet under way begins, its next member runs, or waits with the others behind one that waits, it closes;
else the next action of the schedule, or what happens without one. -/
def runStep (s : State) : Host.Outcome State Fault Refusal :=
  match s.packets with
  | p :: more =>
    match p.members with
    | id :: rest =>
      if s.heldBack p id then .next (s.holdBack p more)
      else if p.started || rest.isEmpty then
        State.runMember { s with cur := id, packets := { p with members := rest, started := true, last := some id } :: more }
      else .next (s.begin p more)
    | [] => .next (State.closePacket { s with packets := more })
  | [] =>
    match s.sched with
    | a :: rest => State.act { s with sched := rest } a
    | [] => .next s.idle

/-! ## Placing an instruction where the next step fetches -/

/-- The tables that `withFetchWord` sets up, above the 4 GiB that it maps. -/
def fetchTables (m : Nat) : Nat := m * 2 ^ 46 + 2 ^ 32

/-- A table pointer. -/
def pointerTo (pa : Nat) : Nat := pa + 1

/-- An executable, readable and writable raw 1 GiB leaf. -/
def gigabyteLeaf (pa : Nat) : Nat := 9 * 2 ^ 60 + pa + 15

/-- The page table entries that map a 4 GiB window of virtual memory to the module's first 4 GiB. -/
def windowEntries (m window : Nat) : List (Nat × Nat) :=
  let t := fetchTables m
  let first := window / 2 ^ 30 % 512
  [ (t + 8 * (window / 2 ^ 48 % 512), pointerTo (t + 4096)),
    (t + 4096 + 8 * (window / 2 ^ 39 % 512), pointerTo (t + 8192)) ] ++
  (List.range 4).map fun i => (t + 8192 + 8 * (first + i), gigabyteLeaf (m * 2 ^ 46 + i * 2 ^ 30))

/-- The thread `State.cur` next, with the given bytes as its next instruction: its code window mapped, the bytes stored at its
PC, the packet under way that of this thread alone. -/
def State.placeCode (s : State) (bs : List Byte) : State :=
  match s.ctx s.cur with
  | none => s
  | some c =>
    let m := s.moduleNo
    let entries := windowEntries m c.l.nd.window
    let code := m * 2 ^ 46 + c.t.pc.toNat
    let mem := entries.foldl (fun mem e => mem.setBytes e.1 (leBytes 8 e.2)) s.mem
    let touched (a : Nat) : Bool := a / 4096 == code / 4096 || a / 4096 == (code + 3) / 4096
    { s with
      mem := mem.setBytes code bs
      ptroot := BitVec.ofNat 64 (fetchTables m)
      tlb := []
      poison := s.poison.filter fun u => !touched (64 * u)
      tags := s.tags.filter fun x => x.1 != code / 65536 && x.1 != (code + 3) / 65536
      packets := [⟨s.stamp, [s.cur], true, none⟩]
      stamp := s.stamp + 1
      history := s.history.filter fun e =>
        match e.loc with
        | .phys a => !(touched a || entries.any fun x => decide (x.1 ≤ a) && decide (a < x.1 + 8))
        | _ => true
      sched := [] }.mapThread s.cur fun t => { t with wait := .none, held := [], readyAt := min t.readyAt s.now }

end Sys2Proof.Machine
end

