-- ==== Sys2Proof/Machine/Step.lean ====
section
/-!
DEFINITION. One step of the machine, and the state whose next step fetches a given instruction.
-/
namespace Sys2Proof.Machine

open Sys2Proof

/-- One step (R26..R28). -/
def step (s : State) : Host.Outcome State Fault Refusal := runStep s

/-- `s` with the instruction of bits `w`, as the opcode table numbers them, where the next step fetches (log 50). Bits above
the given ones are 0. -/
def State.withFetchWord (s : State) (nbits w : Nat) : State := s.placeCode (leBytes 4 (w % 2 ^ nbits))

end Sys2Proof.Machine
end

