-- ==== Sys2Proof/Safety.lean ====
section
/-!
DEFINITION. The terms that claims use: memories in canonical form, when an instruction of a thread executes its own effect, and
what an instruction leaves as it was.
-/
namespace Sys2Proof.Machine

open Sys2Proof

/-! ## Memories -/

/-- A wave's memories are canonical. -/
def Wave.memOk (w : Wave) : Prop := w.spad.wf = true ∧ w.slotMem.wf = true ∧ w.tileMem.wf = true

/-- Every memory of the state is in canonical form: HBM and host memory, each wave's scratchpad, slots and tiles, the pages
in the capacity tier, and the recorded image. -/
def State.memOk (s : State) : Prop :=
  s.mem.wf = true ∧ (∀ w ∈ s.waves, w.memOk) ∧ (∀ p ∈ s.tier, p.mem.wf = true) ∧ ∀ i ∈ s.image, i.1.wf = true

/-! ## Executing -/

/-- The thread that is to execute is `c`, its guard passes, nothing that it waits for is pending, and no condition of R78 steps 3
and 4 holds: the instruction goes on to its own effect (R57, R60, R78). -/
structure Executes (s : State) (c : Ctx) (f : Form) : Prop where
  ctx : s.ctx s.cur = some c
  completing : c.t.completing = false
  guardReady : (f.g ≠ .always && c.t.pendingPush) = false
  passes : c.t.passes f.g = true
  free : interlocked c.t f = false
  trap : operandTrap c f = none

/-! ## Frames -/

/-- Nothing but the thread `s.cur` and the free-value counter has changed: the other threads, every wave, group, launch, die,
engine operation and region, and every byte of every memory are as before. -/
structure OnlyThread (s t : State) : Prop where
  state : t = { s with threads := t.threads, free := t.free }
  others : ∀ id, id ≠ s.cur → t.thread? id = s.thread? id
  bytes : ∀ a, t.mem.get a = s.mem.get a

/-- A thread keeps everything but its registers, its results in flight and its place in issue: predicates, special registers,
trap registers, mode, pending bit, pending loads, accepted stores, what it keeps for a hard stop, and its part in happens-before. -/
structure SameControl (u v : Thread) : Prop where
  id : v.id = u.id
  preds : v.preds = u.preds
  fflags : v.fflags = u.fflags
  fcr : v.fcr = u.fcr
  ctl : v.ctl = u.ctl
  fport : v.fport = u.fport
  slim : v.slim = u.slim
  clkh : v.clkh = u.clkh
  h : v.h = u.h
  mode : v.mode = u.mode
  pending : v.pending = u.pending
  status : v.status = u.status
  loads : v.loads = u.loads
  stores : v.stores = u.stores
  unposted : v.unposted = u.unposted
  owed : v.owed = u.owed
  modeHigh : v.modeHigh = u.modeHigh
  spare : v.spare = u.spare
  sight : v.sight = u.sight
  released : v.released = u.released
  heard : v.heard = u.heard

/-- All registers but some are as before: the latest value, the value in the banks, the poison mark. -/
def SameRegs (u v : Thread) (but : List Reg) : Prop :=
  ∀ r, r ∉ but → v.latest r = u.latest r ∧ v.bank r = u.bank r ∧ v.mark? r = u.mark? r

/-- Register d has received x: it is the latest value, free of poison; it is in the banks unless it is transient, and then the
banks are as before (R61, R63, R193). -/
structure Wrote (u v : Thread) (d : Reg) (x : Word) (tr : Bool) : Prop where
  latest : v.latest d = x
  bank : v.bank d = if tr then u.bank d else x
  clean : v.mark? d = none

/-- One instruction of c's thread, of some length and stall count, has taken `s` to `t` and changed nothing but the thread
itself, which is `v` after it: at the following instruction, able to issue again after the stall count (R27, R56, R58). -/
structure Advanced (s t : State) (c : Ctx) (len stall : Nat) (v : Thread) : Prop where
  only : OnlyThread s t
  found : t.thread? s.cur = some v
  pc : v.pc = c.t.pc + BitVec.ofNat 32 len
  ready : v.readyAt = s.now + 1 + stall

/-- A later read of d is in time exactly when its distance reaches the class latency (R58): the instruction has put 1 + stall
between itself and the next. -/
def Opens (v : Thread) (d : Reg) (latency stall : Nat) : Prop := v.late d = decide (1 + stall < latency)

/-- The instruction answers a next state in which register d has received x with a latency class, and nothing else of the
machine and of the thread has changed. -/
def WritesOne (i : Instr) (s : State) (c : Ctx) (len stall latency : Nat) (d : Reg) (x : Word) (tr : Bool) : Prop :=
  ∃ t v, exec i s = .next t ∧ Advanced s t c len stall v ∧ SameControl c.t v ∧ SameRegs c.t v [d] ∧
    Wrote c.t v d x tr ∧ Opens v d latency stall

/-- The same for a pair (R56). -/
def WritesPair (i : Instr) (s : State) (c : Ctx) (stall latency : Nat) (d : Reg) (x : DWord) (tr : Bool) : Prop :=
  ∃ t v, exec i s = .next t ∧ Advanced s t c 4 stall v ∧ SameControl c.t v ∧ SameRegs c.t v d.pair ∧
    Wrote c.t v d (Word.lo x) tr ∧ Wrote c.t v (d.succ 1) (Word.hi x) tr ∧ Opens v d latency stall ∧
    Opens v (d.succ 1) latency stall

/-- A fixed-latency result with floating-point flags: they are added to %fflags unless the instruction is quiet (R65, R94). -/
def WritesFlagged (i : Instr) (s : State) (c : Ctx) (len stall latency : Nat) (d : Reg) (x : Word) (tr quiet : Bool)
    (fl : FpFlags) : Prop :=
  ∃ t v, exec i s = .next t ∧ Advanced s t c len stall v ∧ SameControl c.t { v with fflags := c.t.fflags } ∧
    v.fflags = (if quiet then c.t.fflags else c.t.fflags ||| fl.setWidth 32) ∧ SameRegs c.t v [d] ∧ Wrote c.t v d x tr ∧
    Opens v d latency stall

/-- The same for a pair. -/
def WritesPairFlagged (i : Instr) (s : State) (c : Ctx) (stall latency : Nat) (d : Reg) (x : DWord) (tr quiet : Bool)
    (fl : FpFlags) : Prop :=
  ∃ t v, exec i s = .next t ∧ Advanced s t c 4 stall v ∧ SameControl c.t { v with fflags := c.t.fflags } ∧
    v.fflags = (if quiet then c.t.fflags else c.t.fflags ||| fl.setWidth 32) ∧ SameRegs c.t v d.pair ∧
    Wrote c.t v d (Word.lo x) tr ∧ Wrote c.t v (d.succ 1) (Word.hi x) tr ∧ Opens v d latency stall ∧
    Opens v (d.succ 1) latency stall

/-- A scoreboarded result: as above, in the banks at once, readable by the next instruction (R60). That this holds over an earlier
fixed-latency write of the register that is still open is the model's choice (log 65). -/
def WritesBoard (i : Instr) (s : State) (c : Ctx) (stall : Nat) (d : Reg) (x : Word) : Prop :=
  ∃ t v, exec i s = .next t ∧ Advanced s t c 4 stall v ∧ SameControl c.t v ∧ SameRegs c.t v [d] ∧
    Wrote c.t v d x false ∧ v.late d = false

/-- The instruction answers a next state in which the predicate stack is ps, and nothing else of the machine and of the thread
has changed (R67). -/
def SetsPreds (i : Instr) (s : State) (c : Ctx) (len stall : Nat) (ps : BitVec 8) : Prop :=
  ∃ t v, exec i s = .next t ∧ Advanced s t c len stall v ∧ v.preds = ps ∧ SameControl c.t { v with preds := c.t.preds } ∧
    SameRegs c.t v []

/-- The instruction answers a next state at a PC of its own; of the thread only the registers of a list have changed. -/
def Jumps (i : Instr) (s : State) (c : Ctx) (stall : Nat) (pc : Word) (v : Thread) (but : List Reg) : Prop :=
  ∃ t, exec i s = .next t ∧ OnlyThread s t ∧ t.thread? s.cur = some v ∧ v.pc = pc ∧ v.readyAt = s.now + 1 + stall ∧
    SameControl c.t v ∧ SameRegs c.t v but

/-- The instruction answers a next state in which nothing but the place of the thread has changed: it has gone past the
instruction. -/
def GoesOn (i : Instr) (s : State) (c : Ctx) (stall : Nat) : Prop :=
  ∃ t v, exec i s = .next t ∧ Advanced s t c 4 stall v ∧ SameControl c.t v ∧ SameRegs c.t v []

/-- A trap has been delivered to c's thread at its PC, with its cause and address: h0 to h3 are the PC, the cause and the
address, the other trap registers as before; the thread is in handler mode at the handler's entry (R318). -/
structure Trapped (u v : Thread) (vec : Word) (cause : Cause) (ea : DWord) : Prop where
  h0 : v.h[0] = u.pc
  h1 : v.h[1] = BitVec.ofNat 32 cause.code
  h2 : v.h[2] = Word.lo ea
  h3 : v.h[3] = Word.hi ea
  rest : ∀ i : Fin 8, 4 ≤ i.val → v.h[i] = u.h[i]
  mode : v.mode = .handler
  pc : v.pc = vec
  kept : SameControl u { v with h := u.h, mode := u.mode }
  marks : v.marks = u.marks

/-- The instruction answers a next state in which c's thread has taken a trap and nothing else of the machine has changed: the
values of its registers are as before, those in the transient window now in the banks (R64, R318). -/
def Traps (i : Instr) (s : State) (c : Ctx) (cause : Cause) (ea : DWord) : Prop :=
  ∃ t v, exec i s = .next t ∧ OnlyThread s t ∧ t.thread? s.cur = some v ∧
    Trapped c.t v (Word.lo c.l.nd.trapvec) cause ea ∧ (∀ r, v.latest r = c.t.latest r) ∧ (∀ r, v.late r = false) ∧
    ∀ r, c.t.stale r = false → v.bank r = c.t.latest r

/-- A trap of c's thread is delivered to the thread itself: it is in normal mode and has a handler (R318, R319). -/
def Ctx.handles (c : Ctx) : Prop := c.t.mode = .normal ∧ (c.l.system || c.l.nd.hasVector) = true

/-! ## Real values of encodings -/

/-- The real value of a finite value (R83). -/
def Fp.Val.rat : Fp.Val → ℚ
  | .fin neg m e => (if neg then -1 else 1) * (m : ℚ) * 2 ^ e
  | _ => 0

/-- The finite values among some. -/
def Fp.Val.finite : Fp.Val → Bool
  | .fin _ _ _ => true
  | _ => false

/-- The formats of R82. -/
def Fp.allFormats : List Fp.Format := [Fp.fp64, Fp.fp32, Fp.fp16, Fp.bf16, Fp.e5m2, Fp.e4m3, Fp.e2m1]

/-- The order of R142 on encodings that are no NaN: -0 equals +0; `half` is the sign bit's weight. -/
def Fp.signedMagnitude (half : Nat) (x : Nat) : Int := if x < half then x else -((x : Int) - half)

/-- A result is the rounding of a non-zero real under R92 into a format: the overflow result where the magnitude that the mode
chooses in an unbounded exponent range is beyond the largest finite one, else the encoding that the mode selects among all finite
ones; overflow, underflow and inexact as R92 raises them. `top`, `ulp`: the largest finite value and the spacing there; `least`,
`gap`: the smallest normal value and the spacing that an unbounded range would have below it. -/
def Fp.CorrectlyRounded (f : Fp.Format) (mode : Rounding) (x : ℝ) (r : Nat × FpFlags) : Prop :=
  let top : ℝ := (Fp.decode f f.maxCode).rat
  let ulp : ℝ := 2 ^ Fp.expOf (Fp.decode f f.maxCode)
  let least : ℝ := 2 ^ f.emin
  let gap : ℝ := 2 ^ (f.emin - f.fbits - 1)
  let toward : Prop := mode = .rz ∨ (mode = .ru ∧ x < 0) ∨ (mode = .rd ∧ 0 < x)
  let away : Prop := (mode = .ru ∧ 0 < x) ∨ (mode = .rd ∧ x < 0)
  let beyond : Prop := (mode = .rne → if f.maxCode % 2 = 1 then top + ulp / 2 ≤ |x| else top + ulp / 2 < |x|) ∧
    (toward → top + ulp ≤ |x|) ∧ (away → top < |x|)
  let tiny : Prop := (mode = .rne → |x| < least - gap / 2) ∧ (toward → |x| < least) ∧ (away → |x| ≤ least - gap)
  let sign : Nat := if x < 0 then 2 ^ (f.ebits + f.fbits) else 0
  (beyond → (f.specials = .ieee → (toward → r.1 = sign + f.maxCode) ∧ (¬toward → r.1 = sign + f.infCode)) ∧
    (f.specials ≠ .ieee → r.1 = sign + f.maxCode) ∧ r.2 = 20) ∧
  (¬beyond → r.1 < 2 ^ f.width ∧ ∃ neg k g, Fp.decode f r.1 = .fin neg k g ∧ (neg = true ↔ x < 0) ∧
    let v : ℝ := (Fp.Val.fin neg k g).rat
    (v = x → r.2 = 0) ∧ (v ≠ x → tiny → r.2 = 24) ∧ (v ≠ x → ¬tiny → r.2 = 16) ∧
    ∀ w < 2 ^ f.width, (Fp.decode f w).finite = true →
      let y : ℝ := (Fp.decode f w).rat
      match mode with
      | .rne => |x - v| ≤ |x - y| ∧ (|x - v| = |x - y| → y ≠ v → r.1 % 2 = 0)
      | .rz => |v| ≤ |x| ∧ (|y| ≤ |x| → |y| ≤ |v|)
      | .ru => x ≤ v ∧ (x ≤ y → v ≤ y)
      | .rd => v ≤ x ∧ (y ≤ x → y ≤ v))

/-- A real rounded to an integer in a mode (R92): the nearest, on a tie the even one; towards zero, above, below. -/
def Fp.RoundsToInt (mode : Rounding) (x : ℚ) (n : Int) : Prop :=
  match mode with
  | .rne => |x - n| ≤ 1 / 2 ∧ (|x - n| = 1 / 2 → n % 2 = 0)
  | .rz => n = if x < 0 then ⌈x⌉ else ⌊x⌋
  | .ru => n = ⌈x⌉
  | .rd => n = ⌊x⌋

/-- One round of RFADD's tree over the lanes' terms: neighbours are added, none contributes nothing (R103). -/
def Fp.treeRound : List (Option Nat) → List (Option Nat)
  | x :: y :: vs =>
    (match x, y with
      | none, b => b
      | a, none => a
      | some a, some b => some (Fp.add Fp.fp32 .rne a b).1) :: treeRound vs
  | vs => vs

/-! ## Instructions that change more than their thread -/

/-- The instruction answers a next state: the machine is u, but that in it c's thread has gone past the instruction, able to
issue again after the stall count, with some registers written, readable at once and free of poison marks, and no other register
changed (R56, R58, R60). That they are readable at once over an earlier fixed-latency write that is still open is the model's choice
(log 65). -/
def Answers (i : Instr) (s : State) (c : Ctx) (stall : Nat) (u : State) (ws : List (Reg × Word)) : Prop :=
  ∃ t v w, exec i s = .next t ∧ t = { u with threads := t.threads } ∧
    (∀ id, id ≠ s.cur → t.thread? id = u.thread? id) ∧ u.thread? s.cur = some w ∧ t.thread? s.cur = some v ∧
    v.pc = c.t.pc + 4 ∧ v.readyAt = s.now + 1 + stall ∧ SameControl w v ∧ SameRegs c.t v (ws.map (·.1)) ∧
    ∀ x ∈ ws, Wrote c.t v x.1 x.2 false ∧ v.late x.1 = false

/-- The instruction answers a next state in which its effect on the machine stands, u, while its register result, which would put the
stack pointer below its limit, is not written: c's thread has taken a STACK trap with the value that would have been written
(R364). -/
def StackStands (i : Instr) (s : State) (c : Ctx) (u : State) (ws : List (Reg × Word)) : Prop :=
  ∃ t v w, exec i s = .next t ∧ t = { u with threads := t.threads } ∧
    (∀ id, id ≠ s.cur → t.thread? id = u.thread? id) ∧ u.thread? s.cur = some w ∧ t.thread? s.cur = some v ∧
    Trapped w v (Word.lo c.l.nd.trapvec) .stack (c.t.stackAfter ws) ∧ ∀ r, v.latest r = c.t.latest r

/-- The instruction answers a next state in which it has not completed: the machine is u, but that c's thread tests its condition
again at its next issue. -/
def Polls (i : Instr) (s : State) (c : Ctx) (u : State) (w : Wait) : Prop :=
  exec i s = .next (u.mapThread c.t.id fun t => t.stalled w s.now)

/-- An accepted load, store or reduction has taken `s` to `t`, where its thread is `v`: only the thread, the passes of the packet and
the count of writes have changed; `pend`: the pending bit is set now, as where the access reaches a peer's scratchpad (R24, R190,
R191). -/
structure Accepted (s t : State) (c : Ctx) (stall : Nat) (v : Thread) (pend : Bool) : Prop where
  state : t = { s with threads := t.threads, free := t.free, passes := t.passes, stamp := t.stamp }
  others : ∀ id, id ≠ s.cur → t.thread? id = s.thread? id
  bytes : ∀ a, t.mem.get a = s.mem.get a
  found : t.thread? s.cur = some v
  pc : v.pc = c.t.pc + 4
  ready : v.readyAt = s.now + 1 + stall
  pending : v.pending = (c.t.pending || pend)
  control : SameControl c.t { v with loads := c.t.loads, stores := c.t.stores, pending := c.t.pending, sight := c.t.sight,
                                     heard := c.t.heard }
  regs : SameRegs c.t v []

/-- A scratchpad access of n bytes takes part in the passes of its packet with the words it touches, at the core where the wave that
has the allocation stands, any other in none (R163, R202). The words of wave y's allocation are numbered from y * 2 ^ 20. -/
def State.noted (s t : State) (loc : Loc) (n : Nat) (atomic : Bool) : Prop :=
  match loc with
  | .spad y off =>
    ∃ core ws, t.passes = s.passes ++ [⟨core, ws, atomic⟩] ∧ (∀ w, s.wave? y = some w → core = ⟨w.die, w.core⟩) ∧
      ∀ x, x ∈ ws ↔ ∃ i < n, x = y * 2 ^ 20 + (off + i) / 4
  | _ => t.passes = s.passes

/-- What an accepted store, STN or RED of c's thread waits with, apart from what it carries: where, how, what, from which packet. -/
def StoreEntry.put (e : StoreEntry) (s : State) (c : Ctx) (loc : Loc) (view peer : Bool) (op : StoreOp) (ea : DWord) : Prop :=
  e = ⟨loc, view, peer, op, ea, c.t.pc, e.carries, s.packetNo, e.stamp⟩ ∧ s.stamp ≤ e.stamp ∧
    (s.late = false → e.stamp = s.stamp ∧ e.carries = c.t.carries c.w.coreId peer)

/-- No other thread's store of the packet under way that is still to take effect meets n bytes. -/
def State.noLaneBefore (s : State) (id : ThreadId) (loc : Loc) (n : Nat) : Prop :=
  ∀ u ∈ s.threads, u.id ≠ id → ∀ e ∈ u.stores, e.packet = s.packetNo → loc.overlaps n e.loc e.size = false

/-- A read of a thread takes n bytes as they stand: none of its own buffered stores through the same view meets them (R171), nor is
one to the fitted region that it reads (R182), and every write has spread (R170). -/
def State.plainRead (s : State) (t : Thread) (loc : Loc) (view : Bool) (n : Nat) : Prop :=
  (∀ e ∈ t.stores, e.view = view → loc.overlaps n e.loc e.size = false ∧
    ∀ r i j, loc = .fitted r i → e.loc ≠ .fitted r j) ∧ s.late = false

/-- The single read of a parameter block gives these bytes: a load of the thread's, through its own earlier stores, none of which
there changes part of a byte or adds (R171, R218, R219, R257). -/
structure Block (s : State) (c : Ctx) (o : Word) (n align : Nat) (blk : List Byte) : Prop where
  aligned : o.toNat % align = 0
  some : c.w.spadBytes ≠ 0
  inside : o.toNat + n ≤ c.w.spadBytes
  clean : s.poisoned (.spad c.w.uid o.toNat) n = false
  spread : s.late = false
  whole : ∀ e ∈ c.t.stores, (e.view == false && (Loc.spad c.w.uid o.toNat).overlaps n e.loc e.size) = true → e.plain = true
  bytes : blk = (s.loadBytes c.t (.spad c.w.uid o.toNat) false false n).2

/-- The element sizes of the copy formats in bytes, 0 for those of half a byte (R239). -/
def elementBytes : List Nat := [1, 2, 4, 8, 8, 4, 2, 2, 1, 1, 0, 4, 1, 0, 0]

/-- Every field of a copy's parameter block is valid, `cs` standing for the cluster-set flag of the node (R238 to R242, R245,
R246). -/
structure CopyBlockOk (cs : Bool) (blk : List Byte) : Prop where
  formats : fieldAt blk 16 1 ≤ 14 ∧ fieldAt blk 17 1 ≤ 14
  mode : fieldAt blk 18 1 ≤ 5
  cls : fieldAt blk 19 1 ≤ 3
  flags : fieldAt blk 20 4 < 2 ^ 12 ∧ fieldAt blk 20 4 / 4 % 2 ^ 6 = 0
  sequenced : fieldAt blk 20 4 % 2 = 1 → fieldAt blk 18 1 = 4
  mask : cs = false → fieldAt blk 20 4 / 2 ^ 8 ≤ 1
  rank : 1 ≤ fieldAt blk 24 1 ∧ fieldAt blk 24 1 ≤ 6 ∧ (fieldAt blk 18 1 = 2 → fieldAt blk 24 1 = 2)
  reserved : fieldAt blk 25 3 = 0 ∧ fieldAt blk 32 8 = 0
  pair : match fieldAt blk 18 1 with
    | 1 => 4 ≤ fieldAt blk 16 1 ∧ 4 ≤ fieldAt blk 17 1 ∧ fieldAt blk 17 1 ≤ 13 ∧ fieldAt blk 16 1 ≠ fieldAt blk 17 1
    | 3 => fieldAt blk 16 1 = fieldAt blk 17 1 ∧ fieldAt blk 16 1 ∈ [10, 13, 14]
    | 4 => fieldAt blk 16 1 = fieldAt blk 17 1 ∧ fieldAt blk 16 1 ∈ [5, 7, 11]
    | _ => fieldAt blk 16 1 = fieldAt blk 17 1 ∧ fieldAt blk 16 1 ∉ [10, 13, 14]
  source : if fieldAt blk 18 1 = 5 then fieldAt blk 0 8 = 0 else elementBytes.getD (fieldAt blk 16 1) 0 ∣ fieldAt blk 0 8 ∨
    elementBytes.getD (fieldAt blk 16 1) 0 = 0
  destination : elementBytes.getD (fieldAt blk 17 1) 0 ∣ fieldAt blk 8 8 ∨ elementBytes.getD (fieldAt blk 17 1) 0 = 0
  members : fieldAt blk 20 4 / 2 ^ 8 ≠ 0 → 0x01F0000000000000 ≤ fieldAt blk 8 8 ∧ fieldAt blk 8 8 < 0x01F0000080000000 ∧
    (fieldAt blk 8 8 % 2 ^ 22 < 0x80000 ∨ (0x100000 ≤ fieldAt blk 8 8 % 2 ^ 22 ∧ fieldAt blk 8 8 % 2 ^ 22 < 0x140000))
  used : ∀ i < fieldAt blk 24 1, 1 ≤ fieldAt blk (40 + 4 * i) 4 ∧ fieldAt blk (40 + 4 * i) 4 ≤ 0x7FFFFFFF ∧
    (if fieldAt blk 18 1 = 5 then fieldAt blk (64 + 4 * i) 4 = 0 else
      ((elementBytes.getD (fieldAt blk 16 1) 0 : Nat) : Int) ∣ (wordAt blk (64 + 4 * i)).toInt ∨
        elementBytes.getD (fieldAt blk 16 1) 0 = 0) ∧
    (((elementBytes.getD (fieldAt blk 17 1) 0 : Nat) : Int) ∣ (wordAt blk (88 + 4 * i)).toInt ∨
      elementBytes.getD (fieldAt blk 17 1) 0 = 0)
  unused : ∀ i < 6, fieldAt blk 24 1 ≤ i → fieldAt blk (40 + 4 * i) 4 = 0 ∧ fieldAt blk (64 + 4 * i) 4 = 0 ∧
    fieldAt blk (88 + 4 * i) 4 = 0
  arrays : fieldAt blk 18 1 = 1 → fieldAt blk 16 1 = 14 → ∀ off ∈ [112, 120],
    fieldAt blk off 8 < 0x01F0000000000000 ∨ 0x0200000000000000 ≤ fieldAt blk off 8
  stream : (fieldAt blk 18 1 = 4 → fieldAt blk 20 4 % 2 = 1 → fieldAt blk 116 4 ≤ 4095) ∧
    ((fieldAt blk 18 1 ≠ 1 ∨ fieldAt blk 16 1 ≠ 14) → (fieldAt blk 18 1 ≠ 4 ∨ fieldAt blk 20 4 % 2 = 0) →
      fieldAt blk 112 4 = 0 ∧ fieldAt blk 116 4 = 0)
  fill : fieldAt blk 18 1 ≠ 5 → (fieldAt blk 18 1 ≠ 1 ∨ fieldAt blk 16 1 ≠ 14) → fieldAt blk 120 8 = 0

/-- Element sizes of A and of B in bits, and the largest K (R215). -/
def mmaShape : MmaFmt → Nat × Nat × Nat
  | .f64 => (64, 64, 32)
  | .f32 => (32, 32, 64)
  | .bf16 | .f16 => (16, 16, 128)
  | .e4 | .e5 | .e4e5 => (8, 8, 256)
  | .e2 => (4, 4, 512)
  | .bfgq4 => (16, 4, 128)
  | .e4gq4 => (8, 4, 256)
  | .i8 => (8, 8, 256)
  | .i4 => (4, 4, 512)

/-- Every field of an MMA's parameter block is valid, its names held and not releasing (R215, R217, R219). -/
structure MmaBlockOk (w : Wave) (fmt : MmaFmt) (blk : List Byte) : Prop where
  slots : ∀ off ∈ [0, 1], fieldAt blk off 1 ≤ 15 ∧ fieldAt blk off 1 ∈ w.heldSlots ∧ fieldAt blk off 1 ∉ w.relSlots
  tile : fieldAt blk 2 1 ≤ 15 ∧ fieldAt blk 2 1 ∈ w.heldTiles ∧ fieldAt blk 2 1 ∉ w.relTiles
  second : if fmt = .f64 then fieldAt blk 3 1 ≤ 15 ∧ fieldAt blk 3 1 ∈ w.heldTiles ∧ fieldAt blk 3 1 ∉ w.relTiles ∧
    fieldAt blk 3 1 ≠ fieldAt blk 2 1 else fieldAt blk 3 1 = 0
  depth : 1 ≤ fieldAt blk 4 2 ∧ fieldAt blk 4 2 ≤ (mmaShape fmt).2.2
  even : fmt = .e2 ∨ fmt = .i4 → fieldAt blk 4 2 % 2 = 0 ∧ fieldAt blk 6 1 = 0 ∧ fieldAt blk 7 1 = 0
  blocks : fmt = .bfgq4 ∨ fmt = .e4gq4 → fieldAt blk 4 2 % 64 = 0 ∧ fieldAt blk 7 1 = 0 ∧ fieldAt blk 18 2 % 2048 = 0
  orders : fieldAt blk 6 1 ≤ 1 ∧ fieldAt blk 7 1 ≤ 1
  scales : fieldAt blk 8 4 = 0 ∧ (fmt ≠ .bfgq4 → fmt ≠ .e4gq4 → fieldAt blk 12 4 = 0)
  offsetA : (8 ≤ (mmaShape fmt).1 → (mmaShape fmt).1 / 8 ∣ fieldAt blk 16 2) ∧
    fieldAt blk 16 2 + 8 * fieldAt blk 4 2 * (mmaShape fmt).1 ≤ 16384
  offsetB : (8 ≤ (mmaShape fmt).2.1 → (mmaShape fmt).2.1 / 8 ∣ fieldAt blk 18 2) ∧
    fieldAt blk 18 2 + 8 * fieldAt blk 4 2 * (mmaShape fmt).2.1 ≤ 16384
  notify : fieldAt blk 20 4 ≤ 1 ∧ (fieldAt blk 20 4 = 0 → fieldAt blk 24 4 = 0 ∧ fieldAt blk 28 4 = 0)

/-- Every field of a BMV's parameter block is valid (R228). -/
structure BmvBlockOk (form : BankForm) (blk : List Byte) : Prop where
  outside : ∀ off ∈ [0, 24, 32] ++ (if form = .gq4 then [8, 16] else []),
    fieldAt blk off 8 < 0x01F0000000000000 ∨ 0x0200000000000000 ≤ fieldAt blk off 8
  aligned : fieldAt blk 0 8 % 64 = 0 ∧ fieldAt blk 24 8 % 2 = 0 ∧ fieldAt blk 32 8 % 4 = 0
  arrays : if form = .gq4 then fieldAt blk 16 8 % 4 = 0 else fieldAt blk 8 8 = 0 ∧ fieldAt blk 16 8 = 0
  rows : 1 ≤ fieldAt blk 40 4 ∧ fieldAt blk 40 4 ≤ 2 ^ 24
  columns : 1 ≤ fieldAt blk 44 4 ∧ fieldAt blk 44 4 ≤ 65536 ∧ (if form = .gq4 then 128 else 64) ∣ fieldAt blk 44 4
  pitch : 64 ∣ fieldAt blk 48 4 ∧ (if form = .gq4 then fieldAt blk 44 4 / 2 else if form = .e4m3 then fieldAt blk 44 4
    else 2 * fieldAt blk 44 4) ≤ fieldAt blk 48 4
  modes : fieldAt blk 52 1 ≤ 1 ∧ fieldAt blk 53 1 ≤ 1
  notify : fieldAt blk 54 2 ≤ 1 ∧ (fieldAt blk 54 2 = 0 → fieldAt blk 56 4 = 0 ∧ fieldAt blk 60 4 = 0)

/-- A PATDEF block is valid on a die: its ports, their requirements, its node, priority and flags (R276). -/
structure PatternBlockOk (s : State) (d : Die) (blk : List Byte) : Prop where
  count : 1 ≤ fieldAt blk 42 1 ∧ fieldAt blk 42 1 ≤ 4
  ports : ∀ i < fieldAt blk 42 1, s.stale (wordAt blk (4 * i)) = false ∧ (wordAt blk (4 * i)).toNat / 2 ^ 28 = d.idx ∧
    (wordAt blk (4 * i)).toNat % 2 ^ 16 ≠ 0 ∧ ∀ j < i, wordAt blk (4 * j) ≠ wordAt blk (4 * i)
  needs : ∀ i < fieldAt blk 42 1, match d.kind? (wordAt blk (4 * i)) with
    | some (.queue _ _) => 1 ≤ fieldAt blk (16 + 4 * i) 4 ∧ fieldAt blk (16 + 4 * i) 4 ≤ 4
    | _ => fieldAt blk (16 + 4 * i) 4 < 2 ^ 31
  unused : ∀ i < 4, fieldAt blk 42 1 ≤ i → wordAt blk (4 * i) = 0 ∧ fieldAt blk (16 + 4 * i) 4 = 0
  room : ((List.range (fieldAt blk 42 1)).map fun i => match d.kind? (wordAt blk (4 * i)) with
    | some (.queue _ _) => fieldAt blk (16 + 4 * i) 4
    | _ => 1).sum ≤ 4
  node : 64 ∣ fieldAt blk 32 8
  prio : fieldAt blk 40 1 ≤ 15
  flags : fieldAt blk 41 1 ≤ 1
  reserved : ∀ b ∈ blk.drop 43, b = 0

/-- Every field of a work node is valid, and every joint limit holds (R15, R36, R284, R363). -/
structure NodeBlockOk (bs : List Byte) : Prop where
  groups : 1 ≤ fieldAt bs 20 2 ∧ fieldAt bs 20 2 ≤ 32
  width : 3 ≤ fieldAt bs 22 1 ∧ fieldAt bs 22 1 ≤ 6
  threads : fieldAt bs 20 2 * 2 ^ fieldAt bs 22 1 ≤ 2048
  flags : fieldAt bs 23 1 < 64 ∧
    ((fieldAt bs 23 1).testBit 2 = true → (fieldAt bs 23 1).testBit 0 = false ∧ (fieldAt bs 23 1).testBit 5 = false)
  entry : 2 ∣ fieldAt bs 0 8
  waves : 1 ≤ fieldAt bs 16 4 ∧ ((fieldAt bs 23 1).testBit 5 = true → 4 ∣ fieldAt bs 16 4)
  storage : fieldAt bs 24 4 ≤ 524288 ∧ fieldAt bs 28 1 ≤ 16 ∧ fieldAt bs 29 1 ≤ 16
  prio : fieldAt bs 30 1 ≤ 3 ∨ fieldAt bs 30 1 = 255
  dies : 1 ≤ fieldAt bs 31 1 % 16 ∧ fieldAt bs 31 1 % 16 ≤ fieldAt bs 31 1 / 16 ∧ fieldAt bs 31 1 / 16 ≤ 8 ∧
    ((fieldAt bs 23 1).testBit 2 = true → fieldAt bs 31 1 / 16 = 1)
  producer : fieldAt bs 38 1 < fieldAt bs 20 2
  reserved : fieldAt bs 39 1 = 0 ∧ ∀ b ∈ (bs.drop 88).take 40, b = 0
  vector : (fieldAt bs 23 1).testBit 4 = true → 2 ∣ fieldAt bs 48 8 ∧ fieldAt bs 48 8 / 2 ^ 32 = fieldAt bs 0 8 / 2 ^ 32
  header : 16 ∣ fieldAt bs 56 8
  items : if (fieldAt bs 23 1).testBit 2 then
      1 ≤ fieldAt bs 64 4 ∧ fieldAt bs 64 4 ≤ fieldAt bs 16 4 * (fieldAt bs 20 2 * 2 ^ fieldAt bs 22 1)
    else fieldAt bs 64 4 = 0
  stack : 16 ∣ fieldAt bs 68 4 ∧ 512 ≤ fieldAt bs 68 4 ∧ 16 ∣ fieldAt bs 72 8

/-- The fields of a region descriptor that stand for themselves are valid (R300). -/
structure FitFieldsOk (d : List Byte) : Prop where
  dims : 1 ≤ fieldAt d 0 1 ∧ fieldAt d 0 1 ≤ 3
  formats : fieldAt d 1 1 ≤ 2 ∧ fieldAt d 2 1 ≤ 1
  hidden : 1 ≤ fieldAt d 3 1 ∧ fieldAt d 3 1 ≤ 32
  extents : ∀ i < 3, if i < fieldAt d 0 1 then 1 ≤ fieldAt d (4 + 4 * i) 4
    else fieldAt d (4 + 4 * i) 4 = 0 ∧ fieldAt d (16 + 4 * i) 4 = 0 ∧ fieldAt d (28 + 4 * i) 4 = 0
  elements : ((List.range (fieldAt d 0 1)).map fun i => fieldAt d (4 + 4 * i) 4).prod ≤ 2 ^ 24
  bound : fieldAt d 40 4 < 2 ^ 31 ∧ fieldAt d 40 4 / 2 ^ 23 % 2 ^ 8 ≠ 255
  capacity : 1 ≤ fieldAt d 48 4 ∧ fieldAt d 48 4 ≤ 2 ^ 20
  table : fieldAt d 56 8 % 64 = 0
  outputs : fieldAt d 44 4 = 0 ∧ fieldAt d 52 4 = 0

/-! ## The sums of the engines, as their pseudocode forms them (R97 to R101) -/

/-- acc := rne(s), or rne(acc + s) where an accumulator stands, in FP32. -/
def Fp.accumulated (acc : Option Nat) (s : Fp.Val) : Nat :=
  match acc with
  | none => (Fp.roundVal Fp.fp32 .rne s).1
  | some a => (Fp.roundVal Fp.fp32 .rne (Fp.sum .rne [Fp.decode Fp.fp32 a, s]).1).1

/-- The exact sum of the products number lo to hi - 1. -/
def Fp.products (xs ys : Nat → Fp.Val) (lo hi : Nat) : Fp.Val :=
  (Fp.sum .rne ((List.range (hi - lo)).map fun k => (Fp.mul (xs (lo + k)) (ys (lo + k))).1)).1

/-- Products of K pairs summed in aligned groups of G (R97, R101). -/
def Fp.grouped (G K : Nat) (xs ys : Nat → Fp.Val) (start : Option Nat) : Nat :=
  ((List.range ((K + G - 1) / G)).foldl (fun acc g =>
    some (Fp.accumulated acc (Fp.products xs ys (g * G) (min K ((g + 1) * G))))) start).getD 0

/-- A chain of K fused multiply-adds in FP64 (R98). -/
def Fp.chained (K : Nat) (xs ys : Nat → Fp.Val) (start : Option Nat) : Nat :=
  ((List.range K).foldl (fun acc k => some <|
    let p := (Fp.mul (xs k) (ys k)).1
    match acc with
    | none => (Fp.roundVal Fp.fp64 .rne p).1
    | some a => (Fp.roundVal Fp.fp64 .rne (Fp.sum .rne [p, Fp.decode Fp.fp64 a]).1).1) start).getD 0

/-- nb blocks of 64 products under block scales and superblock scales, block j in superblock sb j (R100). -/
def Fp.scaledBlocks (nb : Nat) (qs xs : Nat → Fp.Val) (scale sb : Nat → Nat) (supScale : Nat → Fp.Val) (start : Option Nat) : Nat :=
  let rne (v : Fp.Val) : Nat := (Fp.roundVal Fp.fp32 .rne v).1
  let fp (x : Nat) : Fp.Val := Fp.decode Fp.fp32 x
  let add (acc : Option Nat) (x : Nat) : Nat :=
    match acc with
    | none => x
    | some a => rne (Fp.sum .rne [fp a, fp x]).1
  let block (j : Nat) : Nat :=
    if scale j = 255 then Fp.fp32.nan
    else rne (Fp.mul (fp (rne (Fp.products qs xs (64 * j) (64 * j + 64)))) (.fin false (scale j) 0)).1
  let part (run : List Nat) : Nat :=
    let t := (run.foldl (fun t j => some (add t (block j))) none).getD 0
    rne (match (Fp.mul (fp t) (supScale (sb (run.headD 0)))).1 with
      | .fin neg m e => .fin neg m (e - 8)
      | v => v)
  ((((List.range nb).splitBy fun i j => sb i == sb j)).foldl (fun acc run => some (add acc (part run))) start).getD 0

/-- A ring as an instruction finds it when every check of R257 passes: u is the state after the single read of the reference, with the
thread's own earlier stores in effect, whose descriptor at physical address r.pa has the fields of r (R254, R256). -/
structure RingAt (s : State) (c : Ctx) (f : Form) (writes : Bool) (u : State) (r : Ring) : Prop where
  start : (c.reads s f 0).toNat % 16 = 0
  inside : c.w.spadBytes ≠ 0 ∧ (c.reads s f 0).toNat + 16 ≤ c.w.spadBytes
  readable : (s.spent f).poisoned (.spad c.w.uid (c.reads s f 0).toNat) 16 = false
  block : ∃ v blk peer, (s.spent f).loadBytes c.t (.spad c.w.uid (c.reads s f 0).toNat) false false 16 = (v, blk) ∧
    u = v.drain c.t.id ∧ r.va = dwordAt blk 0 ∧ r.n = fieldAt blk 8 4 ∧ fieldAt blk 12 4 = 0 ∧
    v.check c.l.system c.w ⟨8, true, writes, false⟩ r.va.toNat = .at (.phys r.pa) false peer
  aligned : r.va.toNat % 64 = 0
  clean : u.poisoned (.phys r.pa) 64 = false
  size : r.size = fieldAt (u.readLoc (.phys r.pa) 64) 8 4
  notify : r.notify = wordAt (u.readLoc (.phys r.pa) 64) 12
  head : r.head = wordAt (u.readLoc (.phys r.pa) 64) 16
  claim : r.claim = wordAt (u.readLoc (.phys r.pa) 64) 20
  commit : r.commit = wordAt (u.readLoc (.phys r.pa) 64) 24
  reserved : leNat ((u.readLoc (.phys r.pa) 64).drop 28) = 0
  power : ∃ k ≤ 16, r.size = 2 ^ k
  count : 1 ≤ r.n ∧ r.n ≤ r.size

/-- The bytes of a memory after a store of bytes at an address. -/
def Memory.stored (m : Memory) (at_ : Nat) (bs : List Byte) (a : Nat) : Byte :=
  if at_ ≤ a ∧ a < at_ + bs.length then bs.getD (a - at_) 0 else m.get a

/-- The bytes of a memory after stores of bytes at addresses, the last one first. -/
def Memory.layered (m : Memory) (ws : List (Nat × List Byte)) (a : Nat) : Byte :=
  match ws.find? fun w => decide (w.1 ≤ a) && decide (a < w.1 + w.2.length) with
  | some w => w.2.getD (a - w.1) 0
  | none => m.get a

end Sys2Proof.Machine

namespace Sys2Proof

open Sys2Proof.Machine

/-- R format of the floating-point majors, two sources (R140). -/
def FF.form (f : FF) : Form := { g := f.g, sc := f.sc, reads := [f.a, f.b], names := [f.d] }

/-- The same with d as third operand. -/
def FF.form3 (f : FF) : Form := { g := f.g, sc := f.sc, reads := [f.a, f.b, f.d] }

/-- Pairs. -/
def FF.form64 (f : FF) : Form := { g := f.g, sc := f.sc, reads := f.a.pair ++ f.b.pair, names := f.d.pair }

/-- Pairs with pair(D) as third operand. -/
def FF.form364 (f : FF) : Form := { g := f.g, sc := f.sc, reads := f.a.pair ++ f.b.pair ++ f.d.pair }

/-- FX (R143). -/
def XFF.form (f : XFF) : Form := { g := f.g, sc := f.sc, reads := [f.a], names := [f.d] }

/-- DX (R143). -/
def XFF.form64 (f : XFF) : Form := { g := f.g, sc := f.sc, reads := f.a.pair, names := f.d.pair }

/-- CVT (R73). -/
def CvtF.form (f : CvtF) : Form :=
  { g := f.g, sc := f.sc, reads := f.a.group (Cvt.sources f.c), names := if Cvt.wide f.c then f.d.pair else [f.d] }

/-! ## What the formats read and name -/

/-- R format, three registers (R107). -/
def RF.form (f : RF) : Form := { g := f.g, sc := f.sc, reads := [f.a, f.b], names := [f.d] }

/-- R format, three pairs (R109). -/
def RF.form64 (f : RF) : Form := { g := f.g, sc := f.sc, reads := f.a.pair ++ f.b.pair, names := f.d.pair }

/-- X format (R112). -/
def XF.form (f : XF) : Form := { g := f.g, sc := f.sc, reads := [f.a], names := [f.d] }

/-- I format (R110). -/
def IF.form (f : IF) : Form := { g := f.g, sc := f.sc, reads := [f.a], names := [f.d] }

/-- I format of the shifts (R110). -/
def SF.form (f : SF) : Form := { g := f.g, sc := f.sc, reads := [f.a], names := [f.d] }

/-- 16-bit forms that read both registers (R51). -/
def H.form (f : H) : Form := { len := 2, sc := f.sc, reads := [f.d.wide, f.a.wide] }

/-- The rows of the opcode table that are no words: steps of units, and what stands for a word that is no instruction. -/
def Instr.wordless : Instr → Bool
  | .launchMessage _ _ _ | .nodeAdmission _ _ | .stepBoundary _ _ | .nodeCompletion _ | .waveDispatch _ _ |
    .footprintRelease _ | .loadDataReturn _ _ | .preemptionRequest _ | .waveLeavesCore _ | .waveRestore _ _ |
    .extendedBlockGrant _ | .matrixOpStart _ | .matrixOpCompletion _ | .copyChunkStart _ _ | .copyCompletion _ _ |
    .reductionApply _ _ | .bankRowCompute _ _ | .bmvCompletion _ _ | .faultRecordPost _ | .refitStart _ | .refitSwap _ _ _ |
    .patternFiring _ | .itemAdmission _ _ | .itemFinish _ _ | .moduleReset | .hostDoorbellStore _ _ | .hostMemAccess _ |
    .reservedOrIllegalEncoding _ | .storeTakesEffect _ | .fresRetry _ | .fresFatal _ | .streamExpectedUpdate _ |
    .heldDeliveryRetry _ _ | .stealAttempt _ | .stealAcknowledge _ | .cooperativePlacement _ _ | .hardPreemptCycleLimit _ |
    .hardPreemptInstrLimit _ | .slotClaimGrant _ _ | .slotReleaseComplete _ _ _ | .refitAbandon _ | .pageDemotion _ _ |
    .pagePromotion _ _ | .clusterReset _ | .unitOutOfService _ | .eccError _ | .hostDoorbellRead _ _ | .flitRetry _ |
    .powerAdjust _ _ | .replay | .fabricCannotReachModule _ _ => true
  | _ => false

/-- Guard and stall count only. -/
def GF.form (f : GF) : Form := { g := f.g, sc := f.sc }

/-- The same, with the predicate stack (R115). -/
def GF.formP (f : GF) : Form := { g := f.g, sc := f.sc, preds := true }

end Sys2Proof
end

