-- ==== Sys2Proof/Certificates/Slice0/Obligations.lean ====
section
/-!
DEFINITION. The statements for the provers. The hypothesis `Executes s c f` of most of them says that the thread `s.cur` comes
to the instruction's own effect: its guard passes, nothing that it waits for is pending, no operand trap (R57, R60, R78).
-/

open Sys2Proof Sys2Proof.Machine

/-! ## Integer instructions -/

/-- R108: the eighteen integer register operations on words complete with the result of the table, of the integer class, in
the banks or transient; nothing else changes.
R109, R112: ADD64 and SUB64 work on whole pairs modulo 2^64, MOV64 copies a pair; a destination pair may be a source
pair. -/
def Obligations.IntegerRegisterResults : Prop :=
  (∀ p ∈ ([ (.add, fun a b => a + b), (.sub, fun a b => a - b), (.mul, fun a b => a * b),
       (.mulh, fun a b => (a.signExtend 64 * b.signExtend 64).extractLsb' 32 32),
       (.mulhN, fun a b => (a.setWidth 64 * b.setWidth 64).extractLsb' 32 32),
       (.and, fun a b => a &&& b), (.or, fun a b => a ||| b), (.xor, fun a b => a ^^^ b), (.andn, fun a b => a &&& ~~~b),
       (.shl, fun a b => if 32 ≤ b.toNat then 0 else BitVec.ofNat 32 (a.toNat * 2 ^ b.toNat)),
       (.shr, fun a b => if 32 ≤ b.toNat then 0 else BitVec.ofNat 32 (a.toNat / 2 ^ b.toNat)),
       (.shrA, fun a b => BitVec.ofInt 32 (a.toInt / 2 ^ min b.toNat 31)),
       (.rot, fun a b => a <<< (b.toNat % 32) ||| a >>> (32 - b.toNat % 32)),
       (.rotR, fun a b => a >>> (b.toNat % 32) ||| a <<< (32 - b.toNat % 32)),
       (.min, fun a b => if a.slt b then a else b), (.minN, fun a b => if a.ult b then a else b),
       (.max, fun a b => if b.slt a then a else b), (.maxN, fun a b => if b.ult a then a else b) ] :
       List ((RF → Instr) × (Word → Word → Word))),
     ∀ (f : RF) (s : State) (c : Ctx), Executes s c f.form →
       c.t.belowLimit [(f.d, p.2 (c.reads s f.form 0) (c.reads s f.form 1))] = false →
       WritesOne (p.1 f) s c 4 f.sc 2 f.d (p.2 (c.reads s f.form 0) (c.reads s f.form 1)) f.t) ∧
  ((∀ p ∈ ([(.add64, fun x y => x + y), (.sub64, fun x y => x - y)] : List ((RF → Instr) × (DWord → DWord → DWord))),
     ∀ (f : RF) (s : State) (c : Ctx), Executes s c f.form64 →
       let r := p.2 (Word.pair (c.reads s f.form64 0) (c.reads s f.form64 1))
         (Word.pair (c.reads s f.form64 2) (c.reads s f.form64 3))
       c.t.belowLimit (f.d.pairWrites r) = false → WritesPair (p.1 f) s c f.sc 2 f.d r f.t) ∧
   ∀ (f : XF) (s : State) (c : Ctx),
     let form : Form := { g := f.g, sc := f.sc, reads := f.a.pair, names := f.d.pair }
     let r := Word.pair (c.reads s form 0) (c.reads s form 1)
     Executes s c form → c.t.belowLimit (f.d.pairWrites r) = false → WritesPair (.mov64 f) s c f.sc 2 f.d r f.t)

/-- R112: the IX operations on one word complete with the result of the table. CLZ counts the zero bits above the highest one,
POPC the ones, BREV and BSWAP put bit 31 - i and byte 3 - i in place i.
R113: SEL writes a when p0 holds and the prior value of d when it does not; both are writes. -/
def Obligations.IntegerUnaryResults : Prop :=
  (∀ p ∈ ([ (.mov, fun a r => r = a), (.not, fun a r => ∀ i < 32, r.getLsbD i = !a.getLsbD i), (.neg, fun a r => r + a = 0),
       (.abs, fun a r => r = if a.getLsbD 31 then 0 - a else a),
       (.clz, fun a r => r.toNat ≤ 32 ∧ a.toNat < 2 ^ (32 - r.toNat) ∧ (r.toNat < 32 → 2 ^ (31 - r.toNat) ≤ a.toNat)),
       (.popc, fun a r => r.toNat = ((List.range 32).filter fun i => a.getLsbD i).length),
       (.brev, fun a r => ∀ i < 32, r.getLsbD i = a.getLsbD (31 - i)),
       (.bswap, fun a r => ∀ i < 4, ∀ j < 8, r.getLsbD (8 * i + j) = a.getLsbD (8 * (3 - i) + j)),
       (.sxb, fun a r => r.toInt = (a.setWidth 8).toInt), (.sxh, fun a r => r.toInt = (a.setWidth 16).toInt),
       (.zxb, fun a r => r.toNat = a.toNat % 2 ^ 8), (.zxh, fun a r => r.toNat = a.toNat % 2 ^ 16) ] :
       List ((XF → Instr) × (Word → Word → Prop))),
     ∀ (f : XF) (s : State) (c : Ctx), Executes s c f.form →
       ∃ r, p.2 (c.reads s f.form 0) r ∧
         (c.t.belowLimit [(f.d, r)] = false → WritesOne (p.1 f) s c 4 f.sc 2 f.d r f.t)) ∧
  (∀ (f : XF) (s : State) (c : Ctx),
     let form : Form := { g := f.g, sc := f.sc, reads := [f.a, f.d], preds := true }
     let r := if c.t.p 0 then c.reads s form 0 else c.reads s form 1
     Executes s c form → c.t.belowLimit [(f.d, r)] = false → WritesOne (.sel f) s c 4 f.sc 2 f.d r f.t)

/-- R110, R111: the immediate operations complete with the result of the table; LIL writes its sign-extended immediate, LIH
replaces bits 31 to 15 of d and keeps the others. None is transient.
R51, R137: the 16-bit integer forms have the results of their 32-bit instructions, on g0 to g31, and are 2 bytes long. -/
def Obligations.ImmediateAndShortResults : Prop :=
  ((∀ p ∈ ([(.addi, fun a x => a + x), (.andi, fun a x => a &&& x), (.ori, fun a x => a ||| x), (.xori, fun a x => a ^^^ x)] :
       List ((IF → Instr) × (Word → Word → Word))),
     ∀ (f : IF) (s : State) (c : Ctx), Executes s c f.form →
       c.t.belowLimit [(f.d, p.2 (c.reads s f.form 0) (BitVec.ofInt 32 f.imm.toInt))] = false →
       WritesOne (p.1 f) s c 4 f.sc 2 f.d (p.2 (c.reads s f.form 0) (BitVec.ofInt 32 f.imm.toInt)) false) ∧
   (∀ p ∈ ([(.shli, fun a n => BitVec.ofNat 32 (a.toNat * 2 ^ n)), (.shri, fun a n => BitVec.ofNat 32 (a.toNat / 2 ^ n)),
       (.shriA, fun a n => BitVec.ofInt 32 (a.toInt / 2 ^ n))] : List ((SF → Instr) × (Word → Nat → Word))),
     ∀ (f : SF) (s : State) (c : Ctx), Executes s c f.form →
       c.t.belowLimit [(f.d, p.2 (c.reads s f.form 0) f.n)] = false →
       WritesOne (p.1 f) s c 4 f.sc 2 f.d (p.2 (c.reads s f.form 0) f.n) false) ∧
   (∀ (f : WF) (s : State) (c : Ctx), Executes s c { sc := f.sc, names := [f.d] } →
       c.t.belowLimit [(f.d, BitVec.ofInt 32 f.imm.toInt)] = false →
       WritesOne (.lil f) s c 4 f.sc 2 f.d (BitVec.ofInt 32 f.imm.toInt) false) ∧
   ∀ (f : WF) (s : State) (c : Ctx),
     let form : Form := { sc := f.sc, reads := [f.d] }
     let r := BitVec.ofNat 32 (f.imm.toNat * 2 ^ 15 + (c.reads s form 0).toNat % 2 ^ 15)
     Executes s c form → c.t.belowLimit [(f.d, r)] = false → WritesOne (.lih f) s c 4 f.sc 2 f.d r false) ∧
  ((∀ p ∈ ([(.add16, fun d a => d + a), (.sub16, fun d a => d - a), (.and16, fun d a => d &&& a), (.or16, fun d a => d ||| a),
       (.xor16, fun d a => d ^^^ a),
       (.shl16, fun d a => if 32 ≤ a.toNat then 0 else BitVec.ofNat 32 (d.toNat * 2 ^ a.toNat)),
       (.shr16, fun d a => if 32 ≤ a.toNat then 0 else BitVec.ofNat 32 (d.toNat / 2 ^ a.toNat))] :
       List ((H → Instr) × (Word → Word → Word))),
     ∀ (f : H) (s : State) (c : Ctx), Executes s c f.form →
       c.t.belowLimit [(f.d.wide, p.2 (c.reads s f.form 0) (c.reads s f.form 1))] = false →
       WritesOne (p.1 f) s c 2 f.sc 2 f.d.wide (p.2 (c.reads s f.form 0) (c.reads s f.form 1)) false) ∧
   (∀ (f : H) (s : State) (c : Ctx),
     let form : Form := { len := 2, sc := f.sc, reads := [f.a.wide], names := [f.d.wide] }
     Executes s c form → c.t.belowLimit [(f.d.wide, c.reads s form 0)] = false →
       WritesOne (.mov16 f) s c 2 f.sc 2 f.d.wide (c.reads s form 0) false) ∧
   ∀ (f : HI) (s : State) (c : Ctx),
     let form : Form := { len := 2, sc := f.sc, reads := [f.d.wide] }
     let r := c.reads s form 0 + BitVec.ofInt 32 f.imm.toInt
     Executes s c form → c.t.belowLimit [(f.d.wide, r)] = false → WritesOne (.addi16 f) s c 2 f.sc 2 f.d.wide r false)

/-- R69: a result that would put g30:g31, unsigned, below the stack limit traps with STACK; nothing is written, and h2:h3 receive
the value that would have been written. Stated of ADDI, ADD64, LIL and MOV. (R364's exceptions, whose effects stand, are stated with
their instructions: ATOM in LoadDataReturns, SCLAIM and ACLAIM in SlotClaimsAndGrants, the ring operations, PALLOC, PATDEF, RECV and
RECVNF, FQPOP, NODEKILL and PREEMPT in theirs.)
R38: an instruction that names a register of the extended block traps with REGABS when its group holds none. Stated of
ADD.
R193: an instruction that reads a register carrying a poison mark traps with POISON and the ea of the access that set the mark, behind
the other checks of its operands (R78). Stated of ADD, the comparison, LD and ST, whichever of its operands are marked by that access. -/
def Obligations.OperandTraps : Prop :=
  ((∀ (f : IF) (s : State) (c : Ctx), Executes s c f.form → c.handles →
     let ws := [(f.d, c.reads s f.form 0 + f.imm.signExtend 32)]
     c.t.belowLimit ws = true → Traps (.addi f) s c .stack (c.t.stackAfter ws)) ∧
   (∀ (f : RF) (s : State) (c : Ctx), Executes s c f.form64 → c.handles →
     let ws := f.d.pairWrites (Word.pair (c.reads s f.form64 0) (c.reads s f.form64 1) +
       Word.pair (c.reads s f.form64 2) (c.reads s f.form64 3))
     c.t.belowLimit ws = true → Traps (.add64 f) s c .stack (c.t.stackAfter ws)) ∧
   (∀ (f : WF) (s : State) (c : Ctx), Executes s c { sc := f.sc, names := [f.d] } → c.handles →
     let ws := [(f.d, f.imm.signExtend 32)]
     c.t.belowLimit ws = true → Traps (.lil f) s c .stack (c.t.stackAfter ws)) ∧
   ∀ (f : XF) (s : State) (c : Ctx), Executes s c f.form → c.handles →
     let ws := [(f.d, c.reads s f.form 0)]
     c.t.belowLimit ws = true → Traps (.mov f) s c .stack (c.t.stackAfter ws)) ∧
  (∀ (f : RF) (s : State) (c : Ctx), s.ctx s.cur = some c → c.handles → c.t.completing = false → c.t.pendingPush = false →
     c.t.passes f.g = true → interlocked c.t f.form = false → c.g.ext = false →
     (32 ≤ f.a.val ∨ 32 ≤ f.b.val ∨ 32 ≤ f.d.val) → Traps (.add f) s c .regabs 0) ∧
  ∀ (f : RF) (q : CmpF) (m : MF) (s : State) (c : Ctx) (ea : DWord), s.ctx s.cur = some c → c.handles →
    c.t.completing = false → c.t.pendingPush = false →
    ∀ p ∈ ([(.add f, f.form), (.cmp q, { g := q.g, sc := q.sc, reads := [q.a, q.b], preds := true }),
        (.ld m, { sc := m.sc, reads := m.a.pair, names := m.d.group m.z.regs }),
        (.st m, { sc := m.sc, reads := m.a.pair ++ m.d.group m.z.regs })] : List (Instr × Form)),
      c.t.passes p.2.g = true → interlocked c.t p.2 = false → (c.g.ext = true ∨ ∀ r ∈ p.2.reads ++ p.2.names, r.val < 32) →
      (c.t.checking = true → ∀ r ∈ p.2.reads, c.t.late r = false ∧ c.t.stale r = false) →
      (∃ r ∈ p.2.reads, c.t.mark? r = some ea) → (∀ r ∈ p.2.reads, c.t.mark? r = none ∨ c.t.mark? r = some ea) →
      Traps p.1 s c .poison ea

/-- R62, R64: an operand that is in time and in its window reads as the register's latest value; with checking on, a read that is
not in time traps with STALL and a read past the window with STALE, whatever the instruction. Stated of ADD. An instruction reads each
operand once: from its first reading on the thread holds the values, and where the instruction waits it goes on with them (log 15).
R57: an instruction whose guard is false changes nothing but the PC of the thread. Stated of the integer register
operations, the comparisons, PLOAD, BR, JR, TRAP and SWR. -/
def Obligations.GuardsAndOperands : Prop :=
  ((∀ (t : Thread) (n k : Nat) (r : Reg), t.late r = false → t.stale r = false → t.operand n k r = t.latest r) ∧
   (∀ (s : State) (c : Ctx) (form : Form) (k : Nat) (r : Reg), s.ctx s.cur = some c → form.reads[k]? = some r →
     (c.t.held = [] → c.t.late r = false → c.t.stale r = false → c.reads s form k = c.t.latest r) ∧
     (c.t.held ≠ [] → c.reads s form k = c.t.held.getD k 0) ∧
     ∃ v, (s.spent form).thread? s.cur = some v ∧ (∀ d : Ctx, d.t = v → d.reads (s.spent form) form k = c.reads s form k)) ∧
   ∀ (f : RF) (s : State) (c : Ctx), s.ctx s.cur = some c → c.handles → c.t.completing = false → c.t.pendingPush = false →
     c.t.passes f.g = true → interlocked c.t f.form = false → c.g.ext = true → c.t.checking = true →
     ((c.t.late f.a || c.t.late f.b) = true → Traps (.add f) s c .stall 0) ∧
     ((c.t.late f.a || c.t.late f.b) = false → (c.t.stale f.a || c.t.stale f.b) = true → Traps (.add f) s c .stale 0)) ∧
  ((∀ k ∈ ([.add, .sub, .mul, .mulh, .mulhN, .and, .or, .xor, .andn, .shl, .shr, .shrA, .rot, .rotR, .min, .minN, .max, .maxN,
       .add64, .sub64] : List (RF → Instr)),
     ∀ (f : RF) (s : State) (c : Ctx), s.ctx s.cur = some c → c.t.completing = false → c.t.pendingPush = false →
       c.t.passes f.g = false → GoesOn (k f) s c f.sc) ∧
   ∀ (s : State) (c : Ctx) (g : Guard), s.ctx s.cur = some c → c.t.completing = false → c.t.pendingPush = false →
     c.t.passes g = false →
       (∀ f : CmpF, f.g = g → GoesOn (.cmp f) s c f.sc) ∧ (∀ f : AF, f.g = g → GoesOn (.pload f) s c f.sc) ∧
       (∀ f : JF, f.g = g → GoesOn (.br f) s c f.sc) ∧ (∀ f : AF, f.g = g → GoesOn (.jr f) s c f.sc) ∧
       (∀ f : NF, f.g = g → GoesOn (.trap f) s c f.sc) ∧ ∀ f : SwrF, f.g = g → GoesOn (.swr f) s c f.sc)

/-! ## Comparisons and the predicate stack -/

/-- R114, R51, R67: a comparison pushes its condition; p(i) moves to p(i+1), the old p7 is lost, no register changes.
R115: the PRD operations change the stack as the table says, entry by entry, and nothing else. -/
def Obligations.PredicateStack : Prop :=
  ((∀ (f : CmpF) (s : State) (c : Ctx),
     let form : Form := { g := f.g, sc := f.sc, reads := [f.a, f.b], preds := true }
     let a := c.reads s form 0
     let b := c.reads s form 1
     let holds : Bool :=
       match f.c with
       | .eq => a == b
       | .ne => a != b
       | .lt => a.slt b
       | .le => a.sle b
       | .gt => b.slt a
       | .ge => b.sle a
       | .ltn => a.ult b
       | .len => a.ule b
       | .gtn => b.ult a
       | .gen => b.ule a
     Executes s c form → SetsPreds (.cmp f) s c 4 f.sc (c.t.preds <<< 1 ||| (BitVec.ofBool holds).setWidth 8)) ∧
   (∀ (f : CmpIF) (s : State) (c : Ctx),
     let form : Form := { g := f.g, sc := f.sc, reads := [f.a], preds := true }
     let a := c.reads s form 0
     let b := BitVec.ofInt 32 f.imm.toInt
     let holds : Bool :=
       match f.c with
       | .eq => a == b
       | .ne => a != b
       | .lt => a.slt b
       | .le => a.sle b
       | .gt => b.slt a
       | .ge => b.sle a
       | .ltn => a.ult b
       | .len => a.ule b
       | .gtn => b.ult a
       | .gen => b.ule a
     Executes s c form → SetsPreds (.cmpi f) s c 4 f.sc (c.t.preds <<< 1 ||| (BitVec.ofBool holds).setWidth 8)) ∧
   ∀ (f : H) (s : State) (c : Ctx),
     let form : Form := { f.form with preds := true }
     Executes s c form → SetsPreds (.cmpLt16 f) s c 2 f.sc
       (c.t.preds <<< 1 ||| (BitVec.ofBool ((c.reads s form 0).slt (c.reads s form 1))).setWidth 8)) ∧
  ((∀ p ∈ ([ (.ppop, fun o n => n = o >>> 1),
       (.pdup, fun o n => n.getLsbD 0 = o.getLsbD 0 ∧ ∀ i < 7, n.getLsbD (i + 1) = o.getLsbD i),
       (.pswap, fun o n => n.getLsbD 0 = o.getLsbD 1 ∧ n.getLsbD 1 = o.getLsbD 0 ∧ ∀ i < 8, 2 ≤ i → n.getLsbD i = o.getLsbD i),
       (.pnot, fun o n => n.getLsbD 0 = !o.getLsbD 0 ∧ ∀ i < 8, 1 ≤ i → n.getLsbD i = o.getLsbD i),
       (.pand, fun o n => n.getLsbD 0 = (o.getLsbD 0 && o.getLsbD 1) ∧ ∀ i < 8, 1 ≤ i → n.getLsbD i = o.getLsbD (i + 1)),
       (.por, fun o n => n.getLsbD 0 = (o.getLsbD 0 || o.getLsbD 1) ∧ ∀ i < 8, 1 ≤ i → n.getLsbD i = o.getLsbD (i + 1)),
       (.pxor, fun o n => n.getLsbD 0 = (o.getLsbD 0 ^^ o.getLsbD 1) ∧ ∀ i < 8, 1 ≤ i → n.getLsbD i = o.getLsbD (i + 1)),
       (.prot, fun o n => n.getLsbD 7 = o.getLsbD 0 ∧ ∀ i < 7, n.getLsbD i = o.getLsbD (i + 1)) ] :
       List ((GF → Instr) × (BitVec 8 → BitVec 8 → Prop))),
     ∀ (f : GF) (s : State) (c : Ctx), Executes s c f.formP → ∃ n, p.2 c.t.preds n ∧ SetsPreds (p.1 f) s c 4 f.sc n) ∧
   (∀ (f : AF) (s : State) (c : Ctx),
     let form : Form := { g := f.g, sc := f.sc, reads := [f.a], preds := true }
     Executes s c form →
       SetsPreds (.pload f) s c 4 f.sc ((c.reads s form 0).setWidth 8) ∧
       SetsPreds (.pset f) s c 4 f.sc (c.t.preds <<< 1 ||| (BitVec.ofBool (c.reads s form 0 != 0)).setWidth 8)) ∧
   ∀ (f : DTF) (s : State) (c : Ctx),
     let form : Form := { g := f.g, sc := f.sc, names := [f.d], preds := true }
     Executes s c form →
       (c.t.belowLimit [(f.d, c.t.preds.setWidth 32)] = false →
         WritesOne (.psave f) s c 4 f.sc 2 f.d (c.t.preds.setWidth 32) f.t) ∧
       (c.t.belowLimit [(f.d, if c.t.preds.getLsbD 0 then 1 else 0)] = false →
         WritesOne (.pget f) s c 4 f.sc 2 f.d (if c.t.preds.getLsbD 0 then 1 else 0) f.t))

/-! ## Branches, calls, returns -/

/-- R116: BR goes to the offset plus twice its displacement; CALL also writes the offset of the following instruction to g29.
Nothing else changes.
R117: JR, CALLR and RET go to the value of the register, read before the link is written; an odd target traps with ALIGN at
the jump, at the address formed from the window and the target, with g29 as it was. -/
def Obligations.ControlTransfers : Prop :=
  (∀ (f : JF) (s : State) (c : Ctx),
     let target := BitVec.ofInt 32 (c.t.pc.toInt + 2 * f.disp.toInt)
     (Executes s c { g := f.g, sc := f.sc } → ∃ v, Jumps (.br f) s c f.sc target v []) ∧
     (Executes s c { g := f.g, sc := f.sc, names := [29] } →
       ∃ v, Jumps (.call f) s c f.sc target v [29] ∧ Wrote c.t v 29 (c.t.pc + 4) false ∧ Opens v 29 2 f.sc)) ∧
  (∀ (s : State) (c : Ctx),
     (∀ f : AF, let form : Form := { g := f.g, sc := f.sc, reads := [f.a] }
       let target := c.reads s form 0
       Executes s c form →
         (target.getLsbD 0 = false → ∃ v, Jumps (.jr f) s c f.sc target v []) ∧
         (target.getLsbD 0 = true → c.handles → Traps (.jr f) s c .align (Word.pair target (Word.hi c.l.nd.entry)))) ∧
     (∀ f : AF, let form : Form := { g := f.g, sc := f.sc, reads := [f.a], names := [29] }
       let target := c.reads s form 0
       Executes s c form →
         (target.getLsbD 0 = false →
           ∃ v, Jumps (.callr f) s c f.sc target v [29] ∧ Wrote c.t v 29 (c.t.pc + 4) false ∧ Opens v 29 2 f.sc) ∧
         (target.getLsbD 0 = true → c.handles → Traps (.callr f) s c .align (Word.pair target (Word.hi c.l.nd.entry)))) ∧
     ∀ f : GF, let form : Form := { g := f.g, sc := f.sc, reads := [29] }
       let target := c.reads s form 0
       Executes s c form →
         (target.getLsbD 0 = false → ∃ v, Jumps (.ret f) s c f.sc target v []) ∧
         (target.getLsbD 0 = true → c.handles → Traps (.ret f) s c .align (Word.pair target (Word.hi c.l.nd.entry))))

/-! ## Control operations -/

/-- R120, R58: NOP has no effect; DLY n adds n to the wait for the next instruction and to every distance, whether or not
its guard is true.
R41, R42, R127: SAFE writes the values in the transient window to the banks. At a safe point of the node's header, in normal
mode with a pre-emption requested, the thread enters the save routine in saving mode, with the offset after the SAFE in h0;
otherwise it goes on.
R128: YIELD has no effect outside saving mode; in saving mode the thread parks while its wave's pre-emption is in progress,
and without one enters its restore routine in restoring mode, h0 as it was. -/
def Obligations.DelayAndSafePoints : Prop :=
  ((∀ (f : GF) (s : State) (c : Ctx), Executes s c f.form → GoesOn (.nop f) s c f.sc) ∧
   ∀ (f : NF) (s : State) (c : Ctx), s.ctx s.cur = some c → c.t.completing = false →
     (f.g = .always ∨ c.t.pendingPush = false) →
     ∃ t v, exec (.dly f) s = .next t ∧ Advanced s t c 4 (f.sc + f.n) v ∧ SameControl c.t v ∧ SameRegs c.t v [] ∧
       ∀ r, v.late r = (c.t.flight.find? fun x => x.reg == r).any fun x => decide (1 + (f.sc : Nat) + (f.n : Nat) < x.left)) ∧
  (∀ (f : NF) (s : State) (c : Ctx), Executes s c { g := f.g, sc := f.sc } →
     ∃ t v, exec (.safe f) s = .next t ∧ OnlyThread s t ∧ t.thread? s.cur = some v ∧
       (∀ r, v.latest r = c.t.latest r) ∧ (∀ r, c.t.stale r = false → v.bank r = c.t.latest r) ∧
       SameControl c.t { v with h := c.t.h, mode := c.t.mode } ∧
       ((∃ p ∈ c.l.safePoints, p.index = f.n.val) → c.w.request.isSome = true → c.t.mode = .normal →
         v.mode = .saving f.n ∧ v.h = c.t.h.set 0 (c.t.pc + 4) ∧ ∃ p ∈ c.l.safePoints, p.index = f.n.val ∧ v.pc = p.save) ∧
       ((∀ p ∈ c.l.safePoints, p.index ≠ f.n.val) ∨ c.w.request = none ∨ c.t.mode ≠ .normal →
         v.mode = c.t.mode ∧ v.h = c.t.h ∧ v.pc = c.t.pc + 4)) ∧
  (∀ (f : GF) (s : State) (c : Ctx), Executes s c f.form →
     ((c.t.mode = .normal ∨ c.t.mode = .handler ∨ c.t.mode = .restoring) → GoesOn (.yield f) s c f.sc) ∧
     ∀ n, c.t.mode = .saving n →
       (c.w.request.isSome = true → ∃ t v, exec (.yield f) s = .next t ∧ Advanced s t c 4 f.sc v ∧ v.status = .parked ∧
         SameControl c.t { v with status := c.t.status } ∧ SameRegs c.t v []) ∧
       (c.w.request = none → ∀ p ∈ c.l.safePoints.find? (fun p => p.index == n), ∃ t v, exec (.yield f) s = .next t ∧
         OnlyThread s t ∧ t.thread? s.cur = some v ∧ v.mode = .restoring ∧ v.pc = p.restore ∧
         SameControl c.t { v with mode := c.t.mode } ∧ SameRegs c.t v []))

/-- R126, R318: TRAP n, SYSCALL n and BKPT enter the handler with causes TRAPI, SYSCALL and BKPT, the offset of the instruction
in h0, n or 0 in h2 and 0 in h3.
R34: GBAR executed in a node without the cooperative flag traps with GBAR.
R124, R318, R321: a trap of a thread that is not in normal mode, or whose node has no handler, outside the service cores,
stops the node's fault domain: the thread has ended and no launch of the domain is live. Stated of BKPT. -/
def Obligations.TrapsTaken : Prop :=
  (∀ (s : State) (c : Ctx), c.handles →
     (∀ f : NF, Executes s c { g := f.g, sc := f.sc } →
       Traps (.trap f) s c .trapi (BitVec.ofNat 64 f.n) ∧ Traps (.syscall f) s c .syscall (BitVec.ofNat 64 f.n)) ∧
     ∀ f : GF, Executes s c f.form → Traps (.bkpt f) s c .bkpt 0) ∧
  (∀ (f : ScF) (s : State) (c : Ctx), s.ctx s.cur = some c → c.t.loads = [] → c.handles → c.l.nd.cooperative = false →
     ∃ t v, exec (.gbar f) s = .next t ∧ t.thread? s.cur = some v ∧ Trapped c.t v (Word.lo c.l.nd.trapvec) .gbar 0) ∧
  (∀ (f : GF) (s : State) (c : Ctx), Executes s c f.form → c.l.system = false → c.l.ended = false →
     (c.t.mode ≠ .normal ∨ c.l.nd.hasVector = false) →
     ∃ t, exec (.bkpt f) s = .next t ∧ (∀ l ∈ t.launches, l.live = true → l.domain ≠ c.l.domain) ∧
       ∀ v, t.thread? s.cur = some v → v.status = .exited)

/-- R125: ERET in handler or restoring mode continues at h0 in normal mode, every fixed-latency result written, and changes no
trap register; in normal mode it traps with RI.
R123: HRD writes a trap register into d; HWR writes a register into a trap register; neither changes anything else, in
any mode. -/
def Obligations.ReturnAndTrapRegisters : Prop :=
  (∀ (f : GF) (s : State) (c : Ctx), Executes s c f.form →
     ((c.t.mode = .handler ∨ c.t.mode = .restoring) → c.t.h[0].getLsbD 0 = false →
       ∃ t v, exec (.eret f) s = .next t ∧ OnlyThread s t ∧ t.thread? s.cur = some v ∧ v.pc = c.t.h[0] ∧ v.mode = .normal ∧
         SameControl c.t { v with mode := c.t.mode } ∧ SameRegs c.t v [] ∧ ∀ r, v.late r = false) ∧
     (c.t.mode = .normal → c.handles → Traps (.eret f) s c .ri 0)) ∧
  ((∀ (f : HrdF) (s : State) (c : Ctx), Executes s c { g := f.g, sc := f.sc, names := [f.d] } →
     c.t.belowLimit [(f.d, c.t.h[f.n])] = false →
     (f.t = false → WritesBoard (.hrd f) s c f.sc f.d c.t.h[f.n]) ∧
     (f.t = true → WritesOne (.hrd f) s c 4 f.sc 0 f.d c.t.h[f.n] true)) ∧
   ∀ (f : HwrF) (s : State) (c : Ctx),
     let form : Form := { g := f.g, sc := f.sc, reads := [f.d] }
     Executes s c form → ∃ t v, exec (.hwr f) s = .next t ∧ Advanced s t c 4 f.sc v ∧ v.h[f.n] = c.reads s form 0 ∧
       (∀ k : Fin 8, k ≠ f.n → v.h[k] = c.t.h[k]) ∧ SameControl c.t { v with h := c.t.h } ∧ SameRegs c.t v [])

/-- R70, R121: SRD reads each special register as the table gives it; the result is scoreboarded, or forwarded when transient;
reading %clk also captures the high half of the counter.
R70, R121: SWR writes the value to the special register and to nothing else; one that sets a bit that must be zero traps
with RI and changes nothing. -/
def Obligations.SpecialRegisters : Prop :=
  (∀ (f : SrdF) (s : State) (c : Ctx), Executes s c { g := f.g, sc := f.sc, names := [f.d] } →
     let idx := c.t.id.idx
     let clk := ((s.die? c.w.die).map (·.clk)).getD 0
     let window := if c.w.spadBytes = 0 then 0 else
       0x01F0000000000000 + c.w.firstCore.die * 2 ^ 28 + c.w.firstCore.core * 2 ^ 22 + c.w.firstOff
     let n := c.w.index * (c.w.groups * c.w.width) + idx
     let x : Word :=
       match f.i with
       | .tid => BitVec.ofNat 32 idx
       | .lane => BitVec.ofNat 32 (idx % c.w.width)
       | .gwidth => BitVec.ofNat 32 c.w.width
       | .group => BitVec.ofNat 32 (idx / c.w.width)
       | .wave => BitVec.ofNat 32 c.w.index
       | .nwave => BitVec.ofNat 32 c.l.nd.waves
       | .node => c.l.node.extractLsb' 0 32
       | .core => BitVec.ofNat 32 c.w.core
       | .die => BitVec.ofNat 32 c.w.die
       | .module => BitVec.ofNat 32 s.moduleNo
       | .clk => clk.extractLsb' 0 32
       | .clkh => c.t.clkh
       | .fflags => c.t.fflags
       | .fcr => c.t.fcr
       | .ctl => c.t.ctl
       | .slim => c.t.slim.extractLsb' 0 32
       | .slimh => c.t.slim.extractLsb' 32 32
       | .param => c.l.nd.param.extractLsb' 0 32
       | .paramh => c.l.nd.param.extractLsb' 32 32
       | .spad => BitVec.ofNat 32 window
       | .spadh => BitVec.ofNat 32 (window / 2 ^ 32)
       | .item => if c.l.nd.reserving then BitVec.ofNat 32 n else 0
       | .fport => c.t.fport
       | .step => BitVec.ofNat 32 c.w.step
       | .xstat => (BitVec.ofBool (c.l.nd.reserving && decide (n < c.l.nd.items) && (c.l.item n).phase == .executing) ++
           BitVec.ofBool c.t.pending ++ BitVec.ofBool c.g.ext).setWidth 32
     c.t.belowLimit [(f.d, x)] = false →
       (f.i ≠ .clk → f.t = false → WritesBoard (.srd f) s c f.sc f.d x) ∧
       (f.i ≠ .clk → f.t = true → WritesOne (.srd f) s c 4 f.sc 0 f.d x true) ∧
       (f.i = .clk → ∃ t v, exec (.srd f) s = .next t ∧ Advanced s t c 4 f.sc v ∧ v.clkh = clk.extractLsb' 32 32 ∧
         SameControl c.t { v with clkh := c.t.clkh } ∧ SameRegs c.t v [f.d] ∧ Wrote c.t v f.d x f.t)) ∧
  (∀ (f : SwrF) (s : State) (c : Ctx),
     let form : Form := { g := f.g, sc := f.sc, reads := [f.d] }
     let x := c.reads s form 0
     let limit : Nat :=
       match f.i with
       | .fflags => 2 ^ 5
       | .fcr => 2 ^ 2
       | .ctl => 2
       | _ => 2 ^ 32
     let old := c.t
     Executes s c form → f.i ∈ [SReg.fflags, .fcr, .ctl, .slim, .slimh, .fport] →
       (x.toNat < limit → ∃ t v, exec (.swr f) s = .next t ∧ Advanced s t c 4 f.sc v ∧ SameRegs old v [] ∧
         v.fflags = (if f.i = .fflags then x else old.fflags) ∧ v.fcr = (if f.i = .fcr then x else old.fcr) ∧
         v.ctl = (if f.i = .ctl then x else old.ctl) ∧ v.fport = (if f.i = .fport then x else old.fport) ∧
         v.slim.extractLsb' 0 32 = (if f.i = .slim then x else old.slim.extractLsb' 0 32) ∧
         v.slim.extractLsb' 32 32 = (if f.i = .slimh then x else old.slim.extractLsb' 32 32) ∧
         SameControl old { v with fflags := old.fflags, fcr := old.fcr, ctl := old.ctl, fport := old.fport, slim := old.slim }) ∧
       (limit ≤ x.toNat → c.handles → Traps (.swr f) s c .ri 0))

/-- R129, R24, R37: EXIT ends the thread: its window and its outstanding loads are gone, its accepted stores stay; a group without
a live thread holds no extended block; no memory and no other thread changes. A cluster-set thread with its pending bit set
traps with CLUSTEREXIT instead.
R133: SPAWN with its depth below 8, an aligned address and room in the launch port of its die makes the thread's stores take
effect and enters the launch, one deeper, with what it inherits; while the port is full it waits; at depth 8 it traps with SPAWNDEPTH,
and at a misaligned address with ALIGN. Where the module records, room in the die's log is asked too (R351). -/
def Obligations.ThreadsEndAndSpawn : Prop :=
  (∀ (f : GF) (s : State) (c : Ctx), Executes s c f.form →
     ((c.l.nd.clusterSet && c.t.pending) = false → (∀ u ∈ s.threads, u.arrival? = none) →
       ∃ t v, exec (.exit f) s = .next t ∧ t.thread? s.cur = some v ∧ v.status = .exited ∧ v.trans = [] ∧ v.loads = [] ∧
         v.stores = c.t.stores ∧ (∀ id, id ≠ s.cur → t.thread? id = s.thread? id) ∧ (∀ a, t.mem.get a = s.mem.get a) ∧
         t.waves = s.waves ∧ t.dies = s.dies ∧
         ((∀ u ∈ s.threads, u.status ≠ .exited → u.id.wave = c.w.uid → c.w.groupOf u.id.idx = c.w.groupOf c.t.id.idx →
           u.id = s.cur) → ∀ g ∈ t.groups, g.wave = c.w.uid → g.idx = c.w.groupOf c.t.id.idx → g.ext = false)) ∧
     ((c.l.nd.clusterSet && c.t.pending) = true → c.handles → Traps (.exit f) s c .clusterexit 0)) ∧
  (∀ (f : AF) (s : State) (c : Ctx),
     let form : Form := { g := f.g, sc := f.sc, reads := f.a.pair }
     let addr := Word.pair (c.reads s form 0) (c.reads s form 1)
     Executes s c form →
       (c.l.depth ≠ 8 → addr.toNat % 64 = 0 → ∀ d, s.die? c.w.die = some d → d.launchPort.length < 256 →
         (s.recording = true → d.log.length < s.boot.logRoom) →
         let u := ((s.spent form).drain s.cur).publish s.cur
         ∃ t v d', exec (.spawn f) s = .next t ∧ t.thread? s.cur = some v ∧ v.pc = c.t.pc + 4 ∧ v.stores = [] ∧
           (∀ w, u.thread? s.cur = some w → SameControl w v) ∧ SameRegs c.t v [] ∧ t.die? c.w.die = some d' ∧
           d'.launchPort = d.launchPort ++ [⟨addr, c.l.depth + 1, c.l.prio, c.l.domain, c.l.budget, none, u.knows s.cur⟩] ∧
           t.mem = u.mem ∧ t.waves = u.waves ∧ t.launches = s.launches ∧ ∀ id, id ≠ s.cur → t.thread? id = s.thread? id) ∧
       (c.l.depth ≠ 8 → addr.toNat % 64 = 0 → ∀ d, s.die? c.w.die = some d → 256 ≤ d.launchPort.length →
         Polls (.spawn f) s c (((s.spent form).drain s.cur).publish s.cur) .poll) ∧
       (c.l.depth = 8 → c.handles → Traps (.spawn f) s c .spawndepth 0) ∧
       (c.l.depth ≠ 8 → addr.toNat % 64 ≠ 0 → c.handles → Traps (.spawn f) s c .align addr))

/-! ## Cross-lane instructions and group collectives -/

/-- R150, R153 to R158: with one live thread in the group and nobody waiting, each cross-lane instruction and collective in which its
thread has not waited before completes at its arrival with the one-lane result: shuffles give the lane's own value when the source is the
lane or lies outside the group and 0 from an absent lane, reductions and SCAN its value, BALLOT its bit, votes its own vote, ELECT itself.
The barriers change nothing else but what their full fence orders. R130 to R132, R135: the group collectives complete likewise, GBAR in a
cooperative node; XACQ is stated of a group that holds its block; XREL frees the block. R62, R78: an operand read too early, or another
condition of R78's steps 3 and 4, traps at the arrival. (That the values of fixed-latency results still open stand in the banks at the
arrival while their distances go on is the model's reading, log 78.) -/
def Obligations.OneLaneCollectives : Prop :=
  ∀ (s : State) (c : Ctx), s.ctx s.cur = some c → c.t.loads = [] → c.t.held = [] → (∀ r, c.t.stale r = false) →
    s.liveOfGroup c.w (c.w.groupOf c.t.id.idx) = [c.t] → (∀ u ∈ s.threads, u.arrival? = none) →
    let u := c.t.arriving
    let lane := c.t.id.idx % c.w.width
    let quiet (i : Instr) (sc : Nat) (regs : List Reg) (v : Thread) : Prop :=
      ∃ t, exec i s = .next t ∧ OnlyThread s t ∧ t.thread? s.cur = some v ∧ v.pc = c.t.pc + 4 ∧ v.readyAt = s.now + 1 + sc ∧
        v.wait = .none ∧ SameControl u { v with preds := u.preds, fflags := u.fflags, pending := u.pending } ∧
        SameRegs u v regs
    let fenced (i : Instr) (sc : Nat) (v : Thread) : Prop :=
      ∃ t, exec i s = .next t ∧ t = { s with threads := t.threads, fences := t.fences, free := t.free } ∧
        (∀ id, id ≠ s.cur → t.thread? id = s.thread? id) ∧ t.thread? s.cur = some v ∧ v.pc = c.t.pc + 4 ∧
        v.readyAt = s.now + 1 + sc ∧ v.wait = .none ∧
        SameControl u { v with pending := u.pending, sight := u.sight, released := u.released } ∧ SameRegs u v []
    (∀ p ∈ ([ (.shflIdx, fun a k => if k % c.w.width = lane then a else 0),
        (.shflXor, fun a k => if lane ^^^ (k % c.w.width) = lane then a else if c.w.width ≤ lane ^^^ (k % c.w.width) then a else 0),
        (.shflUp, fun a k => if k = 0 ∨ lane < k then a else 0),
        (.shflDown, fun a k => if k = 0 ∨ c.w.width ≤ lane + k then a else 0) ] : List ((XlF → Instr) × (Word → Nat → Word))),
      ∀ f : XlF, operandTrap { c with t := u } { sc := f.sc, reads := [f.a, f.d], names := [f.d] } = none →
        let x := p.2 (u.latest f.a) (u.latest f.d).toNat
        0 < c.w.width → u.belowLimit [(f.d, x)] = false →
        ∃ v, quiet (p.1 f) f.sc [f.d] v ∧ Wrote u v f.d x false ∧ v.preds = u.preds ∧ v.fflags = u.fflags) ∧
    (∀ k ∈ ([.radd, .rmin, .rmax, .scan] : List (XlF → Instr)),
      ∀ f : XlF, operandTrap { c with t := u } { sc := f.sc, reads := [f.a], names := [f.d] } = none →
        u.belowLimit [(f.d, u.latest f.a)] = false →
        ∃ v, quiet (k f) f.sc [f.d] v ∧ Wrote u v f.d (u.latest f.a) false ∧ v.preds = u.preds ∧ v.fflags = u.fflags) ∧
    (∀ k ∈ ([.radd, .rfadd, .rmin, .rmax, .scan] : List (XlF → Instr)), ∀ (f : XlF) (cause : Cause) (ea : DWord), c.handles →
      operandTrap { c with t := u } { sc := f.sc, reads := [f.a], names := [f.d] } = some (cause, ea) → Traps (k f) s c cause ea) ∧
    (∀ f : XlF, operandTrap { c with t := u } { sc := f.sc, reads := [f.a], names := [f.d] } = none →
      let nan := (u.latest f.a).toNat % 2 ^ 31 > 0x7F800000
      let x := if nan then 0x7FC00000 else u.latest f.a
      0 < c.w.width → (∃ k, c.w.width = 2 ^ k) → u.belowLimit [(f.d, x)] = false →
        ∃ v, quiet (.rfadd f) f.sc [f.d] v ∧ Wrote u v f.d x false ∧ v.preds = u.preds ∧
          v.fflags = u.fflags ||| (if nan ∧ (u.latest f.a).getLsbD 22 = false then 1 else 0)) ∧
    (∀ f : XlF, operandTrap { c with t := u } { sc := f.sc, reads := [f.a], names := f.d.pair } = none →
      let x := BitVec.ofNat 64 (if u.latest f.a = 0 then 0 else 2 ^ lane)
      u.belowLimit (f.d.pairWrites x) = false →
        ∃ v, quiet (.ballot f) f.sc f.d.pair v ∧ v.latest f.d = Word.lo x ∧ v.latest (f.d.succ 1) = Word.hi x ∧
          v.preds = u.preds ∧ v.fflags = u.fflags) ∧
    (∀ f : XlDF, operandTrap { c with t := u } { sc := f.sc, names := [f.d], preds := true } = none →
      u.belowLimit [(f.d, BitVec.ofNat 32 lane)] = false →
        ∃ v, quiet (.elect f) f.sc [f.d] v ∧ Wrote u v f.d (BitVec.ofNat 32 lane) false ∧ v.preds = (u.push true).preds ∧
          v.fflags = u.fflags) ∧
    (∀ k ∈ ([.voteAll, .voteAny] : List (XlAF → Instr)),
      ∀ f : XlAF, operandTrap { c with t := u } { sc := f.sc, reads := [f.a], preds := true } = none →
        ∃ v, quiet (k f) f.sc [] v ∧ v.preds = (u.push (u.latest f.a != 0)).preds ∧ v.fflags = u.fflags) ∧
    (c.t.storesDone = true → ∀ f : XlAF, operandTrap { c with t := u } { sc := f.sc, reads := f.a.pair } = none → 0 < c.w.width →
      c.w.width ≤ 64 → ∃ v, fenced (.gsync f) f.sc v ∧ v.pending = u.pending) ∧
    (c.t.storesDone = true → (∀ x ∈ s.threads, x.live = true → x = c.t) → ∀ f : ScF,
      (s.household c.w = [c.w] → ∃ v, fenced (.cbar f) f.sc v ∧ v.pending = false) ∧
      (c.l.nd.cooperative = true → c.w.launch = c.l.id → c.w.step = c.l.step → c.w ∈ s.waves →
        ∃ v, fenced (.gbar f) f.sc v ∧ v.pending = u.pending)) ∧
    ∀ f : ScF,
      (c.g.ext = true → ∃ v, quiet (.xacq f) f.sc [] v ∧ v.preds = u.preds ∧ v.fflags = u.fflags ∧ v.pending = u.pending) ∧
      ∃ t v g, exec (.xrel f) s = .next t ∧ t.thread? s.cur = some v ∧ v.pc = c.t.pc + 4 ∧ v.wait = .none ∧
        SameControl u v ∧ SameRegs u v [] ∧ t.group? c.w.uid (c.w.groupOf c.t.id.idx) = some g ∧ g.ext = false ∧ t.mem = s.mem

/-- R154 to R156, R103: the values that an instance of several lanes gives each participant, whatever the participants: `ls` are their
lanes with the values they read at arrival. RFADD's value is R103's tree over the lanes, a NaN being the canonical one.
R150: a thread that arrives at an XL operation, not having waited in it before, while another live thread of its group has not arrived
waits there, and nothing else changes. When it is the last to arrive, every live thread of the group goes past the instruction with its
result.
R151: when all others of its group wait at XL operations at other offsets, every live thread of the group traps with XLMISMATCH.
R157, R158, R135: GSYNC, CBAR and GBAR complete when the last of their participants arrives: all go on, and each then knows every write
that any of them knew; CBAR clears their pending bits. -/
def Obligations.CollectiveResults : Prop :=
  (∀ (ls : List Lane) (width : Nat) (l : Lane), l ∈ ls → (ls.map (·.lane)).Nodup → (∀ x ∈ ls, x.lane < width) →
    (∀ (f : XlF) (src : Int),
      (∀ p ∈ ([ (.shflIdx f, (l.c.toNat % width : Nat)), (.shflXor f, (l.lane ^^^ (l.c.toNat % width) : Nat)),
          (.shflUp f, (l.lane : Int) - l.c.toNat), (.shflDown f, (l.lane : Int) + l.c.toNat) ] : List (Instr × Int)),
        p.2 = src →
        ((src < 0 ∨ (width : Int) ≤ src) → (laneResult p.1 ls width l).writes = [(f.d, l.a)]) ∧
        ((0 ≤ src ∧ src < width) →
          (∀ x ∈ ls, (x.lane : Int) = src → (laneResult p.1 ls width l).writes = [(f.d, x.a)]) ∧
          ((∀ x ∈ ls, (x.lane : Int) ≠ src) → (laneResult p.1 ls width l).writes = [(f.d, 0)])))) ∧
    (∀ f : XlF, (laneResult (.radd f) ls width l).writes = [(f.d, (ls.map (·.a)).sum)] ∧
      (laneResult (.scan f) ls width l).writes = [(f.d, ((ls.filter fun x => decide (x.lane ≤ l.lane)).map (·.a)).sum)] ∧
      (∃ m, (laneResult (.rmin f) ls width l).writes = [(f.d, m)] ∧ (∃ x ∈ ls, x.a = m) ∧ ∀ x ∈ ls, m.toInt ≤ x.a.toInt) ∧
      (∃ m, (laneResult (.rmax f) ls width l).writes = [(f.d, m)] ∧ (∃ x ∈ ls, x.a = m) ∧ ∀ x ∈ ls, x.a.toInt ≤ m.toInt) ∧
      ∃ m : DWord, (laneResult (.ballot f) ls width l).writes = f.d.pairWrites m ∧
        ∀ k < 64, m.getLsbD k = true ↔ ∃ x ∈ ls, x.lane = k ∧ x.a ≠ 0) ∧
    (∀ f : XlAF, (laneResult (.voteAll f) ls width l).push = some (decide (∀ x ∈ ls, x.a ≠ 0)) ∧
      (laneResult (.voteAny f) ls width l).push = some (decide (∃ x ∈ ls, x.a ≠ 0))) ∧
    (∀ f : XlDF, ∃ e, (laneResult (.elect f) ls width l).writes = [(f.d, BitVec.ofNat 32 e)] ∧ (∃ x ∈ ls, x.lane = e) ∧
      (∀ x ∈ ls, e ≤ x.lane) ∧ (laneResult (.elect f) ls width l).push = some (decide (l.lane = e))) ∧
    ∀ (f : XlF) (k : Nat), width = 2 ^ k →
      let terms : List (Option Nat) := (List.range width).map fun i => (ls.find? fun x => x.lane == i).map (·.a.toNat)
      ∃ x, (Fp.treeRound^[k] terms).head? = some (some x) ∧
        (laneResult (.rfadd f) ls width l).writes = [(f.d, if 0x7F800000 < x % 2 ^ 31 then 0x7FC00000 else BitVec.ofNat 32 x)]) ∧
  ∀ (s : State) (c : Ctx), s.ctx s.cur = some c → c.t.loads = [] → c.t.held = [] → (s.threads.map (·.id)).Nodup →
    let u := c.t.arriving
    let group := s.liveOfGroup c.w (c.w.groupOf c.t.id.idx)
    c.t ∈ group →
    (∀ (f : XlF) (fa : XlAF) (fd : XlDF),
      ∀ p ∈ ([ (.shflIdx f, [f.a, f.d], [f.d]), (.shflXor f, [f.a, f.d], [f.d]), (.shflUp f, [f.a, f.d], [f.d]),
          (.shflDown f, [f.a, f.d], [f.d]), (.voteAll fa, [fa.a], []), (.voteAny fa, [fa.a], []), (.ballot f, [f.a], f.d.pair),
          (.radd f, [f.a], [f.d]), (.rfadd f, [f.a], [f.d]), (.rmin f, [f.a], [f.d]), (.rmax f, [f.a], [f.d]),
          (.scan f, [f.a], [f.d]), (.elect fd, [], [fd.d]) ] : List (Instr × List Reg × List Reg)),
        let value (k : Nat) : Word := ((p.2.1[k]?).map fun _ => u.readAt p.2.1 s.free k).getD 0
        let mine : Arrival := ⟨p.1, (value 0).setWidth 64, value 1⟩
        operandTrap { c with t := u } { sc := 0, reads := p.2.1, names := p.2.2 } = none →
        ((∃ x ∈ group, x ≠ c.t ∧ x.arrival? = none) →
          (∀ x ∈ s.threads, ∀ y, x.arrival? = some y → x ∈ group ∧ y.instr = p.1) →
          ∃ t v, exec p.1 s = .next t ∧ OnlyThread s t ∧ t.thread? s.cur = some v ∧ v.wait = .arrived mine ∧ v.pc = c.t.pc ∧
            SameControl c.t v ∧ ∀ r, v.latest r = c.t.latest r) ∧
        ((∀ x ∈ group, x ≠ c.t → x.pc = c.t.pc ∧ ∃ y, x.arrival? = some y ∧ y.instr = p.1) →
          (∀ x ∈ s.threads, x.arrival?.isSome = true → x ∈ group) →
          let lane (x : Thread) : Lane :=
            let y := if x = c.t then mine else x.arrival?.getD mine
            ⟨x.id.idx % c.w.width, Word.lo y.a, y.c⟩
          let r (x : Thread) := laneResult p.1 (group.map lane) c.w.width (lane x)
          (∀ x ∈ group, x.belowLimit (r x).writes = false) →
          ∃ t, exec p.1 s = .next t ∧ ∀ x ∈ group, ∃ v, t.thread? x.id = some v ∧ v.pc = c.t.pc + 4 ∧ v.wait = .none ∧
            (∀ w ∈ (r x).writes, Wrote x v w.1 w.2 false) ∧
            v.preds = (((r x).push.map fun b => x.preds <<< 1 ||| (BitVec.ofBool b).setWidth 8).getD x.preds) ∧
            v.fflags = x.fflags ||| (r x).flags.setWidth 32) ∧
        ((∃ x ∈ group, x ≠ c.t) →
          (∀ x ∈ group, x ≠ c.t → x.pc ≠ c.t.pc ∧ ∃ f' y, x.arrival? = some y ∧ y.instr = .radd f') →
          (∀ x ∈ s.threads, x.arrival?.isSome = true → x ∈ group) →
          (∀ x ∈ group, x.mode = .normal) → (c.l.system || c.l.nd.hasVector) = true →
          ∃ t, exec p.1 s = .next t ∧ ∀ x ∈ group, ∃ v, t.thread? x.id = some v ∧
            Trapped x v (Word.lo c.l.nd.trapvec) .xlmismatch 0 ∧ ∀ r, v.latest r = x.latest r)) ∧
    (c.t.storesDone = true →
      ∀ p ∈ ([ ⟨fun f => .gsync f, fun x => x.id.wave == c.w.uid && c.w.groupOf x.id.idx == c.w.groupOf c.t.id.idx, true⟩,
          ⟨fun f => .cbar ⟨f.sc⟩, fun x => (s.household c.w).any fun y => y.uid == x.id.wave, false⟩,
          ⟨fun f => .gbar ⟨f.sc⟩, fun x => s.waves.any fun w => w.uid == x.id.wave && w.launch == c.l.id && w.step == c.l.step,
            false⟩ ] : List ((XlAF → Instr) × (Thread → Bool) × Bool)),
      ∀ f : XlAF,
        let mask : Nat := (Word.pair (u.readAt f.a.pair s.free 0) (u.readAt f.a.pair s.free 1)).toNat % 2 ^ c.w.width |||
          2 ^ (c.t.id.idx % c.w.width)
        let mine : Arrival := ⟨p.1 f, if p.2.2 then BitVec.ofNat 64 mask else 0, 0⟩
        let part (x : Thread) : Bool := x.live && p.2.1 x && (!p.2.2 || mask.testBit (x.id.idx % c.w.width))
        operandTrap { c with t := u } { sc := f.sc, reads := if p.2.2 then f.a.pair else [] } = none → 0 < c.w.width →
        c.w.width ≤ 64 → (c.l.nd.cooperative = true ∨ ∀ q, p.1 f ≠ .gbar q) →
        part c.t = true →
        (∀ x ∈ s.threads, x ≠ c.t →
          (part x = true → x.pc = c.t.pc ∧ x.arrival? = some mine) ∧ (part x = false → x.arrival? = none)) →
        (∀ x ∈ s.threads, part x = true → ∃ d, s.ctx x.id = some d ∧
          ∀ y ∈ s.threads, y ∈ s.participants d.w d.l x mine ↔ part y = true) →
        ∃ t, exec (p.1 f) s = .next t ∧ ∀ x ∈ s.threads, part x = true → ∃ v, t.thread? x.id = some v ∧ v.pc = c.t.pc + 4 ∧
          v.wait = .none ∧ (p.1 f = .cbar ⟨f.sc⟩ → v.pending = false) ∧
          ∀ y ∈ s.threads, part y = true → ∀ e ∈ y.sight.know.seen, e ∈ v.sight.know.seen)

/-! ## Floating point -/

/-- R51, R59, R65, R94, R139, R140, R143, R146 to R148: every floating-point instruction that writes a register completes with the result
of its operation on encodings, with the latency of its class, and adds its flags to %fflags unless F is 1; nothing else
changes. What the operations are is stated below. DMOV, DCLASS and DP4 raise no flags. -/
def Obligations.FloatInstructionsComplete : Prop :=
  ∀ (s : State) (c : Ctx),
    let m := roundingOf c.t.fcr
    (∀ p ∈ ([ (.fadd, Fp.add Fp.fp32 m), (.fsub, Fp.sub Fp.fp32 m), (.fmul, Fp.times Fp.fp32 m),
        (.fmin, Fp.minimum Fp.fp32), (.fmax, Fp.maximum Fp.fp32),
        (.hadd2, fun x y => half2 (Fp.add Fp.fp16 m) (BitVec.ofNat 32 x) (BitVec.ofNat 32 y)),
        (.hadd2Bf, fun x y => half2 (Fp.add Fp.bf16 m) (BitVec.ofNat 32 x) (BitVec.ofNat 32 y)),
        (.hmul2, fun x y => half2 (Fp.times Fp.fp16 m) (BitVec.ofNat 32 x) (BitVec.ofNat 32 y)),
        (.hmul2Bf, fun x y => half2 (Fp.times Fp.bf16 m) (BitVec.ofNat 32 x) (BitVec.ofNat 32 y)) ] :
        List ((FF → Instr) × (Nat → Nat → Nat × FpFlags))),
      ∀ f : FF, Executes s c f.form →
        let r := p.2 (c.reads s f.form 0).toNat (c.reads s f.form 1).toNat
        c.t.belowLimit [(f.d, BitVec.ofNat 32 r.1)] = false →
          WritesFlagged (p.1 f) s c 4 f.sc 4 f.d (BitVec.ofNat 32 r.1) f.t f.q r.2) ∧
    (∀ p ∈ ([ (.ffma, fun x y z => Fp.fma Fp.fp32 m x.toNat y.toNat z.toNat), (.hfma2, half3 (Fp.fma Fp.fp16 m)),
        (.hfma2Bf, half3 (Fp.fma Fp.bf16 m)), (.dp4E4, dp4E4Sum m) ] :
        List ((FF → Instr) × (Word → Word → Word → Nat × FpFlags))),
      ∀ f : FF, Executes s c f.form3 →
        let r := p.2 (c.reads s f.form3 0) (c.reads s f.form3 1) (c.reads s f.form3 2)
        c.t.belowLimit [(f.d, BitVec.ofNat 32 r.1)] = false →
          WritesFlagged (p.1 f) s c 4 f.sc 4 f.d (BitVec.ofNat 32 r.1) f.t f.q r.2) ∧
    (∀ f : FF, Executes s c f.form3 →
      let a := c.reads s f.form3 0
      let b := c.reads s f.form3 1
      let byte (x : Word) (i : Nat) : Int := (x.extractLsb' (8 * i) 8).toInt
      let x := BitVec.ofInt 32 ((c.reads s f.form3 2).toInt + byte a 0 * byte b 0 + byte a 1 * byte b 1 + byte a 2 * byte b 2 +
        byte a 3 * byte b 3)
      c.t.belowLimit [(f.d, x)] = false → WritesOne (.dp4 f) s c 4 f.sc 4 f.d x f.t) ∧
    (∀ p ∈ ([ (.dadd, Fp.add Fp.fp64 m), (.dsub, Fp.sub Fp.fp64 m), (.dmul, Fp.times Fp.fp64 m),
        (.fminD, Fp.minimum Fp.fp64), (.fmaxD, Fp.maximum Fp.fp64) ] : List ((FF → Instr) × (Nat → Nat → Nat × FpFlags))),
      ∀ f : FF, Executes s c f.form64 →
        let r := p.2 (Word.pair (c.reads s f.form64 0) (c.reads s f.form64 1)).toNat
          (Word.pair (c.reads s f.form64 2) (c.reads s f.form64 3)).toNat
        c.t.belowLimit (f.d.pairWrites (BitVec.ofNat 64 r.1)) = false →
          WritesPairFlagged (p.1 f) s c f.sc 8 f.d (BitVec.ofNat 64 r.1) f.t f.q r.2) ∧
    (∀ f : FF, Executes s c f.form364 →
      let r := Fp.fma Fp.fp64 m (Word.pair (c.reads s f.form364 0) (c.reads s f.form364 1)).toNat
        (Word.pair (c.reads s f.form364 2) (c.reads s f.form364 3)).toNat
        (Word.pair (c.reads s f.form364 4) (c.reads s f.form364 5)).toNat
      c.t.belowLimit (f.d.pairWrites (BitVec.ofNat 64 r.1)) = false →
        WritesPairFlagged (.dfma f) s c f.sc 8 f.d (BitVec.ofNat 64 r.1) f.t f.q r.2) ∧
    (∀ p ∈ ([ (.fneg, 4, Fp.negation Fp.fp32), (.fabs, 4, Fp.absolute Fp.fp32), (.fsqrt, 12, Fp.sqrt Fp.fp32 m),
        (.frcp, 12, Fp.recip Fp.fp32 m), (.frsq, 12, Fp.rsqrt Fp.fp32 m), (.fex2, 12, Fp.exp2 Fp.fp32 m),
        (.flg2, 12, Fp.log2 Fp.fp32 m), (.ffloor, 4, Fp.integral Fp.fp32 .rd false), (.fceil, 4, Fp.integral Fp.fp32 .ru false),
        (.ftrunc, 4, Fp.integral Fp.fp32 .rz false), (.frint, 4, Fp.integral Fp.fp32 m true),
        (.fclass, 4, fun x => ((Fp.classMask Fp.fp32 x).toNat, 0)), (.fsat, 4, Fp.saturate Fp.fp32) ] :
        List ((XFF → Instr) × Nat × (Nat → Nat × FpFlags))),
      ∀ f : XFF, Executes s c f.form →
        let r := p.2.2 (c.reads s f.form 0).toNat
        c.t.belowLimit [(f.d, BitVec.ofNat 32 r.1)] = false →
          WritesFlagged (p.1 f) s c 4 f.sc p.2.1 f.d (BitVec.ofNat 32 r.1) f.t f.q r.2) ∧
    (∀ p ∈ ([ (.dneg, 8, Fp.negation Fp.fp64), (.dabs, 8, Fp.absolute Fp.fp64), (.dsqrt, 12, Fp.sqrt Fp.fp64 m),
        (.drcp, 12, Fp.recip Fp.fp64 m), (.dfloor, 8, Fp.integral Fp.fp64 .rd false), (.dceil, 8, Fp.integral Fp.fp64 .ru false),
        (.dtrunc, 8, Fp.integral Fp.fp64 .rz false), (.drint, 8, Fp.integral Fp.fp64 m true) ] :
        List ((XFF → Instr) × Nat × (Nat → Nat × FpFlags))),
      ∀ f : XFF, Executes s c f.form64 →
        let r := p.2.2 (Word.pair (c.reads s f.form64 0) (c.reads s f.form64 1)).toNat
        c.t.belowLimit (f.d.pairWrites (BitVec.ofNat 64 r.1)) = false →
          WritesPairFlagged (p.1 f) s c f.sc p.2.1 f.d (BitVec.ofNat 64 r.1) f.t f.q r.2) ∧
    (∀ f : XFF, Executes s c f.form64 →
      let x := Word.pair (c.reads s f.form64 0) (c.reads s f.form64 1)
      c.t.belowLimit (f.d.pairWrites x) = false → WritesPair (.dmov f) s c f.sc 8 f.d x f.t) ∧
    (∀ f : XFF, let form : Form := { g := f.g, sc := f.sc, reads := f.a.pair, names := [f.d] }
      Executes s c form →
      let x := Fp.classMask Fp.fp64 (Word.pair (c.reads s form 0) (c.reads s form 1)).toNat
      c.t.belowLimit [(f.d, x)] = false → WritesOne (.dclass f) s c 4 f.sc 8 f.d x f.t) ∧
    (∀ f : CvtF, Executes s c f.form →
      let r := Cvt.result f.c m (fun k => c.reads s f.form k)
      (Cvt.wide f.c = false → c.t.belowLimit [(f.d, BitVec.ofNat 32 r.1)] = false →
        WritesFlagged (.cvt f) s c 4 f.sc 4 f.d (BitVec.ofNat 32 r.1) f.t f.q r.2) ∧
      (Cvt.wide f.c = true → c.t.belowLimit (f.d.pairWrites (BitVec.ofNat 64 r.1)) = false →
        WritesPairFlagged (.cvt f) s c f.sc 4 f.d (BitVec.ofNat 64 r.1) f.t f.q r.2)) ∧
    ∀ p ∈ ([ (.fadd16, Fp.add Fp.fp32 m), (.fsub16, Fp.sub Fp.fp32 m), (.fmul16, Fp.times Fp.fp32 m),
        (.fmax16, Fp.maximum Fp.fp32), (.fmin16, Fp.minimum Fp.fp32) ] : List ((H → Instr) × (Nat → Nat → Nat × FpFlags))),
      ∀ f : H, Executes s c f.form →
        let r := p.2 (c.reads s f.form 0).toNat (c.reads s f.form 1).toNat
        c.t.belowLimit [(f.d.wide, BitVec.ofNat 32 r.1)] = false →
          WritesFlagged (p.1 f) s c 2 f.sc 4 f.d.wide (BitVec.ofNat 32 r.1) false false r.2

/-- R96: exact sums and products of values. A NaN makes a NaN; opposite infinities, and zero times infinity, make a NaN and raise
invalid; another infinity is the result; otherwise the result is the exact real sum or product, and no flag is raised. An exact zero
sum is -0 when all terms are -0 or the mode is RD, else +0. That opposite infinities raise invalid even beside a NaN is the model's
choice (log 10).
R140, R147, R148: addition, subtraction, multiplication and fused multiply-add of finite operands give the exact result rounded once
under R92; a NaN operand gives the canonical NaN, with invalid for a signalling one and for zero times infinity; opposite infinities
give it with invalid; the packed operations work on each half, DP4.e4 on d and the exact sum of its four products. -/
def Obligations.ExactSumsAndProducts : Prop :=
  ((∀ (m : Rounding) (ts : List Fp.Val), ts ≠ [] →
    ((∃ t ∈ ts, t.isNan = true) → (Fp.sum m ts).1.isNan = true) ∧
    (∀ n, (∃ t ∈ ts, t.isNan = true) → .inf n ∉ ts → (Fp.sum m ts).2 = 0) ∧
    (.inf false ∈ ts → .inf true ∈ ts → (Fp.sum m ts).1.isNan = true ∧ (Fp.sum m ts).2 = 1) ∧
    (∀ n, (∀ t ∈ ts, t.isNan = false) → .inf n ∈ ts → .inf (!n) ∉ ts → Fp.sum m ts = (.inf n, 0)) ∧
    ((∀ t ∈ ts, t.finite = true) → (Fp.sum m ts).2 = 0 ∧ (Fp.sum m ts).1.finite = true ∧
      (Fp.sum m ts).1.rat = (ts.map Fp.Val.rat).sum ∧
      ((Fp.sum m ts).1.rat = 0 → ((Fp.sum m ts).1.neg = true ↔ (∀ t ∈ ts, t.isZero = true ∧ t.neg = true) ∨ m = .rd)))) ∧
  ∀ x y : Fp.Val,
    ((x.isNan = true ∨ y.isNan = true) → (Fp.mul x y).1.isNan = true ∧ (Fp.mul x y).2 = 0) ∧
    ((x.isZero = true ∧ y.isInf = true ∨ x.isInf = true ∧ y.isZero = true) →
      (Fp.mul x y).1.isNan = true ∧ (Fp.mul x y).2 = 1) ∧
    (x.finite = true → y.finite = true → (Fp.mul x y).1.finite = true ∧ (Fp.mul x y).2 = 0 ∧
      (Fp.mul x y).1.rat = x.rat * y.rat ∧ (Fp.mul x y).1.neg = (x.neg ^^ y.neg)) ∧
    (x.isNan = false → y.isNan = false → x.isZero = false → y.isZero = false → (x.isInf = true ∨ y.isInf = true) →
      Fp.mul x y = (.inf (x.neg ^^ y.neg), 0))) ∧
  (∀ p ∈ [(Fp.fp64, 0x7FF0000000000000, 0x7FF8000000000000), (Fp.fp32, 0x7F800000, 0x7FC00000), (Fp.fp16, 0x7C00, 0x7E00),
      (Fp.bf16, 0x7F80, 0x7FC0)], ∀ (m : Rounding) (i j k : Nat),
    let f := p.1
    let sign (b : Bool) : Nat := if b then 2 ^ (f.width - 1) else 0
    let x := Fp.decode f i
    let y := Fp.decode f j
    let z := Fp.decode f k
    let negZero (v : Fp.Val) : Bool := v.isZero && v.neg
    let gives (v : ℚ) (neg : Bool) (r : Nat × FpFlags) : Prop :=
      (v ≠ 0 → Fp.CorrectlyRounded f m (v : ℝ) r) ∧ (v = 0 → r = (sign neg, 0))
    let nan (quiet : Bool) : Nat × FpFlags := (p.2.2, if quiet then 0 else 1)
    let quiet (v : Fp.Val) : Bool := !v.signalling
    (x.finite = true → y.finite = true →
      gives (x.rat + y.rat) (negZero x && negZero y || m == .rd) (Fp.add f m i j) ∧
      gives (x.rat - y.rat) (negZero x && (y.isZero && !y.neg) || m == .rd) (Fp.sub f m i j) ∧
      gives (x.rat * y.rat) (x.neg ^^ y.neg) (Fp.times f m i j) ∧
      (z.finite = true → gives (x.rat * y.rat + z.rat)
        ((x.isZero || y.isZero) && (x.neg ^^ y.neg) && negZero z || m == .rd) (Fp.fma f m i j k))) ∧
    ((x.isNan = true ∨ y.isNan = true) → Fp.add f m i j = nan (quiet x && quiet y) ∧ Fp.sub f m i j = nan (quiet x && quiet y) ∧
      Fp.times f m i j = nan (quiet x && quiet y) ∧ Fp.fma f m i j k = nan (quiet x && quiet y && quiet z)) ∧
    (x.isNan = false → y.isNan = false → (x.isZero = true ∧ y.isInf = true ∨ x.isInf = true ∧ y.isZero = true) →
      Fp.times f m i j = nan false ∧ Fp.fma f m i j k = nan false) ∧
    (∀ a b, x = .inf a → y = .inf b → Fp.add f m i j = (if a = b then (sign a + p.2.1, 0) else nan false) ∧
      Fp.sub f m i j = if a = b then nan false else (sign a + p.2.1, 0)) ∧
    (∀ a, x = .inf a → y.finite = true → Fp.add f m i j = (sign a + p.2.1, 0) ∧ Fp.sub f m i j = (sign a + p.2.1, 0)) ∧
    (∀ a, y = .inf a → x.finite = true → Fp.add f m i j = (sign a + p.2.1, 0) ∧ Fp.sub f m i j = (sign (!a) + p.2.1, 0)) ∧
    ((x.isInf = true ∨ y.isInf = true) → x.isNan = false → y.isNan = false → x.isZero = false → y.isZero = false →
      Fp.times f m i j = (sign (x.neg ^^ y.neg) + p.2.1, 0) ∧
      (z.finite = true ∨ z = .inf (x.neg ^^ y.neg) → Fp.fma f m i j k = (sign (x.neg ^^ y.neg) + p.2.1, 0)) ∧
      (z = .inf (!(x.neg ^^ y.neg)) → Fp.fma f m i j k = nan false) ∧ (z.isNan = true → Fp.fma f m i j k = nan (quiet z))) ∧
    (x.finite = true → y.finite = true → (z.isNan = true → Fp.fma f m i j k = nan (quiet z)) ∧
      ∀ a, z = .inf a → Fp.fma f m i j k = (sign a + p.2.1, 0))) ∧
  (∀ (op : Nat → Nat → Nat × FpFlags) (op3 : Nat → Nat → Nat → Nat × FpFlags) (x y z : Word),
    let lo (w : Word) : Nat := w.toNat % 2 ^ 16
    let hi (w : Word) : Nat := w.toNat / 2 ^ 16
    half2 op x y = ((op (lo x) (lo y)).1 % 2 ^ 16 + 2 ^ 16 * ((op (hi x) (hi y)).1 % 2 ^ 16),
      (op (lo x) (lo y)).2 ||| (op (hi x) (hi y)).2) ∧
    half3 op3 x y z = ((op3 (lo x) (lo y) (lo z)).1 % 2 ^ 16 + 2 ^ 16 * ((op3 (hi x) (hi y) (hi z)).1 % 2 ^ 16),
      (op3 (lo x) (lo y) (lo z)).2 ||| (op3 (hi x) (hi y) (hi z)).2)) ∧
  ∀ (m : Rounding) (a b d : Word),
    let x (w : Word) (i : Nat) : Fp.Val := Fp.decode Fp.e4m3 (w.toNat / 2 ^ (8 * i) % 2 ^ 8)
    let z := Fp.decode Fp.fp32 d.toNat
    let r := dp4E4Sum m a b d
    let v := z.rat + (x a 0).rat * (x b 0).rat + (x a 1).rat * (x b 1).rat + (x a 2).rat * (x b 2).rat + (x a 3).rat * (x b 3).rat
    (((∃ i < 4, (x a i).isNan = true ∨ (x b i).isNan = true) ∨ z.isNan = true) →
      r = (0x7FC00000, if z.signalling then 1 else 0)) ∧
    ((∀ i < 4, (x a i).isNan = false ∧ (x b i).isNan = false) → (∀ n, z = .inf n → r = (d.toNat, 0)) ∧
      (z.finite = true → v ≠ 0 → Fp.CorrectlyRounded Fp.fp32 m (v : ℝ) r) ∧
      (z.finite = true → v = 0 → r.2 = 0 ∧ r.1 = if (∀ i < 4, ((x a i).isZero || (x b i).isZero) = true ∧
        ((x a i).neg ^^ (x b i).neg) = true) ∧ z.isZero = true ∧ z.neg = true ∨ m = .rd then 2 ^ 31 else 0))

/-- R92: every non-zero exact value rounds, in each format and mode, as R92 says: to the encoding that the mode selects among all finite
ones (RNE: the nearest, on a tie the one with an even last bit), or, beyond the largest finite value, to the overflow result of its
item 1 or 2; tininess is judged in the unbounded range; overflow, underflow and inexact are raised exactly as its items say. -/
def Obligations.RoundingSelectsNeighbour : Prop :=
  ∀ f ∈ Fp.allFormats, ∀ (mode : Rounding) (neg : Bool) (m : Nat) (e : Int), m ≠ 0 →
    Fp.CorrectlyRounded f mode ((Fp.Val.fin neg m e).rat : ℝ) (Fp.roundTo f mode neg m e false)

/-- R143: FNEG, DNEG, FABS and DABS change the sign bit alone and a NaN gives the canonical NaN, with invalid when it signals; FSAT
clamps to +0 and 1; FCLASS and DCLASS give exactly the bit of R145. Stated of the operations on encodings that
`FloatInstructionsComplete` names.
R141: the lesser and the greater of two encodings, with -0 below +0; one NaN gives the other operand, two give the
canonical NaN; a signalling NaN raises invalid and nothing else is raised. -/
def Obligations.SignClassMinimumMaximum : Prop :=
  ((∀ x < 2 ^ 32,
     let mag := x % 2 ^ 31
     let nan := 0x7F800000 < mag
     let signals := 0x7F800000 < mag ∧ mag < 0x7FC00000
     let fl : FpFlags := if signals then 1 else 0
     Fp.negation Fp.fp32 x = (if nan then 0x7FC00000 else (x + 2 ^ 31) % 2 ^ 32, fl) ∧
     Fp.absolute Fp.fp32 x = (if nan then 0x7FC00000 else mag, fl) ∧
     Fp.saturate Fp.fp32 x = (if nan ∨ 2 ^ 31 ≤ x then 0 else if 0x3F800000 ≤ x then 0x3F800000 else x, fl) ∧
     Fp.classMask Fp.fp32 x =
       (if nan then (if signals then 0x100 else 0x200)
         else if mag = 0x7F800000 then (if x < 2 ^ 31 then 0x080 else 0x001)
         else if mag = 0 then (if x < 2 ^ 31 then 0x010 else 0x008)
         else if mag < 0x00800000 then (if x < 2 ^ 31 then 0x020 else 0x004)
         else if x < 2 ^ 31 then 0x040 else 0x002)) ∧
   ∀ x < 2 ^ 64,
     let mag := x % 2 ^ 63
     let nan := 0x7FF0000000000000 < mag
     let signals := 0x7FF0000000000000 < mag ∧ mag < 0x7FF8000000000000
     let fl : FpFlags := if signals then 1 else 0
     Fp.negation Fp.fp64 x = (if nan then 0x7FF8000000000000 else (x + 2 ^ 63) % 2 ^ 64, fl) ∧
     Fp.absolute Fp.fp64 x = (if nan then 0x7FF8000000000000 else mag, fl) ∧
     Fp.classMask Fp.fp64 x =
       (if nan then (if signals then 0x100 else 0x200)
         else if mag = 0x7FF0000000000000 then (if x < 2 ^ 63 then 0x080 else 0x001)
         else if mag = 0 then (if x < 2 ^ 63 then 0x010 else 0x008)
         else if mag < 0x0010000000000000 then (if x < 2 ^ 63 then 0x020 else 0x004)
         else if x < 2 ^ 63 then 0x040 else 0x002)) ∧
  (∀ p ∈ [(Fp.fp32, 2 ^ 31, 0x7F800000, 0x7FC00000), (Fp.fp64, 2 ^ 63, 0x7FF0000000000000, 0x7FF8000000000000)],
     ∀ x < 2 * p.2.1, ∀ y < 2 * p.2.1,
       let nan (z : Nat) : Prop := p.2.2.1 < z % p.2.1
       let signals (z : Nat) : Prop := nan z ∧ z % p.2.1 < p.2.2.2
       let lo := Fp.minimum p.1 x y
       let hi := Fp.maximum p.1 x y
       (signals x ∨ signals y → lo.2 = 1 ∧ hi.2 = 1) ∧ (¬(signals x ∨ signals y) → lo.2 = 0 ∧ hi.2 = 0) ∧
       (nan x → nan y → lo.1 = p.2.2.2 ∧ hi.1 = p.2.2.2) ∧ (nan x → ¬nan y → lo.1 = y ∧ hi.1 = y) ∧
       (¬nan x → nan y → lo.1 = x ∧ hi.1 = x) ∧
       (¬nan x → ¬nan y → (lo.1 = x ∧ hi.1 = y ∨ lo.1 = y ∧ hi.1 = x) ∧
         Fp.signedMagnitude p.2.1 lo.1 ≤ Fp.signedMagnitude p.2.1 hi.1 ∧
         (x = 0 → y = p.2.1 → lo.1 = y ∧ hi.1 = x) ∧ (x = p.2.1 → y = 0 → lo.1 = x ∧ hi.1 = y)))

/-- R142, R51: FCMP pushes its condition and changes no register; -0 equals +0; the ordered conditions fail and .ne and .un
hold when an operand is a NaN; invalid is raised as the table gives, unless F is 1. -/
def Obligations.FloatComparisonsPush : Prop :=
  ∀ (s : State) (c : Ctx),
    let holds (k : FCond) (u : Bool) (x y : Int) : Bool :=
      match k with
      | .eq => !u && decide (x = y)
      | .ne => u || decide (x ≠ y)
      | .lt => !u && decide (x < y)
      | .le => !u && decide (x ≤ y)
      | .gt => !u && decide (y < x)
      | .ge => !u && decide (y ≤ x)
      | .un => u
      | .ord => !u
    let any (k : FCond) : Bool := k == .lt || k == .le || k == .gt || k == .ge
    let pushes (i : Instr) (len stall : Nat) (b quiet invalid : Bool) : Prop :=
      ∃ t v, exec i s = .next t ∧ Advanced s t c len stall v ∧ v.preds = c.t.preds <<< 1 ||| (BitVec.ofBool b).setWidth 8 ∧
        v.fflags = (if invalid && !quiet then c.t.fflags ||| 1 else c.t.fflags) ∧
        SameControl c.t { v with preds := c.t.preds, fflags := c.t.fflags } ∧ SameRegs c.t v []
    let nan32 (x : Nat) : Bool := decide (0x7F800000 < x % 2 ^ 31)
    let sig32 (x : Nat) : Bool := nan32 x && decide (x % 2 ^ 31 < 0x7FC00000)
    let nan64 (x : Nat) : Bool := decide (0x7FF0000000000000 < x % 2 ^ 63)
    let sig64 (x : Nat) : Bool := nan64 x && decide (x % 2 ^ 63 < 0x7FF8000000000000)
    (∀ f : FCmpF, let form : Form := { g := f.g, sc := f.sc, reads := [f.a, f.b], preds := true }
      let x := (c.reads s form 0).toNat
      let y := (c.reads s form 1).toNat
      Executes s c form → pushes (.fcmp f) 4 f.sc
        (holds f.c (nan32 x || nan32 y) (Fp.signedMagnitude (2 ^ 31) x) (Fp.signedMagnitude (2 ^ 31) y)) f.q
        (if any f.c then nan32 x || nan32 y else sig32 x || sig32 y)) ∧
    (∀ f : FCmpF, let form : Form := { g := f.g, sc := f.sc, reads := f.a.pair ++ f.b.pair, preds := true }
      let x := (Word.pair (c.reads s form 0) (c.reads s form 1)).toNat
      let y := (Word.pair (c.reads s form 2) (c.reads s form 3)).toNat
      Executes s c form → pushes (.fcmpD f) 4 f.sc
        (holds f.c (nan64 x || nan64 y) (Fp.signedMagnitude (2 ^ 63) x) (Fp.signedMagnitude (2 ^ 63) y)) f.q
        (if any f.c then nan64 x || nan64 y else sig64 x || sig64 y)) ∧
    ∀ f : H, let form : Form := { f.form with preds := true }
      let x := (c.reads s form 0).toNat
      let y := (c.reads s form 1).toNat
      Executes s c form → pushes (.fcmpLt16 f) 2 f.sc
        (holds .lt (nan32 x || nan32 y) (Fp.signedMagnitude (2 ^ 31) x) (Fp.signedMagnitude (2 ^ 31) y)) false (nan32 x || nan32 y)

/-- R144: the special operands of the correctly rounded functions on FP32, in every mode; the finite non-zero operands of the square
root, the reciprocal and the reciprocal square root give the rounding of their real value under R92, in FP32 and, of the first two,
in FP64; the powers and logarithms the rounding of a real that lies within 2^-100 of the function's.
R143: the integral operations give the largest integer not above, the smallest not below, the one towards zero, the nearest, on a
tie the even one, in FP32 and FP64; they keep the sign in a zero result and infinities as they are; only FRINT and DRINT raise inexact,
when the result differs.
R95, R146: the conversions between formats and with integers, by CVT's code: rounding, saturation, special operands, flags, and
where the packed ones put their elements. -/
def Obligations.FunctionAndIntegralValues : Prop :=
  (∀ m : Rounding,
     [Fp.sqrt Fp.fp32 m 0, Fp.recip Fp.fp32 m 0, Fp.rsqrt Fp.fp32 m 0, Fp.exp2 Fp.fp32 m 0, Fp.log2 Fp.fp32 m 0] =
       [(0, 0), (0x7F800000, 2), (0x7F800000, 2), (0x3F800000, 0), (0xFF800000, 2)] ∧
     [Fp.sqrt Fp.fp32 m 0x80000000, Fp.recip Fp.fp32 m 0x80000000, Fp.rsqrt Fp.fp32 m 0x80000000, Fp.exp2 Fp.fp32 m 0x80000000,
         Fp.log2 Fp.fp32 m 0x80000000] =
       [(0x80000000, 0), (0xFF800000, 2), (0xFF800000, 2), (0x3F800000, 0), (0xFF800000, 2)] ∧
     [Fp.sqrt Fp.fp32 m 0xFF800000, Fp.recip Fp.fp32 m 0xFF800000, Fp.rsqrt Fp.fp32 m 0xFF800000, Fp.exp2 Fp.fp32 m 0xFF800000,
         Fp.log2 Fp.fp32 m 0xFF800000] =
       [(0x7FC00000, 1), (0x80000000, 0), (0x7FC00000, 1), (0, 0), (0x7FC00000, 1)] ∧
     [Fp.sqrt Fp.fp32 m 0x7F800000, Fp.recip Fp.fp32 m 0x7F800000, Fp.rsqrt Fp.fp32 m 0x7F800000, Fp.exp2 Fp.fp32 m 0x7F800000,
         Fp.log2 Fp.fp32 m 0x7F800000] =
       [(0x7F800000, 0), (0, 0), (0, 0), (0x7F800000, 0), (0x7F800000, 0)] ∧
     [Fp.sqrt Fp.fp32 m 0x3F800000, Fp.recip Fp.fp32 m 0x3F800000, Fp.rsqrt Fp.fp32 m 0x3F800000, Fp.exp2 Fp.fp32 m 0x3F800000,
         Fp.log2 Fp.fp32 m 0x3F800000] =
       [(0x3F800000, 0), (0x3F800000, 0), (0x3F800000, 0), (0x40000000, 0), (0, 0)] ∧
     (∀ x, 0x80000000 < x → x < 0xFF800000 →
       Fp.sqrt Fp.fp32 m x = (0x7FC00000, 1) ∧ Fp.rsqrt Fp.fp32 m x = (0x7FC00000, 1) ∧ Fp.log2 Fp.fp32 m x = (0x7FC00000, 1)) ∧
     ∀ x < 2 ^ 32, 0x7F800000 < x % 2 ^ 31 →
       let r : Nat × FpFlags := (0x7FC00000, if x % 2 ^ 31 < 0x7FC00000 then 1 else 0)
       Fp.sqrt Fp.fp32 m x = r ∧ Fp.recip Fp.fp32 m x = r ∧ Fp.rsqrt Fp.fp32 m x = r ∧ Fp.exp2 Fp.fp32 m x = r ∧
         Fp.log2 Fp.fp32 m x = r) ∧
  (∀ f ∈ [Fp.fp32, Fp.fp64], ∀ x < 2 ^ f.width,
     (∀ n, Fp.decode f x = .inf n → ∀ m b, Fp.integral f m b x = (x, 0)) ∧
     ∀ neg k e, Fp.decode f x = .fin neg k e →
       let v := (Fp.Val.fin neg k e).rat
       ∀ (m : Rounding) (b : Bool), ∃ k' e', Fp.decode f (Fp.integral f m b x).1 = .fin neg k' e' ∧
         let r := (Fp.Val.fin neg k' e').rat
         (∃ n : Int, r = n ∧ Fp.RoundsToInt m v n) ∧ (Fp.integral f m b x).2 = (if b = true ∧ r ≠ v then 16 else 0)) ∧
  (∀ f ∈ [Fp.fp32, Fp.fp64], ∀ (m : Rounding) (x : Nat) (neg : Bool) (k : Nat) (e : Int), x < 2 ^ f.width →
     Fp.decode f x = .fin neg k e → k ≠ 0 →
     let v : ℝ := (Fp.Val.fin neg k e).rat
     Fp.CorrectlyRounded f m (1 / v) (Fp.recip f m x) ∧ (neg = false → Fp.CorrectlyRounded f m (Real.sqrt v) (Fp.sqrt f m x)) ∧
     (neg = true → Fp.sqrt f m x = (f.nan, 1)) ∧
     (f = Fp.fp32 →
       (neg = false → Fp.CorrectlyRounded f m (1 / Real.sqrt v) (Fp.rsqrt f m x)) ∧
       (∃ y : ℝ, |y - (2 : ℝ) ^ v| ≤ (2 : ℝ) ^ v / 2 ^ 100 ∧ Fp.CorrectlyRounded f m y (Fp.exp2 f m x)) ∧
       (neg = false → v ≠ 1 → ∃ y : ℝ, |y - Real.logb 2 v| ≤ 1 / 2 ^ 100 ∧ Fp.CorrectlyRounded f m y (Fp.log2 f m x)))) ∧
  (∀ src ∈ Fp.allFormats, ∀ p ∈ [(Fp.fp64, 0x7FF8000000000000), (Fp.fp32, 0x7FC00000), (Fp.fp16, 0x7E00), (Fp.bf16, 0x7FC0),
      (Fp.e5m2, 0x7E), (Fp.e4m3, 0x7F), (Fp.e2m1, 0)], ∀ (m : Rounding) (x : Nat), x < 2 ^ src.width →
     let dst := p.1
     let sign (b : Bool) : Nat := if b then 2 ^ (dst.width - 1) else 0
     (∀ b, Fp.decode src x = .nan b → Fp.convert src dst m x = (p.2, if b = true ∨ dst = Fp.e2m1 then 1 else 0)) ∧
     (∀ n, Fp.decode src x = .inf n → Fp.convert src dst m x =
       if dst = Fp.e4m3 then (sign n + 0x7E, 1) else if dst = Fp.e2m1 then (sign n + 7, 1) else (sign n + dst.infCode, 0)) ∧
     ∀ n k e, Fp.decode src x = .fin n k e → (k = 0 → Fp.convert src dst m x = (sign n, 0)) ∧
       (k ≠ 0 → Fp.CorrectlyRounded dst m ((Fp.Val.fin n k e).rat : ℝ) (Fp.convert src dst m x))) ∧
  (∀ src ∈ [Fp.fp32, Fp.fp64], ∀ (m : Rounding) (signed : Bool) (x : Nat), x < 2 ^ src.width →
     let lo : Int := if signed then -2147483648 else 0
     let hi : Int := if signed then 2147483647 else 4294967295
     let r := Fp.toInt32 src m signed x
     (∀ b, Fp.decode src x = .nan b → r = (0, 1)) ∧
     (∀ n, Fp.decode src x = .inf n → r = (BitVec.ofInt 32 (if n then lo else hi), 1)) ∧
     ∀ n k e, Fp.decode src x = .fin n k e → ∃ z : Int, Fp.RoundsToInt m (Fp.Val.fin n k e).rat z ∧
       r = if z < lo then (BitVec.ofInt 32 lo, 1) else if hi < z then (BitVec.ofInt 32 hi, 1)
         else (BitVec.ofInt 32 z, if (z : ℚ) = (Fp.Val.fin n k e).rat then 0 else 16)) ∧
  (∀ dst ∈ [Fp.fp32, Fp.fp64], ∀ (m : Rounding) (z : Int), (z = 0 → Fp.ofInteger dst m z = (0, 0)) ∧
     (z ≠ 0 → Fp.CorrectlyRounded dst m (z : ℝ) (Fp.ofInteger dst m z))) ∧
  ∀ (m : Rounding) (o : Nat → Word),
     let a := (o 0).toNat
     let aa := a + 2 ^ 32 * (o 1).toNat
     (∀ p ∈ ([ (.f32f64, Fp.fp64, Fp.fp32, m, aa), (.f64f32, Fp.fp32, Fp.fp64, m, a), (.f16f32, Fp.fp32, Fp.fp16, m, a),
        (.f32f16, Fp.fp16, Fp.fp32, m, a % 2 ^ 16), (.bf16f32, Fp.fp32, Fp.bf16, m, a), (.f32bf16, Fp.bf16, Fp.fp32, m, a % 2 ^ 16),
        (.e4f32, Fp.fp32, Fp.e4m3, m, a), (.f32e4, Fp.e4m3, Fp.fp32, m, a % 2 ^ 8), (.e5f32, Fp.fp32, Fp.e5m2, m, a),
        (.f32e5, Fp.e5m2, Fp.fp32, m, a % 2 ^ 8), (.e2f32, Fp.fp32, Fp.e2m1, .rne, a), (.f32e2, Fp.e2m1, Fp.fp32, m, a % 2 ^ 4) ] :
        List (CvtCode × Fp.Format × Fp.Format × Rounding × Nat)),
       Cvt.result p.1 m o = Fp.convert p.2.1 p.2.2.1 p.2.2.2.1 p.2.2.2.2) ∧
     (∀ p ∈ [(CvtCode.i32f32, Fp.toInt32 Fp.fp32 .rz true a), (.n32f32, Fp.toInt32 Fp.fp32 m false a),
        (.i32f64, Fp.toInt32 Fp.fp64 .rz true aa)], Cvt.result p.1 m o = (p.2.1.toNat, p.2.2)) ∧
     Cvt.result .f32i32 m o = Fp.ofInteger Fp.fp32 m (o 0).toInt ∧ Cvt.result .f32n32 m o = Fp.ofInteger Fp.fp32 m a ∧
     Cvt.result .f64i32 m o = Fp.ofInteger Fp.fp64 m (o 0).toInt ∧
     (∀ p ∈ ([ (.f16x2, 2, 16, Fp.convert Fp.fp32 Fp.fp16 m), (.bf16x2, 2, 16, Fp.convert Fp.fp32 Fp.bf16 m),
        (.e4x4, 4, 8, Fp.convert Fp.fp32 Fp.e4m3 m), (.e5x4, 4, 8, Fp.convert Fp.fp32 Fp.e5m2 m),
        (.e2x8, 8, 4, Fp.convert Fp.fp32 Fp.e2m1 .rne),
        (.i8x4, 4, 8, fun x => ((max (-128) (min 127 (BitVec.ofNat 32 x).toInt) % 256).toNat, 0)) ] :
        List (CvtCode × Nat × Nat × (Nat → Nat × FpFlags))),
       let r := Cvt.result p.1 m o
       let e (i : Nat) := p.2.2.2 (o i).toNat
       r.1 < 2 ^ 32 ∧ (∀ i < p.2.1, r.1 / 2 ^ (p.2.2.1 * i) % 2 ^ p.2.2.1 = (e i).1) ∧
       ∀ b < 5, r.2.getLsbD b = true ↔ ∃ i < p.2.1, (e i).2.getLsbD b = true)

/-! ## Loads, stores, atomics -/

/-- R188, R190, R194, R196, R197: an access that passes the checks of R189, to bytes that no buffered store of the thread meets, is
accepted: LD, LDN and LDNF then hold a pending load with the values for their registers, each size as the table of R188 gives it,
and nothing else of the machine changes. Poison makes LD's values 0 with a mark to come. A failing LDNF (XLATE within the space,
DOMAIN, poison) without a fault port holds a pending push of false and no value; one with a fault port hands its record to the fault
queue, once the thread's earlier stores have taken effect, and pushes when that is accepted (R323; stated of XLATE). That one with g30
or g31 among its registers is a completing load too is the model's reading (log 88). That the pending load holds the value that memory
has at acceptance is the model's choice (log 13). Locations in fitted regions are among those accessed (R308).
R24, R194: an access to a peer's scratchpad sets the pending bit, of a load into g30 or g31 when its data returns.
R202: the words that LD touches at a scratchpad stand among the passes of its packet.
R171: a load takes its bytes from the thread's own buffered store through the same view that wrote them; R165: not in a frame tagged
fitted, which ignores the store and reads as zeros. -/
def Obligations.LoadsAccepted : Prop :=
  ((∀ (f : MF) (s : State) (c : Ctx), let form : Form := { sc := f.sc, reads := f.a.pair, names := f.d.group f.z.regs }
     let form' : Form := { form with preds := true }
     let n := f.z.bytes
     let ea (g : Form) := Word.pair (c.reads s g 0) (c.reads s g 1) + BitVec.ofInt 64 (f.imm.toInt * n)
     let vals (loc : Loc) : List (Reg × Word) :=
       let x := leNat (s.readLoc loc n)
       match f.z with
       | .b | .h | .w => [(f.d, BitVec.ofNat 32 x)]
       | .sb => [(f.d, BitVec.ofInt 32 (if x < 2 ^ 7 then x else x - 2 ^ 8))]
       | .sh => [(f.d, BitVec.ofInt 32 (if x < 2 ^ 15 then x else x - 2 ^ 16))]
       | .d => [(f.d, BitVec.ofNat 32 x), (f.d.succ 1, BitVec.ofNat 32 (x / 2 ^ 32))]
       | .q => [(f.d.succ 0, BitVec.ofNat 32 x), (f.d.succ 1, BitVec.ofNat 32 (x / 2 ^ 32)),
           (f.d.succ 2, BitVec.ofNat 32 (x / 2 ^ 64)), (f.d.succ 3, BitVec.ofNat 32 (x / 2 ^ 96))]
     let hold (vs : List (Reg × Word)) := vs.any fun w => w.1 == 30 || w.1 == 31
     let holds := (f.d.group f.z.regs).any fun r => r == 30 || r == 31
     (Executes s c form → ∀ loc view peer, s.check c.l.system c.w ⟨n, true, false, true⟩ (ea form).toNat = .at loc view peer →
       s.plainRead c.t loc view n →
       ∃ t v, exec (.ld f) s = .next t ∧ Accepted s t c f.sc v (peer && !hold (vals loc)) ∧ v.stores = c.t.stores ∧
         v.loads = c.t.loads ++
         [⟨c.t.pc, ea form, if s.poisoned loc n then (vals loc).map fun w => (w.1, 0) else vals loc, s.poisoned loc n, none, none,
           hold (vals loc), false, peer && hold (vals loc)⟩] ∧ s.noted t loc n false) ∧
     (Executes s c form' → ∀ loc view peer, s.check c.l.system c.w ⟨n, true, false, true⟩ (ea form').toNat = .at loc view peer →
       s.plainRead c.t loc view n → s.poisoned loc n = false →
       ∃ t v, exec (.ldnf f) s = .next t ∧ Accepted s t c f.sc v (peer && !hold (vals loc)) ∧ v.stores = c.t.stores ∧
         v.loads = c.t.loads ++
         [⟨c.t.pc, ea form', vals loc, false, some true, none, hold (vals loc), false, peer && hold (vals loc)⟩]) ∧
     (Executes s c form' → c.t.fport = noHandle →
       (s.check c.l.system c.w ⟨n, true, false, true⟩ (ea form').toNat = .trap .domain ∨
         (s.check c.l.system c.w ⟨n, true, false, true⟩ (ea form').toNat = .trap .xlate ∧ (ea form').toNat + n ≤ 2 ^ 57)) →
       ∃ t v, exec (.ldnf f) s = .next t ∧ Accepted s t c f.sc v false ∧ v.stores = c.t.stores ∧
         v.loads = c.t.loads ++ [⟨c.t.pc, ea form', [], false, some false, none, holds, false, false⟩]) ∧
     (Executes s c form' → c.t.fport = noHandle →
       ∀ loc view peer, s.check c.l.system c.w ⟨n, true, false, true⟩ (ea form').toNat = .at loc view peer →
       s.plainRead c.t loc view n → s.poisoned loc n = true →
       ∃ t v, exec (.ldnf f) s = .next t ∧ Accepted s t c f.sc v (peer && !hold (vals loc)) ∧ v.stores = c.t.stores ∧
         v.loads = c.t.loads ++ [⟨c.t.pc, ea form', [], false, some false, none, hold (vals loc), false, peer && hold (vals loc)⟩]) ∧
     (Executes s c form' → c.t.fport ≠ noHandle →
       s.check c.l.system c.w ⟨n, true, false, true⟩ (ea form').toNat = .trap .xlate → (ea form').toNat + n ≤ 2 ^ 57 →
       let u := ((s.spent form').drain s.cur).publish s.cur
       ∃ t v, exec (.ldnf f) s = .next t ∧ t.thread? s.cur = some v ∧ v.pc = c.t.pc + 4 ∧ v.stores = [] ∧ t.mem = u.mem ∧
         t.waves = u.waves ∧ v.loads = c.t.loads ++ [⟨c.t.pc, ea form', [], false, some false, some u.nextId, holds, false, false⟩] ∧
         ∀ d, u.die? c.w.die = some d → ∃ d' p, t.die? c.w.die = some d' ∧ d'.posting = d.posting ++ [p] ∧
           p.poster = .load s.cur u.nextId ∧ p.record.cause = .xlate ∧ p.record.source = 0 ∧ p.record.va = ea form' ∧
           p.record.kind = 0 ∧ p.record.size = n)) ∧
   ∀ (f : ADF) (s : State) (c : Ctx), let form : Form := { g := f.g, sc := f.sc, reads := f.a.pair, names := [f.d] }
     let na := Word.pair (c.reads s form 0) (c.reads s form 1)
     Executes s c form → ∀ loc view peer, s.check c.l.system c.w ⟨1, false, false, false⟩ (na.toNat / 2) = .at loc view peer →
       s.plainRead c.t loc view 1 →
       let x := leNat (s.readLoc loc 1)
       ∃ t v, exec (.ldn f) s = .next t ∧ Accepted s t c f.sc v (peer && !(f.d == 30 || f.d == 31)) ∧ v.stores = c.t.stores ∧
         v.loads = c.t.loads ++
         [⟨c.t.pc, na >>> 1, [(f.d, if s.poisoned loc 1 then 0 else BitVec.ofNat 32 (if na.toNat % 2 = 0 then x % 16 else x / 16))],
           s.poisoned loc 1, none, none, f.d == 30 || f.d == 31, true, peer && (f.d == 30 || f.d == 31)⟩]) ∧
  (∀ (f : MF) (s : State) (c : Ctx), let form : Form := { sc := f.sc, reads := f.a.pair, names := f.d.group f.z.regs }
     let ea := Word.pair (c.reads s form 0) (c.reads s form 1) + BitVec.ofInt 64 (f.imm.toInt * f.z.bytes)
     Executes s c form → f.z = .w → ∀ loc view peer bs e, loc.isFitted = false →
       s.check c.l.system c.w ⟨4, true, false, true⟩ ea.toNat = .at loc view peer → s.poisoned loc 4 = false →
       bs.length = 4 → c.t.stores = [e] → e.loc = loc → e.view = view → e.op = .bytes bs →
       let ignored : Prop := ∃ pa, loc = .phys pa ∧ s.tagOf pa = 4
       (ignored → s.late = false) →
       ∃ t v l, exec (.ld f) s = .next t ∧ Accepted s t c f.sc v (peer && !(f.d == 30 || f.d == 31)) ∧ v.stores = c.t.stores ∧
         v.loads = c.t.loads ++ [l] ∧ (ignored → l.vals = [(f.d, 0)]) ∧
         (¬ignored → l.vals = [(f.d, BitVec.ofNat 32 (leNat bs))]))

/-- R190, R192, R193, R196: LOAD_DATA_RETURN ends an accepted load: its registers receive their values, with the load's address as
a poison mark where it met poison, and its push happens; the pending bit is set where a completing load reached a peer's scratchpad;
nothing else of the thread or of the machine changes. A completing load that met poison traps with POISON, one whose value lies below
the stack limit with STACK, at the load's own offset, with nothing written and the pending bit as it was (R6); an ATOM's update of its
location, made at its acceptance, stands (R364). -/
def Obligations.LoadDataReturns : Prop :=
  ∀ (s : State) (id : ThreadId) (n : Nat) (t : Thread) (l : PendingLoad), s.thread? id = some t → t.loads[n]? = some l →
    l.ticket = none →
    let traps := l.completing && !l.poisoned && t.belowLimit l.vals
    let rest := { t with loads := t.loads.eraseIdx n }
    ((l.completing && l.poisoned && !l.nibble) = false → traps = false → (l.vals.map (·.1)).Nodup →
      ∃ u v, exec (.loadDataReturn id n) s = .next u ∧ u = { s with threads := u.threads } ∧
        (∀ other, other ≠ id → u.thread? other = s.thread? other) ∧ u.thread? id = some v ∧ v.pc = t.pc ∧
        v.preds = (match l.push with
          | some b => t.preds <<< 1 ||| (BitVec.ofBool b).setWidth 8
          | none => t.preds) ∧ v.pending = (t.pending || l.peer) ∧
        SameControl rest { v with preds := t.preds, pending := t.pending } ∧ SameRegs t v (l.vals.map (·.1)) ∧
        ∀ w ∈ l.vals, v.latest w.1 = w.2 ∧ v.bank w.1 = w.2 ∧ v.late w.1 = false ∧
          v.mark? w.1 = if l.poisoned then some l.ea else none) ∧
    ∀ c, s.ctx id = some c → c.handles →
      ((l.completing && l.poisoned && !l.nibble) = true → ∃ u v, exec (.loadDataReturn id n) s = .next u ∧
        u = { s with threads := u.threads } ∧
        u.thread? id = some v ∧ Trapped { rest with pc := l.pc } v (Word.lo c.l.nd.trapvec) .poison l.ea) ∧
      (traps = true → ∃ u v, exec (.loadDataReturn id n) s = .next u ∧ u = { s with threads := u.threads } ∧
        u.thread? id = some v ∧ Trapped { rest with pc := l.pc } v (Word.lo c.l.nd.trapvec) .stack (t.stackAfter l.vals))

/-- R188, R191, R194, R197, R199: ST, STN and RED that pass the checks are accepted: the store waits behind the thread's earlier ones
with its bytes, nibble or operand, one of 16 bytes as two of 8, the lower addresses first (R174), and no byte of any memory has changed.
R174, R361: where a lane before it in the packet has a store to the same bytes that is still to take effect, that lane's stores
take effect first. -/
def Obligations.StoresAccepted : Prop :=
  (∀ (f : MF) (s : State) (c : Ctx), let form : Form := { sc := f.sc, reads := f.a.pair ++ f.d.group f.z.regs }
    let n := f.z.bytes
    let ea := Word.pair (c.reads s form 0) (c.reads s form 1) + BitVec.ofInt 64 (f.imm.toInt * n)
    let byte (j : Nat) : Byte := (c.reads s form (2 + j / 4)).extractLsb' (8 * (j % 4)) 8
    Executes s c form → c.claimFails ea.toNat n = false →
      ∀ loc view peer, s.check c.l.system c.w ⟨n, true, true, true⟩ ea.toNat = .at loc view peer →
      (s.noLaneBefore c.t.id loc n →
        ∃ t v es, exec (.st f) s = .next t ∧ Accepted s t c f.sc v peer ∧ v.loads = c.t.loads ∧ v.stores = c.t.stores ++ es ∧
          s.noted t loc n false ∧
          (n ≤ 8 → ∃ e, es = [e] ∧ e.put s c loc view peer (.bytes ((List.range n).map byte)) ea) ∧
          (n = 16 → ∃ e e' k, es = [e, e'] ∧ e.put s c loc view peer (.bytes ((List.range 8).map byte)) ea ∧
            e' = ⟨loc.byte 8, view, peer, .bytes ((List.range 8).map fun j => byte (8 + j)), ea, c.t.pc, k, s.packetNo, e'.stamp⟩ ∧
            e.stamp < e'.stamp)) ∧
      ∀ u ∈ s.threads, u.id ≠ c.t.id → s.thread? u.id = some u →
        (∃ e ∈ u.stores, e.packet = s.packetNo ∧ loc.overlaps (min n 8) e.loc e.size = true) →
        ∃ t v, exec (.st f) s = .next t ∧ t.thread? u.id = some v ∧ v.stores = []) ∧
  (∀ (f : ADF) (s : State) (c : Ctx), let form : Form := { g := f.g, sc := f.sc, reads := f.a.pair ++ [f.d] }
    let na := Word.pair (c.reads s form 0) (c.reads s form 1)
    Executes s c form → c.claimFails (na.toNat / 2) 1 = false →
      ∀ loc view peer, s.check c.l.system c.w ⟨1, false, true, false⟩ (na.toNat / 2) = .at loc view peer →
      s.noLaneBefore c.t.id loc 1 →
      ∃ t v e, exec (.stn f) s = .next t ∧ Accepted s t c f.sc v peer ∧ v.loads = c.t.loads ∧ v.stores = c.t.stores ++ [e] ∧
        e.put s c loc view peer (.nibble (decide (na.toNat % 2 = 1)) ((c.reads s form 2).extractLsb' 0 4)) (na >>> 1)) ∧
  ∀ (f : RedF) (s : State) (c : Ctx), let form : Form := { sc := f.sc, reads := f.a.pair ++ atomRegs f.b f.w }
    let ea := Word.pair (c.reads s form 0) (c.reads s form 1)
    let n := if f.w then 8 else 4
    Executes s c form → c.claimFails ea.toNat n = false →
      ∀ loc view peer, s.check c.l.system c.w ⟨n, true, true, false⟩ ea.toNat = .at loc view peer →
      s.noLaneBefore c.t.id loc n →
      ∃ t v e, exec (.red f) s = .next t ∧ Accepted s t c f.sc v peer ∧ v.loads = c.t.loads ∧ v.stores = c.t.stores ++ [e] ∧
        s.noted t loc n true ∧
        e.put s c loc view peer (.red f.op f.w
          (if f.w then Word.pair (c.reads s form 2) (c.reads s form 3) else (c.reads s form 2).setWidth 64)) ea

/-- R165, R171, R191, R197, R199, R309: STORE_TAKES_EFFECT applies the oldest accepted store of a thread, stated where every write has
spread: the bytes at its address become its bytes, one nibble becomes its nibble with the other kept, or the location is updated;
every other byte of every memory reads as before. In a frame tagged fitted nothing is written. A store to an element of a fitted
region becomes the element's reference value; in normal mode the element also gets an entry, and where the table has no place for
one the region leaves normal mode. A RED that meets poison, and any store to a module that the fabric cannot reach, is dropped, and a
POISON record is handed to the fault queue of the thread's die (R345). The record's source 4 and, for a store, its access kind 1 are
the model's choice (log 69). -/
def Obligations.StoreTakesEffect : Prop :=
  ∀ (s : State) (id : ThreadId) (t : Thread) (e : StoreEntry) (es : List StoreEntry), s.memOk → s.thread? id = some t →
    t.stores = e :: es → s.late = false →
    let keeps (u : State) : Prop := (u.thread? id).map (·.stores) = some es ∧ (∀ k, k ≠ id → u.thread? k = s.thread? k) ∧
      u.groups = s.groups ∧ u.launches = s.launches ∧ u.copies = s.copies ∧ u.tags = s.tags ∧ u.poison = s.poison
    (∀ pa, e.loc = .phys pa → s.unreachable pa = false → ∃ u, exec (.storeTakesEffect id) s = .next u ∧ keeps u ∧
      u.waves = s.waves ∧ u.regions = s.regions ∧
      (s.tagOf pa = 4 → u.mem = s.mem) ∧
      (s.tagOf pa ≠ 4 →
        (∀ bs, e.op = .bytes bs → u.dies = s.dies ∧ ∀ a, u.mem.get a = s.mem.stored pa bs a) ∧
        (∀ high x, e.op = .nibble high x → u.dies = s.dies ∧ ∀ a, u.mem.get a =
          if a = pa then BitVec.ofNat 8 (if high then (s.mem.get pa).toNat % 16 + 16 * x.toNat
            else (s.mem.get pa).toNat / 16 * 16 + x.toNat) else s.mem.get a) ∧
        ∀ op wide b, e.op = .red op wide b → s.poisoned e.loc e.size = false → u.dies = s.dies ∧
          ∀ a, u.mem.get a = s.mem.stored pa
            (leBytes e.size (atomicNew op wide (BitVec.ofNat 64 (s.mem.nat pa e.size)) b 0).toNat) a)) ∧
    (∀ w off bs, e.loc = .spad w off → e.op = .bytes bs → ∃ u, exec (.storeTakesEffect id) s = .next u ∧ keeps u ∧
      u.mem = s.mem ∧ u.dies = s.dies ∧ ∀ y, s.wave? w = some y → ∃ z, u.wave? w = some z ∧ z = { y with spad := z.spad } ∧
        ∀ a, z.spad.get a = y.spad.stored off bs a) ∧
    (∀ k n bs r, e.loc = .fitted k n → e.op = .bytes bs → s.region? k = some r → s.unreachable r.home = false → n < r.reference.length →
      ∃ u r', exec (.storeTakesEffect id) s = .next u ∧ keeps u ∧ u.mem = s.mem ∧ u.waves = s.waves ∧ u.dies = s.dies ∧
        u.region? k = some r' ∧ r' = { r with reference := r.reference.set n (leNat bs), entries := r'.entries, normal := r'.normal } ∧
        (∀ q, q ≠ k → u.region? q = s.region? q) ∧
        (r.normal = false → r'.normal = false ∧ r'.entries = r.entries) ∧
        (r.normal = true → (r.entries.find? fun x => x.1 == n).isSome = true ∨ r.entries.length < r.capacity →
          r'.normal = true ∧ (r'.entries.find? fun x => x.1 == n) = some (n, leNat bs) ∧
          ∀ m, m ≠ n → (r'.entries.find? fun x => x.1 == m) = r.entries.find? fun x => x.1 == m) ∧
        (r.normal = true → (r.entries.find? fun x => x.1 == n) = none → r.capacity ≤ r.entries.length → r'.normal = false)) ∧
    ((∃ op wide b, e.op = .red op wide b ∧ s.poisoned e.loc e.size = true) ∨ (∃ pa, e.loc = .phys pa ∧ s.unreachable pa = true) →
      ∃ u, exec (.storeTakesEffect id) s = .next u ∧ keeps u ∧ u.mem = s.mem ∧ u.waves = s.waves ∧ u.regions = s.regions ∧
      (u.thread? id).map (·.unposted) = some (t.unposted + 1) ∧
      ∀ w d, s.wave? id.wave = some w → s.die? w.die = some d → ∃ d' r, u.die? w.die = some d' ∧
        d'.posting = d.posting ++ [⟨r, .store id⟩] ∧ r.cause = .poison ∧ r.source = 4 ∧ r.va = e.ea ∧
        r.kind = match e.op with
          | .red _ _ _ => 2
          | _ => 1)

/-- R199, R200: ATOM makes the thread's earlier stores take effect, then updates the location in one step: its bytes become the new
value of the table and a pending load holds the old value for d; every other byte is left. Poison leaves the location as it is. That
the update comes at acceptance, in the step that empties the buffer, is the model's choice (logs 12, 13). Stated where every write
has spread. -/
def Obligations.AtomicUpdates : Prop :=
  ∀ (f : AtomF) (s : State) (c : Ctx),
    let n := if f.w then 8 else 4
    let form : Form := { sc := f.sc, names := atomRegs f.d f.w,
                         reads := f.a.pair ++ atomRegs f.b f.w ++ (if f.op = .cas then atomRegs f.d f.w else []) }
    let ea := Word.pair (c.reads s form 0) (c.reads s form 1)
    let val (k : Nat) : Nat := if f.w then (Word.pair (c.reads s form k) (c.reads s form (k + 1))).toNat else (c.reads s form k).toNat
    let x := val 2
    let d := val (if f.w then 4 else 3)
    let fmt := if f.w then Fp.fp64 else Fp.fp32
    let signed (v : Nat) : Int := if v < 2 ^ (8 * n - 1) then v else (v : Int) - 2 ^ (8 * n)
    let new (o : Nat) : Nat :=
      match f.op with
      | .add => (o + x) % 2 ^ (8 * n)
      | .smin => if signed o ≤ signed x then o else x
      | .smax => if signed x ≤ signed o then o else x
      | .nmin => min o x
      | .nmax => max o x
      | .and => o &&& x
      | .or => o ||| x
      | .xor => o ^^^ x
      | .xchg => x
      | .cas => if o = d then x else o
      | .fadd => (Fp.add fmt .rne o x).1 % 2 ^ (8 * n)
      | .fmin => (Fp.minimum fmt o x).1 % 2 ^ (8 * n)
      | .fmax => (Fp.maximum fmt o x).1 % 2 ^ (8 * n)
      | .bfadd2 => ((Fp.add Fp.bf16 .rne (o % 2 ^ 16) (x % 2 ^ 16)).1 +
          2 ^ 16 * (Fp.add Fp.bf16 .rne (o / 2 ^ 16 % 2 ^ 16) (x / 2 ^ 16 % 2 ^ 16)).1) % 2 ^ (8 * n)
      | .inc => if x ≤ o then 0 else o + 1
    Executes s c form → s.memOk → s.late = false → c.claimFails ea.toNat n = false →
      ∀ pa view peer, s.check c.l.system c.w ⟨n, true, true, false⟩ ea.toNat = .at (.phys pa) view peer → s.tagOf pa ≠ 4 →
      let hold := f.d == 30 || f.d == 31 || (f.w && (f.d.succ 1 == 30 || f.d.succ 1 == 31))
      let s1 := (s.spent form).drain c.t.id
      let old := s1.mem.nat pa n
      let bad := s.poisoned (.phys pa) n
      ∃ t v, exec (.atom f) s = .next t ∧ t.thread? s.cur = some v ∧ v.pc = c.t.pc + 4 ∧ v.stores = [] ∧
        v.pending = (c.t.pending || peer && !(bad && hold)) ∧
        (∀ id, id ≠ s.cur → t.thread? id = s.thread? id) ∧ t.waves = s1.waves ∧ t.dies = s1.dies ∧
        (∀ a, t.mem.get a = if bad then s1.mem.get a else s1.mem.stored pa (leBytes n (new old)) a) ∧ SameRegs c.t v [] ∧
        SameControl c.t { v with loads := c.t.loads, stores := c.t.stores, pending := c.t.pending, unposted := c.t.unposted } ∧
        ∃ l, v.loads = c.t.loads ++ [l] ∧ l.poisoned = bad ∧ l.push = none ∧ l.peer = (peer && bad && hold) ∧
          l.vals = if bad then (if f.w then [(f.d, 0), (f.d.succ 1, 0)] else [(f.d, 0)])
            else if f.w then [(f.d, BitVec.ofNat 32 old), (f.d.succ 1, BitVec.ofNat 32 (old / 2 ^ 32))]
            else [(f.d, BitVec.ofNat 32 old)]

/-- R189, R78: the checks of an access in their order, outside the on-chip map and in it: beyond the space XLATE, misaligned
ALIGN, no translation XLATE, a system page outside system mode or a write without W PERM, a view whose tag the frame does not
bear LAYOUT; the gaps of the on-chip map XLATE; through a fitted view LAYOUT for an instruction that may not use one and DOMAIN where
no live region holds the frame. What fails traps at the instruction with its address; LDNF only on what does not make it push false. -/
def Obligations.AccessChecks : Prop :=
  (∀ (s : State) (system : Bool) (w : Wave) (k : AccessKind) (ea : Nat), 0 < k.size →
    (2 ^ 57 < ea + k.size → s.check system w k ea = .trap .xlate) ∧
    (ea + k.size ≤ 2 ^ 57 → k.aligned = true → ea % k.size ≠ 0 → s.check system w k ea = .trap .align) ∧
    (ea + k.size ≤ 2 ^ 57 → (k.aligned = true → ea % k.size = 0) → ea < 0x01F0000000000000 →
      (s.translate false ea = none → s.check system w k ea = .trap .xlate) ∧
      ∀ l, s.translate false ea = some l → l.layout ≠ 5 →
        (l.system = true ∧ system = false ∨ k.writes = true ∧ l.write = false → s.check system w k ea = .trap .perm) ∧
        ((l.system = true → system = true) → (k.writes = true → l.write = true) →
          (l.layout ≠ 0 → s.tagOf (l.physical ea) ≠ l.layout → s.check system w k ea = .trap .layout) ∧
          (l.layout = 0 → (k.writes = true → l.migrating = false) →
            s.check system w k ea = .at (.phys (l.physical ea)) false false) ∧
          (1 ≤ l.layout → l.layout ≤ 3 → s.tagOf (l.physical ea) = l.layout → (k.writes = true → l.migrating = false) →
            s.check system w k ea = .at (.phys (l.physical ea)) true false))) ∧
    (ea + k.size ≤ 2 ^ 57 → (k.aligned = true → ea % k.size = 0) → 0x01F0000000000000 ≤ ea →
      let o := ea - 0x01F0000000000000
      let core : CoreId := ⟨o / 2 ^ 28, o % 2 ^ 28 / 2 ^ 22⟩
      (o % 2 ^ 22 < 0x80000 → s.resolveSpad w core (o % 2 ^ 22) k.size = none →
        s.check system w k ea = .trap (if s.coreInService core then .perm else .xlate)) ∧
      (0x100000 ≤ o % 2 ^ 22 → o % 2 ^ 22 < 0x140000 →
        s.check system w k ea = .trap (if s.coreInService core then .perm else .xlate)) ∧
      (0x80000 ≤ o % 2 ^ 22 → o % 2 ^ 22 < 0x100000 → s.check system w k ea = .trap .xlate) ∧
      (0x140000 ≤ o % 2 ^ 22 → o % 2 ^ 22 < 0x200000 → s.check system w k ea = .trap .xlate) ∧
      (0x200000 ≤ o % 2 ^ 22 → o % 2 ^ 22 < 0x240000 →
        s.check system w k ea = .trap (if s.coreInService core then .perm else .xlate)) ∧
      (0x240000 ≤ o % 2 ^ 22 → s.check system w k ea = .trap .xlate)) ∧
    (∀ l, ea + k.size ≤ 2 ^ 57 → (k.aligned = true → ea % k.size = 0) → ea < 0x01F0000000000000 → s.translate false ea = some l →
      l.layout = 4 → (l.system = true → system = true) → (k.writes = true → l.write = true) → s.tagOf (l.physical ea) = 4 →
      (k.fitted = false → s.check system w k ea = .trap .layout) ∧
      (k.fitted = true → (∀ r ∈ s.regions, ∀ g ∈ r.granules, g ≠ l.physical ea / 2 ^ 16) → s.check system w k ea = .trap .domain))) ∧
  ∀ (s : State) (c : Ctx), c.handles →
    (∀ f : MF, let form : Form := { sc := f.sc, reads := f.a.pair, names := f.d.group f.z.regs }
      let ea := Word.pair (c.reads s form 0) (c.reads s form 1) + BitVec.ofInt 64 (f.imm.toInt * f.z.bytes)
      Executes s c form → ∀ cause, s.check c.l.system c.w ⟨f.z.bytes, true, false, true⟩ ea.toNat = .trap cause →
        Traps (.ld f) s c cause ea) ∧
    (∀ f : MF, let form : Form := { sc := f.sc, reads := f.a.pair ++ f.d.group f.z.regs }
      let ea := Word.pair (c.reads s form 0) (c.reads s form 1) + BitVec.ofInt 64 (f.imm.toInt * f.z.bytes)
      Executes s c form → ∀ cause, s.check c.l.system c.w ⟨f.z.bytes, true, true, true⟩ ea.toNat = .trap cause →
        Traps (.st f) s c cause ea) ∧
    (∀ f : RedF, let form : Form := { sc := f.sc, reads := f.a.pair ++ atomRegs f.b f.w }
      let ea := Word.pair (c.reads s form 0) (c.reads s form 1)
      Executes s c form → ∀ cause, s.check c.l.system c.w ⟨if f.w then 8 else 4, true, true, false⟩ ea.toNat = .trap cause →
        Traps (.red f) s c cause ea) ∧
    (∀ f : AtomF, let form : Form := { sc := f.sc, names := atomRegs f.d f.w,
                                       reads := f.a.pair ++ atomRegs f.b f.w ++ (if f.op = .cas then atomRegs f.d f.w else []) }
      let ea := Word.pair (c.reads s form 0) (c.reads s form 1)
      Executes s c form → ∀ cause, s.check c.l.system c.w ⟨if f.w then 8 else 4, true, true, false⟩ ea.toNat = .trap cause →
        Traps (.atom f) s c cause ea) ∧
    (∀ f : MF, let form : Form := { sc := f.sc, reads := f.a.pair, names := f.d.group f.z.regs, preds := true }
      let ea := Word.pair (c.reads s form 0) (c.reads s form 1) + BitVec.ofInt 64 (f.imm.toInt * f.z.bytes)
      Executes s c form → ∀ cause, s.check c.l.system c.w ⟨f.z.bytes, true, false, true⟩ ea.toNat = .trap cause →
        cause ≠ .domain → (cause = .xlate → 2 ^ 57 < ea.toNat + f.z.bytes) → Traps (.ldnf f) s c cause ea) ∧
    (∀ f : ADF, let form : Form := { g := f.g, sc := f.sc, reads := f.a.pair, names := [f.d] }
      let ea := Word.pair (c.reads s form 0) (c.reads s form 1) >>> 1
      Executes s c form → ∀ cause, s.check c.l.system c.w ⟨1, false, false, false⟩ ea.toNat = .trap cause →
        Traps (.ldn f) s c cause ea) ∧
    ∀ f : ADF, let form : Form := { g := f.g, sc := f.sc, reads := f.a.pair ++ [f.d] }
      let ea := Word.pair (c.reads s form 0) (c.reads s form 1) >>> 1
      Executes s c form → ∀ cause, s.check c.l.system c.w ⟨1, false, true, false⟩ ea.toNat = .trap cause →
        Traps (.stn f) s c cause ea

/-- R198, R204 to R208, R171, R176, R323: PREF only goes on; an acquire and a release FENCE go on with what they order; a full FENCE,
AFENCE and a BFENCE toward the bank units leave the thread no accepted store that has not taken effect, and the first two wait until
the record of every dropped one has been accepted; WAITC goes on when its group's counter is at most n, with what the operations of
its class that are reported, but for the newest n issued, pass on, and else tests again. That the stores take effect in the step of
the fence, and what a fence orders, by sets of writes known, is the model's form of R168 to R181 (log 12). -/
def Obligations.FencesAndCounters : Prop :=
  ∀ (s : State) (c : Ctx),
    (∀ f : PrefF, Executes s c { g := f.g, sc := f.sc, reads := f.a.pair } → GoesOn (.pref f) s c f.sc) ∧
    (∀ f : FenceF, Executes s c { g := f.g, sc := f.sc } →
      let u := (s.spent { sc := f.sc }).drain s.cur
      (f.kind ≠ .full → Answers (.fence f) s c f.sc (s.fence s.cur f.scope f.kind) []) ∧
      (f.kind = .full → u.unposted s.cur = false → Answers (.fence f) s c f.sc (u.fence s.cur f.scope .full) []) ∧
      (f.kind = .full → u.unposted s.cur = true → Polls (.fence f) s c u .poll)) ∧
    (∀ f : GF, Executes s c f.form →
      let u := (s.spent f.form).drain s.cur
      (u.unposted s.cur = false → Answers (.afence f) s c f.sc (u.joinViews s.cur) []) ∧
      (u.unposted s.cur = true → Polls (.afence f) s c u .poll)) ∧
    (∀ f : BFenceF, Executes s c { g := f.g, sc := f.sc } →
      let u := (s.drain s.cur).toBank s.cur
      (f.kind = .toBank → Answers (.bfence f) s c f.sc u []) ∧
      (f.kind = .toLoad → Answers (.bfence f) s c f.sc (s.toLoad s.cur) []) ∧
      (f.kind = .both → Answers (.bfence f) s c f.sc (u.toLoad s.cur) [])) ∧
    (∀ w, (s.drain s.cur).thread? s.cur = some w → w.stores = []) ∧
    (∀ (sc : Scope) (k : FenceKind), s.late = false → (s.threads.map (·.id)).Nodup → c.t.sight = Sight.none → c.t.heard = [] → c.t.released = [] → s.fences = [] →
      s.ctx s.cur = some c → s.fence s.cur sc k = s) ∧
    ∀ f : WaitF, Executes s c { g := f.g, sc := f.sc } →
      let n : Nat := match f.c with
        | .copy => c.g.copyOps.length
        | .matrix => c.g.matrixOps.length
        | .bank => c.g.bankOps.length
        | .remote => c.g.remoteOps.length
      let place : Fin 4 := match f.c with
        | .copy => 0
        | .matrix => 1
        | .bank => 2
        | .remote => 3
      (n ≤ f.n → ∃ k, Answers (.waitc f) s c f.sc (s.learn s.cur k) [] ∧
        (∀ e, e ∈ k.seen ↔ ∃ x ∈ c.g.reported, x.cls = f.c ∧ x.order + f.n ≤ c.g.issued[place] ∧ e ∈ x.know.seen) ∧
        ∀ e, e ∈ k.written ↔ ∃ x ∈ c.g.reported, x.cls = f.c ∧ x.order + f.n ≤ c.g.issued[place] ∧ e ∈ x.know.written) ∧
      (f.n < n → Polls (.waitc f) s c (s.spent { sc := f.sc }) .poll)

/-! ## Copies -/

/-- R219, R257, R363: an instruction with a parameter block, before any effect: an offset that is no multiple of its alignment
traps with ALIGN, a block outside the wave's allocation with PERM, a poisoned one with POISON, at the block's address.
R171: the block's bytes are those that the scratchpad holds once the thread's earlier stores have taken effect.
R236, R237, R243, R253: CPY in the producer group with a valid block and room makes the thread's stores take effect and enters
the copy, which knows what its issuer knows (R175), the newest of its class queue and of its group's counter; without room the
thread waits with the block as read; outside the producer group it traps with ISSUE. CPYSTAT answers the free entries of a class
and the group's two counters.
R238 to R242, R245, R246: the fields of a copy's block are valid exactly as the tables say. R363: the formats, the mode, the flags
and the dimension count are checked before the other fields. That the multicast mask of a node without cluster sets is checked
after them is the model's choice (log 70). -/
def Obligations.BlocksAndCopyIssue : Prop :=
  (∀ (f : ADF) (s : State) (c : Ctx), c.handles →
     let one : Form := { g := f.g, sc := f.sc, reads := [f.a], names := [f.d] }
     let two : Form := { g := f.g, sc := f.sc, reads := [f.a, f.d] }
     ∀ p ∈ ([(.palloc f, one, 8, 8), (.patdef f, one, 64, 8), (.rclaim f, one, 16, 16), (.rawait f, one, 16, 16),
         (.rcommit f, two, 16, 16), (.rclaimnf f, { one with preds := true }, 16, 16),
         (.rawaitnf f, { one with preds := true }, 16, 16)] : List (Instr × Form × Nat × Nat)),
       let o := c.reads s p.2.1 0
       let n := p.2.2.1
       let at_ := c.w.spadAddress + BitVec.ofNat 64 o.toNat
       Executes s c p.2.1 →
         (o.toNat % p.2.2.2 ≠ 0 → Traps p.1 s c .align at_) ∧
         (o.toNat % p.2.2.2 = 0 → c.w.spadBytes = 0 ∨ c.w.spadBytes < o.toNat + n → Traps p.1 s c .perm at_) ∧
         (o.toNat % p.2.2.2 = 0 → c.w.spadBytes ≠ 0 → o.toNat + n ≤ c.w.spadBytes →
           s.poisoned (.spad c.w.uid o.toNat) n = true → Traps p.1 s c .poison at_)) ∧
  (∀ (s : State) (c : Ctx) (off n : Nat), s.ctx s.cur = some c → s.late = false → s.memOk →
     (∀ e ∈ c.t.stores, ∀ k, e.loc = .spad c.w.uid k → e.view = false) →
     (s.loadBytes c.t (.spad c.w.uid off) false false n).2 = (s.drain s.cur).readLoc (.spad c.w.uid off) n) ∧
  (∀ (f : ADF) (s : State) (c : Ctx),
     let form : Form := { g := f.g, sc := f.sc, reads := [f.a, f.d] }
     let o := c.reads s form 0
     let room (x : CopyOp) : Prop := (s.copies.filter fun y => y.core == c.w.coreId && y.cls == x.cls && !y.completed).length < 64 ∧
       (if x.remote then c.g.remoteOps.length else c.g.copyOps.length) < 63
     let s1 := ((s.spent form).drain s.cur).publish s.cur
     let entered (x : CopyOp) (w : Thread) : State :=
       let k : Fin 4 := if x.remote then 3 else 0
       let n := c.g.issued[k] + 1
       { s1.mapGroup c.w.uid x.group (fun g =>
           if x.remote then { g with remoteOps := g.remoteOps ++ [s1.nextId], issued := g.issued.set k (g.issued[k] + 1) }
           else { g with copyOps := g.copyOps ++ [s1.nextId], issued := g.issued.set k (g.issued[k] + 1) }) with
         copies := s1.copies ++ [{ x with id := s1.nextId, order := n, sight := ⟨w.sight.know, w.sight.across, []⟩ }]
         nextId := s1.nextId + 1 }
     (Executes s c form → (∀ x sc, c.t.wait ≠ .copy x sc) → c.w.groupOf c.t.id.idx ≠ c.l.nd.producer → c.handles →
       Traps (.cpy f) s c .issue 0) ∧
     (Executes s c form → (∀ x sc, c.t.wait ≠ .copy x sc) → c.w.groupOf c.t.id.idx = c.l.nd.producer →
       ∀ blk, Block s c o 128 8 blk →
         (∀ off, firstInvalid (copyChecks c.l.nd.clusterSet blk) = some off → c.handles →
           Traps (.cpy f) s c .engine (Word.pair o (BitVec.ofNat 32 off))) ∧
         (firstInvalid (copyChecks c.l.nd.clusterSet blk) = none → ∀ x, x = s.copyOf c blk (c.reads s form 1) →
           (∀ cause ea, s.copyTrap c o x = some (cause, ea) → c.handles → Traps (.cpy f) s c cause ea) ∧
           (s.copyTrap c o x = none →
             (room x → ∀ w, s1.thread? s.cur = some w → Answers (.cpy f) s c f.sc (entered x w) []) ∧
             (¬ room x → Polls (.cpy f) s c (s.spent form) (.copy x f.sc))))) ∧
     (Executes s c form → ∀ x sc, c.t.wait = .copy x sc → room x → ∀ w, s1.thread? s.cur = some w →
       Answers (.cpy f) s c f.sc (entered x w) []) ∧
     let form' : Form := { g := f.g, sc := f.sc, reads := [f.a], names := [f.d] }
     let q := s.copies.filter fun y => y.core == c.w.coreId && y.cls == (c.reads s form' 0).toNat % 4 && !y.completed
     let r := BitVec.ofNat 32 ((64 - q.length) * 2 ^ 16 + c.g.remoteOps.length * 2 ^ 8 + c.g.copyOps.length)
     Executes s c form' → c.t.belowLimit [(f.d, r)] = false → Answers (.cpystat f) s c f.sc (s.spent form') [(f.d, r)]) ∧
  ∀ (cs : Bool) (blk : List Byte), (firstInvalid (copyChecks cs blk) = none ↔ CopyBlockOk cs blk) ∧
    (14 < fieldAt blk 16 1 → firstInvalid (copyChecks cs blk) = some 16) ∧
    (fieldAt blk 16 1 ≤ 14 → (14 < fieldAt blk 17 1 → firstInvalid (copyChecks cs blk) = some 17) ∧
      (fieldAt blk 17 1 ≤ 14 → (5 < fieldAt blk 18 1 → firstInvalid (copyChecks cs blk) = some 18) ∧
        (fieldAt blk 18 1 ≤ 5 →
          (2 ^ 12 ≤ fieldAt blk 20 4 ∨ fieldAt blk 20 4 / 4 % 2 ^ 6 ≠ 0 → firstInvalid (copyChecks cs blk) = some 20) ∧
          (fieldAt blk 20 4 < 2 ^ 12 → fieldAt blk 20 4 / 4 % 2 ^ 6 = 0 → fieldAt blk 24 1 = 0 ∨ 6 < fieldAt blk 24 1 →
            firstInvalid (copyChecks cs blk) = some 24))))

/-- R242 to R244: an operand's range runs from its lowest element address to the last byte of its highest element. The ranges of a copy
are checked in order, the source first: one not below 2^57 traps with XLATE; a destination of mode 4 in the on-chip map with ENGINE; in
the map, one that no allocation of the wave or a peer holds with PERM, one that crosses a slot or tile with ENGINE, one of a name not
held or releasing with SLOT, any other address with XLATE; nothing else is checked. Then a source range of modes 1 to 4 that shares a
byte with a destination's traps with OVERLAP.
R246, R248, R249, R251, R322: COPY_CHUNK_START does the chunk that the core's arbitration gives: a chunk to be done again, or the next
elements, whole within 2,048 bytes on each side; a fault makes the chunk stall, its record posted with the cause, the address and the
copy's handle as notify port, an engine read where an element of the chunk cannot be read, else an engine write. (Which of several
faults is recorded is the model's choice, log 103; so is ENGINE before the other causes of a mode-4 destination, log 102.) One
whole-byte element of a copy that does not reduce, written to memory, puts its bits there and changes no other byte, where every write
has spread. -/
def Obligations.CopyChunks : Prop :=
  ((∀ (base : DWord) (b : Nat) (extents : List Nat) (strides : List Int), 1 ≤ b → extents.length = strides.length →
     (∀ e ∈ extents, 1 ≤ e) →
     let r := rangeOf base (2 * b) extents strides
     let at_ (is : List Nat) : Int := base.toNat + (List.zipWith (fun (i : Nat) (st : Int) => i * st) is strides).sum
     let index (is : List Nat) : Prop := List.Forall₂ (fun i e => i < e) is extents
     (∀ is, index is → r.1 ≤ at_ is ∧ at_ is + b ≤ r.2) ∧ (∃ is, index is ∧ at_ is = r.1) ∧ ∃ is, index is ∧ at_ is + b = r.2) ∧
   (∀ (s : State) (c : Ctx) (o : Word) (mode : Nat) (dest : Bool) (r : Int × Int), r.1 < r.2 →
     let gives (x : Option (Cause × DWord)) : Prop := s.rangeTrap c o mode dest r = x
     let low := BitVec.ofInt 64 r.1
     let n := (r.2 - r.1).toNat
     let off := r.1.toNat - 0x01F0000000000000
     let core : CoreId := ⟨off / 2 ^ 28, off % 2 ^ 28 / 2 ^ 22⟩
     let part := off % 2 ^ 22
     (r.1 < 0 ∨ 2 ^ 57 < r.2 → gives (some (.xlate, low))) ∧
     (0 ≤ r.1 → r.2 ≤ 0x01F0000000000000 → gives none) ∧
     (0x01F0000000000000 < r.2 → 0 ≤ r.1 → r.2 ≤ 2 ^ 57 →
       (dest = true → mode = 4 → gives (some (.engine, Word.pair o 8))) ∧
       ((dest = true → mode ≠ 4) →
         (r.1 < 0x01F0000000000000 → gives (some (.xlate, low))) ∧
         (0x01F0000000000000 ≤ r.1 → s.coreInService core = true →
           (part < 0x80000 →
             gives (if (s.resolveSpad c.w core part n).isSome then none else some (.perm, low))) ∧
           ((0x100000 ≤ part ∧ part < 0x140000) ∨ (0x200000 ≤ part ∧ part < 0x240000) →
             (0x4000 < part % 0x4000 + n → gives (some (.engine, Word.pair o (if dest then 8 else 0)))) ∧
             (part % 0x4000 + n ≤ 0x4000 →
               (s.slotOwner? c.w r.1.toNat = none → gives (some (.slot, BitVec.ofNat 64 (part % 0x100000 / 0x4000)))) ∧
               ∀ y tile name w, s.slotOwner? c.w r.1.toNat = some (y, tile, name) → s.wave? y = some w → name < 16 →
                 gives (if (if tile then name ∈ w.heldTiles ∧ name ∉ w.relTiles else name ∈ w.heldSlots ∧ name ∉ w.relSlots)
                   then none else some (.slot, BitVec.ofNat 64 name)))) ∧
           ((0x80000 ≤ part ∧ part < 0x100000) ∨ (0x140000 ≤ part ∧ part < 0x200000) ∨ 0x240000 ≤ part →
             gives (some (.xlate, low))))))) ∧
   ∀ (s : State) (c : Ctx) (o : Word) (x : CopyOp), x.mode ≤ 5 → x.srcRange.1 < x.srcRange.2 →
     (∀ d ∈ x.dests, (x.dstRange d).1 < (x.dstRange d).2) →
     let traps := (if x.mode = 5 then [] else [s.rangeTrap c o x.mode false x.srcRange]) ++
       x.dests.map fun d => s.rangeTrap c o x.mode true (x.dstRange d)
     let shared (d : CopyDest) (a : Int) : Prop :=
       x.srcRange.1 ≤ a ∧ a < x.srcRange.2 ∧ (x.dstRange d).1 ≤ a ∧ a < (x.dstRange d).2
     (∀ pre t post, traps = pre ++ some t :: post → (∀ y ∈ pre, y = none) → s.copyTrap c o x = some t) ∧
     ((∀ y ∈ traps, y = none) →
       (1 ≤ x.mode → x.mode ≤ 4 → (∃ d ∈ x.dests, ∃ a, shared d a) → s.copyTrap c o x = some (.overlap, Word.pair o 8)) ∧
       (x.mode = 0 ∨ x.mode = 5 ∨ (∀ d ∈ x.dests, ∀ a, ¬ shared d a) → s.copyTrap c o x = none))) ∧
  (∀ (s : State) (id : CoreId) (elements : Nat) (core core' : Core) (x : CopyOp) (ch : Chunk) (r : Reached State),
    s.core? id = some core → s.arbitrate id elements 16 core = some (core', x, ch, r) →
    x ∈ s.copies ∧ x.core = id ∧ x.passed = false ∧
    (ch ∈ x.retry ∨ (ch.start = x.next ∧ 1 ≤ ch.count ∧ ch.start + ch.count ≤ x.total ∧ ch.count ≤ max 1 elements ∧
      chunkBytes x.dstNibbles ch.count ≤ 2048 ∧ (x.mode ≠ 5 → chunkBytes x.srcNibbles ch.count ≤ 2048))) ∧
    (∀ s', r = .ok s' → (∀ y ∈ s'.copies, y.id = x.id → y.sequenced = false) → exec (.copyChunkStart id elements) s =
      .next ((s'.mapCopy x.id fun y => y.startedChunk ch).mapCore id fun _ => core')) ∧
    ∀ cause va n, r = .fault cause va n → (∀ y ∈ s.copies, y.id = x.id → y.sequenced = false) → ∃ u, exec (.copyChunkStart id elements) s = .next u ∧
      u.mem = s.mem ∧ u.waves = s.waves ∧ u.threads = s.threads ∧ (∀ y ∈ u.copies, y.id = x.id → (ch, none) ∈ y.stalled) ∧
      ∀ d, s.die? id.die = some d → ∃ d' post, u.die? id.die = some d' ∧ d'.posting = d.posting ++ [post] ∧
        post.poster = .chunk x.id ch ∧ post.record.cause = cause ∧ post.record.source = 1 ∧
        post.record.va = BitVec.ofNat 64 va ∧ post.record.notify = x.handle ∧
        ∀ w, s.wave? x.thread.wave = some w →
          let reads (k : Nat) : Prop := ∃ v, s.elementBits (x.lending ch.start) w k = .ok v
          ((∀ k < ch.count, reads (ch.start + k)) → post.record.kind = 4) ∧
          ((∃ k < ch.count, ¬ reads (ch.start + k)) → post.record.kind = 3)) ∧
  ∀ (s : State) (x : CopyOp) (w : Wave) (n pa b : Nat) (v : ElementRead) (d : CopyDest) (view : Bool), s.memOk → s.late = false → x.mode ≠ 4 →
    x.dests = [d] → x.next ≤ n + 1 →
    x.dstNibbles = 2 * b → b ∈ [1, 2, 4, 8] → s.elementBits x w n = .ok v → s.tagOf pa ≠ 4 → pa % b = 0 →
    s.copyStore x w true (x.dstSpot d n).va b = .ok (.mem (.phys pa) view) →
    ∃ u, s.runChunk x w ⟨n, 1⟩ = .ok u ∧ u.waves = s.waves ∧ u.threads = s.threads ∧ u.poison = s.poison ∧ u.dies = s.dies ∧
      (∀ a, u.mem.get a = s.mem.stored pa (leBytes b v.bits) a) ∧
      (x.mode = 5 → v.bits = x.fill.toNat % 256 ^ b) ∧
      (x.mode ≠ 1 → x.mode ≠ 5 → x.saved = [] → x.srcNibbles = 2 * b → ∀ q view',
        s.copyStore x w false (x.srcSpot n).va b = .ok (.mem (.phys q) view') → v.bits = leNat (s.readLoc (.phys q) b))

/-- R207, R223, R235, R250: COPY_COMPLETION of a copy that has finished, or whose number has passed, completes it: it leaves its class
queue. Where it is the oldest of its group's counter its completion is then reported: it leaves the copies and the counter, no memory and
no thread changes, and its message with status, tag and class goes to its handle, if it has one; what it knows, its own writes, the writes
that its reads returned (R170) and what retry verdicts released to its chunks (R325) among it, is kept for the group's WAITCs and for the
launch's next step (R176, R185). That the report of a completed copy waits for the older ones of its counter, and that its message goes
with the decrement, is the model's choice (log 30).
R105, R247: REDUCTION_APPLY applies an element of a reducing copy with one read-modify-write: fp32 or bf16 addition rounded to nearest
even, or 32-bit integer addition; no other byte changes; on a module that the fabric does not reach it changes no memory (R345). An
element waits while an earlier one of its copy, to be done again, meets its place or, the model's choice (log 28), cannot be reached now;
in a fatal copy none waits. A sequenced copy at its turn, n = E, applies in the same way, and once all its elements have applied E is
n + 1. That one whose turn has not come changes nothing is the model's choice (log 83): R247 holds each memory controller to the order of the
numbers alone, so that one may begin a number before another has ended the last. One whose number has passed is dropped.
STREAM_EXPECTED_UPDATE puts the written number into effect when no copy of the stream is being applied. -/
def Obligations.CopyCompletesAndStreams : Prop :=
  (∀ (s : State) (id : CoreId) (op : Nat) (x : CopyOp) (g : Group), s.copies.find? (fun y => y.id == op && y.core == id) = some x →
     s.group? x.thread.wave x.group = some g → x.completed = true ∨ x.passed = true ∨ x.finished = true →
     let ops := if x.remote then g.remoteOps else g.copyOps
     let base := (x.sight.know.join (Know.ofSeen x.met)).also (x.lent.map (·.2))
     let know := if x.written + x.applied = 0 then base else base.afterWrites x.wrote
     let g' := if know = Know.none then g else
       { g with reported := g.reported ++ [⟨if x.remote then .remote else .copy, x.order, know, x.wrote⟩] }
     (ops.head? = some op → ∃ u : State, exec (.copyCompletion id op) s =
         .next (if x.handle = 0xFFFFFFFF then u
           else u.notify id.die x.handle (if x.passed then 2 else if x.fatal then 1 else 0) x.tag (if x.remote then 3 else 0) know) ∧
       u.copies = s.copies.filter (fun y => !(y.id == op)) ∧ u.mem = s.mem ∧ u.threads = s.threads ∧ u.waves = s.waves ∧
       u.poison = s.poison ∧ (u.group? x.thread.wave x.group) =
         some (if x.remote then { g' with remoteOps := g.remoteOps.filter (· != op) }
           else { g' with copyOps := g.copyOps.filter (· != op) }) ∧
       ∀ w l, s.wave? x.thread.wave = some w → s.launch? w.launch = some l →
         u.launch? w.launch = some { l with later := l.later.join know }) ∧
     (ops.head? ≠ some op →
       (x.completed = true → exec (.copyCompletion id op) s = .next s) ∧
       (x.completed = false → ∃ u, exec (.copyCompletion id op) s = .next u ∧ u.groups = s.groups ∧ u.launches = s.launches ∧
         u.mem = s.mem ∧ u.threads = s.threads ∧ u.waves = s.waves ∧ u.poison = s.poison ∧
         (∀ y ∈ u.copies, y.id = op → y.completed = true ∧ y.stalled = []) ∧
         (∀ y, y.id ≠ op → (y ∈ u.copies ↔ y ∈ s.copies)) ∧
         ∀ k n, u.classQueue k n = (s.classQueue k n).filter fun y => !(y.id == op)))) ∧
  ((∀ (s : State) (op k : Nat) (x : CopyOp) (u : Update), s.memOk → s.late = false →
     s.copies.find? (fun y => y.id == op) = some x → x.mode = 4 →
     x.passed = false → x.updates = [u] → 1 ≤ k → s.tagOf u.pa ≠ 4 →
     let st := s.stream x.stream
     x.sequenced = false ∨ (x.settled = false ∧ st.written = none ∧ st.expected = x.seqNo ∧ x.seqNo + 1 ∉ st.finished) →
     let ends : Bool := x.sequenced && decide (x.next = x.total) && x.retry.isEmpty && (x.stalled.isEmpty || x.fatal)
     x.fatal = true ∨ (∀ i < u.ordinal, x.outstanding i = false) →
     (s.unreachable u.pa = true → ∀ w, s.wave? x.thread.wave = some w → s.faultHasRoom w.die = true) → (s.wave? x.thread.wave).isSome →
     ∃ t, exec (.reductionApply op k) s = .next t ∧ t.waves = s.waves ∧ t.threads = s.threads ∧
       (∀ y, t.copies.find? (fun y => y.id == op) = some y →
         y = { x with updates := [], applied := x.applied + 1, settled := x.settled || ends }) ∧
       (t.stream x.stream = if ends then { st with expected := x.seqNo + 1 } else st) ∧
       (s.unreachable u.pa = true → t.mem = s.mem) ∧
       (s.unreachable u.pa = false → t.dies = s.dies ∧
         (x.dstFmt = 5 → ∀ a, t.mem.get a = s.mem.stored u.pa
           (leBytes 4 (Fp.add Fp.fp32 .rne (s.mem.nat u.pa 4) u.val).1) a) ∧
         (x.dstFmt = 7 → ∀ a, t.mem.get a = s.mem.stored u.pa
           (leBytes 2 (Fp.add Fp.bf16 .rne (s.mem.nat u.pa 2) u.val).1) a) ∧
         (x.dstFmt = 11 → ∀ a, t.mem.get a = s.mem.stored u.pa (leBytes 4 ((s.mem.nat u.pa 4 + u.val) % 2 ^ 32)) a))) ∧
   (∀ (s : State) (op k : Nat) (x : CopyOp) (u : Update), s.copies.find? (fun y => y.id == op) = some x → x.mode = 4 →
     x.passed = false → x.sequenced = false → x.updates = [u] → x.fatal = false →
     ∀ i < u.ordinal, x.outstanding i = true → ∀ d ∈ x.dests,
       (s.storeOf x (x.dstSpot d i).va = none ∨ ∃ view, s.storeOf x (x.dstSpot d i).va = some (.mem (.phys u.pa) view)) →
       exec (.reductionApply op k) s = .next s) ∧
   (∀ (s : State) (op k : Nat) (x : CopyOp), s.copies.find? (fun y => y.id == op) = some x → x.mode = 4 → x.passed = false →
     x.sequenced = true → x.applied = 0 → x.settled = false → x.updates ≠ [] → (s.stream x.stream).written = none →
     (0 < (x.seqNo - (s.stream x.stream).expected).toInt → exec (.reductionApply op k) s = .next s) ∧
     ((x.seqNo - (s.stream x.stream).expected).toInt < 0 → exec (.reductionApply op k) s =
       .next (s.mapCopy op fun y => { y with passed := true, updates := [] }))) ∧
   ∀ (s : State) (id : Nat) (v : Word), (s.stream id).written = some v →
     (∀ x ∈ s.copies, x.sequenced = true → x.stream = id → 0 < x.applied → x.settled = true) →
     ∃ t, exec (.streamExpectedUpdate id) s = .next t ∧ t = { s with streams := t.streams } ∧
       t.stream id = ⟨id, v, none, [], (s.stream id).updates⟩ ∧ ∀ k, k ≠ id → t.stream k = s.stream k)

/-! ## Rings -/

/-- R255 to R262: with the checks of R257 passed and the thread's stores in effect, where every write has spread: RCLAIM and RCLAIMNF take n
free granules at the claim tail C, or wait, or push false; RAWAIT and RAWAITNF answer H when n granules are committed; RCOMMIT at its
turn moves the commit tail M on and delivers the notice, before its turn waits, beyond the claimed granules traps; RRETIRE moves H
on, or traps when fewer than n are committed. (That the thread's stores are in effect before each of these, the waiting and the claiming
ones too, and at each poll of a waiting one, is the model's choice, log 12.) R262, while writes spread late: the word that RCOMMIT or
RRETIRE writes carries a release of module scope with all that its thread knows, that of a claim what any store of its thread does and no
release of its own; an await that goes on knows what the releases of module scope carry that its thread has met or that the newest write
of M carries, a claim the same of H. (That they stand below no other write, since all that was written to the descriptor is seen by all,
and that such an access meets the whole descriptor, is log 98.)
R364: where the value read would put the stack pointer below its limit, RCLAIM and RCLAIMNF trap with their claim standing, and
RAWAITNF with its push. RAWAIT, which R364 does not list, traps there before it acquires anything (R69). -/
def Obligations.RingOperations : Prop :=
  ∀ (s u : State) (c : Ctx) (r : Ring),
    let n := BitVec.ofNat 32 r.n
    let put (u : State) (off : Nat) (v : Word) : State :=
      { u.writeLoc (.phys (r.pa + off)) (leBytes 4 v.toNat) with stamp := u.stamp + 1 }
    let pushed (u : State) (b : Bool) : State := u.mapThread s.cur fun t => t.push b
    let claimed := (r.claim - r.head).toNat
    let committed := (r.commit - r.head).toNat
    (s.late = false → (∀ f : ADF, let form : Form := { g := f.g, sc := f.sc, reads := [f.a], names := [f.d] }
      let form' : Form := { form with preds := true }
      (Executes s c form → RingAt s c form true u r →
        (claimed + r.n ≤ r.size →
          (c.t.belowLimit [(f.d, r.claim)] = false →
            Answers (.rclaim f) s c f.sc (put u 20 (r.claim + n)) [(f.d, r.claim)]) ∧
          (c.t.belowLimit [(f.d, r.claim)] = true → c.handles →
            StackStands (.rclaim f) s c (put u 20 (r.claim + n)) [(f.d, r.claim)])) ∧
        (r.size < claimed + r.n → Polls (.rclaim f) s c u .poll)) ∧
      (Executes s c form' → RingAt s c form' true u r →
        (claimed + r.n ≤ r.size →
          (c.t.belowLimit [(f.d, r.claim)] = false →
            Answers (.rclaimnf f) s c f.sc (pushed (put u 20 (r.claim + n)) true) [(f.d, r.claim)]) ∧
          (c.t.belowLimit [(f.d, r.claim)] = true → c.handles →
            StackStands (.rclaimnf f) s c (put u 20 (r.claim + n)) [(f.d, r.claim)])) ∧
        (r.size < claimed + r.n → Answers (.rclaimnf f) s c f.sc (pushed u false) [])) ∧
      (Executes s c form → RingAt s c form false u r →
        (r.n ≤ committed → c.t.belowLimit [(f.d, r.head)] = false → Answers (.rawait f) s c f.sc u [(f.d, r.head)]) ∧
        (r.n ≤ committed → c.t.belowLimit [(f.d, r.head)] = true → c.handles →
          StackStands (.rawait f) s c u [(f.d, r.head)]) ∧
        (committed < r.n → Polls (.rawait f) s c u .poll)) ∧
      (Executes s c form' → RingAt s c form' false u r →
        (r.n ≤ committed →
          (c.t.belowLimit [(f.d, r.head)] = false → Answers (.rawaitnf f) s c f.sc (pushed u true) [(f.d, r.head)]) ∧
          (c.t.belowLimit [(f.d, r.head)] = true → c.handles →
            StackStands (.rawaitnf f) s c (pushed u true) [(f.d, r.head)])) ∧
        (committed < r.n → Answers (.rawaitnf f) s c f.sc (pushed u false) []))) ∧
    (∀ f : ADF, let form : Form := { g := f.g, sc := f.sc, reads := [f.a, f.d] }
      let p := c.reads s form 1
      let moved := put u 24 (p + n)
      Executes s c form → RingAt s c form true u r →
        ((p - r.commit).toNat + r.n ≤ (r.claim - r.commit).toNat → r.commit = p →
          Answers (.rcommit f) s c f.sc (if r.notify = 0xFFFFFFFF then moved else moved.deliver
            ⟨r.notify, [Word.lo r.va, Word.hi r.va, p + n, n], r.n, true, c.w.die, moved.knows s.cur⟩) []) ∧
        ((p - r.commit).toNat + r.n ≤ (r.claim - r.commit).toNat → r.commit ≠ p → Polls (.rcommit f) s c u .poll) ∧
        ((r.claim - r.commit).toNat < (p - r.commit).toNat + r.n → c.handles → ∀ w, u.thread? s.cur = some w →
          ∃ t v, exec (.rcommit f) s = .next t ∧ t.thread? s.cur = some v ∧
            Trapped w v (Word.lo c.l.nd.trapvec) .engine (Word.pair (c.reads s form 0) 0x200))) ∧
    (∀ f : AF, let form : Form := { g := f.g, sc := f.sc, reads := [f.a] }
      Executes s c form → RingAt s c form true u r →
        (r.n ≤ committed → Answers (.rretire f) s c f.sc (put u 16 (r.head + n)) []) ∧
        (committed < r.n → c.handles → ∀ w, u.thread? s.cur = some w →
          ∃ t v, exec (.rretire f) s = .next t ∧ t.thread? s.cur = some v ∧
            Trapped w v (Word.lo c.l.nd.trapvec) .engine (Word.pair (c.reads s form 0) 0x200)))) ∧
    ∀ w, s.relaxed = true → u.tagOf r.pa ≠ 4 → u.thread? s.cur = some w →
      let reaches (h : Released) : Prop := h.scope = .module ∧ h.core.die / 8 = c.w.die / 8
      let takes (off : Nat) (v : Thread) : Prop := ∀ h, reaches h → (h ∈ w.heard ∨
        ∃ e, u.history.find? (fun x => x.loc == .phys (r.pa + off)) = some e ∧ h ∈ e.carries.releases) →
        ∀ k ∈ h.know.seen, k ∈ v.sight.know.seen
      let leaves (t : State) (off : Nat) (p : Carried → Prop) : Prop :=
        ∃ e ∈ t.history, e.loc = .phys (r.pa + off) ∧ e.writer = .thread s.cur ∧ e.atomic = true ∧ p e.carries
      let releases (x : Carried) : Prop := ∃ h ∈ x.releases, reaches h ∧ ∀ k ∈ w.sight.know.seen, k ∈ h.know.seen
      (∀ f : ADF, let form : Form := { g := f.g, sc := f.sc, reads := [f.a], names := [f.d] }
        (∀ p ∈ [(Instr.rclaim f, form), (.rclaimnf f, { form with preds := true })], Executes s c p.2 → RingAt s c p.2 true u r →
          claimed + r.n ≤ r.size → c.t.belowLimit [(f.d, r.claim)] = false → ∃ t v, exec p.1 s = .next t ∧
            t.thread? s.cur = some v ∧ takes 16 v ∧ leaves t 20 fun x => x.releases = w.released) ∧
        ∀ p ∈ [(Instr.rawait f, form), (.rawaitnf f, { form with preds := true })], Executes s c p.2 → RingAt s c p.2 false u r →
          r.n ≤ committed → c.t.belowLimit [(f.d, r.head)] = false → ∃ t v, exec p.1 s = .next t ∧
            t.thread? s.cur = some v ∧ takes 24 v) ∧
      (∀ f : ADF, let form : Form := { g := f.g, sc := f.sc, reads := [f.a], names := [f.d] }
        Executes s c form → RingAt s c form false u r → r.n ≤ committed → c.t.belowLimit [(f.d, r.head)] = true → c.handles →
          ∃ t v, exec (.rawait f) s = .next t ∧ t = { u with threads := t.threads } ∧ t.thread? s.cur = some v ∧
            v.sight = w.sight ∧ v.heard = w.heard ∧ Trapped w v (Word.lo c.l.nd.trapvec) .stack (c.t.stackAfter [(f.d, r.head)])) ∧
      (∀ f : ADF, let form : Form := { g := f.g, sc := f.sc, reads := [f.a, f.d] }
        Executes s c form → RingAt s c form true u r → r.commit = c.reads s form 1 → r.n ≤ (r.claim - r.commit).toNat →
          r.notify = 0xFFFFFFFF → ∃ t, exec (.rcommit f) s = .next t ∧ leaves t 24 releases) ∧
      ∀ f : AF, let form : Form := { g := f.g, sc := f.sc, reads := [f.a] }
        Executes s c form → RingAt s c form true u r → r.n ≤ committed → ∃ t, exec (.rretire f) s = .next t ∧ leaves t 16 releases

/-! ## The matrix engine and the bank units -/

/-- R209, R211 to R213: SCLAIM and ACLAIM with an empty queue take the lowest free name of the wave's quota, else the thread queues
once and waits; with a quota of 0 they trap with SLOT. R364: where the name would put the stack pointer below its limit they trap
with STACK, the name held. SREL and AREL give a held name back, mark it and wait while an operation
names it, and trap with SLOT when it is not held or is being released.
R212, R213: SLOT_CLAIM_GRANT gives the oldest waiting claim of a wave the lowest free name: the thread receives it and goes on.
SLOT_RELEASE_COMPLETE gives back a name that no operation uses any more, and the thread that waits goes on: an operation entered before
the mark holds the release up, one entered after it does not. -/
def Obligations.SlotClaimsAndGrants : Prop :=
  (∀ (s : State) (c : Ctx) (tile : Bool),
     let names := if tile then c.w.tileNames else c.w.slotNames
     let held := if tile then c.w.heldTiles else c.w.heldSlots
     let rel := if tile then c.w.relTiles else c.w.relSlots
     let queue := if tile then c.w.tileQueue else c.w.slotQueue
     let free (n : Nat) : Prop := n ∈ names ∧ n ∉ held ∧ n ∉ rel
     (∀ f : DF, let form : Form := { g := f.g, sc := f.sc, names := [f.d] }
       let i : Instr := if tile then .aclaim f else .sclaim f
       Executes s c form →
         (names = [] → c.handles → Traps i s c .slot 0xFFFFFFFF) ∧
         (names ≠ [] → queue = [] → held.length < names.length → ∀ n, free n → (∀ m, free m → n ≤ m) →
           let u := s.mapWave c.w.uid fun w =>
             if tile then { w with heldTiles := w.heldTiles ++ [n] } else { w with heldSlots := w.heldSlots ++ [n] }
           (c.t.belowLimit [(f.d, BitVec.ofNat 32 n)] = false → Answers i s c f.sc u [(f.d, BitVec.ofNat 32 n)]) ∧
           (c.t.belowLimit [(f.d, BitVec.ofNat 32 n)] = true → c.handles → StackStands i s c u [(f.d, BitVec.ofNat 32 n)])) ∧
         (names ≠ [] → (queue ≠ [] ∨ names.length ≤ held.length ∨ ∀ n, ¬ free n) → (∀ w ∈ s.waves, w.uid = c.w.uid → w = c.w) →
           c.t.id.idx ∉ queue →
           Polls i s c ((s.spent form).mapWave c.w.uid fun w =>
             if tile then { w with tileQueue := w.tileQueue ++ [c.t.id.idx] } else { w with slotQueue := w.slotQueue ++ [c.t.id.idx] })
             (.claim tile f.d f.sc))) ∧
     ∀ f : AF, let form : Form := { g := f.g, sc := f.sc, reads := [f.a] }
       let i : Instr := if tile then .arel f else .srel f
       let n := (c.reads s form 0).toNat
       Executes s c form →
         (n ∉ held ∨ n ∈ rel → c.handles → Traps i s c .slot (BitVec.ofNat 64 n)) ∧
         (n ∈ held → n ∉ rel → s.nameInUse c.w.uid tile n = false →
           Answers i s c f.sc ((s.spent form).mapWave c.w.uid fun w =>
             let w := { w with relMarks := w.relMarks.filter fun m => !(m.tile == tile && m.name == n) }
             if tile then { w with heldTiles := w.heldTiles.filter (· != n), relTiles := w.relTiles.filter (· != n) }
             else { w with heldSlots := w.heldSlots.filter (· != n), relSlots := w.relSlots.filter (· != n) }) []) ∧
         (n ∈ held → n ∉ rel → s.nameInUse c.w.uid tile n = true →
           Polls i s c ((s.spent form).mapWave c.w.uid fun w =>
             let w := { w with relMarks := w.relMarks ++ [(⟨tile, n, s.nextId⟩ : RelMark)] }
             if tile then { w with relTiles := w.relTiles ++ [n] } else { w with relSlots := w.relSlots ++ [n] })
             (.release tile n f.sc))) ∧
  (∀ (s : State) (wave idx n sc : Nat) (tile : Bool) (w : Wave) (c : Ctx), s.wave? wave = some w →
     s.ctx ⟨wave, idx⟩ = some c →
     let names := if tile then w.tileNames else w.slotNames
     let held := if tile then w.heldTiles else w.heldSlots
     let rel := if tile then w.relTiles else w.relSlots
     let queue := if tile then w.tileQueue else w.slotQueue
     let free (n : Nat) : Prop := n ∈ names ∧ n ∉ held ∧ n ∉ rel
     let goes (t : State) (v : Thread) (regs : List Reg) : Prop := t.thread? ⟨wave, idx⟩ = some v ∧ v.pc = c.t.pc + 4 ∧
       v.wait = .none ∧ v.readyAt = s.now + 1 + sc ∧ SameControl c.t v ∧ SameRegs c.t v regs ∧ t.mem = s.mem
     (∀ d rest, queue = idx :: rest → c.t.wait = .claim tile d sc → held.length < names.length → free n → (∀ m, free m → n ≤ m) →
       c.t.belowLimit [(d, BitVec.ofNat 32 n)] = false →
       ∃ t v y, exec (.slotClaimGrant wave tile) s = .next t ∧ goes t v [d] ∧ Wrote c.t v d (BitVec.ofNat 32 n) false ∧
         t.wave? wave = some y ∧
         (if tile then y.heldTiles else y.heldSlots) = held ++ [n] ∧
         (if tile then y.tileQueue else y.slotQueue) = queue.filter (· != idx)) ∧
     (n ∈ rel → s.nameInUse wave tile n = false → c.t.wait = .release tile n sc →
       (∀ u ∈ s.threads, u.id.wave = wave → u.wait = .release tile n sc → u = c.t) → (s.threads.map (·.id)).Nodup →
       (∀ u ∈ s.threads, u.id.wave = wave → ∀ k, u.wait = .release tile n k → k = sc) →
       ∃ t v y, exec (.slotReleaseComplete wave tile n) s = .next t ∧ goes t v [] ∧ t.wave? wave = some y ∧
         (if tile then y.heldTiles else y.heldSlots) = held.filter (· != n) ∧
         (if tile then y.relTiles else y.relSlots) = rel.filter (· != n))) ∧
  ∀ (s : State) (w : Wave) (tile : Bool) (n : Nat), s.wave? w.uid = some w →
    let before (op : Nat) : Prop := ∀ m ∈ w.relMarks, m.tile = tile → m.name = n → op < m.before
    (s.nameInUse w.uid tile n = true ↔
      (∃ x ∈ s.matrixOps, (w.uid, tile, n) ∈ x.names ∧ before x.id) ∨
      ∃ x ∈ s.copies, x.completed = false ∧ (w.uid, tile, n) ∈ s.copyNames x ∧ before x.id)

/-- R214, R216 to R220, R363: MMA with a valid block, and AZERO of a held tile, with room in the queue and the group's counter, make
the thread's stores take effect and enter their operation, which knows what the thread knows (R175), at the tail of the core's
matrix queue and of the counter; without room the thread waits; the first check that fails traps. The fields of the block are valid
exactly as the tables say; the first, where invalid, traps with ENGINE, or, being the name of no held slot, with SLOT.
R220: the snapshot's byte of column n for K-block i lies in byte (j - BSEL) mod 8, j being the block's number in its slot, of the two
registers of the issuing lane or of what stands in lane n's banks; of an exited lane it is 0. (That an operation counts among the queue's
16 until it completes is the model's choice, log 86; so is that another lane's scale register gives its bank's value whatever poison mark it
carries, log 25.) -/
def Obligations.MatrixIssue : Prop :=
  (∀ (s : State) (c : Ctx),
    let room : Prop := c.g.matrixOps.length < 63 ∧ (s.matrixOps.filter fun x => x.core == c.w.coreId).length < 16
    let gi := c.w.groupOf c.t.id.idx
    let entered (u : State) (kind : MatrixKind) (notifies : Bool) (port tag : Word) : State :=
      let v := (u.drain s.cur).publish s.cur
      { v.mapGroup c.w.uid gi (fun g => { g with matrixOps := g.matrixOps ++ [v.nextId], issued := g.issued.set 1 (g.issued[1] + 1) }) with
        matrixOps := v.matrixOps ++ [⟨v.nextId, c.t.id, gi, c.t.pc, c.w.coreId, kind, notifies, port, tag, false, 0, false,
          c.g.issued[1] + 1, v.knows s.cur⟩]
        nextId := v.nextId + 1 }
    (∀ f : MmaF, let gq := f.fmt == .bfgq4 || f.fmt == .e4gq4
      let form : Form := { sc := f.sc, reads := f.a :: (if gq then f.sr.pair else []) }
      let o := c.reads s form 0
      Executes s c form →
        (¬ room → Polls (.mma f) s c (s.spent form) .poll) ∧
        (room → ∀ blk, Block s c o 32 8 blk →
          (gq = true → c.w.width ≠ 64 → c.handles → Traps (.mma f) s c .engine (Word.pair o 0x100)) ∧
          ((gq = true → c.w.width = 64) → ∀ cause ea, mmaTrap c.w f.fmt o blk = some (cause, ea) → c.handles →
            Traps (.mma f) s c cause ea) ∧
          ((gq = true → c.w.width = 64) → mmaTrap c.w f.fmt o blk = none →
            let u8 (off : Nat) : Nat := fieldAt blk off 1
            let k := fieldAt blk 4 2
            let u := s.spent form
            let scales := if gq then
              u.scaleSnapshot c f.sr f.bsel (fieldAt blk 18 2) k (c.reads s form 1, c.reads s form 2) else []
            Answers (.mma f) s c f.sc
              (entered (if gq then { u with free := u.free + 128 } else u)
                (.mma f.fmt f.mode (u8 0) (u8 1) (u8 2) (u8 3) k (u8 6 == 1) (u8 7 == 1) (wordAt blk 12) (fieldAt blk 16 2)
                  (fieldAt blk 18 2) scales)
                (decide (fieldAt blk 20 4 = 1)) (if fieldAt blk 20 4 = 1 then wordAt blk 24 else 0xFFFFFFFF) (wordAt blk 28)) []))) ∧
    ∀ f : AF, let form : Form := { g := f.g, sc := f.sc, reads := [f.a] }
      let n := (c.reads s form 0).toNat
      Executes s c form →
        (¬ room → Polls (.azero f) s c (s.spent form) .poll) ∧
        (room → n ∈ c.w.heldTiles → n ∉ c.w.relTiles →
          Answers (.azero f) s c f.sc (entered (s.spent form) (.azero n) false 0xFFFFFFFF 0) []) ∧
        (room → n ∉ c.w.heldTiles ∨ n ∈ c.w.relTiles → c.handles → Traps (.azero f) s c .slot (BitVec.ofNat 64 n))) ∧
  (∀ (w : Wave) (fmt : MmaFmt) (o : Word) (blk : List Byte), (mmaTrap w fmt o blk = none ↔ MmaBlockOk w fmt blk) ∧
    (15 < fieldAt blk 0 1 → mmaTrap w fmt o blk = some (.engine, Word.pair o 0)) ∧
    (fieldAt blk 0 1 ≤ 15 → fieldAt blk 0 1 ∉ w.heldSlots ∨ fieldAt blk 0 1 ∈ w.relSlots →
      mmaTrap w fmt o blk = some (.slot, Word.pair (BitVec.ofNat 32 (fieldAt blk 0 1)) 0))) ∧
  ∀ (s : State) (c : Ctx) (sr : Reg) (bsel : Fin 16) (oB k i n : Nat) (own : Word × Word), s.late = false → i < k / 64 → n < 64 →
    let p := ((((oB / 2048 + i : Nat) : Int) - (bsel.val : Int)) % 8).toNat
    let r : Word × Word :=
      if n = c.w.laneOf c.t.id.idx then own
      else
        match s.thread? ⟨c.w.uid, c.w.groupOf c.t.id.idx * c.w.width + n⟩ with
        | some t => if t.live then (t.bank sr, t.bank (sr.succ 1)) else (0, 0)
        | none => (0, 0)
    (s.scaleSnapshot c sr bsel oB k own)[64 * i + n]? = some ((if p < 4 then r.1 else r.2).toNat / 2 ^ (8 * (p % 4)) % 2 ^ 8)

/-- R210, R214, R221, R222: the oldest entered operation of a core's matrix queue runs: an MMA writes every output element (m, n) at
its place in the tile, for FMT 0 in the two tiles, computed from row m and column n; an AZERO zeroes its tile and cleans it of
poison. No other byte of any tile, slot, scratchpad or memory changes. R224: an MMA that reads a poisoned word writes nothing,
raises no flag, posts its record and waits for its acceptance. That it reads and writes all in one event is the model's choice
(log 14).
R97 to R100: the element's value. R215: row m of A and column n of B in their slots, by order.
R94, R207, R223: MATRIX_OP_COMPLETION of the operation that has run: it leaves the queue and its group's counter, its flags are
added to its thread's, those of a hard-stopped thread when it is restored; its message, if it asks for one, goes to its port; no
memory changes. What happened before its issue, and so before its writes, is passed on (R175, R176). -/
def Obligations.MatrixOutputsComplete : Prop :=
  (∀ (s : State) (id : CoreId) (x : MatrixOp) (rest : List MatrixOp) (w : Wave), s.memOk →
     (s.matrixOps.filter fun y => y.core == id) = x :: rest → x.started = false → s.wave? x.thread.wave = some w →
     let runs (u : State) (y : Wave) : Prop := exec (.matrixOpStart id) s = .next u ∧ u.wave? x.thread.wave = some y ∧
       y.slotMem = w.slotMem ∧ y.spad = w.spad ∧ u.mem = s.mem ∧ u.threads = s.threads ∧
       (∀ z ∈ u.matrixOps, z.id = x.id → z.started = true) ∧ ∀ k, k ≠ w.uid → u.wave? k = s.wave? k
     (∀ n, x.kind = .azero n → ∃ u y, runs u y ∧
       (∀ a, y.tileMem.get a = if 16384 * n ≤ a ∧ a < 16384 * (n + 1) then 0 else w.tileMem.get a) ∧
       ∀ k, k ∈ y.tilePoison ↔ k ∈ w.tilePoison ∧ k / 4096 ≠ n) ∧
     ∀ fmt mode a b c c2 k aCol bCol scale oA oB scales,
       x.kind = .mma fmt mode a b c c2 k aCol bCol scale oA oB scales →
       (mmaPoison w fmt mode a b c c2 k oA oB = [] → (fmt = .f64 → c2 ≠ c) → ∃ u y, runs u y ∧ y.tilePoison = w.tilePoison ∧
         (∀ p, p / 16384 ≠ c → (fmt = .f64 → p / 16384 ≠ c2) → y.tileMem.get p = w.tileMem.get p) ∧
         ∀ m < 64, ∀ n < 64,
           let size := if fmt = .f64 then 8 else 4
           let place := if fmt = .f64 then 16384 * (if m < 32 then c else c2) + 8 * (64 * (m % 32) + n)
             else 16384 * c + 4 * (64 * m + n)
           y.tileMem.bytes place size = leBytes size
             (outputElem fmt (rowOfA (operandElems w.slotMem a oA k (aElem fmt)) aCol k m)
               (colOfB (operandElems w.slotMem b oB k (bElem fmt)) bCol k n)
               (if mode = .acc then some (w.tileMem.nat place size) else none)
               ((List.range (k / 64)).map fun i => scales.getD (64 * i + n) 0) scale).1) ∧
       (mmaPoison w fmt mode a b c c2 k oA oB ≠ [] → ∃ u y, runs u y ∧ y.tileMem = w.tileMem ∧ y.tilePoison = w.tilePoison ∧
         (∀ z ∈ u.matrixOps, z.id = x.id → z.fatal = true ∧ z.fflags = 0) ∧
         ∀ d, s.die? w.die = some d → ∃ d' p, u.die? w.die = some d' ∧ d'.posting = d.posting ++ [p] ∧ p.poster = .matrix x.id ∧
           p.record.cause = .poison ∧ p.record.source = 3 ∧ p.record.notify = x.port ∧
           p.record.pc = Word.pair x.pc (Word.hi p.record.pc) ∧
           ∃ va ∈ mmaPoison w fmt mode a b c c2 k oA oB, p.record.va = BitVec.ofNat 64 va)) ∧
  (∀ (m : Memory) (fmt : MmaFmt) (slot off k i j : Nat) (col : Bool), m.wf = true → i < 64 → j < k →
     let e (x : Elem) (p : Nat) : Fp.Val := x.value
       (if x.bits = 4 then (m.get (16384 * slot + off + p / 2)).toNat / 16 ^ (p % 2) % 16
        else m.nat (16384 * slot + off + p * (x.bits / 8)) (x.bits / 8))
     (rowOfA (operandElems m slot off k (aElem fmt)) col k i)[j]? = some (e (aElem fmt) (if col then 64 * j + i else k * i + j)) ∧
     (colOfB (operandElems m slot off k (bElem fmt)) col k i)[j]? = some (e (bElem fmt) (if col then k * i + j else 64 * j + i)) ∧
     (aElem fmt).bits = (mmaShape fmt).1 ∧ (bElem fmt).bits = (mmaShape fmt).2.1) ∧
  (∀ (fmt : MmaFmt) (xs ys : List Fp.Val) (old : Option Nat) (scales : List Nat) (scale : Word), xs.length = ys.length →
     let x (i : Nat) : Fp.Val := xs.getD i (.nan false)
     let y (i : Nat) : Fp.Val := ys.getD i (.nan false)
     let r := (outputElem fmt xs ys old scales scale).1
     (fmt = .f64 → r = Fp.chained xs.length x y old) ∧
     (fmt = .f32 → r = Fp.grouped 8 xs.length x y old) ∧
     (fmt = .bf16 ∨ fmt = .f16 ∨ fmt = .e4 ∨ fmt = .e5 ∨ fmt = .e4e5 → r = Fp.grouped 32 xs.length x y old) ∧
     (fmt = .e2 → r = Fp.grouped 64 xs.length x y old) ∧
     (fmt = .bfgq4 ∨ fmt = .e4gq4 → xs.length = 64 * scales.length →
       r = Fp.scaledBlocks scales.length y x (fun j => scales.getD j 0) (fun _ => 0) (fun _ => Fp.decode Fp.fp32 scale.toNat) old) ∧
     (fmt = .i8 ∨ fmt = .i4 → ∀ a b : List Int, xs = a.map intVal → ys = b.map intVal →
       r = ((((old.getD 0 : Nat) : Int) + (List.zipWith (· * ·) a b).sum) % 2 ^ 32).toNat)) ∧
  (∀ (s : State) (id : CoreId) (x : MatrixOp) (rest : List MatrixOp), (s.matrixOps.filter fun y => y.core == id) = x :: rest →
     x.started = true →
     let know := if x.fatal then x.know else x.know.afterWrites []
     (s.posting x.core.die (.matrix x.id) = true → exec (.matrixOpCompletion id) s = .next s) ∧
     (s.posting x.core.die (.matrix x.id) = false → ∃ u : State, exec (.matrixOpCompletion id) s =
       .next (if x.notifies then u.notify x.core.die x.port (if x.fatal then 1 else 0) x.tag 1 know else u) ∧
       u.matrixOps = s.matrixOps.filter (fun y => !(y.id == x.id)) ∧ u.mem = s.mem ∧ u.waves = s.waves ∧ u.dies = s.dies ∧
       (∀ g, s.group? x.thread.wave x.group = some g →
         u.group? x.thread.wave x.group = some { g with
           matrixOps := g.matrixOps.filter (· != x.id)
           reported := if know = Know.none then g.reported else g.reported ++ [⟨.matrix, x.order, know, []⟩] }) ∧
       (∀ k, k ≠ x.thread → u.thread? k = s.thread? k) ∧
       ∀ t, s.thread? x.thread = some t → u.thread? x.thread = some (if t.status = .stopped then { t with owed := t.owed ||| x.fflags }
         else { t with fflags := t.fflags ||| x.fflags.setWidth 32 })))

/-- R226 to R229, R233, R363: BMV with a valid block and room enters its operation in the bank queue and the group's counter; a block
whose y meets what it reads traps with OVERLAP, an invalid field with ENGINE; without room the thread waits. The fields of a block are
valid exactly as the table says. R180: the operation sees what the store-to-bank fences that its thread knows give it, and not what the
thread itself knows. R229: y meets the range of x, of the weights or, for GQ4, of a scale array. (That a BMV counts among the bank queue's
entries until it completes is the model's choice, log 86: R233 does not say when an entry leaves.) -/
def Obligations.BankIssue : Prop :=
  (∀ p ∈ ([(.bmvGq4, .gq4), (.bmvE4m3, .e4m3), (.bmvBf16, .bf16)] : List ((AF → Instr) × BankForm)),
    ∀ (f : AF) (s : State) (c : Ctx), let form : Form := { g := f.g, sc := f.sc, reads := [f.a] }
      let o := c.reads s form 0
      let room : Prop := c.g.bankOps.length < 63 ∧ (s.bmvs.filter fun x => x.core == c.w.coreId && !x.completed).length < 16
      let gi := c.w.groupOf c.t.id.idx
      let u := s.spent form
      Executes s c form →
        (¬ room → Polls (p.1 f) s c u .poll) ∧
        (room → ∀ blk, Block s c o 64 8 blk →
          (∀ off, firstInvalid (bmvChecks p.2 blk) = some off → c.handles →
            Traps (p.1 f) s c .engine (Word.pair o (BitVec.ofNat 32 off))) ∧
          (firstInvalid (bmvChecks p.2 blk) = none →
            ((bmvOf c p.2 s.nextId (s.bankSight s.cur) blk).overlaps = true → c.handles → Traps (p.1 f) s c .overlap (Word.pair o 0x20)) ∧
            ((bmvOf c p.2 s.nextId (s.bankSight s.cur) blk).overlaps = false → Answers (p.1 f) s c f.sc
              { u.mapGroup c.w.uid gi (fun g =>
                  { g with bankOps := g.bankOps ++ [u.nextId], issued := g.issued.set 2 (g.issued[2] + 1) }) with
                bmvs := u.bmvs ++ [bmvOf c p.2 u.nextId (u.bankSight s.cur) blk], nextId := u.nextId + 1 } [])))) ∧
  (∀ (form : BankForm) (blk : List Byte), (firstInvalid (bmvChecks form blk) = none ↔ BmvBlockOk form blk) ∧
    (fieldAt blk 0 8 % 64 ≠ 0 → firstInvalid (bmvChecks form blk) = some 0)) ∧
  ∀ (c : Ctx) (form : BankForm) (id : Nat) (sight : Sight) (blk : List Byte), BmvBlockOk form blk →
    let m := fieldAt blk 40 4
    let k := fieldAt blk 44 4
    let y := fieldAt blk 32 8
    let meets (a n : Nat) : Prop := a < y + 4 * m ∧ y < a + n
    let rb := match form with
      | .gq4 => k / 2
      | .e4m3 => k
      | .bf16 => 2 * k
    ((bmvOf c form id sight blk).overlaps = true ↔
      meets (fieldAt blk 24 8) (2 * k) ∨ meets (fieldAt blk 0 8) ((m - 1) * fieldAt blk 48 4 + rb) ∨
      (form = .gq4 ∧ (meets (fieldAt blk 8 8) (m * k / 64) ∨ meets (fieldAt blk 16 8) (4 * ((m * k + 16383) / 16384)))))

/-- R181, R230, R231: BANK_ROW_COMPUTE writes the row's result at y with one write of 4 bytes and counts the row done; no other byte
changes. While writes spread late that write is one that agents see or not as a whole, and that the operation's completion passes
on. A row that meets a fault stalls with its record, source 2, access kind 4 where the access was the write of y and else 3 (R322): an
accumulating row reads y first. R325: a row that a verdict let start again sees what the verdict's writer knew, without a store-to-bank
fence (log 94). R100, R101: the row's result. R340: it reaches no host memory.
R207, R223, R231, R232, R233: BMV_COMPLETION of a BMV with every row done, or with a fatal row every other done or stalled, completes
it: it leaves its bank queue. Where it is the oldest of its group's counter its completion is then reported: it leaves the operations
and the counter, its flags are added to its thread's, its message of class 2, if it asks for one, goes to its port; no memory changes.
That the report of a completed BMV waits for the older ones is the model's choice (log 30).
R169, R181: its completion, by a number of its own, stands for its writes, the writes that its reads returned and those that happened
before it: who knows the number has them at a bank-to-load fence. -/
def Obligations.BankRowsComplete : Prop :=
  (∀ (s : State) (op row : Nat) (x : BmvOp), s.memOk → s.bmvs.find? (fun y => y.id == op) = some x → row < x.m → row ∉ x.done →
     x.completed = false → (∀ y ∈ x.stalled, y.1 ≠ row) → s.toRetry x.core.die (.row op row) = false → s.rowHeld x row = false →
     let known := x.sight.know.also ((x.lent.filter fun y => y.1 == row).map (·.2))
     let z := { x with sight := { x.sight with know := known } }
     (∀ r, s.rowResult z row = .ok r → (∀ k < 4, s.tagOf (r.pa + k) ≠ 4) → ∃ u, exec (.bankRowCompute op row) s = .next u ∧
       u.waves = s.waves ∧ u.threads = s.threads ∧ u.dies = s.dies ∧ u.groups = s.groups ∧
       (s.late = false → (∀ a, u.mem.get a = s.mem.stored r.pa (leBytes 4 r.value) a) ∧
         u.bmvs.find? (fun y => y.id == op) = some { x with
           done := x.done ++ [row], fflags := x.fflags ||| r.flags, begun := true, met := union x.met r.met }) ∧
       (s.late = true → (∀ k < 4, ∃ e ∈ u.history, e.event = s.stamp ∧ e.loc = .phys (r.pa + k) ∧ e.writer = .bank op x.thread) ∧
         u.bmvs.find? (fun y => y.id == op) = some { x with
           done := x.done ++ [row], fflags := x.fflags ||| r.flags, begun := true, wrote := x.wrote ++ [s.stamp]
           met := union x.met r.met })) ∧
     (∀ cause va n, s.rowResult z row = .fault cause va n → ∃ u, exec (.bankRowCompute op row) s = .next u ∧ u.mem = s.mem ∧
       u.waves = s.waves ∧ u.threads = s.threads ∧
       u.bmvs.find? (fun y => y.id == op) = some { x with stalled := x.stalled ++ [(row, none)], begun := true } ∧
       ∀ d, s.die? x.core.die = some d → ∃ d' post, u.die? x.core.die = some d' ∧ d'.posting = d.posting ++ [post] ∧
         post.poster = .row op row ∧ post.record.cause = cause ∧ post.record.source = 2 ∧
         post.record.va = BitVec.ofNat 64 va ∧ post.record.size = n ∧
         let reads : Prop := x.accumulate = true ∧
           (cause = .poison ∨ ∀ p, s.enginePlace (s.bankOutput x false) rawOnly va 4 ≠ .ok p)
         (va = x.y.toNat + 4 * row → ¬ reads → post.record.kind = 4) ∧
         (va ≠ x.y.toNat + 4 * row ∨ reads → post.record.kind = 3)) ∧
     (s.rowResult z row = .wait → exec (.bankRowCompute op row) s = .next s)) ∧
  ((∀ (s : State) (x : BmvOp) (row : Nat) (ws xb yb : Raced) (blocks : List GqBlock) (bm : List Nat) (r : RowResult),
     s.rowResult x row = .ok r → s.rowWeights x row = .ok ws → (x.form = .gq4 → s.rowBlocks x row = .ok (blocks, bm)) →
     s.engineRead x.access rawOnly x.x.toNat (2 * x.k) (s.free + 3 * s.rowSpan) = .ok xb →
     (x.accumulate = true → s.engineRead (s.bankOutput x false) rawOnly (x.y.toNat + 4 * row) 4 (s.free + 4 * s.rowSpan) = .ok yb) →
     let xs (i : Nat) : Fp.Val := Fp.decode (if x.xBf16 then Fp.bf16 else Fp.fp16) (fieldAt xb.bytes (2 * i) 2)
     let start := if x.accumulate then some (leNat yb.bytes) else none
     let v := r.value
     (x.form = .e4m3 → v = Fp.grouped 32 x.k (fun i => Fp.decode Fp.e4m3 (fieldAt ws.bytes i 1)) xs start) ∧
     (x.form = .bf16 → v = Fp.grouped 32 x.k (fun i => Fp.decode Fp.bf16 (fieldAt ws.bytes (2 * i) 2)) xs start) ∧
     (x.form = .gq4 → x.k = 64 * blocks.length → v = Fp.scaledBlocks blocks.length
       (fun i => intVal (gq4Level (fieldAt ws.bytes (i / 2) 1 / 16 ^ (i % 2) % 16))) xs (fun j => (blocks.map (·.scale)).getD j 0)
       (fun j => (blocks.map (·.sup)).getD j 0)
       (fun σ => Fp.decode Fp.fp32 (((blocks.find? fun b => b.sup == σ).map GqBlock.supScale).getD 0).toNat) start) ∧
     s.enginePlace (s.bankOutput x true) rawOnly (x.y.toNat + 4 * row) 4 = .ok (r.pa, false)) ∧
   ∀ (s : State) (k : EngineKind) (accepts : Nat → Bool) (va n base pa : Nat) (view : Bool), 1 ≤ n → va % 4096 + n ≤ 4096 →
     s.enginePlace k accepts va n = .ok (pa, view) →
     (s.late = false → s.engineRead k accepts va n base = .ok ⟨s.readLoc (.phys pa) n, []⟩) ∧
     (k.bank = true → hostRange (pa % 2 ^ 46) = false)) ∧
  (∀ (s : State) (id : CoreId) (op : Nat) (x : BmvOp) (g : Group), s.bmvs.find? (fun y => y.id == op && y.core == id) = some x →
     x.completed = true ∨ x.done.length + (if x.fatal then x.stalled.length else 0) = x.m → s.group? x.thread.wave x.group = some g →
     (g.bankOps.head? = some op →
       let base := (x.sight.know.join (Know.ofSeen x.met)).also (x.lent.map (·.2))
       let know := if x.done = [] then base else base.afterWrites x.wrote
       let seen := if know = Know.none then Know.none else Know.ofSeen [s.stamp]
       ∃ u : State, exec (.bmvCompletion id op) s =
           .next (if x.notifies then u.notify x.core.die x.port (if x.fatal then 1 else 0) x.tag 2 seen else u) ∧
         u.bmvs = s.bmvs.filter (fun y => !(y.id == op)) ∧ u.mem = s.mem ∧ u.waves = s.waves ∧
         u.fenced = (if know = Know.none then s.fenced else ⟨s.stamp, .completion, know⟩ :: s.fenced) ∧
         u.group? x.thread.wave x.group = some { g with
           bankOps := g.bankOps.filter (· != op)
           reported := if know = Know.none then g.reported else g.reported ++ [⟨.bank, x.order, seen, x.wrote⟩] } ∧
         (∀ w l, s.wave? x.thread.wave = some w → s.launch? w.launch = some l →
           u.launch? w.launch = some { l with later := l.later.join know }) ∧
         (∀ k, k ≠ x.thread → u.thread? k = s.thread? k) ∧
         ∀ t, s.thread? x.thread = some t → u.thread? x.thread = some (if t.status = .stopped then { t with owed := t.owed ||| x.fflags }
           else { t with fflags := t.fflags ||| x.fflags.setWidth 32 })) ∧
     (g.bankOps.head? ≠ some op →
       (x.completed = true → exec (.bmvCompletion id op) s = .next s) ∧
       (x.completed = false → ∃ u, exec (.bmvCompletion id op) s = .next u ∧ u.groups = s.groups ∧ u.mem = s.mem ∧
         u.threads = s.threads ∧ u.waves = s.waves ∧ (∀ y ∈ u.bmvs, y.id = op → y.completed = true ∧ y.stalled = []) ∧
         ∀ y, y.id ≠ op → (y ∈ u.bmvs ↔ y ∈ s.bmvs))))

/-! ## Ports and patterns -/

/-- R264 to R266, R269 to R271: PALLOC with a valid word allocates the lowest free index of the die, a queue port empty with its
depth or a count port at its reload value, and answers its handle; with no free index it answers 0xFFFFFFFF and changes nothing.
A word with a field outside its values traps with ENGINE at the offset that R363 gives. R364: where the handle would put the stack
pointer below its limit it traps with STACK, the port allocated.
PFREE removes the port, counts its generation up and disarms the patterns that name it; a stale handle traps with PORTSTALE, a
launch port's with PORTBOUND. -/
def Obligations.PortAllocation : Prop :=
  ∀ (s : State) (c : Ctx),
    (∀ (f : ADF) (d : Die) (blk : List Byte), let form : Form := { g := f.g, sc := f.sc, reads := [f.a], names := [f.d] }
      let o := c.reads s form 0
      let word := fieldAt blk 0 4
      let depth := word % 256
      let reload := (BitVec.ofNat 16 (word / 2 ^ 16)).toInt
      let count := word / 2 ^ 8 % 2 = 1
      let wrong (off : Nat) : Prop := c.handles → Traps (.palloc f) s c .engine (Word.pair o (BitVec.ofNat 32 off))
      Executes s c form → Block s c o 8 8 blk → s.die? c.w.die = some d →
        (count → depth ≠ 0 → wrong 0) ∧ ((count → depth = 0) → word / 2 ^ 9 % 2 ^ 7 ≠ 0 → wrong 1) ∧
        (word / 2 ^ 9 % 2 ^ 7 = 0 → ¬ count → word / 2 ^ 16 ≠ 0 → wrong 2) ∧
        (word / 2 ^ 9 % 2 ^ 7 = 0 → (if count then depth = 0 else word / 2 ^ 16 = 0) →
          (fieldAt blk 4 4 ≠ 0 → wrong 4) ∧
          (fieldAt blk 4 4 = 0 →
            let taken (i : Nat) : Prop := ∃ p ∈ d.ports, p.idx = i
            (∀ i, 1 ≤ i → i ≤ 65535 → ¬ taken i → (∀ j, 1 ≤ j → j < i → taken j) →
              let gen := ((d.portGens.find? fun g => g.1 == i).map (·.2)).getD 0
              let h := BitVec.ofNat 32 (c.w.die * 2 ^ 28 + gen % 4096 * 2 ^ 16 + i)
              let kind := if count then PortKind.count reload reload Know.none else .queue (if depth = 0 then 256 else depth) []
              let u := (s.spent form).mapDie c.w.die fun x => { x with ports := x.ports ++ [⟨i, kind⟩] }
              (c.t.belowLimit [(f.d, h)] = false → Answers (.palloc f) s c f.sc u [(f.d, h)]) ∧
              (c.t.belowLimit [(f.d, h)] = true → c.handles → StackStands (.palloc f) s c u [(f.d, h)])) ∧
            ((∀ i, 1 ≤ i → i ≤ 65535 → taken i) → c.t.belowLimit [(f.d, 0xFFFFFFFF)] = false →
              Answers (.palloc f) s c f.sc (s.spent form) [(f.d, 0xFFFFFFFF)])))) ∧
    ∀ f : AF, let form : Form := { g := f.g, sc := f.sc, reads := [f.a] }
      let h := c.reads s form 0
      let idx := h.toNat % 2 ^ 16
      Executes s c form →
        (s.portDie h = none → c.handles → Traps (.pfree f) s c .portstale (BitVec.ofNat 64 h.toNat)) ∧
        (∀ d, s.portDie h = some d → idx = 0 → c.handles → Traps (.pfree f) s c .portbound (BitVec.ofNat 64 h.toNat)) ∧
        (∀ d, s.portDie h = some d → idx ≠ 0 → (∀ t ∈ s.threads, t.wait ≠ .recv h) →
          ∃ u, Answers (.pfree f) s c f.sc u [] ∧ u.mem = s.mem ∧ u.threads = s.threads ∧ u.waves = s.waves ∧ u.portDie h = none ∧
            ∀ d', s.die? (h.toNat / 2 ^ 28) = some d' → ∃ e, u.die? (h.toNat / 2 ^ 28) = some e ∧
              e.ports = d'.ports.filter (fun p => !(p.idx == idx)) ∧
              genOf e.portGens idx = (genOf d'.portGens idx + 1) % 4096 ∧
              ∀ p ∈ e.patterns, h ∈ p.ports → p.armed = false)

/-- R269, R272 to R274: a queue port with room takes a SEND, SENDNF or PADD as its newest message, a count port adds the signed value
when it stays in range; the sender's earlier stores take effect first, and with it goes what the sender knows (R177); else SEND and
PADD trap with PORTOVF and SENDNF pushes false. RECV and RECVNF of a port that no armed pattern names take the oldest message, or
zero words from a count port at 0, which is reloaded, and learn what came with it; else RECV waits and RECVNF pushes false. PINFO
answers the messages or the count. A stale handle traps with PORTSTALE.
R17, R265: SEND, SENDNF and PADD to a launch port with room enter a root launch of the node that the message names, or count a
message with a misaligned address or a reserved field; a full one takes nothing, like a full queue port. RECV and RECVNF there trap
with PORTBOUND; PINFO answers its pending launches.
R364: where the words would put the stack pointer below its limit RECV and RECVNF trap with STACK, the message taken. -/
def Obligations.PortMessages : Prop :=
  ∀ (s : State) (c : Ctx) (f : ADF),
    let send : Form := { g := f.g, sc := f.sc, reads := f.a :: f.d.group 4 }
    let sendnf : Form := { send with preds := true }
    let padd : Form := { g := f.g, sc := f.sc, reads := [f.a, f.d] }
    let recv : Form := { g := f.g, sc := f.sc, reads := [f.a], names := f.d.group 4 }
    let recvnf : Form := { recv with preds := true }
    let pinfo : Form := { g := f.g, sc := f.sc, reads := [f.a], names := [f.d] }
    let pushed (u : State) (b : Bool) : State := u.mapThread s.cur fun t => t.push b
    let released (form : Form) : State := ((s.spent form).drain s.cur).publish s.cur
    let at_ (h : Word) (k : PortKind) : Prop := h ≠ 0xFFFFFFFF ∧ h.toNat % 2 ^ 16 ≠ 0 ∧ ∃ d, s.portDie h = some d ∧
      d.ports.find? (fun p => p.idx == h.toNat % 2 ^ 16) = some ⟨h.toNat % 2 ^ 16, k⟩
    let bound (h : Word) : Prop := ∃ d, s.portDie h = some d ∧ ∃ p ∈ d.patterns, p.armed = true ∧ h ∈ p.ports
    let regs (ws : List Word) : List (Reg × Word) := (List.range 4).map fun i => (f.d.succ i, ws.getD i 0)
    let takes (form : Form) (k : PortKind) (know : Know) : State :=
      ((s.spent form).mapPort (c.reads s form 0) fun _ => k).learn s.cur know
    let port (h : Word) (d : Die) : Prop := s.portDie h = some d ∧ h.toNat % 2 ^ 16 = 0
    let launched (u : State) (d : Die) (m : List Word) : State :=
      if m.getD 2 0 = 0 ∧ m.getD 3 0 = 0 ∧ (m.getD 0 0).toNat % 64 = 0 then u.mapDie d.idx fun x =>
        { x with launchPort := x.launchPort ++ [⟨Word.pair (m.getD 0 0) (m.getD 1 0), 1, 3, 0, 0xFFFF, none, u.knows s.cur⟩] }
      else u.mapDie d.idx fun x => { x with errcnt := x.errcnt + 1 }
    (∀ p ∈ ([(.send f, send), (.sendnf f, sendnf), (.padd f, padd), (.recv f, recv), (.recvnf f, recvnf), (.pinfo f, pinfo)] :
        List (Instr × Form)), Executes s c p.2 → s.portDie (c.reads s p.2 0) = none → c.handles →
      Traps p.1 s c .portstale (BitVec.ofNat 64 (c.reads s p.2 0).toNat)) ∧
    (∀ p ∈ ([(.send f, send, [c.reads s send 1, c.reads s send 2, c.reads s send 3, c.reads s send 4]),
          (.padd f, padd, [c.reads s padd 1, 0, 0, 0])] : List (Instr × Form × List Word)),
      let h := c.reads s p.2.1 0
      let s1 := released p.2.1
      let know := s1.knows s.cur
      Executes s c p.2.1 →
        (∀ depth ms, at_ h (.queue depth ms) → ms.length < depth →
          Answers p.1 s c f.sc (s1.mapPort h fun _ => .queue depth (ms ++ [⟨p.2.2, know⟩])) []) ∧
        (∀ depth ms, at_ h (.queue depth ms) → depth ≤ ms.length → c.handles →
          Traps p.1 s c .portovf (BitVec.ofNat 64 h.toNat)) ∧
        (∀ v r k, at_ h (.count v r k) → let sum := v + (c.reads s p.2.1 1).toInt
          (-(2 ^ 31) ≤ sum → sum < 2 ^ 31 → Answers p.1 s c f.sc (s1.mapPort h fun _ => .count sum r (k.join know)) []) ∧
          (sum < -(2 ^ 31) ∨ 2 ^ 31 ≤ sum → c.handles → Traps p.1 s c .portovf (BitVec.ofNat 64 h.toNat))) ∧
        ∀ d, port h d →
          (d.launchPort.length < 256 → s.recording = false → Answers p.1 s c f.sc (launched s1 d p.2.2) []) ∧
          (256 ≤ d.launchPort.length → c.handles → Traps p.1 s c .portovf (BitVec.ofNat 64 h.toNat))) ∧
    (let h := c.reads s sendnf 0
      let s1 := released sendnf
      let know := s1.knows s.cur
      let msg := [c.reads s sendnf 1, c.reads s sendnf 2, c.reads s sendnf 3, c.reads s sendnf 4]
      Executes s c sendnf →
        (∀ depth ms, at_ h (.queue depth ms) →
          (ms.length < depth → Answers (.sendnf f) s c f.sc (pushed (s1.mapPort h fun _ => .queue depth (ms ++ [⟨msg, know⟩])) true) []) ∧
          (depth ≤ ms.length → Answers (.sendnf f) s c f.sc (pushed s1 false) [])) ∧
        (∀ v r k, at_ h (.count v r k) → let sum := v + (c.reads s sendnf 1).toInt
          (-(2 ^ 31) ≤ sum → sum < 2 ^ 31 →
            Answers (.sendnf f) s c f.sc (pushed (s1.mapPort h fun _ => .count sum r (k.join know)) true) []) ∧
          (sum < -(2 ^ 31) ∨ 2 ^ 31 ≤ sum → Answers (.sendnf f) s c f.sc (pushed s1 false) [])) ∧
        ∀ d, port h d →
          (d.launchPort.length < 256 → s.recording = false → Answers (.sendnf f) s c f.sc (pushed (launched s1 d msg) true) []) ∧
          (256 ≤ d.launchPort.length → Answers (.sendnf f) s c f.sc (pushed s1 false) [])) ∧
    (∀ p ∈ ([(.recv f, recv), (.recvnf f, recvnf)] : List (Instr × Form)), let h := c.reads s p.2 0
      Executes s c p.2 → c.handles →
        (∀ k, at_ h k → bound h → Traps p.1 s c .portbound (BitVec.ofNat 64 h.toNat)) ∧
        (∀ d, port h d → (∀ q ∈ d.ports, q.idx ≠ 0) → Traps p.1 s c .portbound (BitVec.ofNat 64 h.toNat)) ∧
        (∀ depth m ms, at_ h (.queue depth (m :: ms)) → ¬ bound h → c.t.belowLimit (regs m.words) = true →
          StackStands p.1 s c (takes p.2 (.queue depth ms) m.know) (regs m.words)) ∧
        ∀ r k, at_ h (.count 0 r k) → ¬ bound h → c.t.belowLimit (regs [0, 0, 0, 0]) = true →
          StackStands p.1 s c (takes p.2 (.count r r Know.none) k) (regs [0, 0, 0, 0])) ∧
    (Executes s c recv → let h := c.reads s recv 0
      (∀ depth m ms, at_ h (.queue depth (m :: ms)) → ¬ bound h → c.t.belowLimit (regs m.words) = false →
        Answers (.recv f) s c f.sc (takes recv (.queue depth ms) m.know) (regs m.words)) ∧
      (∀ r k, at_ h (.count 0 r k) → ¬ bound h → c.t.belowLimit (regs [0, 0, 0, 0]) = false →
        Answers (.recv f) s c f.sc (takes recv (.count r r Know.none) k) (regs [0, 0, 0, 0])) ∧
      (∀ depth, at_ h (.queue depth []) → ¬ bound h → Polls (.recv f) s c (s.spent recv) (.recv h)) ∧
      ∀ v r k, at_ h (.count v r k) → v ≠ 0 → ¬ bound h → Polls (.recv f) s c (s.spent recv) (.recv h)) ∧
    (Executes s c recvnf → let h := c.reads s recvnf 0
      (∀ depth m ms, at_ h (.queue depth (m :: ms)) → ¬ bound h → c.t.belowLimit (regs m.words) = false →
        Answers (.recvnf f) s c f.sc (pushed (takes recvnf (.queue depth ms) m.know) true) (regs m.words)) ∧
      (∀ r k, at_ h (.count 0 r k) → ¬ bound h → c.t.belowLimit (regs [0, 0, 0, 0]) = false →
        Answers (.recvnf f) s c f.sc (pushed (takes recvnf (.count r r Know.none) k) true) (regs [0, 0, 0, 0])) ∧
      (∀ depth, at_ h (.queue depth []) → ¬ bound h → Answers (.recvnf f) s c f.sc (pushed (s.spent recvnf) false) []) ∧
      ∀ v r k, at_ h (.count v r k) → v ≠ 0 → ¬ bound h → Answers (.recvnf f) s c f.sc (pushed (s.spent recvnf) false) []) ∧
    (Executes s c pinfo → let h := c.reads s pinfo 0
      (∀ depth ms, at_ h (.queue depth ms) → c.t.belowLimit [(f.d, BitVec.ofNat 32 ms.length)] = false →
        Answers (.pinfo f) s c f.sc (s.spent pinfo) [(f.d, BitVec.ofNat 32 ms.length)]) ∧
      (∀ v r k, at_ h (.count v r k) → c.t.belowLimit [(f.d, BitVec.ofInt 32 v)] = false →
        Answers (.pinfo f) s c f.sc (s.spent pinfo) [(f.d, BitVec.ofInt 32 v)]) ∧
      ∀ d, port h d → (∀ q ∈ d.ports, q.idx ≠ 0) → c.t.belowLimit [(f.d, BitVec.ofNat 32 d.launchPort.length)] = false →
        Answers (.pinfo f) s c f.sc (s.spent pinfo) [(f.d, BitVec.ofNat 32 d.launchPort.length)])

/-- R275 to R280: PATDEF with a valid block defines the lowest free pattern of the die, disarmed, with the handles and requirements of its
block; with none free it answers 0xFFFFFFFF. The block's fields are valid exactly as the table says. (Which of several invalid fields is
reported where the table gives no order is the model's choice, log 96; which of several freed ports PATARM reports, log 105.) R364: where
the handle would put the stack pointer below its limit it traps with STACK, the pattern defined. PATDEL removes one and counts its
generation up; PATARM arms and disarms. A firing of a pattern of one to four ports of its die takes from each queue port the messages
asked for and from each count port its count, leaves every other port, and enters a root launch of its node with what they contribute in
the pattern's order, in 64 bytes; the pattern that fires is satisfied and of the highest priority; among the tied ones it is the lowest
index that does not rotate, else the first from the priority's rotation pointer on, which moves past it. With a full launch port none
fires. A held delivery that its port takes leaves the held ones. -/
def Obligations.JoinPatterns : Prop :=
  (∀ (s : State) (c : Ctx) (f : ADF) (d : Die) (blk : List Byte),
    let form : Form := { g := f.g, sc := f.sc, reads := [f.a], names := [f.d] }
    let o := c.reads s form 0
    let h (i : Nat) := BitVec.ofNat 32 (c.w.die * 2 ^ 28 + genOf d.patGens i % 4096 * 2 ^ 16 + i)
    let pattern (i : Nat) : Pattern := ⟨i, false, (List.range (fieldAt blk 42 1)).map fun k => BitVec.ofNat 32 (fieldAt blk (4 * k) 4),
      (List.range (fieldAt blk 42 1)).map fun k => fieldAt blk (16 + 4 * k) 4, BitVec.ofNat 64 (fieldAt blk 32 8), fieldAt blk 40 1,
      decide (fieldAt blk 41 1 = 1)⟩
    Executes s c form → Block s c o 64 8 blk → s.die? c.w.die = some d →
      (∀ cause ea, patdefTrap s d o blk = some (cause, ea) → c.handles → Traps (.patdef f) s c cause ea) ∧
      (patdefTrap s d o blk = none →
        (∀ i < 8192, (∀ p ∈ d.patterns, p.idx ≠ i) → (∀ j < i, ∃ p ∈ d.patterns, p.idx = j) →
          let u := (s.spent form).mapDie c.w.die fun x => { x with patterns := x.patterns ++ [pattern i] }
          (c.t.belowLimit [(f.d, h i)] = false → Answers (.patdef f) s c f.sc u [(f.d, h i)]) ∧
          (c.t.belowLimit [(f.d, h i)] = true → c.handles → StackStands (.patdef f) s c u [(f.d, h i)])) ∧
        ((∀ i < 8192, ∃ p ∈ d.patterns, p.idx = i) → c.t.belowLimit [(f.d, 0xFFFFFFFF)] = false →
          Answers (.patdef f) s c f.sc (s.spent form) [(f.d, 0xFFFFFFFF)]))) ∧
  (∀ (s : State) (d : Die) (o : Word) (blk : List Byte), (patdefTrap s d o blk = none ↔ PatternBlockOk s d blk) ∧
    (fieldAt blk 42 1 = 0 ∨ 4 < fieldAt blk 42 1 → patdefTrap s d o blk = some (.engine, Word.pair o 42)) ∧
    (1 ≤ fieldAt blk 42 1 → fieldAt blk 42 1 ≤ 4 → s.stale (wordAt blk 0) = true →
      patdefTrap s d o blk = some (.portstale, BitVec.ofNat 64 (wordAt blk 0).toNat))) ∧
  (∀ (s : State) (c : Ctx) (f : AF), let form : Form := { g := f.g, sc := f.sc, reads := [f.a] }
    let h := c.reads s form 0
    Executes s c form →
      (s.pattern? h = none → c.handles → Traps (.patdel f) s c .portstale (BitVec.ofNat 64 h.toNat)) ∧
      ∀ d p, s.pattern? h = some (d, p) → Answers (.patdel f) s c f.sc ((s.spent form).mapDie d.idx fun x =>
        { x with patterns := x.patterns.filter (fun q => !(q.idx == p.idx)), patGens := bumpGen x.patGens p.idx }) []) ∧
  (∀ (s : State) (c : Ctx) (f : ADF), let form : Form := { g := f.g, sc := f.sc, reads := [f.a, f.d] }
    let h := c.reads s form 0
    let v := c.reads s form 1
    let set (d : Die) (p : Pattern) (b : Bool) : State := (s.spent form).mapDie d.idx fun x =>
      { x with patterns := x.patterns.map fun q => if q.idx = p.idx then { q with armed := b } else q }
    Executes s c form →
      (s.pattern? h = none → c.handles → Traps (.patarm f) s c .portstale (BitVec.ofNat 64 h.toNat)) ∧
      ∀ d p, s.pattern? h = some (d, p) →
        (1 < v.toNat → c.handles → Traps (.patarm f) s c .engine (BitVec.ofNat 64 v.toNat)) ∧
        (v = 0 → Answers (.patarm f) s c f.sc (set d p false) []) ∧
        (v = 1 → p.armed = true → Answers (.patarm f) s c f.sc (s.spent form) []) ∧
        (v = 1 → p.armed = false → (∀ k ∈ p.ports, s.portDie k ≠ none) → (∀ t ∈ s.threads, ∀ k ∈ p.ports, t.wait ≠ .recv k) →
          Answers (.patarm f) s c f.sc (set d p true) [])) ∧
  (∀ (s : State) (die : Nat) (d : Die), s.die? die = some d → 256 ≤ d.launchPort.length → exec (.patternFiring die) s = .next s) ∧
  (∀ (s : State) (die : Nat) (d : Die) (p : Pattern) (rot : Vector Nat 16), s.die? die = some d → d.inService = true →
    d.launchPort.length < 256 → (s.recording = true → d.log.length < s.boot.logRoom) → d.choosePattern = some (p, rot) →
      p ∈ d.patterns ∧ d.satisfied p = true ∧ (∀ q ∈ d.patterns, d.satisfied q = true → q.prio ≤ p.prio) ∧
      (∀ q ∈ d.patterns, d.satisfied q = true → q.prio = p.prio → q.rotate = false → p.rotate = false ∧ p.idx ≤ q.idx) ∧
      (p.rotate = false → rot = d.rotation) ∧
      (p.rotate = true → (∀ q ∈ d.patterns, q.idx < 8192) → ∀ k : Fin 16, p.prio = k.val → d.rotation[k] < 8192 →
        rot = d.rotation.set k ((p.idx + 1) % 8192) ∧
        ∀ q ∈ d.patterns, d.satisfied q = true → q.prio = p.prio →
          (p.idx + 8192 - d.rotation[k]) % 8192 ≤ (q.idx + 8192 - d.rotation[k]) % 8192) ∧
      ∃ u e l, exec (.patternFiring die) s = .next u ∧ u.mem = s.mem ∧ u.threads = s.threads ∧ u.waves = s.waves ∧
        u.die? die = some e ∧ e.rotation = rot ∧ e.launchPort = d.launchPort ++ [l] ∧ l.node = p.node ∧ l.depth = 1 ∧ l.prio = 3 ∧
        l.domain = 0 ∧ l.budget = 0xFFFF ∧
        (p.ports.length = p.reqs.length → (∀ h ∈ p.ports, h.toNat / 2 ^ 28 = die) → (p.ports.map fun h => h.toNat % 2 ^ 16).Nodup →
          (d.ports.map (·.idx)).Nodup →
          let taken (i : Nat) : Option Nat := ((p.ports.zip p.reqs).find? fun x => x.1.toNat % 2 ^ 16 == i).map (·.2)
          let gives (x : Word × Nat) : List Byte :=
            match d.ports.find? fun q => q.idx == x.1.toNat % 2 ^ 16 with
            | some ⟨_, .queue _ ms⟩ => (ms.take x.2).flatMap fun m => wordBytes m.words
            | some ⟨_, .count v _ _⟩ => leBytes 4 (BitVec.ofInt 32 v).toNat ++ List.replicate 12 0
            | none => []
          let bytes := (p.ports.zip p.reqs).flatMap gives
          (∀ x ∈ p.ports.zip p.reqs, ∃ q ∈ d.ports, q.idx = x.1.toNat % 2 ^ 16 ∧
            match q.kind with
            | .queue _ ms => x.2 ≤ ms.length
            | .count v _ _ => if x.2 = 0 then v = 0 else (x.2 : Int) ≤ v) ∧
          (e.ports = d.ports.map fun q =>
            match taken q.idx, q.kind with
            | none, _ => q
            | some r, .queue depth ms => ⟨q.idx, .queue depth (ms.drop r)⟩
            | some r, .count v reload know =>
              ⟨q.idx, .count (if r = 0 then reload else v - r) reload (if r = 0 then Know.none else know)⟩) ∧
          l.contrib = some (bytes ++ List.replicate (64 - bytes.length) 0))) ∧
  ∀ (s : State) (die n : Nat) (d : Die) (x : Delivery), s.die? die = some d → d.deliveries[n]? = some x →
    (∀ y ∈ d.deliveries.take n, y.handle ≠ x.handle) →
    (s.deliver? x = none → exec (.heldDeliveryRetry die n) s = .next s) ∧
    ∀ u, s.deliver? x = some u → exec (.heldDeliveryRetry die n) s =
      .next (u.mapDie die fun e => { e with deliveries := e.deliveries.eraseIdx n })

/-! ## Reserving loops -/

/-- R283, R285 to R288, R292 to R294: a claim in the claiming phase joins the item's exact list, upgrades its line to W, or overflows
the list of 32; ADMIT ends the claiming phase at its first arrival, waits, and goes on when the item executes; RSVINFO answers the
item's phase, overflow and count, or 0. The Barrow admits a waiting item exactly when the four conditions of R288 hold, and its
thread goes on, knowing what the finished items knew and what the releases that its reads have met carry: an acquire of module scope
(R172, R290); it counts an exited item finished when its stores have taken effect,
and discards its claims. -/
def Obligations.ReservingItems : Prop :=
  (∀ (s : State) (c : Ctx) (w : Bool),
    let n := c.w.nodeThread c.t.id.idx
    let isItem : Prop := c.l.nd.flags.testBit 2 = true ∧ n < c.l.nd.items
    let item := c.l.item n
    let put (u : State) (x : Item) : State := u.mapLaunch c.l.id fun l => l.setItem x
    (∀ f : AF, let form : Form := { g := f.g, sc := f.sc, reads := f.a.pair }
      let i : Instr := if w then .claimW f else .claimR f
      let addr := Word.pair (c.reads s form 0) (c.reads s form 1)
      let line := addr.toNat / 64
      Executes s c form →
        (¬ isItem → c.handles → Traps i s c .claim 0) ∧
        (isItem → 2 ^ 57 ≤ addr.toNat → c.handles → Traps i s c .xlate addr) ∧
        (isItem → addr.toNat < 2 ^ 57 → (0x01F0000000000000 ≤ addr.toNat ∨ item.phase ≠ .claiming) → c.handles →
          Traps i s c .claim addr) ∧
        (isItem → addr.toNat < 0x01F0000000000000 → item.phase = .claiming →
          ((∀ b, (line, b) ∉ item.lines) → item.lines.length < 32 → Answers i s c f.sc
            (put (s.spent form) { item with lines := item.lines ++ [(line, w)] }) []) ∧
          ((∀ b, (line, b) ∉ item.lines) → 32 ≤ item.lines.length → Answers i s c f.sc
            (put (s.spent form) { item with overflow := true }) []) ∧
          ((∃ b, (line, b) ∈ item.lines) → Answers i s c f.sc (put (s.spent form)
            { item with lines := item.lines.map fun y => if y.1 = line then (y.1, y.2 || w) else y }) []))) ∧
    (∀ f : GF, Executes s c f.form →
      (¬ isItem → c.handles → Traps (.admitItem f) s c .claim 0) ∧
      (isItem → item.phase = .claiming → Polls (.admitItem f) s c (put (s.spent f.form) { item with phase := .waiting }) (.admitItem f.sc)) ∧
      (isItem → item.phase = .waiting → Polls (.admitItem f) s c (s.spent f.form) (.admitItem f.sc)) ∧
      (isItem → item.phase = .executing → GoesOn (.admitItem f) s c f.sc)) ∧
    ∀ f : DF, Executes s c { g := f.g, sc := f.sc, names := [f.d] } →
      let v := BitVec.ofNat 32 ((if item.phase = .claiming then 1 else 2) * 2 ^ 9 +
        (if item.overflow then 2 ^ 8 else 0) + item.lines.length)
      (isItem → item.phase = .claiming ∨ item.phase = .executing → c.t.belowLimit [(f.d, v)] = false →
        WritesBoard (.rsvinfo f) s c f.sc f.d v) ∧
      (¬ isItem → c.t.belowLimit [(f.d, 0)] = false → WritesBoard (.rsvinfo f) s c f.sc f.d 0)) ∧
  (∀ (l : Launch) (i : Nat),
    let x := l.item i
    let conflict (x y : Item) : Prop := x.overflow = true ∨ y.overflow = true ∨
      ∃ a ∈ x.lines, ∃ b ∈ y.lines, a.1 = b.1 ∧ (a.2 = true ∨ b.2 = true)
    (l.admissible i = true ↔ x.phase = .waiting ∧ i < l.nd.items ∧ (∀ j < i, (l.item j).phase ≠ .claiming) ∧
      (∀ y ∈ l.items, y.n ≠ i → y.phase = .executing ∨ y.phase = .exited → ¬ conflict x y) ∧
      (∀ j < i, (l.item j).phase = .waiting → ¬ conflict x (l.item j)) ∧ i < l.lowestUnfinished + 4096) ∧
    (l.lowestUnfinished ≤ l.nd.items ∧ (∀ j < l.lowestUnfinished, (l.item j).phase = .finished) ∧
      (l.lowestUnfinished < l.nd.items → (l.item l.lowestUnfinished).phase ≠ .finished))) ∧
  ∀ (s : State) (launch i : Nat) (l : Launch), s.launch? launch = some l →
    (∀ t c sc, s.itemThread l i = some t → s.ctx t.id = some c → c.t = t → t.wait = .admitItem sc →
      (l.admissible i = true → ∃ u v m, exec (.itemAdmission launch i) s = .next u ∧ u.mem = s.mem ∧ u.waves = s.waves ∧
        u.thread? t.id = some v ∧ v.pc = t.pc + 4 ∧ v.wait = .none ∧ v.readyAt = s.now + 1 + sc ∧
        SameControl ((t.acquire (s.coreOf t.id) .module).learn l.finished) v ∧ SameRegs t v [] ∧
        u.launch? launch = some m ∧ m.item i = { l.item i with phase := .executing } ∧ ∀ j, j ≠ i → m.item j = l.item j) ∧
      (l.admissible i = false → exec (.itemAdmission launch i) s = .next s)) ∧
    ((l.item i).phase = .exited ∨ (l.item i).phase = .leaving → (∀ t, s.itemThread l i = some t → t.stores = [] ∧ t.unposted = 0) →
      ∃ u m, exec (.itemFinish launch i) s = .next u ∧ u = { s with launches := u.launches } ∧ u.launch? launch = some m ∧
        (∀ t, s.itemThread l i = some t → m.finished = l.finished.join t.sight.know) ∧
        m.item i = { l.item i with phase := .finished, lines := [], overflow := false } ∧ ∀ j, j ≠ i → m.item j = l.item j)

/-! ## Fitted regions -/

/-- R303, R308, R313 to R316: with the checks of R314 passed, FITX answers the exact bits of the element, FITGEN the generation, FITSTAT
the running, fallback and count fields; FITX of an element whose line of the reference, 64 bytes, is lost answers 0 with a poison mark
(R192; where the elements stand in lines is the model's choice, log 106); REFIT makes the thread's stores take effect and enters its
request at the region, waits while its Tansy holds 64, and completes with status 1 at the last generation. R345: to a module that the
fabric does not reach, FITX, FITGEN and FITSTAT answer 0 with a poison mark, and a REFIT is dropped with a POISON record; that a REFIT is
treated as a store there is the model's choice (log 91). That the other three make the thread's stores to that region take effect first is
the model's choice of region order (log 12). -/
def Obligations.FittedReads : Prop :=
  ∀ (s : State) (c : Ctx) (f : ADF) (r : Region) (k : Nat),
    let form : Form := { g := f.g, sc := f.sc, reads := f.a.pair, names := [f.d] }
    let form' : Form := { g := f.g, sc := f.sc, reads := f.a.pair ++ [f.d] }
    let ea (g : Form) := Word.pair (c.reads s g 0) (c.reads s g 1)
    let n := k / (if r.fmt = 2 then 4 else 2)
    let line := n * (if r.fmt = 2 then 4 else 2) / 64
    let found (u : State) (element : Bool) (g : Form) : Prop := ∃ r0, s.fitCheck c.l.system c.w element (ea g).toNat = .ok r0 k ∧
      u.region? r0.id = some r ∧ r0.fmt = r.fmt
    let u := if c.t.stores.any fun e => e.loc.inRegion r.id then (s.spent form).drain s.cur else s.spent form
    let u' := (s.spent form').drain s.cur
    (Executes s c form → found u true form → s.late = false →
      (line ∉ r.badRefs → s.unreachable r.home = false → c.t.belowLimit [(f.d, BitVec.ofNat 32 (r.reference.getD n 0))] = false →
        Answers (.fitx f) s c f.sc u [(f.d, BitVec.ofNat 32 (r.reference.getD n 0))]) ∧
      (line ∈ r.badRefs ∨ s.unreachable r.home = true → c.t.belowLimit [(f.d, 0)] = false → ∃ t v, exec (.fitx f) s = .next t ∧
        t.thread? s.cur = some v ∧ t.mem = u.mem ∧ v.pc = c.t.pc + 4 ∧ v.latest f.d = 0 ∧ v.mark? f.d = some (ea form) ∧
        SameRegs c.t v [f.d])) ∧
    (Executes s c form → found u false form → s.unreachable r.home = true → c.t.belowLimit [(f.d, 0)] = false →
      ∀ i ∈ [Instr.fitgen f, .fitstat f], ∃ t v, exec i s = .next t ∧ t.thread? s.cur = some v ∧ t.mem = u.mem ∧ v.pc = c.t.pc + 4 ∧
        v.latest f.d = 0 ∧ v.mark? f.d = some (ea form) ∧ SameRegs c.t v [f.d]) ∧
    (Executes s c form → found u false form → s.unreachable r.home = false →
      (c.t.belowLimit [(f.d, r.gen)] = false → Answers (.fitgen f) s c f.sc u [(f.d, r.gen)]) ∧
      let v := BitVec.ofNat 32 ((if r.running then 2 ^ 23 else 0) + (if r.normal then 0 else 2 ^ 22) + r.entries.length)
      (c.t.belowLimit [(f.d, v)] = false → Answers (.fitstat f) s c f.sc u [(f.d, v)])) ∧
    (Executes s c form' → found u' false form' →
      let u1 := u'.publish s.cur
      let q : RefitReq := ⟨c.w.die, c.reads s form' 2, false, u1.knows s.cur⟩
      let waiting := ((u'.regions.filter fun x => x.stack = r.stack).map (·.pending.length)).sum
      (u'.unposted s.cur = true → Polls (.refit f) s c u' .poll) ∧
      (u'.unposted s.cur = false → s.unreachable r.home = true →
        ∃ t v, exec (.refit f) s = .next t ∧ t.regions = u1.regions ∧ t.mem = u1.mem ∧ t.thread? s.cur = some v ∧
          v.pc = c.t.pc + 4 ∧ SameRegs c.t v [] ∧ (∀ w, u1.thread? s.cur = some w → v.unposted = w.unposted + 1) ∧
          ∀ d, u1.die? c.w.die = some d → ∃ d' p, t.die? c.w.die = some d' ∧ d'.posting = d.posting ++ [p] ∧ p.poster = .store s.cur ∧
            p.record.cause = .poison ∧ p.record.source = 4 ∧ p.record.kind = 1 ∧ p.record.va = ea form') ∧
      (u'.unposted s.cur = false → s.unreachable r.home = false →
        (64 ≤ waiting → Polls (.refit f) s c u1 .poll) ∧
        (waiting < 64 → r.gen ≠ 0xFFFFFFFF → Answers (.refit f) s c f.sc { u1 with regions := u1.regions.map fun x =>
          if x.id = r.id then { x with pending := x.pending ++ [q] } else x } []) ∧
        (waiting < 64 → r.gen = 0xFFFFFFFF → Answers (.refit f) s c f.sc (if q.handle = 0xFFFFFFFF then u1
          else u1.notify c.w.die q.handle 1 r.gen 4 q.know) [])))

/-- R303, R304, R308, R309: a load of an element gives its entry when it has one, else the network's value; in fallback the exact bits;
it meets poison exactly where the data it reads, or the module, is lost: the 64-byte line of the reference, or of the copy of the table
in use, that holds it, or the parameters (R192, R308, R345; where they lie in those lines is the model's choice, log 106). R106: the
network's value is the evaluation of the pseudocode, step by step. R304: an element is within the bound exactly when its reference and that
value are finite and differ by at most B as real numbers. A store makes the element exact: it takes or replaces
an entry, and with the table full the region falls back. After it the element loads as stored, and every other element loads as
before, or exactly.
R311, R312, R316: REFIT_START marks a region's refit running; REFIT_SWAP with a parameter set that the region allows puts the
parameters, a table of every element outside the bound and the next generation into effect in one event, and completes every
pending request; REFIT_ABANDON leaves the region and completes the requests that had started. -/
def Obligations.FittedElementsAndRefits : Prop :=
  ((∀ (r : Region) (ps : FitParams) (cs : List Nat) (us : Nat → Nat) (zs : Nat → Nat → Nat) (ys : Nat → Nat),
     let fma (x y z : Nat) : Nat := (Fp.fma Fp.fp32 .rne x y z).1
     let exactly (x : BitVec 16) : Nat := (Fp.convert Fp.fp16 Fp.fp32 .rne x.toNat).1
     let act (z : Nat) : Nat :=
       match Fp.decode Fp.fp32 z with
       | .nan _ => z
       | .inf neg => if neg then 0 else if r.clamp then 0x3F800000 else z
       | .fin neg m e => if (Fp.Val.fin neg m e).rat ≤ 0 then 0
           else if r.clamp = true ∧ 1 ≤ (Fp.Val.fin neg m e).rat then 0x3F800000 else z
     let w (j : Nat) : List (BitVec 16) := ps.neurons.getD j []
     cs.length = r.extents.length → (∀ i < cs.length, cs.getD i 0 < r.extents.getD i 0) →
     (∀ i < cs.length, us i = fma (Fp.ofInteger Fp.fp32 .rne (cs.getD i 0)).1 (r.step.getD i 0).toNat (r.offset.getD i 0).toNat) →
     (∀ j < ps.neurons.length, zs j 0 = exactly ((w j).getD 3 0) ∧
       ∀ i < cs.length, zs j (i + 1) = fma (exactly ((w j).getD i 0)) (us i) (zs j i)) →
     ys 0 = exactly ps.cb →
     (∀ j < ps.neurons.length, ys (j + 1) = fma (exactly ((w j).getD 4 0)) (act (zs j cs.length)) (ys j)) →
     r.evalWith ps ((List.range cs.length).map fun i => cs.getD i 0 * (r.extents.take i).prod).sum =
       (Fp.convert Fp.fp32 r.format .rne (ys ps.neurons.length)).1) ∧
   ∀ (r : Region) (ps : FitParams) (n x : Nat), let val (z : Nat) : Fp.Val := Fp.decode r.format z
     let y := r.evalWith ps n
     let b := Fp.decode Fp.fp32 r.bound.toNat
     r.bound.getLsbD 31 = false → b.finite = true →
       (r.fits ps n x = true ↔ (val x).finite = true ∧ (val y).finite = true ∧ |(val y).rat - (val x).rat| ≤ b.rat)) ∧
  (∀ (r : Region) (n x : Nat),
     (r.normal = false → r.value n = r.reference.getD n 0) ∧
     (r.normal = true → (∀ e ∈ r.entries, e.1 ≠ n) → r.value n = r.evalWith r.params n) ∧
     (r.normal = true → (r.entries.map (·.1)).Nodup → ∀ v, (n, v) ∈ r.entries → r.value n = v) ∧
     (n < r.reference.length → (r.store n x).value n = x ∧ (r.store n x).reference = r.reference.set n x ∧
       ((r.store n x).normal = false ↔ r.normal = false ∨ ((∀ e ∈ r.entries, e.1 ≠ n) ∧ r.capacity ≤ r.entries.length)) ∧
       ∀ m, m ≠ n → (r.store n x).value m = if (r.store n x).normal = r.normal then r.value m else r.reference.getD m 0) ∧
     ∀ s : State, s.region? r.id = some r → (s.poisoned (.fitted r.id n) r.esize = true ↔
       (r.normal = false ∧ n * r.esize / 64 ∈ r.badRefs) ∨
       (r.normal = true ∧ ∃ k x, r.entries[k]? = some (n, x) ∧ (∀ j < k, ∀ y, r.entries[j]? ≠ some (n, y)) ∧
         r.tableByte ((if r.gen.toNat % 2 = 1 then 0 else 8 * r.capacity) + 8 * k) / 64 ∈ s.poison) ∨
       (r.normal = true ∧ (∀ e ∈ r.entries, e.1 ≠ n) ∧ r.badParams = true) ∨ s.unreachable r.home = true)) ∧
  (∀ (s : State) (id : Nat) (r : Region), s.region? id = some r → (∀ x ∈ s.regions, x.id = id → x = r) →
     let put (y : Region) : State := { s with regions := s.regions.map fun x => if x.id = id then y else x }
     let tell (u : State) (q : RefitReq) (status : Nat) (gen : Word) : State :=
       if q.handle = 0xFFFFFFFF then u else u.notify q.die q.handle status gen 4 q.know
     (r.running = false → r.gen ≠ 0xFFFFFFFF → exec (.refitStart id) s =
       .next (put { r with running := true, pending := r.pending.map fun q => { q with started := true } })) ∧
     (∀ ps extra, r.running = true → r.gen ≠ 0xFFFFFFFF → r.accepts ps = true →
       let table := (List.range r.count).filterMap fun n =>
         if !r.fits ps n (r.exactValue n) || extra.contains n then some (n, r.exactValue n) else none
       (table.length ≤ r.capacity → exec (.refitSwap id ps extra) s = .next (r.pending.foldl
         (fun u q => tell u q 0 (r.gen + 1))
         (put { r with params := ps, entries := table, normal := true, gen := r.gen + 1, running := false, pending := [] }))) ∧
       (r.capacity < table.length → exec (.refitSwap id ps extra) s = .next s)) ∧
     (r.running = true → exec (.refitAbandon id) s = .next ((r.pending.filter (·.started)).foldl
       (fun u q => tell u q 1 r.gen)
       (put { r with running := false, pending := r.pending.filter fun q => !q.started }))))

/-- R305 to R307: FITMAKE of a valid descriptor with a readable source makes a live region whose elements are the source's, of generation
1, with the fields of the descriptor. The region is normal exactly when its table holds every element whose evaluation lies outside the
bound, and those are its entries; else it has none. FITMAKE writes the exception count, the generation, the reference identifier and the
status, 0 or 1, to the descriptor and nothing else to memory. With 4,096 live regions it makes none and writes status 2. R170 to R172:
while writes spread late its thread knows the writes that its reads of the descriptor return, and has met the releases that these carry. A
descriptor with an invalid field traps with ENGINE at the field. FITDROP takes the region away when no access to it is in flight and
completes its pending requests with status 1, and traps at an address that is no region's. R300: the fields of a descriptor that stand for
themselves. Which accesses are in flight (log 33), which of two regions made at one base a FITDROP takes (log 38), the descriptor's
reading as a store's range (log 32), and that the region is made whatever room the tier has (log 75) are the model's choices; the
reference identifier is a free value (log 8). -/
def Obligations.FittedRegionsMade : Prop :=
  (∀ (s : State) (c : Ctx), c.l.system = true →
    (∀ (f : ADF) (ps : List RawPiece),
      let form : Form := { g := f.g, sc := f.sc, reads := f.a.pair ++ f.d.pair }
      let desc := Word.pair (c.reads s form 0) (c.reads s form 1)
      let src := Word.pair (c.reads s form 2) (c.reads s form 3)
      let u := (s.spent form).drain c.t.id
      let bytes := (u.rawBytes c.t.id ps).2
      let x := FitDesc.parse bytes
      let n := x.count * x.esize
      let out (off size v : Nat) : List (Nat × List Byte) :=
        match ps.find? fun p => decide (p.va ≤ desc.toNat + off) && decide (desc.toNat + off < p.va + p.n) with
        | some p =>
          let pa := p.pa + (desc.toNat + off - p.va)
          if u.tagOf pa = 4 then [] else [(pa, leBytes size v)]
        | none => []
      Executes s c form → s.late = false → desc.toNat % 64 = 0 → u.rawPieces c true (pieces 3 desc.toNat 512) = .ok ps →
        u.rawPoisoned ps = false →
        (∀ off w, u.fitFrames bytes = .invalid off → c.handles → u.thread? s.cur = some w → ∃ t v, exec (.fitmake f) s = .next t ∧
          t.thread? s.cur = some v ∧ Trapped w v (Word.lo c.l.nd.trapvec) .engine (BitVec.ofNat 64 (desc.toNat + off))) ∧
        ∀ range table reference w, u.fitFrames bytes = .ok range table → src.toNat % x.esize = 0 → u.unposted s.cur = false →
          (u.ownRegions.length < 4096 →
            u.sourceElements c x.esize (pieces (n / 4096 + 2) src.toNat n) = .ok (w, reference) →
            ∃ t v r, exec (.fitmake f) s = .next t ∧ t = { u with
                mem := t.mem, regions := u.regions ++ [r], nextId := u.nextId + 1, threads := t.threads, stamp := t.stamp } ∧
              r.id = u.nextId ∧ r.reference = reference ∧ r.gen = 1 ∧ r.params = ⟨x.cb, x.neurons⟩ ∧ r.granules = range ∧
              r.tableFrames = table ∧ r.badRefs = [] ∧ r.badParams = false ∧ r.running = false ∧ r.pending = [] ∧
              r.base = fieldAt bytes 72 8 ∧ r.dims = fieldAt bytes 0 1 ∧ r.fmt = fieldAt bytes 1 1 ∧ r.hidden = fieldAt bytes 3 1 ∧
              (r.clamp = true ↔ fieldAt bytes 2 1 = 1) ∧ r.bound = wordAt bytes 40 ∧ r.capacity = fieldAt bytes 48 4 ∧
              r.extents = (List.range r.dims).map (fun i => fieldAt bytes (4 + 4 * i) 4) ∧
              r.step = (List.range r.dims).map (fun i => wordAt bytes (16 + 4 * i)) ∧
              r.offset = (List.range r.dims).map (fun i => wordAt bytes (28 + 4 * i)) ∧
              (let beyond := (List.range r.count).filterMap fun m =>
                if r.fits r.params m (r.exactValue m) = true then none else some (m, r.exactValue m)
               (r.normal = true ↔ beyond.length ≤ r.capacity) ∧ r.entries = if beyond.length ≤ r.capacity then beyond else []) ∧
              (∀ a, t.mem.get a = u.mem.layered (out 80 4 (if r.normal then 0 else 1) ++
                out 64 8 (Config.referenceId u.nextId).toNat ++ out 52 4 1 ++ out 44 4 r.entries.length) a) ∧
              (∀ k, k ≠ s.cur → t.thread? k = u.thread? k) ∧ t.thread? s.cur = some v ∧ v.pc = c.t.pc + 4 ∧ SameRegs c.t v []) ∧
          (4096 ≤ u.ownRegions.length → ∃ t v, exec (.fitmake f) s = .next t ∧
            t = { u with mem := t.mem, threads := t.threads, stamp := t.stamp } ∧
            (∀ a, t.mem.get a = u.mem.layered (out 80 4 2) a) ∧ (∀ k, k ≠ s.cur → t.thread? k = u.thread? k) ∧
            t.thread? s.cur = some v ∧ v.pc = c.t.pc + 4 ∧ SameRegs c.t v [])) ∧
    (∀ (f : ADF) (p : RawPiece) (ps : List RawPiece) (range table : List Nat),
      let form : Form := { g := f.g, sc := f.sc, reads := f.a.pair ++ f.d.pair }
      let desc := Word.pair (c.reads s form 0) (c.reads s form 1)
      let u := (s.spent form).drain c.t.id
      let w := (u.rawBytes c.t.id (p :: ps)).1
      let bytes := (u.rawBytes c.t.id (p :: ps)).2
      let m := u.readAs (u.viewer s.cur) false false (.phys p.pa) p.n
      Executes s c form → s.late = true → desc.toNat % 64 = 0 → u.rawPieces c true (pieces 3 desc.toNat 512) = .ok (p :: ps) →
        u.rawPoisoned (p :: ps) = false → w.fitFrames bytes = .ok range table →
        (Word.pair (c.reads s form 2) (c.reads s form 3)).toNat % (FitDesc.parse bytes).esize = 0 → w.unposted s.cur = false →
        4096 ≤ w.ownRegions.length → ∃ t v, exec (.fitmake f) s = .next t ∧ t.thread? s.cur = some v ∧ v.pc = c.t.pc + 4 ∧
          (∀ e ∈ m.events, e ∈ v.sight.know.seen) ∧ ∀ x ∈ m.carried, ∀ r ∈ x.releases, r ∈ v.heard) ∧
    ∀ f : AF, let form : Form := { g := f.g, sc := f.sc, reads := f.a.pair }
      let ea := Word.pair (c.reads s form 0) (c.reads s form 1)
      let u := (s.spent form).drain c.t.id
      Executes s c form →
        ((∀ r ∈ s.ownRegions, r.base ≠ ea.toNat) → c.handles → Traps (.fitdrop f) s c .engine ea) ∧
        (∀ r0 r, s.ownRegions.find? (fun x => x.base == ea.toNat) = some r0 → u.region? r0.id = some r →
          ((∀ t ∈ u.threads, ∀ e ∈ t.stores, ∀ k, e.loc ≠ .fitted r0.id k) →
            Answers (.fitdrop f) s c f.sc (r.pending.foldl
              (fun u q => if q.handle = 0xFFFFFFFF then u else u.notify q.die q.handle 1 r.gen 4 q.know)
              { u with regions := u.regions.filter fun x => !(x.id == r0.id) }) []) ∧
          ((∃ t ∈ u.threads, ∃ e ∈ t.stores, ∃ k, e.loc = .fitted r0.id k) → Polls (.fitdrop f) s c u .poll))) ∧
  ∀ d : List Byte, (firstInvalid (fitChecksLow d) = none ↔ FitFieldsOk d) ∧
    (fieldAt d 0 1 = 0 ∨ 3 < fieldAt d 0 1 → firstInvalid (fitChecksLow d) = some 0)

/-! ## System mode -/

/-- R77, R78, R333: outside system mode every SYS instruction traps with PRIV, and a reserved SYS encoding too, whatever the guard; in
system mode, and for every other reserved encoding in any mode, the trap is RI.
R325, R339: in system mode SRDP answers each privileged register of the executing die and of the module; SWRP writes the register and
nothing else; of a read-only one it traps with RI, and so does a value that sets a bit that must be zero; a write to %fres frees the token
and gives its chunk or row the verdict, which no longer stalls, is fatal or to be done again with what the writer knows (of a row the
model's reading, log 94), or counts a token of nothing, once the thread's earlier stores are in effect. (What %streamexp reads while a
written value waits for its comparison is the model's choice, log 34; when what is to be done again may start is log 6.) -/
def Obligations.SystemModeAndRegisters : Prop :=
  (∀ (s : State) (c : Ctx), s.ctx s.cur = some c → c.t.completing = false → c.handles →
     (c.l.system = false → ∀ (a : AF) (d : ADF) (p : PrivF), ∀ i ∈ [Instr.fitmake d, .fitdrop a, .tlbinv d, .fqpop d, .layout d,
       .nodekill d, .preempt d, .srdp p, .swrp p], Traps i s c .priv 0) ∧
     (∀ f : PrivF, c.l.system = true → f.i ∈ [PReg.fqcount, .coremask, .coremaskh, .unitmask] → Traps (.swrp f) s c .ri 0) ∧
     ∀ w : Word, Traps (.reservedOrIllegalEncoding w) s c
       (if w.toNat / 2 % 64 = 0x3F ∧ c.l.system = false then .priv else .ri) 0) ∧
  (∀ (s : State) (c : Ctx) (w : Word), s.ctx s.cur = some c → ∃ t, exec (.reservedOrIllegalEncoding w) s = .next t) ∧
  (∀ (s : State) (c : Ctx) (f : PrivF) (d : Die), c.l.system = true → s.die? c.w.die = some d →
     (let form : Form := { g := f.g, sc := f.sc, names := [f.d] }
       let x : Word :=
         match f.i with
         | .ptroot => s.ptroot.extractLsb' 0 32
         | .ptrooth => s.ptroot.extractLsb' 32 32
         | .fqcount => BitVec.ofNat 32 d.faultQ.length
         | .fres => 0
         | .coremask => BitVec.ofNat 32 d.coreMask.toNat
         | .coremaskh => BitVec.ofNat 32 (d.coreMask.toNat / 2 ^ 32)
         | .unitmask => BitVec.ofNat 32 (((List.range 8).map fun i => if s.dieInService i then 2 ^ i else 0).sum +
             2 ^ 8 * s.stackMask.toNat)
         | .streamsel => d.streamsel
         | .streamexp => ((s.stream d.streamsel.toNat).written).getD (s.stream d.streamsel.toNat).expected
         | .errcnt => d.errcnt
         | .coresel => d.coresel
         | .conflicts => ((d.cores.find? fun k => k.idx == d.coresel.toNat).map (·.conflicts)).getD 0
       Executes s c form → c.t.belowLimit [(f.d, x)] = false → WritesBoard (.srdp f) s c f.sc f.d x) ∧
     let form : Form := { g := f.g, sc := f.sc, reads := [f.d] }
     let v := c.reads s form 0
     let u := s.spent form
     let invalid : Prop :=
       match f.i with
       | .ptroot => v.toNat % 2 ^ 12 ≠ 0
       | .ptrooth => 2 ^ 20 ≤ v.toNat
       | .fres => v.toNat / 2 ^ 16 % 2 ^ 15 ≠ 0
       | .streamsel => 4096 ≤ v.toNat
       | .coresel => 56 ≤ v.toNat
       | _ => False
     let die (g : Die → Die) : State := u.mapDie c.w.die g
     Executes s c form →
       (invalid → c.handles → Traps (.swrp f) s c .ri 0) ∧
       (¬ invalid →
         (f.i = .ptroot → Answers (.swrp f) s c f.sc { u with ptroot := s.ptroot.extractLsb' 32 32 ++ v } []) ∧
         (f.i = .ptrooth → Answers (.swrp f) s c f.sc { u with ptroot := v ++ s.ptroot.extractLsb' 0 32 } []) ∧
         (f.i = .fres → let u1 := (u.drain s.cur).publish s.cur
           let token := v.toNat % 65536
           (u1.unposted s.cur = true → Polls (.swrp f) s c u1 .poll) ∧
           (u1.unposted s.cur = false → ∀ e, u1.die? c.w.die = some e →
             (e.stalledAt? token = none →
               Answers (.swrp f) s c f.sc (u1.mapDie c.w.die fun x => { x with errcnt := x.errcnt + 1 }) []) ∧
             ∀ who, e.stalledAt? token = some who → ∃ t e', Answers (.swrp f) s c f.sc t [] ∧ t.die? c.w.die = some e' ∧
               e'.verdicts = e.verdicts ++ [(who, v.getLsbD 31)] ∧ e'.stalledAt? token = none ∧ e'.errcnt = e.errcnt ∧
               t.mem = u1.mem ∧ t.waves = u1.waves ∧ t.launches = u1.launches ∧
               (∀ op ch x, who = .chunk op ch → u1.copies.find? (fun y => y.id == op) = some x → (∃ k, (ch, k) ∈ x.stalled) →
                 ∃ y, t.copies.find? (fun y => y.id == op) = some y ∧ (∀ z ∈ y.stalled, z.1 ≠ ch) ∧
                   y.fatal = (x.fatal || v.getLsbD 31) ∧ y.retry = (if v.getLsbD 31 then x.retry else x.retry ++ [ch]) ∧
                   y.lent = if v.getLsbD 31 then x.lent else x.lent ++ [(ch, u1.knows s.cur)]) ∧
               ∀ op row x, who = .row op row → u1.bmvs.find? (fun y => y.id == op) = some x → (∃ k, (row, k) ∈ x.stalled) →
                 ∃ y, t.bmvs.find? (fun y => y.id == op) = some y ∧ (∀ z ∈ y.stalled, z.1 ≠ row) ∧
                   y.fatal = (x.fatal || v.getLsbD 31) ∧ y.done = (if v.getLsbD 31 then x.done ++ [row] else x.done) ∧
                   y.lent = if v.getLsbD 31 then x.lent else x.lent ++ [(row, u1.knows s.cur)])) ∧
         (f.i = .streamsel → Answers (.swrp f) s c f.sc (die fun x => { x with streamsel := v }) []) ∧
         (f.i = .errcnt → Answers (.swrp f) s c f.sc (die fun x => { x with errcnt := v }) []) ∧
         (f.i = .coresel → Answers (.swrp f) s c f.sc (die fun x => { x with coresel := v }) []) ∧
         (f.i = .conflicts → Answers (.swrp f) s c f.sc (die fun x => { x with cores := x.cores.map fun k =>
           if k.idx = d.coresel.toNat then { k with conflicts := v } else k }) []) ∧
         (f.i = .streamexp → ∃ t, Answers (.swrp f) s c f.sc t [] ∧ t = { u with streams := t.streams } ∧
           (t.stream d.streamsel.toNat).written = some v ∧
           (t.stream d.streamsel.toNat).expected = (s.stream d.streamsel.toNat).expected ∧
           ∀ k, k ≠ d.streamsel.toNat → t.stream k = s.stream k)))

/-- R183, R184, R323, R334 to R336, R364: in system mode TLBINV acts as a full fence, waits while a covered access is in flight, then
drops the cached translations of the pages that lie in its scope and lets the accesses that wait for them translate again; LAYOUT
checks its operands in order, waits for the accesses to its granule, then gives the granule its tag, zeroed and cleaned when it asks
or a fitted tag comes or goes; FQPOP hands over the oldest fault record as accepted stores, takes over what its posting passes on,
and answers its token, or 0xFFFFFFFF from an empty queue; the record stays popped and stored when the STACK check then fails. (What
counts as an access in flight, and the wake of the waiting ones, is the model's choice, log 33; that only whole pages leave the
cache is log 71; the stores' packet order and what passes on are log 12.) -/
def Obligations.MemoryAdministration : Prop :=
  ∀ (s : State) (c : Ctx) (f : ADF), c.l.system = true →
    let form : Form := { g := f.g, sc := f.sc, reads := f.a.pair ++ [f.d] }
    let pop : Form := { g := f.g, sc := f.sc, reads := f.a.pair, names := [f.d] }
    let at_ := Word.pair (c.reads s form 0) (c.reads s form 1)
    let v := c.reads s form 2
    let u := (s.spent form).drain s.cur
    (Executes s c form → v.toNat / 2 ^ 4 % 2 ^ 27 ≠ 0 → c.handles → Traps (.tlbinv f) s c .engine 0) ∧
    (Executes s c form → v.toNat / 2 ^ 4 % 2 ^ 27 = 0 →
      let fenced := u.fullFence s.cur .module
      let size := 4096 * 4 ^ (v.toNat % 16)
      let base := at_.toNat - at_.toNat % size
      let inside (a n : Nat) : Prop := 2 ^ 31 ≤ v.toNat ∨ (base ≤ a ∧ a + n ≤ base + size)
      (u.unposted s.cur = true → Polls (.tlbinv f) s c u .poll) ∧
      (u.unposted s.cur = false → fenced.inFlight (.of v at_.toNat) = true → Polls (.tlbinv f) s c fenced .poll) ∧
      (u.unposted s.cur = false → fenced.inFlight (.of v at_.toNat) = false → ∃ t, Answers (.tlbinv f) s c f.sc t [] ∧
        t = { fenced with tlb := t.tlb, threads := t.threads } ∧
        (∀ e, e ∈ t.tlb ↔ e ∈ s.tlb ∧ ¬ inside e.base (Leaf.ofEntry e.leaf).size) ∧
        (∀ x ∈ t.threads, ∀ va, x.wait = .retranslate va → ¬ inside va.toNat 1))) ∧
    (Executes s c form →
      let tag := v.toNat % 16
      let zeroed := v.toNat / 2 ^ 8 % 2 = 1 ∨ u.tagOf at_.toNat = 4 ∨ tag = 4
      let inside (a : Nat) : Prop := at_.toNat ≤ a ∧ a < at_.toNat + 65536
      let refused : Prop := 4 < tag ∨ v.toNat / 2 ^ 4 % 2 ^ 4 ≠ 0 ∨ v.toNat / 2 ^ 9 ≠ 0 ∨ s.regionHolds (at_.toNat / 65536) = true
      (at_.toNat % 65536 ≠ 0 → c.handles → Traps (.layout f) s c .align at_) ∧
      (at_.toNat % 65536 = 0 → s.ownHbm at_.toNat = false → c.handles → Traps (.layout f) s c .xlate at_) ∧
      (at_.toNat % 65536 = 0 → s.ownHbm at_.toNat = true → refused → c.handles → Traps (.layout f) s c .engine at_) ∧
      (at_.toNat % 65536 = 0 → s.ownHbm at_.toNat = true → ¬ refused →
        (u.granuleBusy (at_.toNat / 65536) = true → Polls (.layout f) s c u .poll) ∧
        (u.granuleBusy (at_.toNat / 65536) = false → ∃ t, Answers (.layout f) s c f.sc t [] ∧
          (∀ a, inside a → t.tagOf a = tag) ∧ (∀ a, ¬ inside a → t.tagOf a = u.tagOf a) ∧
          (∀ a, ¬ inside a → t.mem.get a = u.mem.get a) ∧ (zeroed → ∀ a, inside a → t.mem.get a = 0) ∧
          (zeroed → ∀ a n, inside a → inside (a + n) → 0 < n → t.poisoned (.phys a) n = t.unreachable a) ∧
          (¬ zeroed → t.mem = u.mem ∧ t.poison = u.poison) ∧ t.waves = u.waves ∧ t.threads = u.threads))) ∧
    let dst := Word.pair (c.reads s pop 0) (c.reads s pop 1)
    Executes s c pop →
      (dst.toNat % 64 ≠ 0 → c.handles → Traps (.fqpop f) s c .align dst) ∧
      (dst.toNat % 64 = 0 → ∀ loc view peer, s.check true c.w ⟨64, true, true, false⟩ dst.toNat = .at loc view peer →
        ∀ d, s.die? c.w.die = some d →
        (d.faultQ = [] → c.t.belowLimit [(f.d, 0xFFFFFFFF)] = false →
          Answers (.fqpop f) s c f.sc (s.spent pop) [(f.d, 0xFFFFFFFF)]) ∧
        (s.noLaneBefore c.t.id loc 64 → ∀ r rest, d.faultQ = r :: rest →
          let answer : Word := BitVec.ofNat 32 (match r.token with
            | some t => 2 ^ 30 + t
            | none => 0)
          let popped (x : State) : Prop := x.die? c.w.die = some { d with faultQ := rest } ∧ x.mem = s.mem ∧ x.waves = s.waves ∧
            ∃ w es, x.thread? s.cur = some w ∧ w.stores = c.t.stores ++ es ∧ es.length = 8 ∧ r.bytes.length = 64 ∧
              (∀ i (e : StoreEntry), es[i]? = some e → e = ⟨loc.byte (8 * i), view, peer, .bytes ((r.bytes.drop (8 * i)).take 8), dst,
                c.t.pc, e.carries, s.packetNo, e.stamp⟩) ∧
              w.pending = (c.t.pending || peer) ∧ ∀ n ∈ r.know.seen, n ∈ w.sight.know.seen
          (c.t.belowLimit [(f.d, answer)] = false → ∃ x, Answers (.fqpop f) s c f.sc x [(f.d, answer)] ∧ popped x) ∧
          (c.t.belowLimit [(f.d, answer)] = true → c.handles →
            ∃ x, StackStands (.fqpop f) s c x [(f.d, answer)] ∧ popped x)))

/-- R337, R338, R364: in system mode NODEKILL ends every live launch of a node and answers how many launches it ended; PREEMPT requests
the pre-emption of the wave at a place and answers 1, or 0 where no node's wave stands or one is requested already; a set bit that
must be zero traps with ENGINE and no address; what either did stands when the STACK check then fails. (That PREEMPT answers 0 for
an empty place, for cores 56 to 63 and for a wave of the firmware is the model's choice, log 39. The launches are admitted ones: no
pending launch of the node stands in a port. The message of status 4 has no clause of its own.) -/
def Obligations.NodeAdministration : Prop :=
  ∀ (s : State) (c : Ctx) (f : ADF), c.l.system = true → (∀ w ∈ s.waves, w.uid = c.w.uid → w = c.w) →
    (∀ l ∈ s.launches, l.id = c.l.id → l = c.l) →
    (let form : Form := { g := f.g, sc := f.sc, reads := f.a.pair, names := [f.d] }
      let node := Word.pair (c.reads s form 0) (c.reads s form 1)
      let r := (s.spent form).killNode node
      Executes s c form → (∀ d ∈ s.dies, ∀ p ∈ d.launchPort, p.node ≠ node) →
        c.t.belowLimit [(f.d, BitVec.ofNat 32 r.2)] = false →
        Answers (.nodekill f) s c f.sc r.1 [(f.d, BitVec.ofNat 32 r.2)] ∧
        r.2 = (s.launches.filter fun l => l.live && l.node == node).length ∧
        ∀ l ∈ r.1.launches, l.live = true → l.node ≠ node) ∧
    (let form : Form := { g := f.g, sc := f.sc, reads := f.a.pair, names := [f.d] }
      let node := Word.pair (c.reads s form 0) (c.reads s form 1)
      let r := (s.spent form).killNode node
      Executes s c form → (∀ d ∈ s.dies, ∀ p ∈ d.launchPort, p.node ≠ node) →
        c.t.belowLimit [(f.d, BitVec.ofNat 32 r.2)] = true → c.handles →
        StackStands (.nodekill f) s c r.1 [(f.d, BitVec.ofNat 32 r.2)]) ∧
    let form : Form := { g := f.g, sc := f.sc, reads := [f.a], names := [f.d] }
    let v := (c.reads s form 0).toNat
    let fits : Prop := v / 2 ^ 6 % 4 = 0 ∧ v / 2 ^ 14 % 4 = 0 ∧ v / 2 ^ 19 = 0
    let found := s.waves.find? fun w => w.die == v / 2 ^ 16 % 8 && w.core == v / 2 ^ 8 % 64 && w.place == v % 64 && s.preemptible w
    Executes s c form →
      (¬ fits → c.handles → Traps (.preempt f) s c .engine 0) ∧
      (fits → (found = none ∨ ∃ w, found = some w ∧ w.request ≠ none) → c.t.belowLimit [(f.d, 0)] = false →
        Answers (.preempt f) s c f.sc (s.spent form) [(f.d, 0)]) ∧
      (fits → ∀ w, found = some w → w.request = none → s.together w = [w] →
        (∀ l, s.launch? w.launch = some l → l.maxInterval ≠ 0) →
        let requested (u : State) : Prop := u.mem = s.mem ∧ u.launches = s.launches ∧
          ∀ x, s.wave? w.uid = some x → u.wave? w.uid = some { x with request := some (s.clockOf w.die) }
        (c.t.belowLimit [(f.d, 1)] = false → ∃ u, Answers (.preempt f) s c f.sc u [(f.d, 1)] ∧ requested u) ∧
        (c.t.belowLimit [(f.d, 1)] = true → c.handles → ∃ u, StackStands (.preempt f) s c u [(f.d, 1)] ∧ requested u))

/-! ## Launches and waves -/

/-- R15 to R19, R21, R265, R323, R348, R351, R363: LAUNCH_MESSAGE enters a root launch, or is discarded and counted, or waits for room,
open ports and, in recording mode, room in the log. A node is valid exactly when its fields are those of R15, and its governing fields
are judged first. NODE_ADMISSION takes the oldest pending launch: a valid node becomes a launch with what it inherits resolved; an
invalid one is reported with status 1 and the field's offset, one without enough dies with status 5; one that cannot be read is
discarded with a record, once the fault queue takes it; one on a demoted page waits. STEP_BOUNDARY begins the next step, whose threads
know what this step's passed on; NODE_COMPLETION reports status 0. (That a message from outside waits while it cannot be entered is the
model's choice, log 53; that of several rejections status 1 for the node's fields comes first, then that for its header's, then
status 5, log 51; the bytes of the access that a discarded launch's record gives, log 62; what passes on, log 12.) -/
def Obligations.LaunchEvents : Prop :=
  (∀ (s : State) (die : Nat) (lo hi : DWord) (d : Die), s.die? die = some d →
    let p : PendingLaunch := ⟨lo, 1, 3, 0, 0xFFFF, none, Know.none⟩
    let full : Prop := 256 ≤ d.launchPort.length ∨ (s.recording = true ∧ s.boot.logRoom ≤ d.log.length)
    let enters (e : Die → Die) : Prop := exec (.launchMessage die lo hi) s = .next (s.mapDie die e)
    (d.inService = false ∨ d.portsOpen = false ∨ full → exec (.launchMessage die lo hi) s = .next s) ∧
    (d.inService = true → d.portsOpen = true → ¬ full →
      (hi = 0 → lo.toNat % 64 = 0 → s.recording = false → enters fun x => { x with launchPort := x.launchPort ++ [p] }) ∧
      (hi = 0 → lo.toNat % 64 = 0 → s.recording = true →
        enters fun x => { x with launchPort := x.launchPort ++ [p], log := x.log ++ [.launch p true] }) ∧
      (hi ≠ 0 ∨ lo.toNat % 64 ≠ 0 → enters fun x => { x with errcnt := x.errcnt + 1 }))) ∧
  (∀ bs : List Byte, let checks := (NodeRec.parse bs).checks
    (firstInvalid checks = none ↔ NodeBlockOk bs) ∧
    (fieldAt bs 20 2 = 0 ∨ 32 < fieldAt bs 20 2 → firstInvalid checks = some 20) ∧
    (1 ≤ fieldAt bs 20 2 → fieldAt bs 20 2 ≤ 32 →
      (fieldAt bs 22 1 < 3 ∨ 6 < fieldAt bs 22 1 → firstInvalid checks = some 22) ∧
      (3 ≤ fieldAt bs 22 1 → fieldAt bs 22 1 ≤ 6 → 64 ≤ fieldAt bs 23 1 → firstInvalid checks = some 23))) ∧
  (∀ (s : State) (die : Nat) (dies : List Nat) (d : Die) (p : PendingLaunch) (ps : List PendingLaunch), s.die? die = some d →
    d.inService = true → d.launchPort = p :: ps →
    let u := s.mapDie die fun x => { x with launchPort := ps }
    let run (t : State) : Prop := exec (.nodeAdmission die dies) s = .next t
    let discarded (cause : Cause) (size : Nat) : Prop :=
      (d.posting = [] → d.faultQ.length < 4096 → ∃ t r, run t ∧ t = { u with dies := t.dies } ∧
        t.die? die = some { d with launchPort := ps, faultQ := d.faultQ ++ [r] } ∧ r.cause = cause ∧ r.source = 5 ∧
        r.node = p.node ∧ r.notify = 0xFFFFFFFF ∧ r.token = none ∧ r.time = d.clk ∧ r.size = size) ∧
      (d.posting ≠ [] ∨ 4096 ≤ d.faultQ.length → run s)
    (d.portsOpen = false → run s) ∧
    (d.portsOpen = true →
      (∀ va, s.readPieces p.node.toNat 8 = .wait va → run s) ∧
      (∀ cause va, s.readPieces p.node.toNat 8 = .fault cause va → discarded cause 128) ∧
      ∀ bs, s.readPieces p.node.toNat 8 = .ok bs → let n := NodeRec.parse bs
        (∀ off, firstInvalid n.checks = some off → run (u.reportNode die n.port 1 off p.node p.know)) ∧
        (firstInvalid n.checks = none →
          (∀ va, s.readHeader n.header.toNat = .wait va → run s) ∧
          (∀ cause size, s.readHeader n.header.toNat = .fault cause size → discarded cause size) ∧
          (∀ off, s.readHeader n.header.toNat = .invalid off → run (u.reportNode die n.port 1 off p.node p.know)) ∧
          ∀ h, s.readHeader n.header.toNat = .ok h →
            ((s.diesInService.length < n.dieMin) → run (u.reportNode die n.port 5 0 p.node p.know)) ∧
            (n.dieMin ≤ s.diesInService.length → s.grantable n die dies = true → n.flags.testBit 0 = false →
              ∃ t l, run t ∧ t.launches = s.launches ++ [l] ∧ t.mem = s.mem ∧ t.threads = s.threads ∧ t.waves = s.waves ∧
                l.id = s.nextId ∧ l.node = p.node ∧ l.nd = n ∧ l.safePoints = h.safePoints ∧ l.maxInterval = h.maxInterval ∧
                l.homeDie = die ∧ l.depth = p.depth ∧ l.prio = (if n.prio = 0xFF then p.prio else n.prio) ∧
                l.domain = (if n.domain = 0xFFFFFFFF then p.domain else n.domain) ∧
                l.budget = (if n.budget = 0 then p.budget else n.budget) ∧ l.contrib = p.contrib ∧ l.know = p.know ∧
                l.granted = dies ∧ l.step = 0 ∧ l.system = false ∧ l.ended = false)))) ∧
  ∀ (s : State) (id : Nat) (dies : List Nat) (l : Launch), s.launch? id = some l → l.ended = false → l.system = false →
    l.held = false → l.placed = true → l.released = l.nd.waves →
    (l.step + 1 < max 1 l.nd.steps → l.nd.dieMin ≤ s.diesInService.length → s.grantable l.nd l.homeDie dies = true →
      l.nd.flags.testBit 0 = false → ∃ t, exec (.stepBoundary id dies) s = .next t ∧ t.mem = s.mem ∧ t.threads = s.threads ∧
        t.waves = s.waves ∧
        t.launch? id = some { l with step := l.step + 1, dispatched := 0, released := 0, granted := dies, items := [],
                                     know := l.know.join l.later, finished := Know.none }) ∧
    (max 1 l.nd.steps ≤ l.step + 1 → ∃ u : State, exec (.nodeCompletion id) s =
        .next (u.reportNode l.homeDie l.nd.port 0 0 l.node l.later) ∧ (∀ x ∈ u.launches, x.id ≠ id) ∧ u.mem = s.mem ∧
      u.threads = s.threads ∧ u.waves = s.waves)

/-- R9, R10, R12, R24, R30, R36, R163, R209, R280: WAVE_DISPATCH places the wave of the record that its cluster selects: the wave
stands at the place given, its slots and tiles zero, its scratchpad zero but for a handler's contributions; each thread starts
at the entry, in normal mode, its stack pointer and limit set, every other register 0, knowing what happens-before its step; the record
leaves its queue. The cluster selects the lowest class whose aging count is 64 or more, else the lowest that is not empty, and a record of
another class that arrives meanwhile does not pass the selected one; a dispatch changes the aging counts as R30 says, and whatever else
empties a class makes its count 0 (the model's choice between R30 and its note, log 100). That it selects as soon as a record stands in
a queue is the model's choice (log 89). COOPERATIVE_PLACEMENT places the waves of all records, or none.
R14, R29 to R32, R131, R185: FOOTPRINT_RELEASE removes a wave whose threads have exited with their stores and operations done, counts
it, and keeps what it knew for the next step. STEAL_ATTEMPT of an idle cluster, one in a cycle, marks the record that its next victim
selects and copies it, or is refused; STEAL_ACKNOWLEDGE moves it to the thief's queue and takes it from the victim's.
EXTENDED_BLOCK_GRANT serves the oldest request when the pool has room: the group holds a block and its waiting thread goes on with g32
to g63 zero. (That the scratchpad is zero at a placement is the model's choice, log 2; what a cluster's state is at its resets, log
42; what passes from step to step, log 12.) -/
def Obligations.WavesAndClusters : Prop :=
  ((∀ (s : State) (cl : ClusterId) (c : Cluster) (k : Nat) (r : QRec) (l : Launch) (i : Nat) (p : Placement),
     s.cluster? cl = some c → c.head? = some (k, r) → r.waves = [i] → r.uids = [] → r.transit = none →
     s.launch? r.launch = some l → l.live = true → l.inOrder [i] = true → l.nd.flags.testBit 5 = false →
     s.clusterOpen cl = true → p.core / 4 = cl.cluster → s.placementOk l ⟨cl.die, p.core⟩ p = true →
     s.withinBudget l [⟨cl.die, p.core⟩] = true →
     ∃ t w, exec (.waveDispatch cl [p]) s = .next t ∧ t.mem = s.mem ∧ t.waves = s.waves ++ [w] ∧ w.uid = s.nextId ∧
       w.launch = l.id ∧ w.index = i ∧ w.step = l.step ∧ w.die = cl.die ∧ w.core = p.core ∧ w.place = p.place ∧
       w.firstOff = p.offset ∧ w.slotNames = p.slots ∧ w.tileNames = p.tiles ∧ w.heldSlots = [] ∧ w.heldTiles = [] ∧
       w.slotMem = [] ∧ w.tileMem = [] ∧ w.request = none ∧
       (∀ a, w.spad.get a = (l.contrib.getD []).getD a 0) ∧
       t.nextId = s.nextId + 1 ∧ (∃ c', t.cluster? cl = some c' ∧ c'.queues.toList.getD k [] = (c.queues.toList.getD k []).drop 1) ∧
       ∃ ts, t.threads = s.threads ++ ts ∧ ts.length = l.nd.groups * 2 ^ l.nd.log2w ∧
         ∀ j u, ts[j]? = some u → let n := i * (l.nd.groups * 2 ^ l.nd.log2w) + j
           let top := l.nd.stackBase + BitVec.ofNat 64 ((n + 1) * l.nd.stack) - 384
           u.id = ⟨s.nextId, j⟩ ∧ u.pc = l.nd.entry.extractLsb' 0 32 ∧ u.mode = .normal ∧ u.preds = 0 ∧ u.fflags = 0 ∧ u.fcr = 0 ∧
           u.ctl = (if l.nd.flags.testBit 3 then 1 else 0) ∧ u.slim = l.nd.stackBase + BitVec.ofNat 64 (n * l.nd.stack) ∧
           u.pending = false ∧ u.sight = ⟨l.know, [], []⟩ ∧ u.latest 30 = top.extractLsb' 0 32 ∧ u.latest 31 = top.extractLsb' 32 32 ∧
           (∀ g : Reg, g ≠ 30 → g ≠ 31 → u.latest g = 0) ∧
           u.status = (if l.nd.flags.testBit 2 && decide (l.nd.items ≤ n) then .exited else .running)) ∧
   ∀ (s : State) (id : Nat) (ps : List (ClusterId × Placement)) (l : Launch), s.launch? id = some l →
     l.nd.flags.testBit 0 = true → l.placed = false → l.live = true →
     (s.placeAll l (l.records.map fun r => (r.1, r.2.waves)) ps = none → exec (.cooperativePlacement id ps) s = .next s) ∧
     ∀ u, s.placeAll l (l.records.map fun r => (r.1, r.2.waves)) ps = some u →
       exec (.cooperativePlacement id ps) s = .next (u.mapLaunch id fun l => { l with placed := true }) ∧
         u.waves.length = s.waves.length + ps.length ∧ u.mem = s.mem) ∧
  (∀ c : Cluster,
     let full (k : Nat) : Prop := k < 4 ∧ c.queues.toList.getD k [] ≠ []
     let old (k : Nat) : Prop := full k ∧ 64 ≤ c.aging.toList.getD k 0
     (c.chosen = none → (∀ k, old k → (∀ j, old j → k ≤ j) → c.selected = some k) ∧
       ((∀ j, ¬ old j) → ∀ k, full k → (∀ j, full j → k ≤ j) → c.selected = some k)) ∧
     (∀ (k j : Nat) (r : QRec) (q : List QRec), c.chosen = some k → c.head? = some (k, r) → j ≠ k →
       (c.setQueue j q).head? = some (k, r)) ∧
     (∀ (j k : Fin 4) (q : List QRec),
       let p := if k = j then q else c.queues[k]
       (c.setQueue j.val q).queues[k] = p ∧ (c.setQueue j.val q).aging[k] = if p = [] then 0 else c.aging[k]) ∧
     ∀ d k : Fin 4,
       let q := if k = d then c.queues[k].drop 1 else c.queues[k]
       (c.dispatched d.val).queues[k] = q ∧
       (c.dispatched d.val).aging[k] = if k = d ∨ q = [] then 0 else if d < k then c.aging[k] + 1 else c.aging[k]) ∧
  ((∀ (s : State) (uid : Nat) (w : Wave) (l : Launch), s.wave? uid = some w → s.launch? w.launch = some l → l.system = false →
     l.ended = false → l.nd.flags % 2 = 0 → l.nd.flags.testBit 2 = false → l.nd.flags.testBit 5 = false → w.peers = [] →
     w.status = .resident → w.request = none →
     (∀ t ∈ s.threads, t.id.wave = uid → t.status = .exited ∧ t.stores = [] ∧ t.unposted = 0) → s.hasOps uid = false →
     ∃ t, exec (.footprintRelease uid) s = .next t ∧ t.waves = s.waves.filter (fun x => !(x.uid == uid)) ∧ t.mem = s.mem ∧
       t.threads = s.threads.filter (fun x => !(x.id.wave == uid)) ∧ t.groups = s.groups.filter (fun x => !(x.wave == uid)) ∧
       t.launch? l.id = some { l with released := l.released + 1, later := l.later.join (s.waveKnows uid) }) ∧
   (∀ (s : State) (die thief v k : Nat) (c y : Cluster) (r : QRec), s.cluster? ⟨die, thief⟩ = some c → c.copied = none →
     c.queues.toList.all List.isEmpty = true → s.clusterOpen ⟨die, thief⟩ = true →
     (c.triedAt = some s.now → exec (.stealAttempt ⟨die, thief⟩) s = .next s) ∧
     (c.triedAt ≠ some s.now →
       s.nextVictim ⟨die, thief⟩ c = some v → s.cluster? ⟨die, v⟩ = some y → y.head? = some (k, r) → k < 4 →
       let refused : Prop := r.transit ≠ none ∨ y.grantedAt = some s.now ∨ s.outranked ⟨die, thief⟩ v = true
       (refused → exec (.stealAttempt ⟨die, thief⟩) s = .next (s.mapCluster ⟨die, thief⟩ fun x =>
         { x with lastVictim := some v, triedAt := some s.now })) ∧
       (¬ refused → ∃ t c' y', exec (.stealAttempt ⟨die, thief⟩) s = .next t ∧ t.threads = s.threads ∧ t.waves = s.waves ∧
         t.mem = s.mem ∧ t.cluster? ⟨die, thief⟩ = some c' ∧ c'.copied = some (v, k, r) ∧ c'.lastVictim = some v ∧
         c'.triedAt = some s.now ∧ t.cluster? ⟨die, v⟩ = some y' ∧ y'.grantedAt = some s.now ∧
         y'.queues.toList.getD k [] = { r with transit := some thief } :: (y.queues.toList.getD k []).drop 1))) ∧
   (∀ (s : State) (die thief v k : Nat) (c y : Cluster) (r : QRec), s.cluster? ⟨die, thief⟩ = some c →
     c.copied = some (v, k, r) → k < 4 → v ≠ thief → s.cluster? ⟨die, v⟩ = some y →
     ∃ t c' y', exec (.stealAcknowledge ⟨die, thief⟩) s = .next t ∧ t.threads = s.threads ∧ t.waves = s.waves ∧ t.mem = s.mem ∧
       t.cluster? ⟨die, thief⟩ = some c' ∧ c'.copied = none ∧ c'.queues.toList.getD k [] = c.queues.toList.getD k [] ++ [r] ∧
       t.cluster? ⟨die, v⟩ = some y' ∧
       y'.queues.toList.getD k [] = (y.queues.toList.getD k []).filter fun x => x.transit != some thief) ∧
   ∀ (s : State) (id : CoreId) (k : Core) (uid g : Nat) (f : ScF) (rest : List (Nat × Nat)) (w : Wave) (c : Ctx) (x : Arrival),
     s.core? id = some k → k.xacq = (uid, g) :: rest → s.wave? uid = some w → s.poolUsed id + 128 * w.width ≤ 131072 →
     s.liveOfGroup w g = [c.t] → s.ctx c.t.id = some c → c.w.groupOf c.t.id.idx = g → c.t.wait = .arrived x →
     x.instr = .xacq f →
     ∃ t v k' b, exec (.extendedBlockGrant id) s = .next t ∧ t.mem = s.mem ∧ t.core? id = some k' ∧ k'.xacq = rest ∧
       t.group? uid g = some b ∧ b.ext = true ∧ t.thread? c.t.id = some v ∧ v.pc = c.t.pc + 4 ∧ v.wait = .none ∧
       SameControl c.t v ∧ (∀ r : Reg, 32 ≤ r.val → v.latest r = 0) ∧ ∀ r : Reg, r.val < 32 → v.latest r = c.t.latest r)

/-! ## Pre-emption -/

/-- R40, R43 to R48, R332: a request names the wave with its cycle, once; the limits of R46 hard-stop the wave, nothing happens before
them, and from then on none of its threads can issue; a hard-stopped thread's earlier stores are in effect before its state is saved;
a wave whose threads are all parked, stopped or ended and whose operations are complete leaves its core, its parked threads keeping
g30:g31 and what R43 lists, and all having seen what threads of that core have stored there (R171, log 12), and its record goes to the
head of its class queue; a restored wave's parked threads are in restoring mode at their safe point's restore routine. (That g30 or g31
is kept as its bank's value where its latest write is a transient past its window is the model's choice, log 68: R43 does not say which
of the two it keeps; that the record goes to the head of the queue in the cluster that the wave left, log 37; the moment of leaving and of a
hard stop that must wait, log 35; that %clkh of a parked thread is not kept, log 36.) -/
def Obligations.PreemptionEvents : Prop :=
  (∀ (s : State) (uid : Nat) (w : Wave) (l : Launch), s.wave? uid = some w → s.launch? w.launch = some l → l.live = true →
    w.status = .resident →
    (w.request ≠ none → exec (.preemptionRequest uid) s = .next s) ∧
    (w.request = none → s.together w = [w] → l.maxInterval ≠ 0 → ∃ t, exec (.preemptionRequest uid) s = .next t ∧ t.mem = s.mem ∧
      t.launches = s.launches ∧ t.wave? uid = some { w with request := some (s.clockOf w.die) } ∧
      ∀ u ∈ s.threads, u.id.wave = uid → { u with sinceRequest := 0, reached := false } ∈ t.threads) ∧
    (∀ t0, w.request = some t0 →
      (t0 + 65536 ≤ s.clockOf w.die → exec (.hardPreemptCycleLimit uid) s = .next (s.hardPreempt w) ∧
        ∀ u ∈ s.threads, u.id.wave = uid → s.canIssue u = false) ∧
      (s.clockOf w.die < t0 + 65536 → exec (.hardPreemptCycleLimit uid) s = .next s) ∧
      let late : Prop := ∃ u ∈ s.threads, u.id.wave = uid ∧ u.status = .running ∧ u.reached = false ∧
        l.maxInterval ≤ u.sinceRequest
      (late → exec (.hardPreemptInstrLimit uid) s = .next (s.hardPreempt w) ∧
        ∀ u ∈ s.threads, u.id.wave = uid → s.canIssue u = false) ∧
      (¬ late → exec (.hardPreemptInstrLimit uid) s = .next s))) ∧
  (∀ (s s' : State) (w : Wave) (c d : Ctx), s.ctx c.t.id = some c → c.w = w → c.t.status = .running → c.t.wait = .none →
    c.t.loads = [] → (s.threads.filter fun t => t.id.wave == w.uid && decide (t.status = .running)) = [c.t] →
    (s.threads.map (·.id)).Nodup → (s.drain c.t.id).ctx c.t.id = some d →
    (s.drain c.t.id).hardSave d d.t.settle d.t.pc = .ok s' → ∃ v, (s.hardPreempt w).thread? c.t.id = some v ∧ v.status = .stopped ∧
      v.pc = c.t.pc ∧ v.stores = [] ∧ SameControl d.t { v with status := d.t.status, sight := d.t.sight } ∧
      (s.hardPreempt w).mem = s'.mem ∧ (s.hardPreempt w).waves = s'.waves) ∧
  (∀ (s : State) (uid : Nat) (w : Wave) (l : Launch) (cl : Cluster), s.wave? uid = some w → s.launch? w.launch = some l →
    l.live = true → w.status = .resident → w.request ≠ none → l.nd.flags.testBit 0 = false →
    l.nd.flags.testBit 2 = false → l.nd.flags.testBit 5 = false → l.prio < 4 → s.hasOps uid = false →
    (∀ u ∈ s.threads, u.id.wave = uid → (u.status = .parked ∧ u.loads = []) ∨ u.status = .stopped ∨ u.status = .exited) →
    (∃ u ∈ s.threads, u.id.wave = uid ∧ u.status ≠ .exited) → s.cluster? ⟨w.die, w.core / 4⟩ = some cl →
    (∀ d ∈ s.dies, ∀ k ∈ d.clusters, ∀ q ∈ k.queues.toList, ∀ r ∈ q, uid ∉ r.uids) → (s.threads.map (·.id)).Nodup →
    let took (u : Thread) : Thread := u.learn (Know.ofSeen ((s.history.filter fun e =>
      e.writer.isThread && e.core == ⟨w.die, w.core⟩ && !e.peer).map (·.event)))
    ∃ t cl', exec (.waveLeavesCore uid) s = .next t ∧ t.mem = s.mem ∧ t.launches = s.launches ∧
      t.wave? uid = some { w with status := .preempted, request := none } ∧ t.cluster? ⟨w.die, w.core / 4⟩ = some cl' ∧
      cl'.queues.toList.getD l.prio [] = ⟨l.id, w.step, [w.index], [uid], none⟩ :: cl.queues.toList.getD l.prio [] ∧
      ∀ u ∈ s.threads, u.id.wave = uid → ∃ v, t.thread? u.id = some v ∧
        (u.status = .parked → v.latest 30 = u.settle.commit.bank 30 ∧ v.latest 31 = u.settle.commit.bank 31 ∧
          SameControl (took u) { v with clkh := u.clkh }) ∧ (u.status ≠ .parked → v = took u)) ∧
  ∀ (s : State) (cl : ClusterId) (k : Cluster) (q uid core place : Nat) (r : QRec) (l : Launch) (w : Wave),
    s.cluster? cl = some k → k.head? = some (q, r) → r.uids = [uid] → r.transit = none → s.clusterOpen cl = true →
    s.launch? r.launch = some l → l.live = true → l.nd.flags.testBit 5 = false → s.wave? uid = some w → w.status = .preempted →
    s.restoreFits l w core place = true → s.withinBudget l [⟨w.die, core⟩] = true → w.launch = l.id →
    (∀ u ∈ s.threads, u.id.wave = uid → u.status = .parked ∨ u.status = .exited) → (s.threads.map (·.id)).Nodup →
    (∀ u ∈ s.threads, u.id.wave = uid → (s.group? uid (u.id.idx / w.width)).isSome = true) →
    ∃ t, exec (.waveRestore cl [(core, place)]) s = .next t ∧ t.mem = s.mem ∧
      t.wave? uid = some { w with status := .resident, core := core, place := place, request := none } ∧
      ∀ u ∈ s.threads, u.id.wave = uid → ∃ v, t.thread? u.id = some v ∧ (u.status = .exited → v = u) ∧
        (u.status = .parked → v.status = .running ∧ v.mode = .restoring ∧ v.regs = u.regs ∧ v.h = u.h ∧
          ∀ n p, u.mode = .saving n → l.safePoints.find? (fun p => p.index == n) = some p → v.pc = p.restore)

/-! ## Faults -/

/-- R191, R192, R196, R322 to R325: FAULT_RECORD_POST enters the first record that can be accepted in a queue with room, with the clock
of its posting and, for a chunk or row with a cause other than ENGINE, the token of the lowest free stall slot; its poster goes on: a
dropped store or RED counts as done, an LDNF may push, a chunk or row has its token, or with cause ENGINE is fatal; a full queue takes
none. FRES_RETRY and FRES_FATAL let the machine go on from the oldest verdict given through %fres, each from one of its own kind alone: a
row to be done again does not start before, and nothing but a fatal copy's stream changes. (That this is a step of its own is log 6.) -/
def Obligations.FaultRecords : Prop :=
  (∀ (s : State) (die : Nat) (d : Die) (p : Post) (ps : List Post), s.die? die = some d → d.posting = p :: ps →
    let entered (token : Option Nat) (e : Die) : Prop :=
      e.faultQ = d.faultQ ++ [{ p.record with time := d.clk, token := token }] ∧ e.posting = ps
    let posts (t : State) (token : Option Nat) (e : Die) : Prop :=
      exec (.faultRecordPost die) s = .next t ∧ t.mem = s.mem ∧ t.die? die = some e ∧ entered token e
    (4096 ≤ d.faultQ.length → exec (.faultRecordPost die) s = .next s) ∧
    (d.faultQ.length < 4096 → (p.poster = .nobody ∨ ∃ op, p.poster = .matrix op) → exec (.faultRecordPost die) s =
      .next (s.mapDie die fun _ =>
        { d with posting := ps, faultQ := d.faultQ ++ [{ p.record with time := d.clk, token := none }] })) ∧
    (d.faultQ.length < 4096 → ∀ id, p.poster = .store id → ∃ t e, posts t none e ∧
      ∀ u, s.thread? id = some u → t.thread? id = some { u with unposted := u.unposted - 1 }) ∧
    (d.faultQ.length < 4096 → ∀ id n, p.poster = .load id n → ∃ t e, posts t none e ∧
      ∀ u, s.thread? id = some u → ∃ v, t.thread? id = some v ∧ v = { u with loads := v.loads } ∧
        ∀ l ∈ v.loads, l.ticket ≠ some n) ∧
    (d.faultQ.length < 4096 → ∀ op row x slot, p.poster = .row op row →
      s.bmvs.find? (fun y => y.id == op) = some x → (row, none) ∈ x.stalled →
      (p.record.cause = .engine → ∃ t e y, posts t none e ∧ t.bmvs.find? (fun y => y.id == op) = some y ∧ y.fatal = true ∧
        y.done = x.done ++ [row] ∧ ∀ z ∈ y.stalled, z.1 ≠ row) ∧
      (p.record.cause ≠ .engine → slot < 4096 → (∀ y ∈ d.stallSlots, y.idx = slot → y.what = none) →
        (∀ j < slot, ∃ y ∈ d.stallSlots, y.idx = j ∧ y.what ≠ none) →
        ∃ t e token y, posts t (some token) e ∧ token % 4096 = slot ∧ e.stalledAt? token = some (.row op row) ∧
          t.bmvs.find? (fun y => y.id == op) = some y ∧ (row, some token) ∈ y.stalled)) ∧
    (d.faultQ.length < 4096 → ∀ op ch x slot, p.poster = .chunk op ch →
      s.copies.find? (fun y => y.id == op) = some x → (ch, none) ∈ x.stalled →
      (p.record.cause = .engine → ∃ t e y, posts t none e ∧ t.copies.find? (fun y => y.id == op) = some y ∧ y.fatal = true ∧
        ∀ z ∈ y.stalled, z.1 ≠ ch) ∧
      (p.record.cause ≠ .engine → slot < 4096 → (∀ y ∈ d.stallSlots, y.idx = slot → y.what = none) →
        (∀ j < slot, ∃ y ∈ d.stallSlots, y.idx = j ∧ y.what ≠ none) →
        ∃ t e token y, posts t (some token) e ∧ token % 4096 = slot ∧ e.stalledAt? token = some (.chunk op ch) ∧
          t.copies.find? (fun y => y.id == op) = some y ∧ (ch, some token) ∈ y.stalled))) ∧
  ∀ (s : State) (die : Nat) (d : Die) (who : Poster) (fatal : Bool) (rest : List (Poster × Bool)), s.die? die = some d →
    d.verdicts = (who, fatal) :: rest →
    let run (t : State) : Prop := exec (if fatal then .fresFatal die else .fresRetry die) s = .next t
    exec (if fatal then .fresRetry die else .fresFatal die) s = .next s ∧
    (fatal = false ∨ (∃ op row, who = .row op row) → run (s.mapDie die fun x => { x with verdicts := rest })) ∧
    (∀ op ch, who = .chunk op ch → fatal = true → ∃ t e, run t ∧ t.mem = s.mem ∧ t.threads = s.threads ∧ t.waves = s.waves ∧
      t.bmvs = s.bmvs ∧ t.die? die = some e ∧ e = { d with verdicts := rest } ∧
      ∀ x ∈ t.copies, ∃ y ∈ s.copies, x = { y with settled := x.settled }) ∧
    ∀ op row x, who = .row op row → fatal = false → s.bmvs.find? (fun y => y.id == op) = some x → x.core.die = die →
      exec (.bankRowCompute op row) s = .next s

/-! ## The host, the units, migration -/

/-- R340 to R345, R348, R351: a doorbell store of 16 aligned bytes is the SEND of its words to its index, with what the host knows: a
queue port takes the message, a count port adds the first word, at index 0 it is a launch message. One to an unallocated index, to a
full queue or launch port, with a count out of range, misshaped, or before the launch ports open changes nothing but the die's count of
errors. In recording mode every die in service logs each of them. A doorbell read of 4 bytes at an index gives what PINFO gives,
0xFFFFFFFF of an unallocated one, any other zeros. A host access reads and writes this module's memory and changes no other byte, and so
does the host's own write to its memory and another module's to its own; a fabric retry changes nothing, and a module that the fabric
loses or regains is so marked. R168, R172: a release of domain scope in another module reaches a thread here that acquires at domain scope
once it has read what it covers, and one here reaches there; in a narrower scope none does. R167, R179: an agent there writes through
the layout view or the raw one; its AFENCE joins what it has written, for a thread that has met it and AFENCEs in turn, and a read
through the other view then does not pass the write by. (What other agents do to state that this
module reaches, each with its own part in happens-before, is the model's action of its schedule, log 48; the
host's and their accesses are stated where every write has spread, log 12; that a launch is turned away where the log has no room for it
is log 46.) -/
def Obligations.HostAndFabric : Prop :=
  (∀ (s : State) (offset : Nat) (data : List Byte) (d : Die), s.die? (offset / 2 ^ 20) = some d → d.inService = true →
    let die := offset / 2 ^ 20
    let idx := offset % 2 ^ 20 / 16
    let word (i : Nat) : Word := BitVec.ofNat 32 (leNat ((data.drop (4 * i)).take 4))
    let node := Word.pair (word 0) (word 1)
    let logged : State := if s.recording then
      { s with dies := s.dies.map fun x => if x.inService then { x with log := x.log ++ [.doorbell offset data] } else x } else s
    let takes (t : State) (e : Die) : Prop := exec (.hostDoorbellStore offset data) s = .next t ∧ t = { s with dies := t.dies } ∧
      (∀ j, j ≠ die → t.die? j = logged.die? j) ∧ t.die? die = some e ∧ e.errcnt = d.errcnt
    let dropped : Prop := exec (.hostDoorbellStore offset data) s =
      .next (logged.mapDie die fun x => { x with errcnt := x.errcnt + 1 })
    (d.portsOpen = false ∨ data.length ≠ 16 ∨ offset % 16 ≠ 0 → dropped) ∧
    (d.portsOpen = true → data.length = 16 → offset % 16 = 0 → die < 8 → (∀ g ∈ d.portGens, g.2 < 4096) →
      (idx ≠ 0 → (∀ p ∈ d.ports, p.idx ≠ idx) → dropped) ∧
      (∀ k, idx ≠ 0 → d.ports.find? (fun p => p.idx == idx) = some ⟨idx, k⟩ →
        let becomes (k' : PortKind) : Prop := ∃ t e, takes t e ∧ e.launchPort = d.launchPort ∧
          e.log = (if s.recording then d.log ++ [.doorbell offset data] else d.log) ∧
          e.ports.find? (fun p => p.idx == idx) = some ⟨idx, k'⟩ ∧ ∀ i, i ≠ idx →
            e.ports.find? (fun p => p.idx == i) = d.ports.find? fun p => p.idx == i
        match k with
        | .queue depth ms =>
          (ms.length < depth → becomes (.queue depth (ms ++ [⟨[word 0, word 1, word 2, word 3], s.host.know⟩]))) ∧
          (depth ≤ ms.length → dropped)
        | .count v r know =>
          let n := v + (word 0).toInt
          (-(2 ^ 31) ≤ n → n < 2 ^ 31 → becomes (.count n r (know.join s.host.know))) ∧ (n < -(2 ^ 31) ∨ 2 ^ 31 ≤ n → dropped)) ∧
      (idx = 0 → (256 ≤ d.launchPort.length → dropped) ∧
        (d.launchPort.length < 256 → (s.recording = true → d.log.length + 1 < s.boot.logRoom) →
          (word 2 ≠ 0 ∨ word 3 ≠ 0 ∨ node.toNat % 64 ≠ 0 → dropped) ∧
          (word 2 = 0 → word 3 = 0 → node.toNat % 64 = 0 → ∃ t e, takes t e ∧ e.ports = d.ports ∧
            e.launchPort = d.launchPort ++ [⟨node, 1, 3, 0, 0xFFFF, none, s.host.know⟩] ∧
            (s.recording = true → .doorbell offset data ∈ e.log))))) ∧
    ∀ bytes, die < 8 → (∀ g ∈ d.portGens, g.2 < 4096) → (∀ p ∈ d.ports, p.idx ≠ 0) →
      let info : Word :=
        if idx = 0 then BitVec.ofNat 32 d.launchPort.length
        else match d.ports.find? fun p => p.idx == idx with
          | some ⟨_, .queue _ ms⟩ => BitVec.ofNat 32 ms.length
          | some ⟨_, .count v _ _⟩ => BitVec.ofInt 32 v
          | none => 0xFFFFFFFF
      exec (.hostDoorbellRead offset bytes) s = .next { s with hostReads := s.hostReads ++
        [if bytes = 4 ∧ offset % 16 = 0 then leBytes 4 info.toNat else List.replicate bytes 0] }) ∧
  (∀ (s : State) (pa : Nat) (bs : List Byte), s.memOk → s.recording = false → s.late = false →
    (∀ i < bs.length, s.ownHbm (s.moduleNo * 2 ^ 46 + pa + i) = true) → s.tagOf (s.moduleNo * 2 ^ 46 + pa) ≠ 4 →
    let p := s.moduleNo * 2 ^ 46 + pa
    (∃ t, exec (.hostMemAccess (.write pa bs)) s = .next t ∧ t = { s with mem := t.mem, stamp := t.stamp } ∧
      ∀ a, t.mem.get a = s.mem.stored p bs a) ∧
    (s.poisoned (.phys p) bs.length = false → exec (.hostMemAccess (.read pa bs.length)) s =
      .next { s with hostReads := s.hostReads ++ [(List.range bs.length).map fun i => s.mem.get (p + i)] })) ∧
  (∀ (s : State) (pa : Nat) (bs : List Byte) (rest : List Action), s.memOk → s.recording = false → s.late = false → s.packets = [] →
    s.tagOf pa ≠ 4 →
    let hosts : Bool := pa / 2 ^ 46 == s.moduleNo && hostRange (pa % 2 ^ 46)
    let stores : Prop := ∃ t, step s = .next t ∧
      t = { s with mem := t.mem, stamp := t.stamp, sched := rest } ∧ ∀ a, t.mem.get a = s.mem.stored pa bs a
    (s.sched = .outside (.hostStore pa bs) :: rest → hosts = true → stores) ∧
    ∀ who view, s.sched = .outside (.write who view pa bs) :: rest → hosts = false → who.module ≠ s.moduleNo →
      (view = true → ∀ i < bs.length, 1 ≤ s.tagOf (pa + i) ∧ s.tagOf (pa + i) ≤ 3) → (∃ p ∈ s.peers, p.number = who.module ∧ p.gateway = false) → stores) ∧
  (∀ (s : State) (who : OutsideId) (m : Met) (rest : List Action) (c : Ctx) (h : Released) (x : Carried), s.packets = [] →
    who.module ≠ s.moduleNo → (∃ p ∈ s.peers, p.number = who.module ∧ p.gateway = false) → c.w.die < 8 →
    let o := s.outsider who
    (∀ sc k, s.sched = .outside (.fence who sc .release) :: rest → o.sight.know ≠ Know.none → k ∈ o.sight.know.seen → ∃ t, step s = .next t ∧
      t = { s with outsiders := t.outsiders, sched := rest } ∧ ∃ r ∈ (t.outsider who).released, r.scope = sc ∧ k ∈ r.know.seen ∧
        (sc = .domain → x.releases = (t.outsider who).released → x ∈ m.carried →
          k ∈ ((c.t.meet c.w.coreId false m).acquire c.w.coreId .domain).sight.know.seen)) ∧
    (h.core = who.place → c.t.heard = [h] → c.t.sight.know.seen = [] → ∀ sc, h.scope ≠ .domain ∨ sc ≠ .domain →
      (c.t.acquire c.w.coreId sc).sight.know.seen = []) ∧
    (s.sched = .outside (.fence who .domain .acquire) :: rest → h ∈ o.heard → h.scope = .domain → ∃ t, step s = .next t ∧
      t = { s with outsiders := t.outsiders, sched := rest } ∧ ∀ k ∈ h.know.seen, k ∈ (t.outsider who).sight.know.seen) ∧
    (s.sched = .outside (.afence who) :: rest → ∃ t, step s = .next t ∧
      t = { s with outsiders := t.outsiders, fenced := t.fenced, stamp := t.stamp, sched := rest } ∧
      (∀ e ∈ s.history, e.writer = .outside who → ∃ f ∈ t.fenced, f.kind = .views ∧ e.event ∈ f.gives.seen ∧
        f.event ∈ (t.outsider who).sight.know.seen) ∧
      ∀ f ∈ s.fenced, f.kind = .views → f.event ∈ o.sight.know.seen → ∀ k ∈ f.gives.seen, k ∈ (t.outsider who).sight.across)) ∧
  (∀ (s : State) (v : Viewer) (view peer : Bool) (e : PastWrite) (id : ThreadId) (t : Thread) (f : Fenced), e.view ≠ view →
    (e.event ∈ v.sight.across → v.sees view peer e = true) ∧
    (s.thread? id = some t → f ∈ s.fenced → f.kind = .views → f.event ∈ t.sight.know.seen → e.event ∈ f.gives.seen →
      ∃ u, (s.joinViews id).thread? id = some u ∧ e.event ∈ u.sight.across)) ∧
  ∀ (s : State) (n : Nat) (b : Bool), exec (.flitRetry n) s = .next s ∧
    ∃ t, exec (.fabricCannotReachModule n b) s = .next t ∧ t = { s with peers := t.peers } ∧
      t.peers = s.peers.map fun p => if p.number = n then { p with reachable := b } else p

/-- R31, R32, R192, R308, R348 to R351: MODULE_RESET leaves the state that R348 gives, with the units in service less those that leave
service at a reset, the module's number and its peers as they stand and all HBM zero; a cluster's reset, gating and ungating lose no
record; a core without waves leaves service at once, another unit at the next reset; an ECC error is counted and reported, or poisons its
unit and nothing else, of a region the 64-byte line of its reference or its table (log 106) or its parameters; REPLAY is a reset with the
recorded image, and then what the host did is delivered in the order of the log, drained entries first, each once the logs hold what stood
before it. (At which moment from then on it is delivered is the schedule's, log 46. The form of the reset image is the model's choice, log
5; a cluster's state when it is gated, ungated or reset, log 42; when a bank unit leaves service, and that the test of the units at a
reset is these events, log 43.) -/
def Obligations.UnitEvents : Prop :=
  (∀ s : State, ∃ t, exec .moduleReset s = .next t ∧ t.copies = [] ∧ t.bmvs = [] ∧ t.matrixOps = [] ∧
    t.streams = [] ∧ t.tlb = [] ∧ t.tier = [] ∧ t.ptroot = 0 ∧ t.moduleNo = s.moduleNo ∧ t.peers = s.peers ∧
    (∀ r ∈ t.regions, r ∈ s.regions ∧ ¬ (r.home / 2 ^ 46 = s.moduleNo ∧ r.home % 2 ^ 46 < 2 ^ 40)) ∧
    (∀ out, out = s.unitsOut ++ s.outAtReset →
      t.unitsOut = out ∧ t.outAtReset = [] ∧
      (∀ n < 16, t.stackMask.getLsbD n = (s.stackMask.getLsbD n && !out.contains (.stack n))) ∧
      (∀ d ∈ t.dies, ∀ o, s.die? d.idx = some o → d.inService = (o.inService && !out.contains (.die d.idx)) ∧
        d.coreMask = o.coreMask) ∧
      ∀ u ∈ t.threads, s.dieInService u.id.wave = true ∧ HwUnit.die u.id.wave ∉ out) ∧
    (∀ a, a / 2 ^ 46 = s.moduleNo → a % 2 ^ 46 < 2 ^ 40 → t.mem.get a = 0 ∧ t.tagOf a = 0 ∧ a / 64 ∉ t.poison) ∧
    (∀ a, ¬ (a / 2 ^ 46 = s.moduleNo ∧ a % 2 ^ 46 < 2 ^ 40) → t.mem.get a = s.mem.get a) ∧
    (∀ d ∈ t.dies, d.clk = 0 ∧ d.launchPort = [] ∧ d.ports = [] ∧ d.patterns = [] ∧ d.faultQ = [] ∧ d.errcnt = 0 ∧
      d.portsOpen = s.boot.valid) ∧
    (∀ u ∈ t.threads, u.pc = s.boot.node.entry.extractLsb' 0 32 ∧ u.mode = .normal) ∧ (s.boot.valid = false → t.threads = []) ∧
    ∀ m, s.image = some m → ∃ u, exec .replay s = .next u ∧ u.mem = m.1 ∧ u.poison = m.2.1 ∧ u.tags = m.2.2 ∧
      u.threads = t.threads ∧ u.dies = t.dies ∧ u.launches = t.launches ∧
      ∀ hs : List LogEntry, (∀ e ∈ hs, e.fromHost = true) → (∃ d ∈ s.dies, d.inService = true) →
        (∀ d ∈ s.dies, d.inService = true → d.drained ++ d.log = hs) →
        u.replay.map (·.instr) = hs.filterMap fun e => match e with
          | .doorbell offset data => some (.hostDoorbellStore offset data)
          | .hostWrite pa data => some (.hostMemAccess (.write pa data))
          | .launch _ _ => none) ∧
  (∀ s : State, s.image = none → exec .replay s = .next s) ∧
  (∀ (s : State) (x : Redelivery) (xs : List Redelivery) (rest : List Action), s.packets = [] → s.sched = .deliver :: rest →
    s.replay = x :: xs → let u : State := { s with sched := rest }
    (u.deliverable x = false → step s = .next u) ∧
    (u.deliverable x = true → ∀ t, exec x.instr u = .next t → step s = .next { t with replay := xs }) ∧
    ((∀ y ∈ x.after, ∀ d, s.die? y.1 = some d → y.2 ≤ d.drained.length + d.log.length) → x.room = none → u.deliverable x = true)) ∧
  (∀ (s : State) (cl : ClusterId) (k : Cluster), s.cluster? cl = some k → k.copied = none →
    (exec (.clusterReset cl) s = .next (s.mapCluster cl fun x => { x with lastVictim := none })) ∧
    (exec (.powerAdjust cl false) s = .next (s.mapCluster cl fun x => { x with gated := false })) ∧
    ((∀ w ∈ s.waves, w.clusterId = cl → w.status = .preempted) →
      exec (.powerAdjust cl true) s = .next (s.mapCluster cl fun x => { x with gated := true, lastVictim := none })) ∧
    ((∃ w ∈ s.waves, w.clusterId = cl ∧ w.status ≠ .preempted) → exec (.powerAdjust cl true) s = .next s)) ∧
  (∀ (s : State) (id : CoreId) (d : Die), s.die? id.die = some d → s.coreInService id = true →
    (∀ w ∈ s.waves, w.coreId = id → w.status = .preempted) → ∃ t, exec (.unitOutOfService (.core id)) s = .next t ∧
      t = { s with dies := t.dies } ∧ t.coreInService id = false ∧
      ∀ k, k ≠ id → t.coreInService k = s.coreInService k) ∧
  (∀ (s : State) (u : HwUnit), (∀ k, u ≠ .core k) →
    (u ∈ s.outAtReset → exec (.unitOutOfService u) s = .next s) ∧
    (u ∉ s.outAtReset → exec (.unitOutOfService u) s = .next { s with outAtReset := s.outAtReset ++ [u] })) ∧
  ∀ s : State,
    (∀ u : HwUnit, let count (x : State) (y : HwUnit) : Nat := ((x.corrected.find? fun z => z.1 == y).map (·.2)).getD 0
      ∃ t, exec (.eccError (.corrected u)) s = .next t ∧
        t = { s with corrected := t.corrected, reports := s.reports ++ [.corrected u] } ∧
        count t u = count s u + 1 ∧ ∀ y, y ≠ u → count t y = count s y) ∧
    (∀ pa, s.ownHbm pa = true → ∃ t, exec (.eccError (.memory pa)) s = .next t ∧ t = { s with poison := t.poison } ∧
      ∀ u, u ∈ t.poison ↔ u ∈ s.poison ∨ u = pa / 64) ∧
    (∀ uid w byte, s.wave? uid = some w → byte < w.spadBytes → ∃ t y, exec (.eccError (.scratchpad uid byte)) s = .next t ∧
      t.mem = s.mem ∧ t.wave? uid = some y ∧ y = { w with spadPoison := y.spadPoison } ∧
      ∀ u, u ∈ y.spadPoison ↔ u ∈ w.spadPoison ∨ u = byte / 4) ∧
    ∀ id r, s.region? id = some r →
      (∀ n, ∃ t q, exec (.eccError (.region id (.reference n))) s = .next t ∧ t = { s with regions := t.regions } ∧
        t.region? id = some q ∧ q = { r with badRefs := q.badRefs } ∧
        ∀ m, q.badRef m = true ↔ r.badRef m = true ∨ m * r.esize / 64 = n * r.esize / 64) ∧
      (∀ n k x, r.entries[k]? = some (n, x) → (∀ j < k, ∀ y, r.entries[j]? ≠ some (n, y)) →
        ∃ t, exec (.eccError (.region id (.entry n))) s = .next t ∧ t = { s with poison := t.poison } ∧ ∀ u, u ∈ t.poison ↔
          u ∈ s.poison ∨ u = r.tableByte ((if r.gen.toNat % 2 = 1 then 0 else 8 * r.capacity) + 8 * k) / 64) ∧
      ∃ t q, exec (.eccError (.region id .params)) s = .next t ∧ t = { s with regions := t.regions } ∧
        t.region? id = some q ∧ q = { r with badParams := true }

/-- R1, R330, R346, R347: PAGE_DEMOTION of a page that may leave takes its bytes and poison to the tier, which never holds more than 2
TiB, and drops its translations; every replica of its leaf then names the tier's page with layout 5. PAGE_PROMOTION to a frame that fits
brings its bytes and its poison back bit for bit, whatever the frame, and every replica of the leaf names the frame with the page's
layout. The bits of a leaf that give rights and size stay. No other memory changes, and no other poison: not the rest of the tables, not
the frame a page leaves. (How the tier's room is counted is the model's choice, log 74.) -/
def Obligations.Migration : Prop :=
  (∀ (s : State) (va id level at_ x : Nat), s.memOk → s.leafPath va 4 s.ptroot.toNat = some (level, at_, x) →
    let l := Leaf.ofEntry x
    let first := at_ - 8 * (va % l.size / 2 ^ (12 + 9 * level))
    let replicas := max 1 (l.size / 2 ^ (12 + 9 * level))
    (s.demotable l va = true → id < 2 ^ 40 → (∀ p ∈ s.tier, p.id ≠ id) →
      ∃ t p, exec (.pageDemotion va id) s = .next t ∧ t.tier = s.tier ++ [p] ∧ p.id = id ∧ p.size = l.size ∧ p.layout = l.layout ∧
        t.tierUsed ≤ 2 ^ 41 ∧ (∀ i < l.size, p.mem.get i = s.mem.get (l.frame + i)) ∧
        (∀ i < l.size / 64, i ∈ p.poison ↔ l.frame / 64 + i ∈ s.poison) ∧
        (∀ e ∈ t.tlb, e ∈ s.tlb ∧ (Invalidated.page (va - va % l.size) l.size).holds e.base (Leaf.ofEntry e.leaf).size = false) ∧
        (∀ i < replicas, s.tagOf (first + 8 * i) ≠ 4 →
          t.mem.nat (first + 8 * i) 8 = x / 2 ^ 60 % 16 * 2 ^ 60 + id * 2 ^ 12 + 5 * 2 ^ 6 + x % 2 ^ 5) ∧
        (∀ a, a < first ∨ first + 8 * replicas ≤ a → t.mem.get a = s.mem.get a) ∧
        t.poison = s.poison ∧ t.tags = s.tags ∧ t.waves = s.waves ∧ t.dies = s.dies ∧ t.regions = s.regions) ∧
    (s.demotable l va = false → exec (.pageDemotion va id) s = .next s)) ∧
  ∀ (s : State) (va frame level at_ x : Nat) (p : TierPage), s.memOk → s.leafPath va 4 s.ptroot.toNat = some (level, at_, x) →
    let l := Leaf.ofEntry x
    let first := at_ - 8 * (va % l.size / 2 ^ (12 + 9 * level))
    let replicas := max 1 (l.size / 2 ^ (12 + 9 * level))
    s.tier.find? (fun p => p.id == l.frame / 4096) = some p → l.layout = 5 →
    (s.frameFits l p frame = false → exec (.pagePromotion va frame) s = .next s) ∧
    (s.frameFits l p frame = true → frame < 2 ^ 52 → p.layout < 16 → (∀ c ∈ p.mem, c.1 < l.size) →
      (∀ i ∈ p.poison, i < l.size / 64) → (frame + l.size ≤ first ∨ first + 8 * replicas ≤ frame) →
      ∃ t, exec (.pagePromotion va frame) s = .next t ∧ (∀ i < l.size, t.mem.get (frame + i) = p.mem.get i) ∧
        (∀ i < l.size / 64, frame / 64 + i ∈ t.poison ↔ i ∈ p.poison) ∧
        (∀ u, u < frame / 64 ∨ (frame + l.size) / 64 ≤ u → (u ∈ t.poison ↔ u ∈ s.poison)) ∧
        (∀ i < replicas, s.tagOf (first + 8 * i) ≠ 4 →
          t.mem.nat (first + 8 * i) 8 = x / 2 ^ 60 % 16 * 2 ^ 60 + frame + p.layout * 2 ^ 6 + x % 2 ^ 5) ∧
        (∀ a, (a < first ∨ first + 8 * replicas ≤ a) → (a < frame ∨ frame + l.size ≤ a) → t.mem.get a = s.mem.get a) ∧
        t.tier = s.tier.filter (fun q => q.id != p.id) ∧ t.tags = s.tags ∧ t.waves = s.waves ∧ t.dies = s.dies ∧
        t.regions = s.regions)

/-! ## Encoding, stepping, whole-machine rules -/

/-- A step runs the decoded instruction: when the next member of the packet under way stands on its core and the bytes at its PC, read
as it reads memory, decode, 2 bytes when bit 0 of the first halfword is 0 and 4 otherwise, the step is exec of that instruction; bytes
that decode to none run as a reserved encoding; a fetch that faults is a trap of the instruction at the PC, one on a demoted page
waits; a member that has left its core is passed by, and where the member before it waits in an instruction whose lanes act one at a
time, it and the others wait there behind it (log 82). With no packet under way, a scheduled event is exec of that event (R49, R76, R118,
R329, R330). (How a step chooses between the packet's next member and a scheduled event is the model's choice, log 6; the bytes are stated
where the thread reads them as they stand, log 12.) -/
def Obligations.StepRunsDecoded : Prop :=
  (∀ (s : State) (p : Packet) (id : ThreadId) (rest : List ThreadId) (more : List Packet),
    s.packets = p :: more → p.members = id :: rest → (p.started = true ∨ rest = []) →
    let u : State := { s with cur := id, packets := { p with members := rest, started := true, last := some id } :: more }
    (p.last = none → s.heldBack p id = false) ∧
    (s.heldBack p id = true → ∃ t, step s = .next t ∧
      t = { s with threads := t.threads, packets := { p with members := [] } :: more } ∧
      ∀ m ∈ p.members, ∀ x, s.thread? m = some x → s.onCore x = true → ∃ y, t.thread? m = some y ∧ y.pc = x.pc ∧ SameControl x y ∧
        y.wait = .lanes (p.last.toList ++ p.members)) ∧
    (s.heldBack p id = false →
    (∀ t, s.thread? id = some t → u.onCore t = false → step s = .next u) ∧
    ∀ c, u.ctx id = some c → u.onCore c.t = true → (c.t.fresh = true ∨ c.t.wait.polled = true) → c.t.completing = false →
    let place (off : Word) : Fetched (Nat × Bool) := u.fetchPlace c (c.codeAddress off)
    (∀ pa view, place c.t.pc = .ok (pa, view) → u.plainRead c.t (.phys pa) view 2 →
      let lo := u.readLoc (.phys pa) 2
      (leNat lo % 2 = 0 →
        (∀ i n, decode lo = .ok (i, n) → step s = exec i u) ∧
        (∀ e, decode lo = .error e → step s = exec (.reservedOrIllegalEncoding (BitVec.ofNat 32 (leNat lo))) u)) ∧
      (leNat lo % 2 = 1 →
        (∀ qa view', place (c.t.pc + 2) = .ok (qa, view') → u.plainRead c.t (.phys qa) view' 2 →
          let bs := lo ++ u.readLoc (.phys qa) 2
          (∀ i n, decode bs = .ok (i, n) → step s = exec i u) ∧
          (∀ e, decode bs = .error e → step s = exec (.reservedOrIllegalEncoding (BitVec.ofNat 32 (leNat bs))) u)) ∧
        (∀ cause va, place (c.t.pc + 2) = .trap cause va → step s = .next (u.trap c cause (BitVec.ofNat 64 va))))) ∧
    (∀ cause va, place c.t.pc = .trap cause va → step s = .next (u.trap c cause (BitVec.ofNat 64 va))) ∧
    ∀ va, place c.t.pc = .wait va →
      step s = .next (u.mapThread id fun t => t.stalled (.retranslate (BitVec.ofNat 64 va)) s.now))) ∧
  ∀ (s : State) (i : Instr) (rest : List Action), s.packets = [] → s.sched = .event i :: rest → Instr.isEvent i = true →
    step s = exec i { s with sched := rest }

/-- Words of every kind of format, written out from the encoding tables of the spec (R50 to R54, R57, and the examples of its text),
decode to the instruction they stand for: 16-bit, R, I, W, J, M, A, MX and X. -/
def Obligations.DecodedWords : Prop :=
  (decode [0x4A, 0x9B] = .ok (.sub16 ⟨19, 13, 1⟩, 2)) ∧
  (decode [0x60, 0xE9] = .ok (.addi16 ⟨BitVec.ofInt 5 (-3), 5, 0⟩, 2)) ∧
  (decode [0xC1, 0xD4, 0x61, 0x14] = .ok (.fadd ⟨5, 6, 7, false, true, .notP0, 1⟩, 4)) ∧
  (decode [0x07, 0xE8, 0x20, 0x04] = .ok (.mulhN ⟨1, 2, 3, true, .always, 0⟩, 4)) ∧
  (decode [0x21, 0x4B, 0xD0, 0xFD] = .ok (.addi ⟨BitVec.ofInt 9 (-5), 40, 9, .p0, 2⟩, 4)) ∧
  (decode [0x2B, 0x28, 0x88, 0x48] = .ok (.shriA ⟨17, 4, 5, .always, 0⟩, 4)) ∧
  (decode [0xAF, 0xC3, 0xE6, 0xD5] = .ok (.lih ⟨0x1ABCD, 33, 3⟩, 4)) ∧
  (decode [0x39, 0xCE, 0xFF, 0xFF] = .ok (.br ⟨BitVec.ofInt 21 (-7), .p1, 0⟩, 4)) ∧
  (decode [0xBB, 0x28, 0x00, 0x00] = .ok (.call ⟨5, .always, 1⟩, 4)) ∧
  (decode [0x61, 0x88, 0x08, 0x03] = .ok (.ld ⟨3, 2, 8, .w, 0⟩, 4)) ∧
  (decode [0x63, 0x78, 0x08, 0x02] = .ok (.st ⟨2, 2, 7, .w, 0⟩, 4)) ∧
  (decode [0x67, 0x80, 0x41, 0x1C] = .ok (.atom ⟨7, 4, 6, false, .add, 0⟩, 4)) ∧
  (decode [0xF1, 0x30, 0xD9, 0x0B] = .ok (.mma ⟨.set, 23, 44, 9, .bfgq4, 1⟩, 4)) ∧
  (decode [0x71, 0x08, 0x00, 0x24] = .ok (.mma ⟨.acc, 8, 0, 0, .e4, 0⟩, 4)) ∧
  (decode [0x3D, 0x02, 0xD0, 0x00] = .ok (.jr ⟨13, .p0, 0⟩, 4)) ∧
  (decode [0x6B, 0x80, 0x20, 0x00] = .ok (.fence ⟨.die, .release, .always, 0⟩, 4)) ∧
  (decode [0x7B, 0x40, 0x41, 0x20] = .ok (.rfadd ⟨4, 5, 0⟩, 4)) ∧
  (decode [0x7F, 0x80, 0x41, 0x08] = .ok (.tlbinv ⟨4, 6, .always, 0⟩, 4)) ∧
  (decode [0x7F, 0xC0, 0x30, 0x20] = .ok (.swrp ⟨.fres, 3, .always, 0⟩, 4))

/-- Every instruction that is no step of a unit has an encoding; decode of encode is the identity on every well-formed
instruction, whatever its operands; and what a list of bytes decodes to is well-formed, and its encoding is those bytes: no word has two
instructions and no bit is dropped. A step of a unit and a reserved encoding are encoded by nothing. -/
def Obligations.EncodeDecodeRoundTrip : Prop :=
  (∀ (i : Instr) (c : Code) (rest : List Byte), i.wf = true → encode i = some c →
    decode (c.bytes ++ rest) = .ok (i, c.bytes.length)) ∧
  (∀ i : Instr, (i.wordless = false → ∃ c, encode i = some c) ∧ (i.wordless = true → encode i = none)) ∧
  ∀ (bs : List Byte) (i : Instr) (n : Nat), decode bs = .ok (i, n) →
    i.wf = true ∧ ∃ c, encode i = some c ∧ c.bytes = bs.take n

/-- R348: after reset every byte of memory is zero and every frame raw and clean, no port, pattern, stall, launch message or fault
record exists on any die, every stream expects number 0, and the only threads are the service cores' in normal mode at the
firmware node's entry. Every memory is in canonical form. (The boot image and the values of the other registers are the model's
own, logs 1 to 3, and so are the eight dies in service and the clock of 0, logs 4 and 5.) -/
def Obligations.ResetState : Prop :=
  State.reset.memOk ∧
  (∀ a, State.reset.mem.get a = 0 ∧ State.reset.tagOf a = 0 ∧ a / 64 ∉ State.reset.poison) ∧
  (∀ d ∈ State.reset.dies, d.ports = [] ∧ d.portGens = [] ∧ d.patterns = [] ∧ d.stallSlots = [] ∧ d.launchPort = [] ∧
    d.faultQ = [] ∧ d.clk = 0 ∧ d.inService = true) ∧ State.reset.dies.length = 8 ∧
  (∀ id, (State.reset.stream id).expected = 0) ∧
  (∀ t ∈ State.reset.threads, t.mode = .normal ∧ t.pc = State.reset.boot.node.entry.extractLsb' 0 32 ∧ t.loads = [] ∧
    t.stores = [] ∧ ∃ w ∈ State.reset.waves, w.uid = t.id.wave ∧ w.core = 56) ∧
  State.reset.late = false ∧ State.reset.copies = [] ∧ State.reset.bmvs = [] ∧ State.reset.matrixOps = [] ∧ State.reset.regions = []

/-- Every step keeps every memory in canonical form: host and device memory, scratchpads, slots, tiles, the tier, the recorded
image. -/
def Obligations.StepKeepsMemoriesCanonical : Prop :=
  ∀ s t : State, s.memOk → step s = .next t → t.memOk

/-- R77, R317, R333: no instruction of a thread outside system mode changes the page-table root, the stacks in service, the frame
tags, the cached translations, the demoted pages, the module's number and peers, or makes or drops a fitted region; the
instruction is none of the units' events. -/
def Obligations.UserModeLeavesPrivilegedState : Prop :=
  ∀ (i : Instr) (s t : State) (c : Ctx), Instr.isEvent i = false → s.ctx s.cur = some c → c.l.system = false →
    exec i s = .next t → t.ptroot = s.ptroot ∧ t.stackMask = s.stackMask ∧ t.tags = s.tags ∧ t.tlb = s.tlb ∧ t.tier = s.tier ∧
      t.moduleNo = s.moduleNo ∧ t.peers = s.peers ∧ t.boot = s.boot ∧ t.unitsOut = s.unitsOut ∧ t.outAtReset = s.outAtReset ∧
      t.regions.map (·.base) = s.regions.map (·.base)

/-- R26, R27, R361: an issue action lets the four slots of a core choose at most four packets, once in a cycle: of ready threads, at most
64 each, of one node at one PC, no thread twice, a thread that has waited longest in the first.
R202, R203: when a packet has been served, the conflict count of each core whose waves' allocations it reached rises by its passes less
one: none where no two lanes name different words of one bank, one less than the lanes where every two do, or where all are atomics that
share a word.
R169 to R171: a thread that learns more never sees less of a location; it reads what it wrote itself; and what a thread knew at a release
fence, one that reads a later store of it and then makes an acquire fence knows, both scopes holding both (R172).
R173, R174: a write takes one place among the others: another write of two of its bytes stands above it at both or below it at both.
R180, R181: a BMV that a thread issues behind a store-to-bank fence sees what happens-before a write that the thread knows; behind a
bank-to-load fence the thread sees what a completion that it knows gives. (That writes are kept by the byte, and what agents know of them,
is the model's form, log 12; when cores issue, log 6.) -/
def Obligations.PacketsPassesAndOrder : Prop :=
  (∀ (s : State) (id : CoreId) (k : Core) (rest : List Action), s.packets = [] → s.sched = .issue id :: rest → s.core? id = some k →
    (s.threads.map (·.id)).Nodup →
    let u : State := { s with sched := rest }
    let ready (t : Thread) : Prop := t ∈ s.threads ∧ u.canIssue t = true ∧ s.coreOf t.id = id
    (k.issuedAt = some s.now → step s = .next u) ∧
    (k.issuedAt ≠ some s.now → ∃ t k', step s = .next t ∧ t.threads = s.threads ∧ t.mem = s.mem ∧ t.waves = s.waves ∧
      t.core? id = some k' ∧ k'.issuedAt = some s.now ∧ t.packets.length ≤ 4 ∧ (t.packets.flatMap (·.members)).Nodup ∧
      (∀ p ∈ t.packets, p.started = false ∧ p.members ≠ [] ∧ p.members.length ≤ 64 ∧
        (∀ m ∈ p.members, ∃ x, ready x ∧ x.id = m) ∧
        ∃ pc launch, ∀ x ∈ s.threads, x.id ∈ p.members → x.pc = pc ∧ (s.wave? x.id.wave).map (·.launch) = some launch) ∧
      ∀ x, ready x → (∀ y, ready y → y ≠ x → x.lastIssue < y.lastIssue) → ∃ p ∈ t.packets.head?, x.id ∈ p.members)) ∧
  (∀ (s : State) (p : Packet) (more : List Packet), s.packets = p :: more → p.members = [] →
    ∃ t, step s = .next t ∧ t.packets = more ∧ t.passes = [] ∧ t.threads = s.threads ∧ t.mem = s.mem ∧
      ∀ id k, s.core? id = some k → ∃ k', t.core? id = some k' ∧
        let mine := s.passes.filter fun x => x.core == id
        let clash (x y : PassEntry) : Prop := ∃ v ∈ x.words, ∃ w ∈ y.words, v % 64 = w % 64 ∧ v ≠ w
        (mine = [] → k'.conflicts = k.conflicts) ∧
        ((∀ x ∈ mine, x.atomic = false) → (∀ x ∈ mine, ∀ y ∈ mine, ¬ clash x y) → k'.conflicts = k.conflicts) ∧
        (mine.Pairwise clash ∨ (∃ w, ∀ x ∈ mine, x.atomic = true ∧ w ∈ x.words) →
          k'.conflicts = k.conflicts + BitVec.ofNat 32 (mine.length - 1))) ∧
  (∀ (t : Thread) (core : CoreId) (k : Know) (view peer : Bool) (es : List PastWrite),
    (((t.learn k).viewer core).unseen view peer es).length ≤ ((t.viewer core).unseen view peer es).length) ∧
  (∀ (s : State) (v : Viewer) (x : Writing) (event pa : Nat) (bs : List Byte), s.memOk →
    (∀ i < bs.length, s.tagOf (pa + i) ≠ 4) → s.tagOf pa ≠ 4 →
    let t := s.writeAs v x (fun _ => event) (.phys pa) bs
    (t.readAs v x.view x.peer (.phys pa) bs.length).bytes = bs ∧
    ((∀ e ∈ s.history, e.event ≠ event) →
      let at_ (i : Nat) : List Nat := (s.pastAt (.phys (pa + i))).map (·.event)
      let above (i : Nat) : List Nat := ((t.pastAt (.phys (pa + i))).takeWhile fun e => e.event != event).map (·.event)
      ∀ i < bs.length, ∀ k < bs.length, ∀ n, n ∈ at_ i → n ∈ at_ k → (n ∈ above i ↔ n ∈ above k))) ∧
  (∀ (s : State) (id : ThreadId) (t : Thread), s.thread? id = some t →
    (∀ e ∈ t.sight.know.written, e ∈ ((s.toBank id).bankSight id).know.seen) ∧
    ∀ x ∈ s.fenced, x.kind = .completion → x.event ∈ t.sight.know.seen →
      ∃ u, (s.toLoad id).thread? id = some u ∧ ∀ e ∈ x.gives.seen, e ∈ u.sight.know.seen) ∧
  ∀ (t r : Thread) (core core' : CoreId) (sc sc' : Scope) (peer peer' : Bool) (m : Met), scopeHolds sc core core' = true →
    scopeHolds sc' core core' = true → (t.release core sc).carries core peer ∈ m.carried →
    ∀ e ∈ t.sight.know.seen, e ∈ ((r.meet core' peer' m).acquire core' sc').sight.know.seen
end

