-- ==== Sys2Proof/Laws/Memory.lean ====
section
/-!
SUPPORT. Every memory operation keeps the canonical form; reading after writing.
-/
namespace Sys2Proof.Machine

open Sys2Proof

theorem Memory.wfFrom_cons (lo a : Nat) (b : Byte) (m : Memory) :
    Memory.wfFrom lo ((a, b) :: m) = true ↔ lo ≤ a ∧ b ≠ 0#8 ∧ Memory.wfFrom (a + 1) m = true := by
  simp [Memory.wfFrom, and_assoc]

theorem Memory.wfFrom_mono {lo hi : Nat} (h : lo ≤ hi) {m : Memory} (w : m.wfFrom hi = true) : m.wfFrom lo = true := by
  cases m with
  | nil => rfl
  | cons c m =>
    obtain ⟨a, b⟩ := c
    rw [Memory.wfFrom_cons] at w ⊢
    exact ⟨h.trans w.1, w.2⟩

/-- A written byte keeps the form from any bound at or below its address. -/
theorem Memory.set_wfFrom {lo : Nat} {m : Memory} (w : m.wfFrom lo = true) {a : Nat} (h : lo ≤ a) (v : Byte) :
    (m.set a v).wfFrom lo = true := by
  induction m generalizing lo with
  | nil => by_cases hv : v = 0#8 <;> simp [Memory.set, hv, Memory.wfFrom, h]
  | cons c m ih =>
    obtain ⟨x, b⟩ := c
    rw [Memory.wfFrom_cons] at w
    by_cases h1 : a < x
    · by_cases hv : v = 0#8
      · simp [Memory.set, h1, hv, Memory.wfFrom_cons, w]
      · simp [Memory.set, h1, hv, Memory.wfFrom_cons, w, h]
    · by_cases h2 : a = x
      · subst h2
        by_cases hv : v = 0#8
        · simpa [Memory.set, hv] using Memory.wfFrom_mono (by omega) w.2.2
        · simp [Memory.set, hv, Memory.wfFrom_cons, w]
      · simp only [Memory.set, h1, h2, if_false, Memory.wfFrom_cons]
        exact ⟨w.1, w.2.1, ih w.2.2 (by omega)⟩

theorem Memory.set_wf {m : Memory} (w : m.wf = true) (a : Nat) (v : Byte) : (m.set a v).wf = true :=
  Memory.set_wfFrom w (Nat.zero_le a) v

theorem Memory.setBytes_wf {m : Memory} (w : m.wf = true) (a : Nat) (bs : List Byte) : (m.setBytes a bs).wf = true := by
  induction bs generalizing m a with
  | nil => exact w
  | cons b bs ih => exact ih (Memory.set_wf w a b) (a + 1)

/-- A part of a canonical listing is canonical. -/
theorem Memory.filter_wfFrom (p : Host.Cell → Bool) {lo : Nat} {m : Memory} (w : m.wfFrom lo = true) :
    Memory.wfFrom lo (m.filter p) = true := by
  induction m generalizing lo with
  | nil => rfl
  | cons c m ih =>
    obtain ⟨a, b⟩ := c
    rw [Memory.wfFrom_cons] at w
    by_cases h : p (a, b) = true
    · rw [List.filter_cons_of_pos h, Memory.wfFrom_cons]
      exact ⟨w.1, w.2.1, ih w.2.2⟩
    · rw [List.filter_cons_of_neg h]
      exact Memory.wfFrom_mono (by omega) (ih w.2.2)

theorem Memory.filter_wf (p : Host.Cell → Bool) {m : Memory} (w : m.wf = true) : Memory.wf (m.filter p) = true :=
  Memory.filter_wfFrom p w

theorem Memory.zero_wf {m : Memory} (w : m.wf = true) (a n : Nat) : (m.zero a n).wf = true := Memory.filter_wf _ w

theorem Memory.implant_wf {m : Memory} (w : m.wf = true) (a : Nat) (src : Memory) : (m.implant a src).wf = true := by
  unfold Memory.implant
  induction src generalizing m with
  | nil => exact w
  | cons c src ih => exact ih (Memory.set_wf w _ _)

/-- Listings one after the other. -/
theorem Memory.append_wfFrom {lo mid : Nat} {m n : Memory} (w : m.wfFrom lo = true) (h : ∀ c ∈ m, c.1 < mid)
    (hl : lo ≤ mid) (v : n.wfFrom mid = true) : Memory.wfFrom lo (m ++ n) = true := by
  induction m generalizing lo with
  | nil => exact Memory.wfFrom_mono hl v
  | cons c m ih =>
    obtain ⟨a, b⟩ := c
    rw [Memory.wfFrom_cons] at w
    rw [List.cons_append, Memory.wfFrom_cons]
    have ha : a < mid := h (a, b) (by simp)
    exact ⟨w.1, w.2.1, ih w.2.2 (fun c hc => h c (by simp [hc])) (by omega)⟩

theorem Memory.listFrom_wfFrom (a : Nat) (bs : List Byte) : (Memory.listFrom a bs).wfFrom a = true := by
  induction bs generalizing a with
  | nil => rfl
  | cons b bs ih =>
    by_cases h : b = 0#8
    · simpa [Memory.listFrom, h] using Memory.wfFrom_mono (Nat.le_succ a) (ih (a + 1))
    · simp [Memory.listFrom, h, Memory.wfFrom_cons, ih]

theorem Memory.listFrom_lt {a : Nat} {bs : List Byte} : ∀ c ∈ Memory.listFrom a bs, c.1 < a + bs.length := by
  induction bs generalizing a with
  | nil => simp [Memory.listFrom]
  | cons b bs ih =>
    intro c hc
    by_cases h : b = 0#8
    · rw [show Memory.listFrom a (b :: bs) = Memory.listFrom (a + 1) bs from if_pos h] at hc
      have := ih c hc; simp; omega
    · rw [show Memory.listFrom a (b :: bs) = (a, b) :: Memory.listFrom (a + 1) bs from if_neg h, List.mem_cons] at hc
      rcases hc with rfl | hc
      · simp
      · have := ih c hc; simp; omega

/-- What is listed from an address on, in a canonical listing. -/
theorem Memory.filter_ge_wfFrom {m : Memory} {lo : Nat} (w : m.wfFrom lo = true) (k : Nat) :
    Memory.wfFrom k (m.filter fun c => decide (k ≤ c.1)) = true := by
  induction m generalizing lo with
  | nil => rfl
  | cons c m ih =>
    obtain ⟨a, b⟩ := c
    rw [Memory.wfFrom_cons] at w
    by_cases h : k ≤ a
    · rw [List.filter_cons_of_pos (by simpa using h), Memory.wfFrom_cons]
      exact ⟨h, w.2.1, Memory.filter_wfFrom _ w.2.2⟩
    · rw [List.filter_cons_of_neg (by simpa using h)]
      exact ih w.2.2

theorem Memory.splice_wf {m : Memory} (w : m.wf = true) (a : Nat) (bs : List Byte) : (m.splice a bs).wf = true := by
  unfold Memory.splice Memory.wf
  rw [List.append_assoc]
  refine Memory.append_wfFrom (mid := a) (Memory.filter_wfFrom _ w) ?_ (Nat.zero_le _) ?_
  · intro c hc; simpa using (List.mem_filter.mp hc).2
  · exact Memory.append_wfFrom (mid := a + bs.length) (Memory.listFrom_wfFrom a bs) Memory.listFrom_lt (by omega)
      (Memory.filter_ge_wfFrom w _)

theorem Memory.shift_wfFrom {m : Memory} (k : Nat) {lo : Nat} (w : m.wfFrom (lo + k) = true) :
    Memory.wfFrom lo (m.map fun c => (c.1 - k, c.2)) = true := by
  induction m generalizing lo with
  | nil => rfl
  | cons c m ih =>
    obtain ⟨a, b⟩ := c
    rw [Memory.wfFrom_cons] at w
    simp only [List.map_cons, Memory.wfFrom_cons]
    refine ⟨by omega, w.2.1, ih ?_⟩
    have : a - k + 1 + k = a + 1 := by omega
    rw [this]; exact w.2.2

theorem Memory.extract_wf {m : Memory} (w : m.wf = true) (a n : Nat) : (m.extract a n).wf = true := by
  unfold Memory.extract Memory.wf
  refine Memory.shift_wfFrom a ?_
  rw [Nat.zero_add]
  have := Memory.filter_wfFrom (fun c => decide (c.1 < a + n)) (Memory.filter_ge_wfFrom w a)
  rw [List.filter_filter] at this
  simpa [Bool.and_comm] using this

/-! ## Reading after writing -/

/-- An address below a canonical listing is unlisted. -/
theorem Memory.get_below {m : Memory} {lo a : Nat} (w : m.wfFrom lo = true) (h : a < lo) : m.get a = 0#8 := by
  induction m generalizing lo with
  | nil => rfl
  | cons c m ih =>
    obtain ⟨x, b⟩ := c
    rw [Memory.wfFrom_cons] at w
    have hx : x ≠ a := by omega
    simpa [Memory.get, hx] using ih w.2.2 (by omega)

/-- A byte written is the byte read, and no other byte changes. -/
theorem Memory.get_set {m : Memory} {lo : Nat} (w : m.wfFrom lo = true) (a : Nat) (v : Byte) (x : Nat) :
    (m.set a v).get x = if x = a then v else m.get x := by
  induction m generalizing lo with
  | nil =>
    by_cases hv : v = 0#8
    · by_cases h : x = a <;> simp [Memory.set, hv, Memory.get]
    · by_cases h : x = a
      · simp [Memory.set, hv, Memory.get, h]
      · simp [Memory.set, hv, Memory.get, h, Ne.symm h]
  | cons c m ih =>
    obtain ⟨y, b⟩ := c
    rw [Memory.wfFrom_cons] at w
    have below : a ≤ y → Memory.get m a = 0#8 := fun h => Memory.get_below w.2.2 (by omega)
    by_cases h1 : a < y
    · by_cases hv : v = 0#8
      · subst hv
        by_cases h : x = a
        · subst h; simp [Memory.set, h1, Memory.get, show y ≠ x by omega, below (by omega)]
        · simp [Memory.set, h1, h]
      · by_cases h : x = a
        · simp [Memory.set, h1, hv, Memory.get, h]
        · simp [Memory.set, h1, hv, h, Memory.get, Ne.symm h]
    · by_cases h2 : a = y
      · subst h2
        by_cases hv : v = 0#8
        · subst hv
          by_cases h : x = a
          · subst h; simp [Memory.set, below]
          · simp [Memory.set, h, Memory.get, Ne.symm h]
        · by_cases h : x = a
          · simp [Memory.set, hv, Memory.get, h]
          · simp [Memory.set, hv, Memory.get, h, Ne.symm h]
      · simp only [Memory.set, h1, h2, if_false, Memory.get]
        by_cases h : y = x
        · subst h; simp [Ne.symm h2]
        · simp [h, ih w.2.2]

theorem Memory.get_setBytes {m : Memory} (w : m.wf = true) (a : Nat) (bs : List Byte) (x : Nat) :
    (m.setBytes a bs).get x = if a ≤ x ∧ x < a + bs.length then bs.getD (x - a) 0 else m.get x := by
  induction bs generalizing m a with
  | nil => simp [Memory.setBytes]
  | cons b bs ih =>
    rw [Memory.setBytes, ih (Memory.set_wf w a b), Memory.get_set w]
    by_cases h : x = a
    · subst h; simp
    · by_cases h' : a + 1 ≤ x ∧ x < a + 1 + bs.length
      · have : x - a = x - (a + 1) + 1 := by omega
        simp only [h', and_self, if_true, h, if_false, List.length_cons, this, List.getD_cons_succ]
        rw [if_pos (by omega)]
      · rw [if_neg h', if_neg h, if_neg (by simp; omega)]

theorem Memory.bytes_length (m : Memory) (a n : Nat) : (m.bytes a n).length = n := by
  induction n generalizing a with
  | zero => rfl
  | succ n ih => simp [Memory.bytes, ih]

end Sys2Proof.Machine
end

