-- ==== Sys2Proof/Laws/State.lean ====
section
/-!
SUPPORT. What each update of the state and of a thread leaves as it was: one lemma for each field, true by unfolding.
-/
namespace Sys2Proof.Machine

open Sys2Proof

/-! ## Updates of the state -/

@[simp] theorem State.setThread_groups (s : State) (t : Thread) : (s.setThread t).groups = s.groups := rfl
@[simp] theorem State.setThread_waves (s : State) (t : Thread) : (s.setThread t).waves = s.waves := rfl
@[simp] theorem State.setThread_launches (s : State) (t : Thread) : (s.setThread t).launches = s.launches := rfl
@[simp] theorem State.setThread_matrixOps (s : State) (t : Thread) : (s.setThread t).matrixOps = s.matrixOps := rfl
@[simp] theorem State.setThread_copies (s : State) (t : Thread) : (s.setThread t).copies = s.copies := rfl
@[simp] theorem State.setThread_bmvs (s : State) (t : Thread) : (s.setThread t).bmvs = s.bmvs := rfl
@[simp] theorem State.setThread_regions (s : State) (t : Thread) : (s.setThread t).regions = s.regions := rfl
@[simp] theorem State.setThread_dies (s : State) (t : Thread) : (s.setThread t).dies = s.dies := rfl
@[simp] theorem State.setThread_streams (s : State) (t : Thread) : (s.setThread t).streams = s.streams := rfl
@[simp] theorem State.setThread_mem (s : State) (t : Thread) : (s.setThread t).mem = s.mem := rfl
@[simp] theorem State.setThread_poison (s : State) (t : Thread) : (s.setThread t).poison = s.poison := rfl
@[simp] theorem State.setThread_tags (s : State) (t : Thread) : (s.setThread t).tags = s.tags := rfl
@[simp] theorem State.setThread_tier (s : State) (t : Thread) : (s.setThread t).tier = s.tier := rfl
@[simp] theorem State.setThread_tlb (s : State) (t : Thread) : (s.setThread t).tlb = s.tlb := rfl
@[simp] theorem State.setThread_ptroot (s : State) (t : Thread) : (s.setThread t).ptroot = s.ptroot := rfl
@[simp] theorem State.setThread_stackMask (s : State) (t : Thread) : (s.setThread t).stackMask = s.stackMask := rfl
@[simp] theorem State.setThread_unitsOut (s : State) (t : Thread) : (s.setThread t).unitsOut = s.unitsOut := rfl
@[simp] theorem State.setThread_outAtReset (s : State) (t : Thread) : (s.setThread t).outAtReset = s.outAtReset := rfl
@[simp] theorem State.setThread_corrected (s : State) (t : Thread) : (s.setThread t).corrected = s.corrected := rfl
@[simp] theorem State.setThread_isM (s : State) (t : Thread) : (s.setThread t).isM = s.isM := rfl
@[simp] theorem State.setThread_moduleNo (s : State) (t : Thread) : (s.setThread t).moduleNo = s.moduleNo := rfl
@[simp] theorem State.setThread_peers (s : State) (t : Thread) : (s.setThread t).peers = s.peers := rfl
@[simp] theorem State.setThread_boot (s : State) (t : Thread) : (s.setThread t).boot = s.boot := rfl
@[simp] theorem State.setThread_recording (s : State) (t : Thread) : (s.setThread t).recording = s.recording := rfl
@[simp] theorem State.setThread_image (s : State) (t : Thread) : (s.setThread t).image = s.image := rfl
@[simp] theorem State.setThread_reports (s : State) (t : Thread) : (s.setThread t).reports = s.reports := rfl
@[simp] theorem State.setThread_hostReads (s : State) (t : Thread) : (s.setThread t).hostReads = s.hostReads := rfl
@[simp] theorem State.setThread_replay (s : State) (t : Thread) : (s.setThread t).replay = s.replay := rfl
@[simp] theorem State.setThread_host (s : State) (t : Thread) : (s.setThread t).host = s.host := rfl
@[simp] theorem State.setThread_outsiders (s : State) (t : Thread) : (s.setThread t).outsiders = s.outsiders := rfl
@[simp] theorem State.setThread_history (s : State) (t : Thread) : (s.setThread t).history = s.history := rfl
@[simp] theorem State.setThread_carried (s : State) (t : Thread) : (s.setThread t).carried = s.carried := rfl
@[simp] theorem State.setThread_fences (s : State) (t : Thread) : (s.setThread t).fences = s.fences := rfl
@[simp] theorem State.setThread_fenced (s : State) (t : Thread) : (s.setThread t).fenced = s.fenced := rfl
@[simp] theorem State.setThread_relaxed (s : State) (t : Thread) : (s.setThread t).relaxed = s.relaxed := rfl
@[simp] theorem State.setThread_nextId (s : State) (t : Thread) : (s.setThread t).nextId = s.nextId := rfl
@[simp] theorem State.setThread_stamp (s : State) (t : Thread) : (s.setThread t).stamp = s.stamp := rfl
@[simp] theorem State.setThread_free (s : State) (t : Thread) : (s.setThread t).free = s.free := rfl
@[simp] theorem State.setThread_now (s : State) (t : Thread) : (s.setThread t).now = s.now := rfl
@[simp] theorem State.setThread_cur (s : State) (t : Thread) : (s.setThread t).cur = s.cur := rfl
@[simp] theorem State.setThread_packets (s : State) (t : Thread) : (s.setThread t).packets = s.packets := rfl
@[simp] theorem State.setThread_passes (s : State) (t : Thread) : (s.setThread t).passes = s.passes := rfl
@[simp] theorem State.setThread_sched (s : State) (t : Thread) : (s.setThread t).sched = s.sched := rfl

@[simp] theorem State.mapThread_groups (s : State) (id : ThreadId) (f : Thread → Thread) : (s.mapThread id f).groups = s.groups := rfl
@[simp] theorem State.mapThread_waves (s : State) (id : ThreadId) (f : Thread → Thread) : (s.mapThread id f).waves = s.waves := rfl
@[simp] theorem State.mapThread_launches (s : State) (id : ThreadId) (f : Thread → Thread) : (s.mapThread id f).launches = s.launches := rfl
@[simp] theorem State.mapThread_matrixOps (s : State) (id : ThreadId) (f : Thread → Thread) : (s.mapThread id f).matrixOps = s.matrixOps := rfl
@[simp] theorem State.mapThread_copies (s : State) (id : ThreadId) (f : Thread → Thread) : (s.mapThread id f).copies = s.copies := rfl
@[simp] theorem State.mapThread_bmvs (s : State) (id : ThreadId) (f : Thread → Thread) : (s.mapThread id f).bmvs = s.bmvs := rfl
@[simp] theorem State.mapThread_regions (s : State) (id : ThreadId) (f : Thread → Thread) : (s.mapThread id f).regions = s.regions := rfl
@[simp] theorem State.mapThread_dies (s : State) (id : ThreadId) (f : Thread → Thread) : (s.mapThread id f).dies = s.dies := rfl
@[simp] theorem State.mapThread_streams (s : State) (id : ThreadId) (f : Thread → Thread) : (s.mapThread id f).streams = s.streams := rfl
@[simp] theorem State.mapThread_mem (s : State) (id : ThreadId) (f : Thread → Thread) : (s.mapThread id f).mem = s.mem := rfl
@[simp] theorem State.mapThread_poison (s : State) (id : ThreadId) (f : Thread → Thread) : (s.mapThread id f).poison = s.poison := rfl
@[simp] theorem State.mapThread_tags (s : State) (id : ThreadId) (f : Thread → Thread) : (s.mapThread id f).tags = s.tags := rfl
@[simp] theorem State.mapThread_tier (s : State) (id : ThreadId) (f : Thread → Thread) : (s.mapThread id f).tier = s.tier := rfl
@[simp] theorem State.mapThread_tlb (s : State) (id : ThreadId) (f : Thread → Thread) : (s.mapThread id f).tlb = s.tlb := rfl
@[simp] theorem State.mapThread_ptroot (s : State) (id : ThreadId) (f : Thread → Thread) : (s.mapThread id f).ptroot = s.ptroot := rfl
@[simp] theorem State.mapThread_stackMask (s : State) (id : ThreadId) (f : Thread → Thread) : (s.mapThread id f).stackMask = s.stackMask := rfl
@[simp] theorem State.mapThread_unitsOut (s : State) (id : ThreadId) (f : Thread → Thread) : (s.mapThread id f).unitsOut = s.unitsOut := rfl
@[simp] theorem State.mapThread_outAtReset (s : State) (id : ThreadId) (f : Thread → Thread) : (s.mapThread id f).outAtReset = s.outAtReset := rfl
@[simp] theorem State.mapThread_corrected (s : State) (id : ThreadId) (f : Thread → Thread) : (s.mapThread id f).corrected = s.corrected := rfl
@[simp] theorem State.mapThread_isM (s : State) (id : ThreadId) (f : Thread → Thread) : (s.mapThread id f).isM = s.isM := rfl
@[simp] theorem State.mapThread_moduleNo (s : State) (id : ThreadId) (f : Thread → Thread) : (s.mapThread id f).moduleNo = s.moduleNo := rfl
@[simp] theorem State.mapThread_peers (s : State) (id : ThreadId) (f : Thread → Thread) : (s.mapThread id f).peers = s.peers := rfl
@[simp] theorem State.mapThread_boot (s : State) (id : ThreadId) (f : Thread → Thread) : (s.mapThread id f).boot = s.boot := rfl
@[simp] theorem State.mapThread_recording (s : State) (id : ThreadId) (f : Thread → Thread) : (s.mapThread id f).recording = s.recording := rfl
@[simp] theorem State.mapThread_image (s : State) (id : ThreadId) (f : Thread → Thread) : (s.mapThread id f).image = s.image := rfl
@[simp] theorem State.mapThread_reports (s : State) (id : ThreadId) (f : Thread → Thread) : (s.mapThread id f).reports = s.reports := rfl
@[simp] theorem State.mapThread_hostReads (s : State) (id : ThreadId) (f : Thread → Thread) : (s.mapThread id f).hostReads = s.hostReads := rfl
@[simp] theorem State.mapThread_replay (s : State) (id : ThreadId) (f : Thread → Thread) : (s.mapThread id f).replay = s.replay := rfl
@[simp] theorem State.mapThread_host (s : State) (id : ThreadId) (f : Thread → Thread) : (s.mapThread id f).host = s.host := rfl
@[simp] theorem State.mapThread_outsiders (s : State) (id : ThreadId) (f : Thread → Thread) : (s.mapThread id f).outsiders = s.outsiders := rfl
@[simp] theorem State.mapThread_history (s : State) (id : ThreadId) (f : Thread → Thread) : (s.mapThread id f).history = s.history := rfl
@[simp] theorem State.mapThread_carried (s : State) (id : ThreadId) (f : Thread → Thread) : (s.mapThread id f).carried = s.carried := rfl
@[simp] theorem State.mapThread_fences (s : State) (id : ThreadId) (f : Thread → Thread) : (s.mapThread id f).fences = s.fences := rfl
@[simp] theorem State.mapThread_fenced (s : State) (id : ThreadId) (f : Thread → Thread) : (s.mapThread id f).fenced = s.fenced := rfl
@[simp] theorem State.mapThread_relaxed (s : State) (id : ThreadId) (f : Thread → Thread) : (s.mapThread id f).relaxed = s.relaxed := rfl
@[simp] theorem State.mapThread_nextId (s : State) (id : ThreadId) (f : Thread → Thread) : (s.mapThread id f).nextId = s.nextId := rfl
@[simp] theorem State.mapThread_stamp (s : State) (id : ThreadId) (f : Thread → Thread) : (s.mapThread id f).stamp = s.stamp := rfl
@[simp] theorem State.mapThread_free (s : State) (id : ThreadId) (f : Thread → Thread) : (s.mapThread id f).free = s.free := rfl
@[simp] theorem State.mapThread_now (s : State) (id : ThreadId) (f : Thread → Thread) : (s.mapThread id f).now = s.now := rfl
@[simp] theorem State.mapThread_cur (s : State) (id : ThreadId) (f : Thread → Thread) : (s.mapThread id f).cur = s.cur := rfl
@[simp] theorem State.mapThread_packets (s : State) (id : ThreadId) (f : Thread → Thread) : (s.mapThread id f).packets = s.packets := rfl
@[simp] theorem State.mapThread_passes (s : State) (id : ThreadId) (f : Thread → Thread) : (s.mapThread id f).passes = s.passes := rfl
@[simp] theorem State.mapThread_sched (s : State) (id : ThreadId) (f : Thread → Thread) : (s.mapThread id f).sched = s.sched := rfl

@[simp] theorem State.mapThreads_groups (s : State) (p : Thread → Bool) (f : Thread → Thread) : (s.mapThreads p f).groups = s.groups := rfl
@[simp] theorem State.mapThreads_waves (s : State) (p : Thread → Bool) (f : Thread → Thread) : (s.mapThreads p f).waves = s.waves := rfl
@[simp] theorem State.mapThreads_launches (s : State) (p : Thread → Bool) (f : Thread → Thread) : (s.mapThreads p f).launches = s.launches := rfl
@[simp] theorem State.mapThreads_matrixOps (s : State) (p : Thread → Bool) (f : Thread → Thread) : (s.mapThreads p f).matrixOps = s.matrixOps := rfl
@[simp] theorem State.mapThreads_copies (s : State) (p : Thread → Bool) (f : Thread → Thread) : (s.mapThreads p f).copies = s.copies := rfl
@[simp] theorem State.mapThreads_bmvs (s : State) (p : Thread → Bool) (f : Thread → Thread) : (s.mapThreads p f).bmvs = s.bmvs := rfl
@[simp] theorem State.mapThreads_regions (s : State) (p : Thread → Bool) (f : Thread → Thread) : (s.mapThreads p f).regions = s.regions := rfl
@[simp] theorem State.mapThreads_dies (s : State) (p : Thread → Bool) (f : Thread → Thread) : (s.mapThreads p f).dies = s.dies := rfl
@[simp] theorem State.mapThreads_streams (s : State) (p : Thread → Bool) (f : Thread → Thread) : (s.mapThreads p f).streams = s.streams := rfl
@[simp] theorem State.mapThreads_mem (s : State) (p : Thread → Bool) (f : Thread → Thread) : (s.mapThreads p f).mem = s.mem := rfl
@[simp] theorem State.mapThreads_poison (s : State) (p : Thread → Bool) (f : Thread → Thread) : (s.mapThreads p f).poison = s.poison := rfl
@[simp] theorem State.mapThreads_tags (s : State) (p : Thread → Bool) (f : Thread → Thread) : (s.mapThreads p f).tags = s.tags := rfl
@[simp] theorem State.mapThreads_tier (s : State) (p : Thread → Bool) (f : Thread → Thread) : (s.mapThreads p f).tier = s.tier := rfl
@[simp] theorem State.mapThreads_tlb (s : State) (p : Thread → Bool) (f : Thread → Thread) : (s.mapThreads p f).tlb = s.tlb := rfl
@[simp] theorem State.mapThreads_ptroot (s : State) (p : Thread → Bool) (f : Thread → Thread) : (s.mapThreads p f).ptroot = s.ptroot := rfl
@[simp] theorem State.mapThreads_stackMask (s : State) (p : Thread → Bool) (f : Thread → Thread) : (s.mapThreads p f).stackMask = s.stackMask := rfl
@[simp] theorem State.mapThreads_unitsOut (s : State) (p : Thread → Bool) (f : Thread → Thread) : (s.mapThreads p f).unitsOut = s.unitsOut := rfl
@[simp] theorem State.mapThreads_outAtReset (s : State) (p : Thread → Bool) (f : Thread → Thread) : (s.mapThreads p f).outAtReset = s.outAtReset := rfl
@[simp] theorem State.mapThreads_corrected (s : State) (p : Thread → Bool) (f : Thread → Thread) : (s.mapThreads p f).corrected = s.corrected := rfl
@[simp] theorem State.mapThreads_isM (s : State) (p : Thread → Bool) (f : Thread → Thread) : (s.mapThreads p f).isM = s.isM := rfl
@[simp] theorem State.mapThreads_moduleNo (s : State) (p : Thread → Bool) (f : Thread → Thread) : (s.mapThreads p f).moduleNo = s.moduleNo := rfl
@[simp] theorem State.mapThreads_peers (s : State) (p : Thread → Bool) (f : Thread → Thread) : (s.mapThreads p f).peers = s.peers := rfl
@[simp] theorem State.mapThreads_boot (s : State) (p : Thread → Bool) (f : Thread → Thread) : (s.mapThreads p f).boot = s.boot := rfl
@[simp] theorem State.mapThreads_recording (s : State) (p : Thread → Bool) (f : Thread → Thread) : (s.mapThreads p f).recording = s.recording := rfl
@[simp] theorem State.mapThreads_image (s : State) (p : Thread → Bool) (f : Thread → Thread) : (s.mapThreads p f).image = s.image := rfl
@[simp] theorem State.mapThreads_reports (s : State) (p : Thread → Bool) (f : Thread → Thread) : (s.mapThreads p f).reports = s.reports := rfl
@[simp] theorem State.mapThreads_hostReads (s : State) (p : Thread → Bool) (f : Thread → Thread) : (s.mapThreads p f).hostReads = s.hostReads := rfl
@[simp] theorem State.mapThreads_replay (s : State) (p : Thread → Bool) (f : Thread → Thread) : (s.mapThreads p f).replay = s.replay := rfl
@[simp] theorem State.mapThreads_host (s : State) (p : Thread → Bool) (f : Thread → Thread) : (s.mapThreads p f).host = s.host := rfl
@[simp] theorem State.mapThreads_outsiders (s : State) (p : Thread → Bool) (f : Thread → Thread) : (s.mapThreads p f).outsiders = s.outsiders := rfl
@[simp] theorem State.mapThreads_history (s : State) (p : Thread → Bool) (f : Thread → Thread) : (s.mapThreads p f).history = s.history := rfl
@[simp] theorem State.mapThreads_carried (s : State) (p : Thread → Bool) (f : Thread → Thread) : (s.mapThreads p f).carried = s.carried := rfl
@[simp] theorem State.mapThreads_fences (s : State) (p : Thread → Bool) (f : Thread → Thread) : (s.mapThreads p f).fences = s.fences := rfl
@[simp] theorem State.mapThreads_fenced (s : State) (p : Thread → Bool) (f : Thread → Thread) : (s.mapThreads p f).fenced = s.fenced := rfl
@[simp] theorem State.mapThreads_relaxed (s : State) (p : Thread → Bool) (f : Thread → Thread) : (s.mapThreads p f).relaxed = s.relaxed := rfl
@[simp] theorem State.mapThreads_nextId (s : State) (p : Thread → Bool) (f : Thread → Thread) : (s.mapThreads p f).nextId = s.nextId := rfl
@[simp] theorem State.mapThreads_stamp (s : State) (p : Thread → Bool) (f : Thread → Thread) : (s.mapThreads p f).stamp = s.stamp := rfl
@[simp] theorem State.mapThreads_free (s : State) (p : Thread → Bool) (f : Thread → Thread) : (s.mapThreads p f).free = s.free := rfl
@[simp] theorem State.mapThreads_now (s : State) (p : Thread → Bool) (f : Thread → Thread) : (s.mapThreads p f).now = s.now := rfl
@[simp] theorem State.mapThreads_cur (s : State) (p : Thread → Bool) (f : Thread → Thread) : (s.mapThreads p f).cur = s.cur := rfl
@[simp] theorem State.mapThreads_packets (s : State) (p : Thread → Bool) (f : Thread → Thread) : (s.mapThreads p f).packets = s.packets := rfl
@[simp] theorem State.mapThreads_passes (s : State) (p : Thread → Bool) (f : Thread → Thread) : (s.mapThreads p f).passes = s.passes := rfl
@[simp] theorem State.mapThreads_sched (s : State) (p : Thread → Bool) (f : Thread → Thread) : (s.mapThreads p f).sched = s.sched := rfl

@[simp] theorem State.mapWave_threads (s : State) (uid : Nat) (f : Wave → Wave) : (s.mapWave uid f).threads = s.threads := rfl
@[simp] theorem State.mapWave_groups (s : State) (uid : Nat) (f : Wave → Wave) : (s.mapWave uid f).groups = s.groups := rfl
@[simp] theorem State.mapWave_launches (s : State) (uid : Nat) (f : Wave → Wave) : (s.mapWave uid f).launches = s.launches := rfl
@[simp] theorem State.mapWave_matrixOps (s : State) (uid : Nat) (f : Wave → Wave) : (s.mapWave uid f).matrixOps = s.matrixOps := rfl
@[simp] theorem State.mapWave_copies (s : State) (uid : Nat) (f : Wave → Wave) : (s.mapWave uid f).copies = s.copies := rfl
@[simp] theorem State.mapWave_bmvs (s : State) (uid : Nat) (f : Wave → Wave) : (s.mapWave uid f).bmvs = s.bmvs := rfl
@[simp] theorem State.mapWave_regions (s : State) (uid : Nat) (f : Wave → Wave) : (s.mapWave uid f).regions = s.regions := rfl
@[simp] theorem State.mapWave_dies (s : State) (uid : Nat) (f : Wave → Wave) : (s.mapWave uid f).dies = s.dies := rfl
@[simp] theorem State.mapWave_streams (s : State) (uid : Nat) (f : Wave → Wave) : (s.mapWave uid f).streams = s.streams := rfl
@[simp] theorem State.mapWave_mem (s : State) (uid : Nat) (f : Wave → Wave) : (s.mapWave uid f).mem = s.mem := rfl
@[simp] theorem State.mapWave_poison (s : State) (uid : Nat) (f : Wave → Wave) : (s.mapWave uid f).poison = s.poison := rfl
@[simp] theorem State.mapWave_tags (s : State) (uid : Nat) (f : Wave → Wave) : (s.mapWave uid f).tags = s.tags := rfl
@[simp] theorem State.mapWave_tier (s : State) (uid : Nat) (f : Wave → Wave) : (s.mapWave uid f).tier = s.tier := rfl
@[simp] theorem State.mapWave_tlb (s : State) (uid : Nat) (f : Wave → Wave) : (s.mapWave uid f).tlb = s.tlb := rfl
@[simp] theorem State.mapWave_ptroot (s : State) (uid : Nat) (f : Wave → Wave) : (s.mapWave uid f).ptroot = s.ptroot := rfl
@[simp] theorem State.mapWave_stackMask (s : State) (uid : Nat) (f : Wave → Wave) : (s.mapWave uid f).stackMask = s.stackMask := rfl
@[simp] theorem State.mapWave_unitsOut (s : State) (uid : Nat) (f : Wave → Wave) : (s.mapWave uid f).unitsOut = s.unitsOut := rfl
@[simp] theorem State.mapWave_outAtReset (s : State) (uid : Nat) (f : Wave → Wave) : (s.mapWave uid f).outAtReset = s.outAtReset := rfl
@[simp] theorem State.mapWave_corrected (s : State) (uid : Nat) (f : Wave → Wave) : (s.mapWave uid f).corrected = s.corrected := rfl
@[simp] theorem State.mapWave_isM (s : State) (uid : Nat) (f : Wave → Wave) : (s.mapWave uid f).isM = s.isM := rfl
@[simp] theorem State.mapWave_moduleNo (s : State) (uid : Nat) (f : Wave → Wave) : (s.mapWave uid f).moduleNo = s.moduleNo := rfl
@[simp] theorem State.mapWave_peers (s : State) (uid : Nat) (f : Wave → Wave) : (s.mapWave uid f).peers = s.peers := rfl
@[simp] theorem State.mapWave_boot (s : State) (uid : Nat) (f : Wave → Wave) : (s.mapWave uid f).boot = s.boot := rfl
@[simp] theorem State.mapWave_recording (s : State) (uid : Nat) (f : Wave → Wave) : (s.mapWave uid f).recording = s.recording := rfl
@[simp] theorem State.mapWave_image (s : State) (uid : Nat) (f : Wave → Wave) : (s.mapWave uid f).image = s.image := rfl
@[simp] theorem State.mapWave_reports (s : State) (uid : Nat) (f : Wave → Wave) : (s.mapWave uid f).reports = s.reports := rfl
@[simp] theorem State.mapWave_hostReads (s : State) (uid : Nat) (f : Wave → Wave) : (s.mapWave uid f).hostReads = s.hostReads := rfl
@[simp] theorem State.mapWave_replay (s : State) (uid : Nat) (f : Wave → Wave) : (s.mapWave uid f).replay = s.replay := rfl
@[simp] theorem State.mapWave_host (s : State) (uid : Nat) (f : Wave → Wave) : (s.mapWave uid f).host = s.host := rfl
@[simp] theorem State.mapWave_outsiders (s : State) (uid : Nat) (f : Wave → Wave) : (s.mapWave uid f).outsiders = s.outsiders := rfl
@[simp] theorem State.mapWave_history (s : State) (uid : Nat) (f : Wave → Wave) : (s.mapWave uid f).history = s.history := rfl
@[simp] theorem State.mapWave_carried (s : State) (uid : Nat) (f : Wave → Wave) : (s.mapWave uid f).carried = s.carried := rfl
@[simp] theorem State.mapWave_fences (s : State) (uid : Nat) (f : Wave → Wave) : (s.mapWave uid f).fences = s.fences := rfl
@[simp] theorem State.mapWave_fenced (s : State) (uid : Nat) (f : Wave → Wave) : (s.mapWave uid f).fenced = s.fenced := rfl
@[simp] theorem State.mapWave_relaxed (s : State) (uid : Nat) (f : Wave → Wave) : (s.mapWave uid f).relaxed = s.relaxed := rfl
@[simp] theorem State.mapWave_nextId (s : State) (uid : Nat) (f : Wave → Wave) : (s.mapWave uid f).nextId = s.nextId := rfl
@[simp] theorem State.mapWave_stamp (s : State) (uid : Nat) (f : Wave → Wave) : (s.mapWave uid f).stamp = s.stamp := rfl
@[simp] theorem State.mapWave_free (s : State) (uid : Nat) (f : Wave → Wave) : (s.mapWave uid f).free = s.free := rfl
@[simp] theorem State.mapWave_now (s : State) (uid : Nat) (f : Wave → Wave) : (s.mapWave uid f).now = s.now := rfl
@[simp] theorem State.mapWave_cur (s : State) (uid : Nat) (f : Wave → Wave) : (s.mapWave uid f).cur = s.cur := rfl
@[simp] theorem State.mapWave_packets (s : State) (uid : Nat) (f : Wave → Wave) : (s.mapWave uid f).packets = s.packets := rfl
@[simp] theorem State.mapWave_passes (s : State) (uid : Nat) (f : Wave → Wave) : (s.mapWave uid f).passes = s.passes := rfl
@[simp] theorem State.mapWave_sched (s : State) (uid : Nat) (f : Wave → Wave) : (s.mapWave uid f).sched = s.sched := rfl

@[simp] theorem State.mapLaunch_threads (s : State) (id : Nat) (f : Launch → Launch) : (s.mapLaunch id f).threads = s.threads := rfl
@[simp] theorem State.mapLaunch_groups (s : State) (id : Nat) (f : Launch → Launch) : (s.mapLaunch id f).groups = s.groups := rfl
@[simp] theorem State.mapLaunch_waves (s : State) (id : Nat) (f : Launch → Launch) : (s.mapLaunch id f).waves = s.waves := rfl
@[simp] theorem State.mapLaunch_matrixOps (s : State) (id : Nat) (f : Launch → Launch) : (s.mapLaunch id f).matrixOps = s.matrixOps := rfl
@[simp] theorem State.mapLaunch_copies (s : State) (id : Nat) (f : Launch → Launch) : (s.mapLaunch id f).copies = s.copies := rfl
@[simp] theorem State.mapLaunch_bmvs (s : State) (id : Nat) (f : Launch → Launch) : (s.mapLaunch id f).bmvs = s.bmvs := rfl
@[simp] theorem State.mapLaunch_regions (s : State) (id : Nat) (f : Launch → Launch) : (s.mapLaunch id f).regions = s.regions := rfl
@[simp] theorem State.mapLaunch_dies (s : State) (id : Nat) (f : Launch → Launch) : (s.mapLaunch id f).dies = s.dies := rfl
@[simp] theorem State.mapLaunch_streams (s : State) (id : Nat) (f : Launch → Launch) : (s.mapLaunch id f).streams = s.streams := rfl
@[simp] theorem State.mapLaunch_mem (s : State) (id : Nat) (f : Launch → Launch) : (s.mapLaunch id f).mem = s.mem := rfl
@[simp] theorem State.mapLaunch_poison (s : State) (id : Nat) (f : Launch → Launch) : (s.mapLaunch id f).poison = s.poison := rfl
@[simp] theorem State.mapLaunch_tags (s : State) (id : Nat) (f : Launch → Launch) : (s.mapLaunch id f).tags = s.tags := rfl
@[simp] theorem State.mapLaunch_tier (s : State) (id : Nat) (f : Launch → Launch) : (s.mapLaunch id f).tier = s.tier := rfl
@[simp] theorem State.mapLaunch_tlb (s : State) (id : Nat) (f : Launch → Launch) : (s.mapLaunch id f).tlb = s.tlb := rfl
@[simp] theorem State.mapLaunch_ptroot (s : State) (id : Nat) (f : Launch → Launch) : (s.mapLaunch id f).ptroot = s.ptroot := rfl
@[simp] theorem State.mapLaunch_stackMask (s : State) (id : Nat) (f : Launch → Launch) : (s.mapLaunch id f).stackMask = s.stackMask := rfl
@[simp] theorem State.mapLaunch_unitsOut (s : State) (id : Nat) (f : Launch → Launch) : (s.mapLaunch id f).unitsOut = s.unitsOut := rfl
@[simp] theorem State.mapLaunch_outAtReset (s : State) (id : Nat) (f : Launch → Launch) : (s.mapLaunch id f).outAtReset = s.outAtReset := rfl
@[simp] theorem State.mapLaunch_corrected (s : State) (id : Nat) (f : Launch → Launch) : (s.mapLaunch id f).corrected = s.corrected := rfl
@[simp] theorem State.mapLaunch_isM (s : State) (id : Nat) (f : Launch → Launch) : (s.mapLaunch id f).isM = s.isM := rfl
@[simp] theorem State.mapLaunch_moduleNo (s : State) (id : Nat) (f : Launch → Launch) : (s.mapLaunch id f).moduleNo = s.moduleNo := rfl
@[simp] theorem State.mapLaunch_peers (s : State) (id : Nat) (f : Launch → Launch) : (s.mapLaunch id f).peers = s.peers := rfl
@[simp] theorem State.mapLaunch_boot (s : State) (id : Nat) (f : Launch → Launch) : (s.mapLaunch id f).boot = s.boot := rfl
@[simp] theorem State.mapLaunch_recording (s : State) (id : Nat) (f : Launch → Launch) : (s.mapLaunch id f).recording = s.recording := rfl
@[simp] theorem State.mapLaunch_image (s : State) (id : Nat) (f : Launch → Launch) : (s.mapLaunch id f).image = s.image := rfl
@[simp] theorem State.mapLaunch_reports (s : State) (id : Nat) (f : Launch → Launch) : (s.mapLaunch id f).reports = s.reports := rfl
@[simp] theorem State.mapLaunch_hostReads (s : State) (id : Nat) (f : Launch → Launch) : (s.mapLaunch id f).hostReads = s.hostReads := rfl
@[simp] theorem State.mapLaunch_replay (s : State) (id : Nat) (f : Launch → Launch) : (s.mapLaunch id f).replay = s.replay := rfl
@[simp] theorem State.mapLaunch_host (s : State) (id : Nat) (f : Launch → Launch) : (s.mapLaunch id f).host = s.host := rfl
@[simp] theorem State.mapLaunch_outsiders (s : State) (id : Nat) (f : Launch → Launch) : (s.mapLaunch id f).outsiders = s.outsiders := rfl
@[simp] theorem State.mapLaunch_history (s : State) (id : Nat) (f : Launch → Launch) : (s.mapLaunch id f).history = s.history := rfl
@[simp] theorem State.mapLaunch_carried (s : State) (id : Nat) (f : Launch → Launch) : (s.mapLaunch id f).carried = s.carried := rfl
@[simp] theorem State.mapLaunch_fences (s : State) (id : Nat) (f : Launch → Launch) : (s.mapLaunch id f).fences = s.fences := rfl
@[simp] theorem State.mapLaunch_fenced (s : State) (id : Nat) (f : Launch → Launch) : (s.mapLaunch id f).fenced = s.fenced := rfl
@[simp] theorem State.mapLaunch_relaxed (s : State) (id : Nat) (f : Launch → Launch) : (s.mapLaunch id f).relaxed = s.relaxed := rfl
@[simp] theorem State.mapLaunch_nextId (s : State) (id : Nat) (f : Launch → Launch) : (s.mapLaunch id f).nextId = s.nextId := rfl
@[simp] theorem State.mapLaunch_stamp (s : State) (id : Nat) (f : Launch → Launch) : (s.mapLaunch id f).stamp = s.stamp := rfl
@[simp] theorem State.mapLaunch_free (s : State) (id : Nat) (f : Launch → Launch) : (s.mapLaunch id f).free = s.free := rfl
@[simp] theorem State.mapLaunch_now (s : State) (id : Nat) (f : Launch → Launch) : (s.mapLaunch id f).now = s.now := rfl
@[simp] theorem State.mapLaunch_cur (s : State) (id : Nat) (f : Launch → Launch) : (s.mapLaunch id f).cur = s.cur := rfl
@[simp] theorem State.mapLaunch_packets (s : State) (id : Nat) (f : Launch → Launch) : (s.mapLaunch id f).packets = s.packets := rfl
@[simp] theorem State.mapLaunch_passes (s : State) (id : Nat) (f : Launch → Launch) : (s.mapLaunch id f).passes = s.passes := rfl
@[simp] theorem State.mapLaunch_sched (s : State) (id : Nat) (f : Launch → Launch) : (s.mapLaunch id f).sched = s.sched := rfl

@[simp] theorem State.mapGroup_threads (s : State) (wave idx : Nat) (f : Group → Group) : (s.mapGroup wave idx f).threads = s.threads := rfl
@[simp] theorem State.mapGroup_waves (s : State) (wave idx : Nat) (f : Group → Group) : (s.mapGroup wave idx f).waves = s.waves := rfl
@[simp] theorem State.mapGroup_launches (s : State) (wave idx : Nat) (f : Group → Group) : (s.mapGroup wave idx f).launches = s.launches := rfl
@[simp] theorem State.mapGroup_matrixOps (s : State) (wave idx : Nat) (f : Group → Group) : (s.mapGroup wave idx f).matrixOps = s.matrixOps := rfl
@[simp] theorem State.mapGroup_copies (s : State) (wave idx : Nat) (f : Group → Group) : (s.mapGroup wave idx f).copies = s.copies := rfl
@[simp] theorem State.mapGroup_bmvs (s : State) (wave idx : Nat) (f : Group → Group) : (s.mapGroup wave idx f).bmvs = s.bmvs := rfl
@[simp] theorem State.mapGroup_regions (s : State) (wave idx : Nat) (f : Group → Group) : (s.mapGroup wave idx f).regions = s.regions := rfl
@[simp] theorem State.mapGroup_dies (s : State) (wave idx : Nat) (f : Group → Group) : (s.mapGroup wave idx f).dies = s.dies := rfl
@[simp] theorem State.mapGroup_streams (s : State) (wave idx : Nat) (f : Group → Group) : (s.mapGroup wave idx f).streams = s.streams := rfl
@[simp] theorem State.mapGroup_mem (s : State) (wave idx : Nat) (f : Group → Group) : (s.mapGroup wave idx f).mem = s.mem := rfl
@[simp] theorem State.mapGroup_poison (s : State) (wave idx : Nat) (f : Group → Group) : (s.mapGroup wave idx f).poison = s.poison := rfl
@[simp] theorem State.mapGroup_tags (s : State) (wave idx : Nat) (f : Group → Group) : (s.mapGroup wave idx f).tags = s.tags := rfl
@[simp] theorem State.mapGroup_tier (s : State) (wave idx : Nat) (f : Group → Group) : (s.mapGroup wave idx f).tier = s.tier := rfl
@[simp] theorem State.mapGroup_tlb (s : State) (wave idx : Nat) (f : Group → Group) : (s.mapGroup wave idx f).tlb = s.tlb := rfl
@[simp] theorem State.mapGroup_ptroot (s : State) (wave idx : Nat) (f : Group → Group) : (s.mapGroup wave idx f).ptroot = s.ptroot := rfl
@[simp] theorem State.mapGroup_stackMask (s : State) (wave idx : Nat) (f : Group → Group) : (s.mapGroup wave idx f).stackMask = s.stackMask := rfl
@[simp] theorem State.mapGroup_unitsOut (s : State) (wave idx : Nat) (f : Group → Group) : (s.mapGroup wave idx f).unitsOut = s.unitsOut := rfl
@[simp] theorem State.mapGroup_outAtReset (s : State) (wave idx : Nat) (f : Group → Group) : (s.mapGroup wave idx f).outAtReset = s.outAtReset := rfl
@[simp] theorem State.mapGroup_corrected (s : State) (wave idx : Nat) (f : Group → Group) : (s.mapGroup wave idx f).corrected = s.corrected := rfl
@[simp] theorem State.mapGroup_isM (s : State) (wave idx : Nat) (f : Group → Group) : (s.mapGroup wave idx f).isM = s.isM := rfl
@[simp] theorem State.mapGroup_moduleNo (s : State) (wave idx : Nat) (f : Group → Group) : (s.mapGroup wave idx f).moduleNo = s.moduleNo := rfl
@[simp] theorem State.mapGroup_peers (s : State) (wave idx : Nat) (f : Group → Group) : (s.mapGroup wave idx f).peers = s.peers := rfl
@[simp] theorem State.mapGroup_boot (s : State) (wave idx : Nat) (f : Group → Group) : (s.mapGroup wave idx f).boot = s.boot := rfl
@[simp] theorem State.mapGroup_recording (s : State) (wave idx : Nat) (f : Group → Group) : (s.mapGroup wave idx f).recording = s.recording := rfl
@[simp] theorem State.mapGroup_image (s : State) (wave idx : Nat) (f : Group → Group) : (s.mapGroup wave idx f).image = s.image := rfl
@[simp] theorem State.mapGroup_reports (s : State) (wave idx : Nat) (f : Group → Group) : (s.mapGroup wave idx f).reports = s.reports := rfl
@[simp] theorem State.mapGroup_hostReads (s : State) (wave idx : Nat) (f : Group → Group) : (s.mapGroup wave idx f).hostReads = s.hostReads := rfl
@[simp] theorem State.mapGroup_replay (s : State) (wave idx : Nat) (f : Group → Group) : (s.mapGroup wave idx f).replay = s.replay := rfl
@[simp] theorem State.mapGroup_host (s : State) (wave idx : Nat) (f : Group → Group) : (s.mapGroup wave idx f).host = s.host := rfl
@[simp] theorem State.mapGroup_outsiders (s : State) (wave idx : Nat) (f : Group → Group) : (s.mapGroup wave idx f).outsiders = s.outsiders := rfl
@[simp] theorem State.mapGroup_history (s : State) (wave idx : Nat) (f : Group → Group) : (s.mapGroup wave idx f).history = s.history := rfl
@[simp] theorem State.mapGroup_carried (s : State) (wave idx : Nat) (f : Group → Group) : (s.mapGroup wave idx f).carried = s.carried := rfl
@[simp] theorem State.mapGroup_fences (s : State) (wave idx : Nat) (f : Group → Group) : (s.mapGroup wave idx f).fences = s.fences := rfl
@[simp] theorem State.mapGroup_fenced (s : State) (wave idx : Nat) (f : Group → Group) : (s.mapGroup wave idx f).fenced = s.fenced := rfl
@[simp] theorem State.mapGroup_relaxed (s : State) (wave idx : Nat) (f : Group → Group) : (s.mapGroup wave idx f).relaxed = s.relaxed := rfl
@[simp] theorem State.mapGroup_nextId (s : State) (wave idx : Nat) (f : Group → Group) : (s.mapGroup wave idx f).nextId = s.nextId := rfl
@[simp] theorem State.mapGroup_stamp (s : State) (wave idx : Nat) (f : Group → Group) : (s.mapGroup wave idx f).stamp = s.stamp := rfl
@[simp] theorem State.mapGroup_free (s : State) (wave idx : Nat) (f : Group → Group) : (s.mapGroup wave idx f).free = s.free := rfl
@[simp] theorem State.mapGroup_now (s : State) (wave idx : Nat) (f : Group → Group) : (s.mapGroup wave idx f).now = s.now := rfl
@[simp] theorem State.mapGroup_cur (s : State) (wave idx : Nat) (f : Group → Group) : (s.mapGroup wave idx f).cur = s.cur := rfl
@[simp] theorem State.mapGroup_packets (s : State) (wave idx : Nat) (f : Group → Group) : (s.mapGroup wave idx f).packets = s.packets := rfl
@[simp] theorem State.mapGroup_passes (s : State) (wave idx : Nat) (f : Group → Group) : (s.mapGroup wave idx f).passes = s.passes := rfl
@[simp] theorem State.mapGroup_sched (s : State) (wave idx : Nat) (f : Group → Group) : (s.mapGroup wave idx f).sched = s.sched := rfl

@[simp] theorem State.mapDie_threads (s : State) (d : Nat) (f : Die → Die) : (s.mapDie d f).threads = s.threads := rfl
@[simp] theorem State.mapDie_groups (s : State) (d : Nat) (f : Die → Die) : (s.mapDie d f).groups = s.groups := rfl
@[simp] theorem State.mapDie_waves (s : State) (d : Nat) (f : Die → Die) : (s.mapDie d f).waves = s.waves := rfl
@[simp] theorem State.mapDie_launches (s : State) (d : Nat) (f : Die → Die) : (s.mapDie d f).launches = s.launches := rfl
@[simp] theorem State.mapDie_matrixOps (s : State) (d : Nat) (f : Die → Die) : (s.mapDie d f).matrixOps = s.matrixOps := rfl
@[simp] theorem State.mapDie_copies (s : State) (d : Nat) (f : Die → Die) : (s.mapDie d f).copies = s.copies := rfl
@[simp] theorem State.mapDie_bmvs (s : State) (d : Nat) (f : Die → Die) : (s.mapDie d f).bmvs = s.bmvs := rfl
@[simp] theorem State.mapDie_regions (s : State) (d : Nat) (f : Die → Die) : (s.mapDie d f).regions = s.regions := rfl
@[simp] theorem State.mapDie_streams (s : State) (d : Nat) (f : Die → Die) : (s.mapDie d f).streams = s.streams := rfl
@[simp] theorem State.mapDie_mem (s : State) (d : Nat) (f : Die → Die) : (s.mapDie d f).mem = s.mem := rfl
@[simp] theorem State.mapDie_poison (s : State) (d : Nat) (f : Die → Die) : (s.mapDie d f).poison = s.poison := rfl
@[simp] theorem State.mapDie_tags (s : State) (d : Nat) (f : Die → Die) : (s.mapDie d f).tags = s.tags := rfl
@[simp] theorem State.mapDie_tier (s : State) (d : Nat) (f : Die → Die) : (s.mapDie d f).tier = s.tier := rfl
@[simp] theorem State.mapDie_tlb (s : State) (d : Nat) (f : Die → Die) : (s.mapDie d f).tlb = s.tlb := rfl
@[simp] theorem State.mapDie_ptroot (s : State) (d : Nat) (f : Die → Die) : (s.mapDie d f).ptroot = s.ptroot := rfl
@[simp] theorem State.mapDie_stackMask (s : State) (d : Nat) (f : Die → Die) : (s.mapDie d f).stackMask = s.stackMask := rfl
@[simp] theorem State.mapDie_unitsOut (s : State) (d : Nat) (f : Die → Die) : (s.mapDie d f).unitsOut = s.unitsOut := rfl
@[simp] theorem State.mapDie_outAtReset (s : State) (d : Nat) (f : Die → Die) : (s.mapDie d f).outAtReset = s.outAtReset := rfl
@[simp] theorem State.mapDie_corrected (s : State) (d : Nat) (f : Die → Die) : (s.mapDie d f).corrected = s.corrected := rfl
@[simp] theorem State.mapDie_isM (s : State) (d : Nat) (f : Die → Die) : (s.mapDie d f).isM = s.isM := rfl
@[simp] theorem State.mapDie_moduleNo (s : State) (d : Nat) (f : Die → Die) : (s.mapDie d f).moduleNo = s.moduleNo := rfl
@[simp] theorem State.mapDie_peers (s : State) (d : Nat) (f : Die → Die) : (s.mapDie d f).peers = s.peers := rfl
@[simp] theorem State.mapDie_boot (s : State) (d : Nat) (f : Die → Die) : (s.mapDie d f).boot = s.boot := rfl
@[simp] theorem State.mapDie_recording (s : State) (d : Nat) (f : Die → Die) : (s.mapDie d f).recording = s.recording := rfl
@[simp] theorem State.mapDie_image (s : State) (d : Nat) (f : Die → Die) : (s.mapDie d f).image = s.image := rfl
@[simp] theorem State.mapDie_reports (s : State) (d : Nat) (f : Die → Die) : (s.mapDie d f).reports = s.reports := rfl
@[simp] theorem State.mapDie_hostReads (s : State) (d : Nat) (f : Die → Die) : (s.mapDie d f).hostReads = s.hostReads := rfl
@[simp] theorem State.mapDie_replay (s : State) (d : Nat) (f : Die → Die) : (s.mapDie d f).replay = s.replay := rfl
@[simp] theorem State.mapDie_host (s : State) (d : Nat) (f : Die → Die) : (s.mapDie d f).host = s.host := rfl
@[simp] theorem State.mapDie_outsiders (s : State) (d : Nat) (f : Die → Die) : (s.mapDie d f).outsiders = s.outsiders := rfl
@[simp] theorem State.mapDie_history (s : State) (d : Nat) (f : Die → Die) : (s.mapDie d f).history = s.history := rfl
@[simp] theorem State.mapDie_carried (s : State) (d : Nat) (f : Die → Die) : (s.mapDie d f).carried = s.carried := rfl
@[simp] theorem State.mapDie_fences (s : State) (d : Nat) (f : Die → Die) : (s.mapDie d f).fences = s.fences := rfl
@[simp] theorem State.mapDie_fenced (s : State) (d : Nat) (f : Die → Die) : (s.mapDie d f).fenced = s.fenced := rfl
@[simp] theorem State.mapDie_relaxed (s : State) (d : Nat) (f : Die → Die) : (s.mapDie d f).relaxed = s.relaxed := rfl
@[simp] theorem State.mapDie_nextId (s : State) (d : Nat) (f : Die → Die) : (s.mapDie d f).nextId = s.nextId := rfl
@[simp] theorem State.mapDie_stamp (s : State) (d : Nat) (f : Die → Die) : (s.mapDie d f).stamp = s.stamp := rfl
@[simp] theorem State.mapDie_free (s : State) (d : Nat) (f : Die → Die) : (s.mapDie d f).free = s.free := rfl
@[simp] theorem State.mapDie_now (s : State) (d : Nat) (f : Die → Die) : (s.mapDie d f).now = s.now := rfl
@[simp] theorem State.mapDie_cur (s : State) (d : Nat) (f : Die → Die) : (s.mapDie d f).cur = s.cur := rfl
@[simp] theorem State.mapDie_packets (s : State) (d : Nat) (f : Die → Die) : (s.mapDie d f).packets = s.packets := rfl
@[simp] theorem State.mapDie_passes (s : State) (d : Nat) (f : Die → Die) : (s.mapDie d f).passes = s.passes := rfl
@[simp] theorem State.mapDie_sched (s : State) (d : Nat) (f : Die → Die) : (s.mapDie d f).sched = s.sched := rfl

@[simp] theorem State.mapCore_threads (s : State) (c : CoreId) (f : Core → Core) : (s.mapCore c f).threads = s.threads := rfl
@[simp] theorem State.mapCore_groups (s : State) (c : CoreId) (f : Core → Core) : (s.mapCore c f).groups = s.groups := rfl
@[simp] theorem State.mapCore_waves (s : State) (c : CoreId) (f : Core → Core) : (s.mapCore c f).waves = s.waves := rfl
@[simp] theorem State.mapCore_launches (s : State) (c : CoreId) (f : Core → Core) : (s.mapCore c f).launches = s.launches := rfl
@[simp] theorem State.mapCore_matrixOps (s : State) (c : CoreId) (f : Core → Core) : (s.mapCore c f).matrixOps = s.matrixOps := rfl
@[simp] theorem State.mapCore_copies (s : State) (c : CoreId) (f : Core → Core) : (s.mapCore c f).copies = s.copies := rfl
@[simp] theorem State.mapCore_bmvs (s : State) (c : CoreId) (f : Core → Core) : (s.mapCore c f).bmvs = s.bmvs := rfl
@[simp] theorem State.mapCore_regions (s : State) (c : CoreId) (f : Core → Core) : (s.mapCore c f).regions = s.regions := rfl
@[simp] theorem State.mapCore_streams (s : State) (c : CoreId) (f : Core → Core) : (s.mapCore c f).streams = s.streams := rfl
@[simp] theorem State.mapCore_mem (s : State) (c : CoreId) (f : Core → Core) : (s.mapCore c f).mem = s.mem := rfl
@[simp] theorem State.mapCore_poison (s : State) (c : CoreId) (f : Core → Core) : (s.mapCore c f).poison = s.poison := rfl
@[simp] theorem State.mapCore_tags (s : State) (c : CoreId) (f : Core → Core) : (s.mapCore c f).tags = s.tags := rfl
@[simp] theorem State.mapCore_tier (s : State) (c : CoreId) (f : Core → Core) : (s.mapCore c f).tier = s.tier := rfl
@[simp] theorem State.mapCore_tlb (s : State) (c : CoreId) (f : Core → Core) : (s.mapCore c f).tlb = s.tlb := rfl
@[simp] theorem State.mapCore_ptroot (s : State) (c : CoreId) (f : Core → Core) : (s.mapCore c f).ptroot = s.ptroot := rfl
@[simp] theorem State.mapCore_stackMask (s : State) (c : CoreId) (f : Core → Core) : (s.mapCore c f).stackMask = s.stackMask := rfl
@[simp] theorem State.mapCore_unitsOut (s : State) (c : CoreId) (f : Core → Core) : (s.mapCore c f).unitsOut = s.unitsOut := rfl
@[simp] theorem State.mapCore_outAtReset (s : State) (c : CoreId) (f : Core → Core) : (s.mapCore c f).outAtReset = s.outAtReset := rfl
@[simp] theorem State.mapCore_corrected (s : State) (c : CoreId) (f : Core → Core) : (s.mapCore c f).corrected = s.corrected := rfl
@[simp] theorem State.mapCore_isM (s : State) (c : CoreId) (f : Core → Core) : (s.mapCore c f).isM = s.isM := rfl
@[simp] theorem State.mapCore_moduleNo (s : State) (c : CoreId) (f : Core → Core) : (s.mapCore c f).moduleNo = s.moduleNo := rfl
@[simp] theorem State.mapCore_peers (s : State) (c : CoreId) (f : Core → Core) : (s.mapCore c f).peers = s.peers := rfl
@[simp] theorem State.mapCore_boot (s : State) (c : CoreId) (f : Core → Core) : (s.mapCore c f).boot = s.boot := rfl
@[simp] theorem State.mapCore_recording (s : State) (c : CoreId) (f : Core → Core) : (s.mapCore c f).recording = s.recording := rfl
@[simp] theorem State.mapCore_image (s : State) (c : CoreId) (f : Core → Core) : (s.mapCore c f).image = s.image := rfl
@[simp] theorem State.mapCore_reports (s : State) (c : CoreId) (f : Core → Core) : (s.mapCore c f).reports = s.reports := rfl
@[simp] theorem State.mapCore_hostReads (s : State) (c : CoreId) (f : Core → Core) : (s.mapCore c f).hostReads = s.hostReads := rfl
@[simp] theorem State.mapCore_replay (s : State) (c : CoreId) (f : Core → Core) : (s.mapCore c f).replay = s.replay := rfl
@[simp] theorem State.mapCore_host (s : State) (c : CoreId) (f : Core → Core) : (s.mapCore c f).host = s.host := rfl
@[simp] theorem State.mapCore_outsiders (s : State) (c : CoreId) (f : Core → Core) : (s.mapCore c f).outsiders = s.outsiders := rfl
@[simp] theorem State.mapCore_history (s : State) (c : CoreId) (f : Core → Core) : (s.mapCore c f).history = s.history := rfl
@[simp] theorem State.mapCore_carried (s : State) (c : CoreId) (f : Core → Core) : (s.mapCore c f).carried = s.carried := rfl
@[simp] theorem State.mapCore_fences (s : State) (c : CoreId) (f : Core → Core) : (s.mapCore c f).fences = s.fences := rfl
@[simp] theorem State.mapCore_fenced (s : State) (c : CoreId) (f : Core → Core) : (s.mapCore c f).fenced = s.fenced := rfl
@[simp] theorem State.mapCore_relaxed (s : State) (c : CoreId) (f : Core → Core) : (s.mapCore c f).relaxed = s.relaxed := rfl
@[simp] theorem State.mapCore_nextId (s : State) (c : CoreId) (f : Core → Core) : (s.mapCore c f).nextId = s.nextId := rfl
@[simp] theorem State.mapCore_stamp (s : State) (c : CoreId) (f : Core → Core) : (s.mapCore c f).stamp = s.stamp := rfl
@[simp] theorem State.mapCore_free (s : State) (c : CoreId) (f : Core → Core) : (s.mapCore c f).free = s.free := rfl
@[simp] theorem State.mapCore_now (s : State) (c : CoreId) (f : Core → Core) : (s.mapCore c f).now = s.now := rfl
@[simp] theorem State.mapCore_cur (s : State) (c : CoreId) (f : Core → Core) : (s.mapCore c f).cur = s.cur := rfl
@[simp] theorem State.mapCore_packets (s : State) (c : CoreId) (f : Core → Core) : (s.mapCore c f).packets = s.packets := rfl
@[simp] theorem State.mapCore_passes (s : State) (c : CoreId) (f : Core → Core) : (s.mapCore c f).passes = s.passes := rfl
@[simp] theorem State.mapCore_sched (s : State) (c : CoreId) (f : Core → Core) : (s.mapCore c f).sched = s.sched := rfl

@[simp] theorem State.mapCluster_threads (s : State) (c : ClusterId) (f : Cluster → Cluster) : (s.mapCluster c f).threads = s.threads := rfl
@[simp] theorem State.mapCluster_groups (s : State) (c : ClusterId) (f : Cluster → Cluster) : (s.mapCluster c f).groups = s.groups := rfl
@[simp] theorem State.mapCluster_waves (s : State) (c : ClusterId) (f : Cluster → Cluster) : (s.mapCluster c f).waves = s.waves := rfl
@[simp] theorem State.mapCluster_launches (s : State) (c : ClusterId) (f : Cluster → Cluster) : (s.mapCluster c f).launches = s.launches := rfl
@[simp] theorem State.mapCluster_matrixOps (s : State) (c : ClusterId) (f : Cluster → Cluster) : (s.mapCluster c f).matrixOps = s.matrixOps := rfl
@[simp] theorem State.mapCluster_copies (s : State) (c : ClusterId) (f : Cluster → Cluster) : (s.mapCluster c f).copies = s.copies := rfl
@[simp] theorem State.mapCluster_bmvs (s : State) (c : ClusterId) (f : Cluster → Cluster) : (s.mapCluster c f).bmvs = s.bmvs := rfl
@[simp] theorem State.mapCluster_regions (s : State) (c : ClusterId) (f : Cluster → Cluster) : (s.mapCluster c f).regions = s.regions := rfl
@[simp] theorem State.mapCluster_streams (s : State) (c : ClusterId) (f : Cluster → Cluster) : (s.mapCluster c f).streams = s.streams := rfl
@[simp] theorem State.mapCluster_mem (s : State) (c : ClusterId) (f : Cluster → Cluster) : (s.mapCluster c f).mem = s.mem := rfl
@[simp] theorem State.mapCluster_poison (s : State) (c : ClusterId) (f : Cluster → Cluster) : (s.mapCluster c f).poison = s.poison := rfl
@[simp] theorem State.mapCluster_tags (s : State) (c : ClusterId) (f : Cluster → Cluster) : (s.mapCluster c f).tags = s.tags := rfl
@[simp] theorem State.mapCluster_tier (s : State) (c : ClusterId) (f : Cluster → Cluster) : (s.mapCluster c f).tier = s.tier := rfl
@[simp] theorem State.mapCluster_tlb (s : State) (c : ClusterId) (f : Cluster → Cluster) : (s.mapCluster c f).tlb = s.tlb := rfl
@[simp] theorem State.mapCluster_ptroot (s : State) (c : ClusterId) (f : Cluster → Cluster) : (s.mapCluster c f).ptroot = s.ptroot := rfl
@[simp] theorem State.mapCluster_stackMask (s : State) (c : ClusterId) (f : Cluster → Cluster) : (s.mapCluster c f).stackMask = s.stackMask := rfl
@[simp] theorem State.mapCluster_unitsOut (s : State) (c : ClusterId) (f : Cluster → Cluster) : (s.mapCluster c f).unitsOut = s.unitsOut := rfl
@[simp] theorem State.mapCluster_outAtReset (s : State) (c : ClusterId) (f : Cluster → Cluster) : (s.mapCluster c f).outAtReset = s.outAtReset := rfl
@[simp] theorem State.mapCluster_corrected (s : State) (c : ClusterId) (f : Cluster → Cluster) : (s.mapCluster c f).corrected = s.corrected := rfl
@[simp] theorem State.mapCluster_isM (s : State) (c : ClusterId) (f : Cluster → Cluster) : (s.mapCluster c f).isM = s.isM := rfl
@[simp] theorem State.mapCluster_moduleNo (s : State) (c : ClusterId) (f : Cluster → Cluster) : (s.mapCluster c f).moduleNo = s.moduleNo := rfl
@[simp] theorem State.mapCluster_peers (s : State) (c : ClusterId) (f : Cluster → Cluster) : (s.mapCluster c f).peers = s.peers := rfl
@[simp] theorem State.mapCluster_boot (s : State) (c : ClusterId) (f : Cluster → Cluster) : (s.mapCluster c f).boot = s.boot := rfl
@[simp] theorem State.mapCluster_recording (s : State) (c : ClusterId) (f : Cluster → Cluster) : (s.mapCluster c f).recording = s.recording := rfl
@[simp] theorem State.mapCluster_image (s : State) (c : ClusterId) (f : Cluster → Cluster) : (s.mapCluster c f).image = s.image := rfl
@[simp] theorem State.mapCluster_reports (s : State) (c : ClusterId) (f : Cluster → Cluster) : (s.mapCluster c f).reports = s.reports := rfl
@[simp] theorem State.mapCluster_hostReads (s : State) (c : ClusterId) (f : Cluster → Cluster) : (s.mapCluster c f).hostReads = s.hostReads := rfl
@[simp] theorem State.mapCluster_replay (s : State) (c : ClusterId) (f : Cluster → Cluster) : (s.mapCluster c f).replay = s.replay := rfl
@[simp] theorem State.mapCluster_host (s : State) (c : ClusterId) (f : Cluster → Cluster) : (s.mapCluster c f).host = s.host := rfl
@[simp] theorem State.mapCluster_outsiders (s : State) (c : ClusterId) (f : Cluster → Cluster) : (s.mapCluster c f).outsiders = s.outsiders := rfl
@[simp] theorem State.mapCluster_history (s : State) (c : ClusterId) (f : Cluster → Cluster) : (s.mapCluster c f).history = s.history := rfl
@[simp] theorem State.mapCluster_carried (s : State) (c : ClusterId) (f : Cluster → Cluster) : (s.mapCluster c f).carried = s.carried := rfl
@[simp] theorem State.mapCluster_fences (s : State) (c : ClusterId) (f : Cluster → Cluster) : (s.mapCluster c f).fences = s.fences := rfl
@[simp] theorem State.mapCluster_fenced (s : State) (c : ClusterId) (f : Cluster → Cluster) : (s.mapCluster c f).fenced = s.fenced := rfl
@[simp] theorem State.mapCluster_relaxed (s : State) (c : ClusterId) (f : Cluster → Cluster) : (s.mapCluster c f).relaxed = s.relaxed := rfl
@[simp] theorem State.mapCluster_nextId (s : State) (c : ClusterId) (f : Cluster → Cluster) : (s.mapCluster c f).nextId = s.nextId := rfl
@[simp] theorem State.mapCluster_stamp (s : State) (c : ClusterId) (f : Cluster → Cluster) : (s.mapCluster c f).stamp = s.stamp := rfl
@[simp] theorem State.mapCluster_free (s : State) (c : ClusterId) (f : Cluster → Cluster) : (s.mapCluster c f).free = s.free := rfl
@[simp] theorem State.mapCluster_now (s : State) (c : ClusterId) (f : Cluster → Cluster) : (s.mapCluster c f).now = s.now := rfl
@[simp] theorem State.mapCluster_cur (s : State) (c : ClusterId) (f : Cluster → Cluster) : (s.mapCluster c f).cur = s.cur := rfl
@[simp] theorem State.mapCluster_packets (s : State) (c : ClusterId) (f : Cluster → Cluster) : (s.mapCluster c f).packets = s.packets := rfl
@[simp] theorem State.mapCluster_passes (s : State) (c : ClusterId) (f : Cluster → Cluster) : (s.mapCluster c f).passes = s.passes := rfl
@[simp] theorem State.mapCluster_sched (s : State) (c : ClusterId) (f : Cluster → Cluster) : (s.mapCluster c f).sched = s.sched := rfl

@[simp] theorem State.countError_threads (s : State) (d : Nat) : (s.countError d).threads = s.threads := rfl
@[simp] theorem State.countError_groups (s : State) (d : Nat) : (s.countError d).groups = s.groups := rfl
@[simp] theorem State.countError_waves (s : State) (d : Nat) : (s.countError d).waves = s.waves := rfl
@[simp] theorem State.countError_launches (s : State) (d : Nat) : (s.countError d).launches = s.launches := rfl
@[simp] theorem State.countError_matrixOps (s : State) (d : Nat) : (s.countError d).matrixOps = s.matrixOps := rfl
@[simp] theorem State.countError_copies (s : State) (d : Nat) : (s.countError d).copies = s.copies := rfl
@[simp] theorem State.countError_bmvs (s : State) (d : Nat) : (s.countError d).bmvs = s.bmvs := rfl
@[simp] theorem State.countError_regions (s : State) (d : Nat) : (s.countError d).regions = s.regions := rfl
@[simp] theorem State.countError_streams (s : State) (d : Nat) : (s.countError d).streams = s.streams := rfl
@[simp] theorem State.countError_mem (s : State) (d : Nat) : (s.countError d).mem = s.mem := rfl
@[simp] theorem State.countError_poison (s : State) (d : Nat) : (s.countError d).poison = s.poison := rfl
@[simp] theorem State.countError_tags (s : State) (d : Nat) : (s.countError d).tags = s.tags := rfl
@[simp] theorem State.countError_tier (s : State) (d : Nat) : (s.countError d).tier = s.tier := rfl
@[simp] theorem State.countError_tlb (s : State) (d : Nat) : (s.countError d).tlb = s.tlb := rfl
@[simp] theorem State.countError_ptroot (s : State) (d : Nat) : (s.countError d).ptroot = s.ptroot := rfl
@[simp] theorem State.countError_stackMask (s : State) (d : Nat) : (s.countError d).stackMask = s.stackMask := rfl
@[simp] theorem State.countError_unitsOut (s : State) (d : Nat) : (s.countError d).unitsOut = s.unitsOut := rfl
@[simp] theorem State.countError_outAtReset (s : State) (d : Nat) : (s.countError d).outAtReset = s.outAtReset := rfl
@[simp] theorem State.countError_corrected (s : State) (d : Nat) : (s.countError d).corrected = s.corrected := rfl
@[simp] theorem State.countError_isM (s : State) (d : Nat) : (s.countError d).isM = s.isM := rfl
@[simp] theorem State.countError_moduleNo (s : State) (d : Nat) : (s.countError d).moduleNo = s.moduleNo := rfl
@[simp] theorem State.countError_peers (s : State) (d : Nat) : (s.countError d).peers = s.peers := rfl
@[simp] theorem State.countError_boot (s : State) (d : Nat) : (s.countError d).boot = s.boot := rfl
@[simp] theorem State.countError_recording (s : State) (d : Nat) : (s.countError d).recording = s.recording := rfl
@[simp] theorem State.countError_image (s : State) (d : Nat) : (s.countError d).image = s.image := rfl
@[simp] theorem State.countError_reports (s : State) (d : Nat) : (s.countError d).reports = s.reports := rfl
@[simp] theorem State.countError_hostReads (s : State) (d : Nat) : (s.countError d).hostReads = s.hostReads := rfl
@[simp] theorem State.countError_replay (s : State) (d : Nat) : (s.countError d).replay = s.replay := rfl
@[simp] theorem State.countError_host (s : State) (d : Nat) : (s.countError d).host = s.host := rfl
@[simp] theorem State.countError_outsiders (s : State) (d : Nat) : (s.countError d).outsiders = s.outsiders := rfl
@[simp] theorem State.countError_history (s : State) (d : Nat) : (s.countError d).history = s.history := rfl
@[simp] theorem State.countError_carried (s : State) (d : Nat) : (s.countError d).carried = s.carried := rfl
@[simp] theorem State.countError_fences (s : State) (d : Nat) : (s.countError d).fences = s.fences := rfl
@[simp] theorem State.countError_fenced (s : State) (d : Nat) : (s.countError d).fenced = s.fenced := rfl
@[simp] theorem State.countError_relaxed (s : State) (d : Nat) : (s.countError d).relaxed = s.relaxed := rfl
@[simp] theorem State.countError_nextId (s : State) (d : Nat) : (s.countError d).nextId = s.nextId := rfl
@[simp] theorem State.countError_stamp (s : State) (d : Nat) : (s.countError d).stamp = s.stamp := rfl
@[simp] theorem State.countError_free (s : State) (d : Nat) : (s.countError d).free = s.free := rfl
@[simp] theorem State.countError_now (s : State) (d : Nat) : (s.countError d).now = s.now := rfl
@[simp] theorem State.countError_cur (s : State) (d : Nat) : (s.countError d).cur = s.cur := rfl
@[simp] theorem State.countError_packets (s : State) (d : Nat) : (s.countError d).packets = s.packets := rfl
@[simp] theorem State.countError_passes (s : State) (d : Nat) : (s.countError d).passes = s.passes := rfl
@[simp] theorem State.countError_sched (s : State) (d : Nat) : (s.countError d).sched = s.sched := rfl

@[simp] theorem State.post_threads (s : State) (d : Nat) (r : FaultRecord) (b : Poster) : (s.post d r b).threads = s.threads := rfl
@[simp] theorem State.post_groups (s : State) (d : Nat) (r : FaultRecord) (b : Poster) : (s.post d r b).groups = s.groups := rfl
@[simp] theorem State.post_waves (s : State) (d : Nat) (r : FaultRecord) (b : Poster) : (s.post d r b).waves = s.waves := rfl
@[simp] theorem State.post_launches (s : State) (d : Nat) (r : FaultRecord) (b : Poster) : (s.post d r b).launches = s.launches := rfl
@[simp] theorem State.post_matrixOps (s : State) (d : Nat) (r : FaultRecord) (b : Poster) : (s.post d r b).matrixOps = s.matrixOps := rfl
@[simp] theorem State.post_copies (s : State) (d : Nat) (r : FaultRecord) (b : Poster) : (s.post d r b).copies = s.copies := rfl
@[simp] theorem State.post_bmvs (s : State) (d : Nat) (r : FaultRecord) (b : Poster) : (s.post d r b).bmvs = s.bmvs := rfl
@[simp] theorem State.post_regions (s : State) (d : Nat) (r : FaultRecord) (b : Poster) : (s.post d r b).regions = s.regions := rfl
@[simp] theorem State.post_streams (s : State) (d : Nat) (r : FaultRecord) (b : Poster) : (s.post d r b).streams = s.streams := rfl
@[simp] theorem State.post_mem (s : State) (d : Nat) (r : FaultRecord) (b : Poster) : (s.post d r b).mem = s.mem := rfl
@[simp] theorem State.post_poison (s : State) (d : Nat) (r : FaultRecord) (b : Poster) : (s.post d r b).poison = s.poison := rfl
@[simp] theorem State.post_tags (s : State) (d : Nat) (r : FaultRecord) (b : Poster) : (s.post d r b).tags = s.tags := rfl
@[simp] theorem State.post_tier (s : State) (d : Nat) (r : FaultRecord) (b : Poster) : (s.post d r b).tier = s.tier := rfl
@[simp] theorem State.post_tlb (s : State) (d : Nat) (r : FaultRecord) (b : Poster) : (s.post d r b).tlb = s.tlb := rfl
@[simp] theorem State.post_ptroot (s : State) (d : Nat) (r : FaultRecord) (b : Poster) : (s.post d r b).ptroot = s.ptroot := rfl
@[simp] theorem State.post_stackMask (s : State) (d : Nat) (r : FaultRecord) (b : Poster) : (s.post d r b).stackMask = s.stackMask := rfl
@[simp] theorem State.post_unitsOut (s : State) (d : Nat) (r : FaultRecord) (b : Poster) : (s.post d r b).unitsOut = s.unitsOut := rfl
@[simp] theorem State.post_outAtReset (s : State) (d : Nat) (r : FaultRecord) (b : Poster) : (s.post d r b).outAtReset = s.outAtReset := rfl
@[simp] theorem State.post_corrected (s : State) (d : Nat) (r : FaultRecord) (b : Poster) : (s.post d r b).corrected = s.corrected := rfl
@[simp] theorem State.post_isM (s : State) (d : Nat) (r : FaultRecord) (b : Poster) : (s.post d r b).isM = s.isM := rfl
@[simp] theorem State.post_moduleNo (s : State) (d : Nat) (r : FaultRecord) (b : Poster) : (s.post d r b).moduleNo = s.moduleNo := rfl
@[simp] theorem State.post_peers (s : State) (d : Nat) (r : FaultRecord) (b : Poster) : (s.post d r b).peers = s.peers := rfl
@[simp] theorem State.post_boot (s : State) (d : Nat) (r : FaultRecord) (b : Poster) : (s.post d r b).boot = s.boot := rfl
@[simp] theorem State.post_recording (s : State) (d : Nat) (r : FaultRecord) (b : Poster) : (s.post d r b).recording = s.recording := rfl
@[simp] theorem State.post_image (s : State) (d : Nat) (r : FaultRecord) (b : Poster) : (s.post d r b).image = s.image := rfl
@[simp] theorem State.post_reports (s : State) (d : Nat) (r : FaultRecord) (b : Poster) : (s.post d r b).reports = s.reports := rfl
@[simp] theorem State.post_hostReads (s : State) (d : Nat) (r : FaultRecord) (b : Poster) : (s.post d r b).hostReads = s.hostReads := rfl
@[simp] theorem State.post_replay (s : State) (d : Nat) (r : FaultRecord) (b : Poster) : (s.post d r b).replay = s.replay := rfl
@[simp] theorem State.post_host (s : State) (d : Nat) (r : FaultRecord) (b : Poster) : (s.post d r b).host = s.host := rfl
@[simp] theorem State.post_outsiders (s : State) (d : Nat) (r : FaultRecord) (b : Poster) : (s.post d r b).outsiders = s.outsiders := rfl
@[simp] theorem State.post_history (s : State) (d : Nat) (r : FaultRecord) (b : Poster) : (s.post d r b).history = s.history := rfl
@[simp] theorem State.post_carried (s : State) (d : Nat) (r : FaultRecord) (b : Poster) : (s.post d r b).carried = s.carried := rfl
@[simp] theorem State.post_fences (s : State) (d : Nat) (r : FaultRecord) (b : Poster) : (s.post d r b).fences = s.fences := rfl
@[simp] theorem State.post_fenced (s : State) (d : Nat) (r : FaultRecord) (b : Poster) : (s.post d r b).fenced = s.fenced := rfl
@[simp] theorem State.post_relaxed (s : State) (d : Nat) (r : FaultRecord) (b : Poster) : (s.post d r b).relaxed = s.relaxed := rfl
@[simp] theorem State.post_nextId (s : State) (d : Nat) (r : FaultRecord) (b : Poster) : (s.post d r b).nextId = s.nextId := rfl
@[simp] theorem State.post_stamp (s : State) (d : Nat) (r : FaultRecord) (b : Poster) : (s.post d r b).stamp = s.stamp := rfl
@[simp] theorem State.post_free (s : State) (d : Nat) (r : FaultRecord) (b : Poster) : (s.post d r b).free = s.free := rfl
@[simp] theorem State.post_now (s : State) (d : Nat) (r : FaultRecord) (b : Poster) : (s.post d r b).now = s.now := rfl
@[simp] theorem State.post_cur (s : State) (d : Nat) (r : FaultRecord) (b : Poster) : (s.post d r b).cur = s.cur := rfl
@[simp] theorem State.post_packets (s : State) (d : Nat) (r : FaultRecord) (b : Poster) : (s.post d r b).packets = s.packets := rfl
@[simp] theorem State.post_passes (s : State) (d : Nat) (r : FaultRecord) (b : Poster) : (s.post d r b).passes = s.passes := rfl
@[simp] theorem State.post_sched (s : State) (d : Nat) (r : FaultRecord) (b : Poster) : (s.post d r b).sched = s.sched := rfl

@[simp] theorem State.mapCopy_threads (s : State) (op : Nat) (f : CopyOp → CopyOp) : (s.mapCopy op f).threads = s.threads := rfl
@[simp] theorem State.mapCopy_groups (s : State) (op : Nat) (f : CopyOp → CopyOp) : (s.mapCopy op f).groups = s.groups := rfl
@[simp] theorem State.mapCopy_waves (s : State) (op : Nat) (f : CopyOp → CopyOp) : (s.mapCopy op f).waves = s.waves := rfl
@[simp] theorem State.mapCopy_launches (s : State) (op : Nat) (f : CopyOp → CopyOp) : (s.mapCopy op f).launches = s.launches := rfl
@[simp] theorem State.mapCopy_matrixOps (s : State) (op : Nat) (f : CopyOp → CopyOp) : (s.mapCopy op f).matrixOps = s.matrixOps := rfl
@[simp] theorem State.mapCopy_bmvs (s : State) (op : Nat) (f : CopyOp → CopyOp) : (s.mapCopy op f).bmvs = s.bmvs := rfl
@[simp] theorem State.mapCopy_regions (s : State) (op : Nat) (f : CopyOp → CopyOp) : (s.mapCopy op f).regions = s.regions := rfl
@[simp] theorem State.mapCopy_dies (s : State) (op : Nat) (f : CopyOp → CopyOp) : (s.mapCopy op f).dies = s.dies := rfl
@[simp] theorem State.mapCopy_streams (s : State) (op : Nat) (f : CopyOp → CopyOp) : (s.mapCopy op f).streams = s.streams := rfl
@[simp] theorem State.mapCopy_mem (s : State) (op : Nat) (f : CopyOp → CopyOp) : (s.mapCopy op f).mem = s.mem := rfl
@[simp] theorem State.mapCopy_poison (s : State) (op : Nat) (f : CopyOp → CopyOp) : (s.mapCopy op f).poison = s.poison := rfl
@[simp] theorem State.mapCopy_tags (s : State) (op : Nat) (f : CopyOp → CopyOp) : (s.mapCopy op f).tags = s.tags := rfl
@[simp] theorem State.mapCopy_tier (s : State) (op : Nat) (f : CopyOp → CopyOp) : (s.mapCopy op f).tier = s.tier := rfl
@[simp] theorem State.mapCopy_tlb (s : State) (op : Nat) (f : CopyOp → CopyOp) : (s.mapCopy op f).tlb = s.tlb := rfl
@[simp] theorem State.mapCopy_ptroot (s : State) (op : Nat) (f : CopyOp → CopyOp) : (s.mapCopy op f).ptroot = s.ptroot := rfl
@[simp] theorem State.mapCopy_stackMask (s : State) (op : Nat) (f : CopyOp → CopyOp) : (s.mapCopy op f).stackMask = s.stackMask := rfl
@[simp] theorem State.mapCopy_unitsOut (s : State) (op : Nat) (f : CopyOp → CopyOp) : (s.mapCopy op f).unitsOut = s.unitsOut := rfl
@[simp] theorem State.mapCopy_outAtReset (s : State) (op : Nat) (f : CopyOp → CopyOp) : (s.mapCopy op f).outAtReset = s.outAtReset := rfl
@[simp] theorem State.mapCopy_corrected (s : State) (op : Nat) (f : CopyOp → CopyOp) : (s.mapCopy op f).corrected = s.corrected := rfl
@[simp] theorem State.mapCopy_isM (s : State) (op : Nat) (f : CopyOp → CopyOp) : (s.mapCopy op f).isM = s.isM := rfl
@[simp] theorem State.mapCopy_moduleNo (s : State) (op : Nat) (f : CopyOp → CopyOp) : (s.mapCopy op f).moduleNo = s.moduleNo := rfl
@[simp] theorem State.mapCopy_peers (s : State) (op : Nat) (f : CopyOp → CopyOp) : (s.mapCopy op f).peers = s.peers := rfl
@[simp] theorem State.mapCopy_boot (s : State) (op : Nat) (f : CopyOp → CopyOp) : (s.mapCopy op f).boot = s.boot := rfl
@[simp] theorem State.mapCopy_recording (s : State) (op : Nat) (f : CopyOp → CopyOp) : (s.mapCopy op f).recording = s.recording := rfl
@[simp] theorem State.mapCopy_image (s : State) (op : Nat) (f : CopyOp → CopyOp) : (s.mapCopy op f).image = s.image := rfl
@[simp] theorem State.mapCopy_reports (s : State) (op : Nat) (f : CopyOp → CopyOp) : (s.mapCopy op f).reports = s.reports := rfl
@[simp] theorem State.mapCopy_hostReads (s : State) (op : Nat) (f : CopyOp → CopyOp) : (s.mapCopy op f).hostReads = s.hostReads := rfl
@[simp] theorem State.mapCopy_replay (s : State) (op : Nat) (f : CopyOp → CopyOp) : (s.mapCopy op f).replay = s.replay := rfl
@[simp] theorem State.mapCopy_host (s : State) (op : Nat) (f : CopyOp → CopyOp) : (s.mapCopy op f).host = s.host := rfl
@[simp] theorem State.mapCopy_outsiders (s : State) (op : Nat) (f : CopyOp → CopyOp) : (s.mapCopy op f).outsiders = s.outsiders := rfl
@[simp] theorem State.mapCopy_history (s : State) (op : Nat) (f : CopyOp → CopyOp) : (s.mapCopy op f).history = s.history := rfl
@[simp] theorem State.mapCopy_carried (s : State) (op : Nat) (f : CopyOp → CopyOp) : (s.mapCopy op f).carried = s.carried := rfl
@[simp] theorem State.mapCopy_fences (s : State) (op : Nat) (f : CopyOp → CopyOp) : (s.mapCopy op f).fences = s.fences := rfl
@[simp] theorem State.mapCopy_fenced (s : State) (op : Nat) (f : CopyOp → CopyOp) : (s.mapCopy op f).fenced = s.fenced := rfl
@[simp] theorem State.mapCopy_relaxed (s : State) (op : Nat) (f : CopyOp → CopyOp) : (s.mapCopy op f).relaxed = s.relaxed := rfl
@[simp] theorem State.mapCopy_nextId (s : State) (op : Nat) (f : CopyOp → CopyOp) : (s.mapCopy op f).nextId = s.nextId := rfl
@[simp] theorem State.mapCopy_stamp (s : State) (op : Nat) (f : CopyOp → CopyOp) : (s.mapCopy op f).stamp = s.stamp := rfl
@[simp] theorem State.mapCopy_free (s : State) (op : Nat) (f : CopyOp → CopyOp) : (s.mapCopy op f).free = s.free := rfl
@[simp] theorem State.mapCopy_now (s : State) (op : Nat) (f : CopyOp → CopyOp) : (s.mapCopy op f).now = s.now := rfl
@[simp] theorem State.mapCopy_cur (s : State) (op : Nat) (f : CopyOp → CopyOp) : (s.mapCopy op f).cur = s.cur := rfl
@[simp] theorem State.mapCopy_packets (s : State) (op : Nat) (f : CopyOp → CopyOp) : (s.mapCopy op f).packets = s.packets := rfl
@[simp] theorem State.mapCopy_passes (s : State) (op : Nat) (f : CopyOp → CopyOp) : (s.mapCopy op f).passes = s.passes := rfl
@[simp] theorem State.mapCopy_sched (s : State) (op : Nat) (f : CopyOp → CopyOp) : (s.mapCopy op f).sched = s.sched := rfl

@[simp] theorem State.mapBmv_threads (s : State) (op : Nat) (f : BmvOp → BmvOp) : (s.mapBmv op f).threads = s.threads := rfl
@[simp] theorem State.mapBmv_groups (s : State) (op : Nat) (f : BmvOp → BmvOp) : (s.mapBmv op f).groups = s.groups := rfl
@[simp] theorem State.mapBmv_waves (s : State) (op : Nat) (f : BmvOp → BmvOp) : (s.mapBmv op f).waves = s.waves := rfl
@[simp] theorem State.mapBmv_launches (s : State) (op : Nat) (f : BmvOp → BmvOp) : (s.mapBmv op f).launches = s.launches := rfl
@[simp] theorem State.mapBmv_matrixOps (s : State) (op : Nat) (f : BmvOp → BmvOp) : (s.mapBmv op f).matrixOps = s.matrixOps := rfl
@[simp] theorem State.mapBmv_copies (s : State) (op : Nat) (f : BmvOp → BmvOp) : (s.mapBmv op f).copies = s.copies := rfl
@[simp] theorem State.mapBmv_regions (s : State) (op : Nat) (f : BmvOp → BmvOp) : (s.mapBmv op f).regions = s.regions := rfl
@[simp] theorem State.mapBmv_dies (s : State) (op : Nat) (f : BmvOp → BmvOp) : (s.mapBmv op f).dies = s.dies := rfl
@[simp] theorem State.mapBmv_streams (s : State) (op : Nat) (f : BmvOp → BmvOp) : (s.mapBmv op f).streams = s.streams := rfl
@[simp] theorem State.mapBmv_mem (s : State) (op : Nat) (f : BmvOp → BmvOp) : (s.mapBmv op f).mem = s.mem := rfl
@[simp] theorem State.mapBmv_poison (s : State) (op : Nat) (f : BmvOp → BmvOp) : (s.mapBmv op f).poison = s.poison := rfl
@[simp] theorem State.mapBmv_tags (s : State) (op : Nat) (f : BmvOp → BmvOp) : (s.mapBmv op f).tags = s.tags := rfl
@[simp] theorem State.mapBmv_tier (s : State) (op : Nat) (f : BmvOp → BmvOp) : (s.mapBmv op f).tier = s.tier := rfl
@[simp] theorem State.mapBmv_tlb (s : State) (op : Nat) (f : BmvOp → BmvOp) : (s.mapBmv op f).tlb = s.tlb := rfl
@[simp] theorem State.mapBmv_ptroot (s : State) (op : Nat) (f : BmvOp → BmvOp) : (s.mapBmv op f).ptroot = s.ptroot := rfl
@[simp] theorem State.mapBmv_stackMask (s : State) (op : Nat) (f : BmvOp → BmvOp) : (s.mapBmv op f).stackMask = s.stackMask := rfl
@[simp] theorem State.mapBmv_unitsOut (s : State) (op : Nat) (f : BmvOp → BmvOp) : (s.mapBmv op f).unitsOut = s.unitsOut := rfl
@[simp] theorem State.mapBmv_outAtReset (s : State) (op : Nat) (f : BmvOp → BmvOp) : (s.mapBmv op f).outAtReset = s.outAtReset := rfl
@[simp] theorem State.mapBmv_corrected (s : State) (op : Nat) (f : BmvOp → BmvOp) : (s.mapBmv op f).corrected = s.corrected := rfl
@[simp] theorem State.mapBmv_isM (s : State) (op : Nat) (f : BmvOp → BmvOp) : (s.mapBmv op f).isM = s.isM := rfl
@[simp] theorem State.mapBmv_moduleNo (s : State) (op : Nat) (f : BmvOp → BmvOp) : (s.mapBmv op f).moduleNo = s.moduleNo := rfl
@[simp] theorem State.mapBmv_peers (s : State) (op : Nat) (f : BmvOp → BmvOp) : (s.mapBmv op f).peers = s.peers := rfl
@[simp] theorem State.mapBmv_boot (s : State) (op : Nat) (f : BmvOp → BmvOp) : (s.mapBmv op f).boot = s.boot := rfl
@[simp] theorem State.mapBmv_recording (s : State) (op : Nat) (f : BmvOp → BmvOp) : (s.mapBmv op f).recording = s.recording := rfl
@[simp] theorem State.mapBmv_image (s : State) (op : Nat) (f : BmvOp → BmvOp) : (s.mapBmv op f).image = s.image := rfl
@[simp] theorem State.mapBmv_reports (s : State) (op : Nat) (f : BmvOp → BmvOp) : (s.mapBmv op f).reports = s.reports := rfl
@[simp] theorem State.mapBmv_hostReads (s : State) (op : Nat) (f : BmvOp → BmvOp) : (s.mapBmv op f).hostReads = s.hostReads := rfl
@[simp] theorem State.mapBmv_replay (s : State) (op : Nat) (f : BmvOp → BmvOp) : (s.mapBmv op f).replay = s.replay := rfl
@[simp] theorem State.mapBmv_host (s : State) (op : Nat) (f : BmvOp → BmvOp) : (s.mapBmv op f).host = s.host := rfl
@[simp] theorem State.mapBmv_outsiders (s : State) (op : Nat) (f : BmvOp → BmvOp) : (s.mapBmv op f).outsiders = s.outsiders := rfl
@[simp] theorem State.mapBmv_history (s : State) (op : Nat) (f : BmvOp → BmvOp) : (s.mapBmv op f).history = s.history := rfl
@[simp] theorem State.mapBmv_carried (s : State) (op : Nat) (f : BmvOp → BmvOp) : (s.mapBmv op f).carried = s.carried := rfl
@[simp] theorem State.mapBmv_fences (s : State) (op : Nat) (f : BmvOp → BmvOp) : (s.mapBmv op f).fences = s.fences := rfl
@[simp] theorem State.mapBmv_fenced (s : State) (op : Nat) (f : BmvOp → BmvOp) : (s.mapBmv op f).fenced = s.fenced := rfl
@[simp] theorem State.mapBmv_relaxed (s : State) (op : Nat) (f : BmvOp → BmvOp) : (s.mapBmv op f).relaxed = s.relaxed := rfl
@[simp] theorem State.mapBmv_nextId (s : State) (op : Nat) (f : BmvOp → BmvOp) : (s.mapBmv op f).nextId = s.nextId := rfl
@[simp] theorem State.mapBmv_stamp (s : State) (op : Nat) (f : BmvOp → BmvOp) : (s.mapBmv op f).stamp = s.stamp := rfl
@[simp] theorem State.mapBmv_free (s : State) (op : Nat) (f : BmvOp → BmvOp) : (s.mapBmv op f).free = s.free := rfl
@[simp] theorem State.mapBmv_now (s : State) (op : Nat) (f : BmvOp → BmvOp) : (s.mapBmv op f).now = s.now := rfl
@[simp] theorem State.mapBmv_cur (s : State) (op : Nat) (f : BmvOp → BmvOp) : (s.mapBmv op f).cur = s.cur := rfl
@[simp] theorem State.mapBmv_packets (s : State) (op : Nat) (f : BmvOp → BmvOp) : (s.mapBmv op f).packets = s.packets := rfl
@[simp] theorem State.mapBmv_passes (s : State) (op : Nat) (f : BmvOp → BmvOp) : (s.mapBmv op f).passes = s.passes := rfl
@[simp] theorem State.mapBmv_sched (s : State) (op : Nat) (f : BmvOp → BmvOp) : (s.mapBmv op f).sched = s.sched := rfl

@[simp] theorem State.mapRegion_threads (s : State) (base : Nat) (f : Region → Region) : (s.mapRegion base f).threads = s.threads := rfl
@[simp] theorem State.mapRegion_groups (s : State) (base : Nat) (f : Region → Region) : (s.mapRegion base f).groups = s.groups := rfl
@[simp] theorem State.mapRegion_waves (s : State) (base : Nat) (f : Region → Region) : (s.mapRegion base f).waves = s.waves := rfl
@[simp] theorem State.mapRegion_launches (s : State) (base : Nat) (f : Region → Region) : (s.mapRegion base f).launches = s.launches := rfl
@[simp] theorem State.mapRegion_matrixOps (s : State) (base : Nat) (f : Region → Region) : (s.mapRegion base f).matrixOps = s.matrixOps := rfl
@[simp] theorem State.mapRegion_copies (s : State) (base : Nat) (f : Region → Region) : (s.mapRegion base f).copies = s.copies := rfl
@[simp] theorem State.mapRegion_bmvs (s : State) (base : Nat) (f : Region → Region) : (s.mapRegion base f).bmvs = s.bmvs := rfl
@[simp] theorem State.mapRegion_dies (s : State) (base : Nat) (f : Region → Region) : (s.mapRegion base f).dies = s.dies := rfl
@[simp] theorem State.mapRegion_streams (s : State) (base : Nat) (f : Region → Region) : (s.mapRegion base f).streams = s.streams := rfl
@[simp] theorem State.mapRegion_mem (s : State) (base : Nat) (f : Region → Region) : (s.mapRegion base f).mem = s.mem := rfl
@[simp] theorem State.mapRegion_poison (s : State) (base : Nat) (f : Region → Region) : (s.mapRegion base f).poison = s.poison := rfl
@[simp] theorem State.mapRegion_tags (s : State) (base : Nat) (f : Region → Region) : (s.mapRegion base f).tags = s.tags := rfl
@[simp] theorem State.mapRegion_tier (s : State) (base : Nat) (f : Region → Region) : (s.mapRegion base f).tier = s.tier := rfl
@[simp] theorem State.mapRegion_tlb (s : State) (base : Nat) (f : Region → Region) : (s.mapRegion base f).tlb = s.tlb := rfl
@[simp] theorem State.mapRegion_ptroot (s : State) (base : Nat) (f : Region → Region) : (s.mapRegion base f).ptroot = s.ptroot := rfl
@[simp] theorem State.mapRegion_stackMask (s : State) (base : Nat) (f : Region → Region) : (s.mapRegion base f).stackMask = s.stackMask := rfl
@[simp] theorem State.mapRegion_unitsOut (s : State) (base : Nat) (f : Region → Region) : (s.mapRegion base f).unitsOut = s.unitsOut := rfl
@[simp] theorem State.mapRegion_outAtReset (s : State) (base : Nat) (f : Region → Region) : (s.mapRegion base f).outAtReset = s.outAtReset := rfl
@[simp] theorem State.mapRegion_corrected (s : State) (base : Nat) (f : Region → Region) : (s.mapRegion base f).corrected = s.corrected := rfl
@[simp] theorem State.mapRegion_isM (s : State) (base : Nat) (f : Region → Region) : (s.mapRegion base f).isM = s.isM := rfl
@[simp] theorem State.mapRegion_moduleNo (s : State) (base : Nat) (f : Region → Region) : (s.mapRegion base f).moduleNo = s.moduleNo := rfl
@[simp] theorem State.mapRegion_peers (s : State) (base : Nat) (f : Region → Region) : (s.mapRegion base f).peers = s.peers := rfl
@[simp] theorem State.mapRegion_boot (s : State) (base : Nat) (f : Region → Region) : (s.mapRegion base f).boot = s.boot := rfl
@[simp] theorem State.mapRegion_recording (s : State) (base : Nat) (f : Region → Region) : (s.mapRegion base f).recording = s.recording := rfl
@[simp] theorem State.mapRegion_image (s : State) (base : Nat) (f : Region → Region) : (s.mapRegion base f).image = s.image := rfl
@[simp] theorem State.mapRegion_reports (s : State) (base : Nat) (f : Region → Region) : (s.mapRegion base f).reports = s.reports := rfl
@[simp] theorem State.mapRegion_hostReads (s : State) (base : Nat) (f : Region → Region) : (s.mapRegion base f).hostReads = s.hostReads := rfl
@[simp] theorem State.mapRegion_replay (s : State) (base : Nat) (f : Region → Region) : (s.mapRegion base f).replay = s.replay := rfl
@[simp] theorem State.mapRegion_host (s : State) (base : Nat) (f : Region → Region) : (s.mapRegion base f).host = s.host := rfl
@[simp] theorem State.mapRegion_outsiders (s : State) (base : Nat) (f : Region → Region) : (s.mapRegion base f).outsiders = s.outsiders := rfl
@[simp] theorem State.mapRegion_history (s : State) (base : Nat) (f : Region → Region) : (s.mapRegion base f).history = s.history := rfl
@[simp] theorem State.mapRegion_carried (s : State) (base : Nat) (f : Region → Region) : (s.mapRegion base f).carried = s.carried := rfl
@[simp] theorem State.mapRegion_fences (s : State) (base : Nat) (f : Region → Region) : (s.mapRegion base f).fences = s.fences := rfl
@[simp] theorem State.mapRegion_fenced (s : State) (base : Nat) (f : Region → Region) : (s.mapRegion base f).fenced = s.fenced := rfl
@[simp] theorem State.mapRegion_relaxed (s : State) (base : Nat) (f : Region → Region) : (s.mapRegion base f).relaxed = s.relaxed := rfl
@[simp] theorem State.mapRegion_nextId (s : State) (base : Nat) (f : Region → Region) : (s.mapRegion base f).nextId = s.nextId := rfl
@[simp] theorem State.mapRegion_stamp (s : State) (base : Nat) (f : Region → Region) : (s.mapRegion base f).stamp = s.stamp := rfl
@[simp] theorem State.mapRegion_free (s : State) (base : Nat) (f : Region → Region) : (s.mapRegion base f).free = s.free := rfl
@[simp] theorem State.mapRegion_now (s : State) (base : Nat) (f : Region → Region) : (s.mapRegion base f).now = s.now := rfl
@[simp] theorem State.mapRegion_cur (s : State) (base : Nat) (f : Region → Region) : (s.mapRegion base f).cur = s.cur := rfl
@[simp] theorem State.mapRegion_packets (s : State) (base : Nat) (f : Region → Region) : (s.mapRegion base f).packets = s.packets := rfl
@[simp] theorem State.mapRegion_passes (s : State) (base : Nat) (f : Region → Region) : (s.mapRegion base f).passes = s.passes := rfl
@[simp] theorem State.mapRegion_sched (s : State) (base : Nat) (f : Region → Region) : (s.mapRegion base f).sched = s.sched := rfl

@[simp] theorem State.setStream_threads (s : State) (x : Stream) : (s.setStream x).threads = s.threads := rfl
@[simp] theorem State.setStream_groups (s : State) (x : Stream) : (s.setStream x).groups = s.groups := rfl
@[simp] theorem State.setStream_waves (s : State) (x : Stream) : (s.setStream x).waves = s.waves := rfl
@[simp] theorem State.setStream_launches (s : State) (x : Stream) : (s.setStream x).launches = s.launches := rfl
@[simp] theorem State.setStream_matrixOps (s : State) (x : Stream) : (s.setStream x).matrixOps = s.matrixOps := rfl
@[simp] theorem State.setStream_copies (s : State) (x : Stream) : (s.setStream x).copies = s.copies := rfl
@[simp] theorem State.setStream_bmvs (s : State) (x : Stream) : (s.setStream x).bmvs = s.bmvs := rfl
@[simp] theorem State.setStream_regions (s : State) (x : Stream) : (s.setStream x).regions = s.regions := rfl
@[simp] theorem State.setStream_dies (s : State) (x : Stream) : (s.setStream x).dies = s.dies := rfl
@[simp] theorem State.setStream_mem (s : State) (x : Stream) : (s.setStream x).mem = s.mem := rfl
@[simp] theorem State.setStream_poison (s : State) (x : Stream) : (s.setStream x).poison = s.poison := rfl
@[simp] theorem State.setStream_tags (s : State) (x : Stream) : (s.setStream x).tags = s.tags := rfl
@[simp] theorem State.setStream_tier (s : State) (x : Stream) : (s.setStream x).tier = s.tier := rfl
@[simp] theorem State.setStream_tlb (s : State) (x : Stream) : (s.setStream x).tlb = s.tlb := rfl
@[simp] theorem State.setStream_ptroot (s : State) (x : Stream) : (s.setStream x).ptroot = s.ptroot := rfl
@[simp] theorem State.setStream_stackMask (s : State) (x : Stream) : (s.setStream x).stackMask = s.stackMask := rfl
@[simp] theorem State.setStream_unitsOut (s : State) (x : Stream) : (s.setStream x).unitsOut = s.unitsOut := rfl
@[simp] theorem State.setStream_outAtReset (s : State) (x : Stream) : (s.setStream x).outAtReset = s.outAtReset := rfl
@[simp] theorem State.setStream_corrected (s : State) (x : Stream) : (s.setStream x).corrected = s.corrected := rfl
@[simp] theorem State.setStream_isM (s : State) (x : Stream) : (s.setStream x).isM = s.isM := rfl
@[simp] theorem State.setStream_moduleNo (s : State) (x : Stream) : (s.setStream x).moduleNo = s.moduleNo := rfl
@[simp] theorem State.setStream_peers (s : State) (x : Stream) : (s.setStream x).peers = s.peers := rfl
@[simp] theorem State.setStream_boot (s : State) (x : Stream) : (s.setStream x).boot = s.boot := rfl
@[simp] theorem State.setStream_recording (s : State) (x : Stream) : (s.setStream x).recording = s.recording := rfl
@[simp] theorem State.setStream_image (s : State) (x : Stream) : (s.setStream x).image = s.image := rfl
@[simp] theorem State.setStream_reports (s : State) (x : Stream) : (s.setStream x).reports = s.reports := rfl
@[simp] theorem State.setStream_hostReads (s : State) (x : Stream) : (s.setStream x).hostReads = s.hostReads := rfl
@[simp] theorem State.setStream_replay (s : State) (x : Stream) : (s.setStream x).replay = s.replay := rfl
@[simp] theorem State.setStream_host (s : State) (x : Stream) : (s.setStream x).host = s.host := rfl
@[simp] theorem State.setStream_outsiders (s : State) (x : Stream) : (s.setStream x).outsiders = s.outsiders := rfl
@[simp] theorem State.setStream_history (s : State) (x : Stream) : (s.setStream x).history = s.history := rfl
@[simp] theorem State.setStream_carried (s : State) (x : Stream) : (s.setStream x).carried = s.carried := rfl
@[simp] theorem State.setStream_fences (s : State) (x : Stream) : (s.setStream x).fences = s.fences := rfl
@[simp] theorem State.setStream_fenced (s : State) (x : Stream) : (s.setStream x).fenced = s.fenced := rfl
@[simp] theorem State.setStream_relaxed (s : State) (x : Stream) : (s.setStream x).relaxed = s.relaxed := rfl
@[simp] theorem State.setStream_nextId (s : State) (x : Stream) : (s.setStream x).nextId = s.nextId := rfl
@[simp] theorem State.setStream_stamp (s : State) (x : Stream) : (s.setStream x).stamp = s.stamp := rfl
@[simp] theorem State.setStream_free (s : State) (x : Stream) : (s.setStream x).free = s.free := rfl
@[simp] theorem State.setStream_now (s : State) (x : Stream) : (s.setStream x).now = s.now := rfl
@[simp] theorem State.setStream_cur (s : State) (x : Stream) : (s.setStream x).cur = s.cur := rfl
@[simp] theorem State.setStream_packets (s : State) (x : Stream) : (s.setStream x).packets = s.packets := rfl
@[simp] theorem State.setStream_passes (s : State) (x : Stream) : (s.setStream x).passes = s.passes := rfl
@[simp] theorem State.setStream_sched (s : State) (x : Stream) : (s.setStream x).sched = s.sched := rfl

@[simp] theorem State.record_threads (s : State) (d : Nat) (r : FaultRecord) : (s.record d r).threads = s.threads := rfl
@[simp] theorem State.record_groups (s : State) (d : Nat) (r : FaultRecord) : (s.record d r).groups = s.groups := rfl
@[simp] theorem State.record_waves (s : State) (d : Nat) (r : FaultRecord) : (s.record d r).waves = s.waves := rfl
@[simp] theorem State.record_launches (s : State) (d : Nat) (r : FaultRecord) : (s.record d r).launches = s.launches := rfl
@[simp] theorem State.record_matrixOps (s : State) (d : Nat) (r : FaultRecord) : (s.record d r).matrixOps = s.matrixOps := rfl
@[simp] theorem State.record_copies (s : State) (d : Nat) (r : FaultRecord) : (s.record d r).copies = s.copies := rfl
@[simp] theorem State.record_bmvs (s : State) (d : Nat) (r : FaultRecord) : (s.record d r).bmvs = s.bmvs := rfl
@[simp] theorem State.record_regions (s : State) (d : Nat) (r : FaultRecord) : (s.record d r).regions = s.regions := rfl
@[simp] theorem State.record_streams (s : State) (d : Nat) (r : FaultRecord) : (s.record d r).streams = s.streams := rfl
@[simp] theorem State.record_mem (s : State) (d : Nat) (r : FaultRecord) : (s.record d r).mem = s.mem := rfl
@[simp] theorem State.record_poison (s : State) (d : Nat) (r : FaultRecord) : (s.record d r).poison = s.poison := rfl
@[simp] theorem State.record_tags (s : State) (d : Nat) (r : FaultRecord) : (s.record d r).tags = s.tags := rfl
@[simp] theorem State.record_tier (s : State) (d : Nat) (r : FaultRecord) : (s.record d r).tier = s.tier := rfl
@[simp] theorem State.record_tlb (s : State) (d : Nat) (r : FaultRecord) : (s.record d r).tlb = s.tlb := rfl
@[simp] theorem State.record_ptroot (s : State) (d : Nat) (r : FaultRecord) : (s.record d r).ptroot = s.ptroot := rfl
@[simp] theorem State.record_stackMask (s : State) (d : Nat) (r : FaultRecord) : (s.record d r).stackMask = s.stackMask := rfl
@[simp] theorem State.record_unitsOut (s : State) (d : Nat) (r : FaultRecord) : (s.record d r).unitsOut = s.unitsOut := rfl
@[simp] theorem State.record_outAtReset (s : State) (d : Nat) (r : FaultRecord) : (s.record d r).outAtReset = s.outAtReset := rfl
@[simp] theorem State.record_corrected (s : State) (d : Nat) (r : FaultRecord) : (s.record d r).corrected = s.corrected := rfl
@[simp] theorem State.record_isM (s : State) (d : Nat) (r : FaultRecord) : (s.record d r).isM = s.isM := rfl
@[simp] theorem State.record_moduleNo (s : State) (d : Nat) (r : FaultRecord) : (s.record d r).moduleNo = s.moduleNo := rfl
@[simp] theorem State.record_peers (s : State) (d : Nat) (r : FaultRecord) : (s.record d r).peers = s.peers := rfl
@[simp] theorem State.record_boot (s : State) (d : Nat) (r : FaultRecord) : (s.record d r).boot = s.boot := rfl
@[simp] theorem State.record_recording (s : State) (d : Nat) (r : FaultRecord) : (s.record d r).recording = s.recording := rfl
@[simp] theorem State.record_image (s : State) (d : Nat) (r : FaultRecord) : (s.record d r).image = s.image := rfl
@[simp] theorem State.record_reports (s : State) (d : Nat) (r : FaultRecord) : (s.record d r).reports = s.reports := rfl
@[simp] theorem State.record_hostReads (s : State) (d : Nat) (r : FaultRecord) : (s.record d r).hostReads = s.hostReads := rfl
@[simp] theorem State.record_replay (s : State) (d : Nat) (r : FaultRecord) : (s.record d r).replay = s.replay := rfl
@[simp] theorem State.record_host (s : State) (d : Nat) (r : FaultRecord) : (s.record d r).host = s.host := rfl
@[simp] theorem State.record_outsiders (s : State) (d : Nat) (r : FaultRecord) : (s.record d r).outsiders = s.outsiders := rfl
@[simp] theorem State.record_history (s : State) (d : Nat) (r : FaultRecord) : (s.record d r).history = s.history := rfl
@[simp] theorem State.record_carried (s : State) (d : Nat) (r : FaultRecord) : (s.record d r).carried = s.carried := rfl
@[simp] theorem State.record_fences (s : State) (d : Nat) (r : FaultRecord) : (s.record d r).fences = s.fences := rfl
@[simp] theorem State.record_fenced (s : State) (d : Nat) (r : FaultRecord) : (s.record d r).fenced = s.fenced := rfl
@[simp] theorem State.record_relaxed (s : State) (d : Nat) (r : FaultRecord) : (s.record d r).relaxed = s.relaxed := rfl
@[simp] theorem State.record_nextId (s : State) (d : Nat) (r : FaultRecord) : (s.record d r).nextId = s.nextId := rfl
@[simp] theorem State.record_stamp (s : State) (d : Nat) (r : FaultRecord) : (s.record d r).stamp = s.stamp := rfl
@[simp] theorem State.record_free (s : State) (d : Nat) (r : FaultRecord) : (s.record d r).free = s.free := rfl
@[simp] theorem State.record_now (s : State) (d : Nat) (r : FaultRecord) : (s.record d r).now = s.now := rfl
@[simp] theorem State.record_cur (s : State) (d : Nat) (r : FaultRecord) : (s.record d r).cur = s.cur := rfl
@[simp] theorem State.record_packets (s : State) (d : Nat) (r : FaultRecord) : (s.record d r).packets = s.packets := rfl
@[simp] theorem State.record_passes (s : State) (d : Nat) (r : FaultRecord) : (s.record d r).passes = s.passes := rfl
@[simp] theorem State.record_sched (s : State) (d : Nat) (r : FaultRecord) : (s.record d r).sched = s.sched := rfl

@[simp] theorem State.learn_groups (s : State) (id : ThreadId) (k : Know) : (s.learn id k).groups = s.groups := rfl
@[simp] theorem State.learn_waves (s : State) (id : ThreadId) (k : Know) : (s.learn id k).waves = s.waves := rfl
@[simp] theorem State.learn_launches (s : State) (id : ThreadId) (k : Know) : (s.learn id k).launches = s.launches := rfl
@[simp] theorem State.learn_matrixOps (s : State) (id : ThreadId) (k : Know) : (s.learn id k).matrixOps = s.matrixOps := rfl
@[simp] theorem State.learn_copies (s : State) (id : ThreadId) (k : Know) : (s.learn id k).copies = s.copies := rfl
@[simp] theorem State.learn_bmvs (s : State) (id : ThreadId) (k : Know) : (s.learn id k).bmvs = s.bmvs := rfl
@[simp] theorem State.learn_regions (s : State) (id : ThreadId) (k : Know) : (s.learn id k).regions = s.regions := rfl
@[simp] theorem State.learn_dies (s : State) (id : ThreadId) (k : Know) : (s.learn id k).dies = s.dies := rfl
@[simp] theorem State.learn_streams (s : State) (id : ThreadId) (k : Know) : (s.learn id k).streams = s.streams := rfl
@[simp] theorem State.learn_mem (s : State) (id : ThreadId) (k : Know) : (s.learn id k).mem = s.mem := rfl
@[simp] theorem State.learn_poison (s : State) (id : ThreadId) (k : Know) : (s.learn id k).poison = s.poison := rfl
@[simp] theorem State.learn_tags (s : State) (id : ThreadId) (k : Know) : (s.learn id k).tags = s.tags := rfl
@[simp] theorem State.learn_tier (s : State) (id : ThreadId) (k : Know) : (s.learn id k).tier = s.tier := rfl
@[simp] theorem State.learn_tlb (s : State) (id : ThreadId) (k : Know) : (s.learn id k).tlb = s.tlb := rfl
@[simp] theorem State.learn_ptroot (s : State) (id : ThreadId) (k : Know) : (s.learn id k).ptroot = s.ptroot := rfl
@[simp] theorem State.learn_stackMask (s : State) (id : ThreadId) (k : Know) : (s.learn id k).stackMask = s.stackMask := rfl
@[simp] theorem State.learn_unitsOut (s : State) (id : ThreadId) (k : Know) : (s.learn id k).unitsOut = s.unitsOut := rfl
@[simp] theorem State.learn_outAtReset (s : State) (id : ThreadId) (k : Know) : (s.learn id k).outAtReset = s.outAtReset := rfl
@[simp] theorem State.learn_corrected (s : State) (id : ThreadId) (k : Know) : (s.learn id k).corrected = s.corrected := rfl
@[simp] theorem State.learn_isM (s : State) (id : ThreadId) (k : Know) : (s.learn id k).isM = s.isM := rfl
@[simp] theorem State.learn_moduleNo (s : State) (id : ThreadId) (k : Know) : (s.learn id k).moduleNo = s.moduleNo := rfl
@[simp] theorem State.learn_peers (s : State) (id : ThreadId) (k : Know) : (s.learn id k).peers = s.peers := rfl
@[simp] theorem State.learn_boot (s : State) (id : ThreadId) (k : Know) : (s.learn id k).boot = s.boot := rfl
@[simp] theorem State.learn_recording (s : State) (id : ThreadId) (k : Know) : (s.learn id k).recording = s.recording := rfl
@[simp] theorem State.learn_image (s : State) (id : ThreadId) (k : Know) : (s.learn id k).image = s.image := rfl
@[simp] theorem State.learn_reports (s : State) (id : ThreadId) (k : Know) : (s.learn id k).reports = s.reports := rfl
@[simp] theorem State.learn_hostReads (s : State) (id : ThreadId) (k : Know) : (s.learn id k).hostReads = s.hostReads := rfl
@[simp] theorem State.learn_replay (s : State) (id : ThreadId) (k : Know) : (s.learn id k).replay = s.replay := rfl
@[simp] theorem State.learn_host (s : State) (id : ThreadId) (k : Know) : (s.learn id k).host = s.host := rfl
@[simp] theorem State.learn_outsiders (s : State) (id : ThreadId) (k : Know) : (s.learn id k).outsiders = s.outsiders := rfl
@[simp] theorem State.learn_history (s : State) (id : ThreadId) (k : Know) : (s.learn id k).history = s.history := rfl
@[simp] theorem State.learn_carried (s : State) (id : ThreadId) (k : Know) : (s.learn id k).carried = s.carried := rfl
@[simp] theorem State.learn_fences (s : State) (id : ThreadId) (k : Know) : (s.learn id k).fences = s.fences := rfl
@[simp] theorem State.learn_fenced (s : State) (id : ThreadId) (k : Know) : (s.learn id k).fenced = s.fenced := rfl
@[simp] theorem State.learn_relaxed (s : State) (id : ThreadId) (k : Know) : (s.learn id k).relaxed = s.relaxed := rfl
@[simp] theorem State.learn_nextId (s : State) (id : ThreadId) (k : Know) : (s.learn id k).nextId = s.nextId := rfl
@[simp] theorem State.learn_stamp (s : State) (id : ThreadId) (k : Know) : (s.learn id k).stamp = s.stamp := rfl
@[simp] theorem State.learn_free (s : State) (id : ThreadId) (k : Know) : (s.learn id k).free = s.free := rfl
@[simp] theorem State.learn_now (s : State) (id : ThreadId) (k : Know) : (s.learn id k).now = s.now := rfl
@[simp] theorem State.learn_cur (s : State) (id : ThreadId) (k : Know) : (s.learn id k).cur = s.cur := rfl
@[simp] theorem State.learn_packets (s : State) (id : ThreadId) (k : Know) : (s.learn id k).packets = s.packets := rfl
@[simp] theorem State.learn_passes (s : State) (id : ThreadId) (k : Know) : (s.learn id k).passes = s.passes := rfl
@[simp] theorem State.learn_sched (s : State) (id : ThreadId) (k : Know) : (s.learn id k).sched = s.sched := rfl

@[simp] theorem State.putPast_threads (s : State) (b : Loc) (es : List PastWrite) : (s.putPast b es).threads = s.threads := rfl
@[simp] theorem State.putPast_groups (s : State) (b : Loc) (es : List PastWrite) : (s.putPast b es).groups = s.groups := rfl
@[simp] theorem State.putPast_waves (s : State) (b : Loc) (es : List PastWrite) : (s.putPast b es).waves = s.waves := rfl
@[simp] theorem State.putPast_launches (s : State) (b : Loc) (es : List PastWrite) : (s.putPast b es).launches = s.launches := rfl
@[simp] theorem State.putPast_matrixOps (s : State) (b : Loc) (es : List PastWrite) : (s.putPast b es).matrixOps = s.matrixOps := rfl
@[simp] theorem State.putPast_copies (s : State) (b : Loc) (es : List PastWrite) : (s.putPast b es).copies = s.copies := rfl
@[simp] theorem State.putPast_bmvs (s : State) (b : Loc) (es : List PastWrite) : (s.putPast b es).bmvs = s.bmvs := rfl
@[simp] theorem State.putPast_regions (s : State) (b : Loc) (es : List PastWrite) : (s.putPast b es).regions = s.regions := rfl
@[simp] theorem State.putPast_dies (s : State) (b : Loc) (es : List PastWrite) : (s.putPast b es).dies = s.dies := rfl
@[simp] theorem State.putPast_streams (s : State) (b : Loc) (es : List PastWrite) : (s.putPast b es).streams = s.streams := rfl
@[simp] theorem State.putPast_mem (s : State) (b : Loc) (es : List PastWrite) : (s.putPast b es).mem = s.mem := rfl
@[simp] theorem State.putPast_poison (s : State) (b : Loc) (es : List PastWrite) : (s.putPast b es).poison = s.poison := rfl
@[simp] theorem State.putPast_tags (s : State) (b : Loc) (es : List PastWrite) : (s.putPast b es).tags = s.tags := rfl
@[simp] theorem State.putPast_tier (s : State) (b : Loc) (es : List PastWrite) : (s.putPast b es).tier = s.tier := rfl
@[simp] theorem State.putPast_tlb (s : State) (b : Loc) (es : List PastWrite) : (s.putPast b es).tlb = s.tlb := rfl
@[simp] theorem State.putPast_ptroot (s : State) (b : Loc) (es : List PastWrite) : (s.putPast b es).ptroot = s.ptroot := rfl
@[simp] theorem State.putPast_stackMask (s : State) (b : Loc) (es : List PastWrite) : (s.putPast b es).stackMask = s.stackMask := rfl
@[simp] theorem State.putPast_unitsOut (s : State) (b : Loc) (es : List PastWrite) : (s.putPast b es).unitsOut = s.unitsOut := rfl
@[simp] theorem State.putPast_outAtReset (s : State) (b : Loc) (es : List PastWrite) : (s.putPast b es).outAtReset = s.outAtReset := rfl
@[simp] theorem State.putPast_corrected (s : State) (b : Loc) (es : List PastWrite) : (s.putPast b es).corrected = s.corrected := rfl
@[simp] theorem State.putPast_isM (s : State) (b : Loc) (es : List PastWrite) : (s.putPast b es).isM = s.isM := rfl
@[simp] theorem State.putPast_moduleNo (s : State) (b : Loc) (es : List PastWrite) : (s.putPast b es).moduleNo = s.moduleNo := rfl
@[simp] theorem State.putPast_peers (s : State) (b : Loc) (es : List PastWrite) : (s.putPast b es).peers = s.peers := rfl
@[simp] theorem State.putPast_boot (s : State) (b : Loc) (es : List PastWrite) : (s.putPast b es).boot = s.boot := rfl
@[simp] theorem State.putPast_recording (s : State) (b : Loc) (es : List PastWrite) : (s.putPast b es).recording = s.recording := rfl
@[simp] theorem State.putPast_image (s : State) (b : Loc) (es : List PastWrite) : (s.putPast b es).image = s.image := rfl
@[simp] theorem State.putPast_reports (s : State) (b : Loc) (es : List PastWrite) : (s.putPast b es).reports = s.reports := rfl
@[simp] theorem State.putPast_hostReads (s : State) (b : Loc) (es : List PastWrite) : (s.putPast b es).hostReads = s.hostReads := rfl
@[simp] theorem State.putPast_replay (s : State) (b : Loc) (es : List PastWrite) : (s.putPast b es).replay = s.replay := rfl
@[simp] theorem State.putPast_host (s : State) (b : Loc) (es : List PastWrite) : (s.putPast b es).host = s.host := rfl
@[simp] theorem State.putPast_outsiders (s : State) (b : Loc) (es : List PastWrite) : (s.putPast b es).outsiders = s.outsiders := rfl
@[simp] theorem State.putPast_carried (s : State) (b : Loc) (es : List PastWrite) : (s.putPast b es).carried = s.carried := rfl
@[simp] theorem State.putPast_fences (s : State) (b : Loc) (es : List PastWrite) : (s.putPast b es).fences = s.fences := rfl
@[simp] theorem State.putPast_fenced (s : State) (b : Loc) (es : List PastWrite) : (s.putPast b es).fenced = s.fenced := rfl
@[simp] theorem State.putPast_relaxed (s : State) (b : Loc) (es : List PastWrite) : (s.putPast b es).relaxed = s.relaxed := rfl
@[simp] theorem State.putPast_nextId (s : State) (b : Loc) (es : List PastWrite) : (s.putPast b es).nextId = s.nextId := rfl
@[simp] theorem State.putPast_stamp (s : State) (b : Loc) (es : List PastWrite) : (s.putPast b es).stamp = s.stamp := rfl
@[simp] theorem State.putPast_free (s : State) (b : Loc) (es : List PastWrite) : (s.putPast b es).free = s.free := rfl
@[simp] theorem State.putPast_now (s : State) (b : Loc) (es : List PastWrite) : (s.putPast b es).now = s.now := rfl
@[simp] theorem State.putPast_cur (s : State) (b : Loc) (es : List PastWrite) : (s.putPast b es).cur = s.cur := rfl
@[simp] theorem State.putPast_packets (s : State) (b : Loc) (es : List PastWrite) : (s.putPast b es).packets = s.packets := rfl
@[simp] theorem State.putPast_passes (s : State) (b : Loc) (es : List PastWrite) : (s.putPast b es).passes = s.passes := rfl
@[simp] theorem State.putPast_sched (s : State) (b : Loc) (es : List PastWrite) : (s.putPast b es).sched = s.sched := rfl

@[simp] theorem State.addFenced_threads (s : State) (kind : FencedKind) (k : Know) : (s.addFenced kind k).threads = s.threads := rfl
@[simp] theorem State.addFenced_groups (s : State) (kind : FencedKind) (k : Know) : (s.addFenced kind k).groups = s.groups := rfl
@[simp] theorem State.addFenced_waves (s : State) (kind : FencedKind) (k : Know) : (s.addFenced kind k).waves = s.waves := rfl
@[simp] theorem State.addFenced_launches (s : State) (kind : FencedKind) (k : Know) : (s.addFenced kind k).launches = s.launches := rfl
@[simp] theorem State.addFenced_matrixOps (s : State) (kind : FencedKind) (k : Know) : (s.addFenced kind k).matrixOps = s.matrixOps := rfl
@[simp] theorem State.addFenced_copies (s : State) (kind : FencedKind) (k : Know) : (s.addFenced kind k).copies = s.copies := rfl
@[simp] theorem State.addFenced_bmvs (s : State) (kind : FencedKind) (k : Know) : (s.addFenced kind k).bmvs = s.bmvs := rfl
@[simp] theorem State.addFenced_regions (s : State) (kind : FencedKind) (k : Know) : (s.addFenced kind k).regions = s.regions := rfl
@[simp] theorem State.addFenced_dies (s : State) (kind : FencedKind) (k : Know) : (s.addFenced kind k).dies = s.dies := rfl
@[simp] theorem State.addFenced_streams (s : State) (kind : FencedKind) (k : Know) : (s.addFenced kind k).streams = s.streams := rfl
@[simp] theorem State.addFenced_mem (s : State) (kind : FencedKind) (k : Know) : (s.addFenced kind k).mem = s.mem := rfl
@[simp] theorem State.addFenced_poison (s : State) (kind : FencedKind) (k : Know) : (s.addFenced kind k).poison = s.poison := rfl
@[simp] theorem State.addFenced_tags (s : State) (kind : FencedKind) (k : Know) : (s.addFenced kind k).tags = s.tags := rfl
@[simp] theorem State.addFenced_tier (s : State) (kind : FencedKind) (k : Know) : (s.addFenced kind k).tier = s.tier := rfl
@[simp] theorem State.addFenced_tlb (s : State) (kind : FencedKind) (k : Know) : (s.addFenced kind k).tlb = s.tlb := rfl
@[simp] theorem State.addFenced_ptroot (s : State) (kind : FencedKind) (k : Know) : (s.addFenced kind k).ptroot = s.ptroot := rfl
@[simp] theorem State.addFenced_stackMask (s : State) (kind : FencedKind) (k : Know) : (s.addFenced kind k).stackMask = s.stackMask := rfl
@[simp] theorem State.addFenced_unitsOut (s : State) (kind : FencedKind) (k : Know) : (s.addFenced kind k).unitsOut = s.unitsOut := rfl
@[simp] theorem State.addFenced_outAtReset (s : State) (kind : FencedKind) (k : Know) : (s.addFenced kind k).outAtReset = s.outAtReset := rfl
@[simp] theorem State.addFenced_corrected (s : State) (kind : FencedKind) (k : Know) : (s.addFenced kind k).corrected = s.corrected := rfl
@[simp] theorem State.addFenced_isM (s : State) (kind : FencedKind) (k : Know) : (s.addFenced kind k).isM = s.isM := rfl
@[simp] theorem State.addFenced_moduleNo (s : State) (kind : FencedKind) (k : Know) : (s.addFenced kind k).moduleNo = s.moduleNo := rfl
@[simp] theorem State.addFenced_peers (s : State) (kind : FencedKind) (k : Know) : (s.addFenced kind k).peers = s.peers := rfl
@[simp] theorem State.addFenced_boot (s : State) (kind : FencedKind) (k : Know) : (s.addFenced kind k).boot = s.boot := rfl
@[simp] theorem State.addFenced_recording (s : State) (kind : FencedKind) (k : Know) : (s.addFenced kind k).recording = s.recording := rfl
@[simp] theorem State.addFenced_image (s : State) (kind : FencedKind) (k : Know) : (s.addFenced kind k).image = s.image := rfl
@[simp] theorem State.addFenced_reports (s : State) (kind : FencedKind) (k : Know) : (s.addFenced kind k).reports = s.reports := rfl
@[simp] theorem State.addFenced_hostReads (s : State) (kind : FencedKind) (k : Know) : (s.addFenced kind k).hostReads = s.hostReads := rfl
@[simp] theorem State.addFenced_replay (s : State) (kind : FencedKind) (k : Know) : (s.addFenced kind k).replay = s.replay := rfl
@[simp] theorem State.addFenced_host (s : State) (kind : FencedKind) (k : Know) : (s.addFenced kind k).host = s.host := rfl
@[simp] theorem State.addFenced_outsiders (s : State) (kind : FencedKind) (k : Know) : (s.addFenced kind k).outsiders = s.outsiders := rfl
@[simp] theorem State.addFenced_history (s : State) (kind : FencedKind) (k : Know) : (s.addFenced kind k).history = s.history := rfl
@[simp] theorem State.addFenced_carried (s : State) (kind : FencedKind) (k : Know) : (s.addFenced kind k).carried = s.carried := rfl
@[simp] theorem State.addFenced_fences (s : State) (kind : FencedKind) (k : Know) : (s.addFenced kind k).fences = s.fences := rfl
@[simp] theorem State.addFenced_relaxed (s : State) (kind : FencedKind) (k : Know) : (s.addFenced kind k).relaxed = s.relaxed := rfl
@[simp] theorem State.addFenced_nextId (s : State) (kind : FencedKind) (k : Know) : (s.addFenced kind k).nextId = s.nextId := rfl
@[simp] theorem State.addFenced_free (s : State) (kind : FencedKind) (k : Know) : (s.addFenced kind k).free = s.free := rfl
@[simp] theorem State.addFenced_now (s : State) (kind : FencedKind) (k : Know) : (s.addFenced kind k).now = s.now := rfl
@[simp] theorem State.addFenced_cur (s : State) (kind : FencedKind) (k : Know) : (s.addFenced kind k).cur = s.cur := rfl
@[simp] theorem State.addFenced_packets (s : State) (kind : FencedKind) (k : Know) : (s.addFenced kind k).packets = s.packets := rfl
@[simp] theorem State.addFenced_passes (s : State) (kind : FencedKind) (k : Know) : (s.addFenced kind k).passes = s.passes := rfl
@[simp] theorem State.addFenced_sched (s : State) (kind : FencedKind) (k : Know) : (s.addFenced kind k).sched = s.sched := rfl

@[simp] theorem State.hostLearns_threads (s : State) (k : Know) : (s.hostLearns k).threads = s.threads := rfl
@[simp] theorem State.hostLearns_groups (s : State) (k : Know) : (s.hostLearns k).groups = s.groups := rfl
@[simp] theorem State.hostLearns_waves (s : State) (k : Know) : (s.hostLearns k).waves = s.waves := rfl
@[simp] theorem State.hostLearns_launches (s : State) (k : Know) : (s.hostLearns k).launches = s.launches := rfl
@[simp] theorem State.hostLearns_matrixOps (s : State) (k : Know) : (s.hostLearns k).matrixOps = s.matrixOps := rfl
@[simp] theorem State.hostLearns_copies (s : State) (k : Know) : (s.hostLearns k).copies = s.copies := rfl
@[simp] theorem State.hostLearns_bmvs (s : State) (k : Know) : (s.hostLearns k).bmvs = s.bmvs := rfl
@[simp] theorem State.hostLearns_regions (s : State) (k : Know) : (s.hostLearns k).regions = s.regions := rfl
@[simp] theorem State.hostLearns_dies (s : State) (k : Know) : (s.hostLearns k).dies = s.dies := rfl
@[simp] theorem State.hostLearns_streams (s : State) (k : Know) : (s.hostLearns k).streams = s.streams := rfl
@[simp] theorem State.hostLearns_mem (s : State) (k : Know) : (s.hostLearns k).mem = s.mem := rfl
@[simp] theorem State.hostLearns_poison (s : State) (k : Know) : (s.hostLearns k).poison = s.poison := rfl
@[simp] theorem State.hostLearns_tags (s : State) (k : Know) : (s.hostLearns k).tags = s.tags := rfl
@[simp] theorem State.hostLearns_tier (s : State) (k : Know) : (s.hostLearns k).tier = s.tier := rfl
@[simp] theorem State.hostLearns_tlb (s : State) (k : Know) : (s.hostLearns k).tlb = s.tlb := rfl
@[simp] theorem State.hostLearns_ptroot (s : State) (k : Know) : (s.hostLearns k).ptroot = s.ptroot := rfl
@[simp] theorem State.hostLearns_stackMask (s : State) (k : Know) : (s.hostLearns k).stackMask = s.stackMask := rfl
@[simp] theorem State.hostLearns_unitsOut (s : State) (k : Know) : (s.hostLearns k).unitsOut = s.unitsOut := rfl
@[simp] theorem State.hostLearns_outAtReset (s : State) (k : Know) : (s.hostLearns k).outAtReset = s.outAtReset := rfl
@[simp] theorem State.hostLearns_corrected (s : State) (k : Know) : (s.hostLearns k).corrected = s.corrected := rfl
@[simp] theorem State.hostLearns_isM (s : State) (k : Know) : (s.hostLearns k).isM = s.isM := rfl
@[simp] theorem State.hostLearns_moduleNo (s : State) (k : Know) : (s.hostLearns k).moduleNo = s.moduleNo := rfl
@[simp] theorem State.hostLearns_peers (s : State) (k : Know) : (s.hostLearns k).peers = s.peers := rfl
@[simp] theorem State.hostLearns_boot (s : State) (k : Know) : (s.hostLearns k).boot = s.boot := rfl
@[simp] theorem State.hostLearns_recording (s : State) (k : Know) : (s.hostLearns k).recording = s.recording := rfl
@[simp] theorem State.hostLearns_image (s : State) (k : Know) : (s.hostLearns k).image = s.image := rfl
@[simp] theorem State.hostLearns_reports (s : State) (k : Know) : (s.hostLearns k).reports = s.reports := rfl
@[simp] theorem State.hostLearns_hostReads (s : State) (k : Know) : (s.hostLearns k).hostReads = s.hostReads := rfl
@[simp] theorem State.hostLearns_replay (s : State) (k : Know) : (s.hostLearns k).replay = s.replay := rfl
@[simp] theorem State.hostLearns_outsiders (s : State) (k : Know) : (s.hostLearns k).outsiders = s.outsiders := rfl
@[simp] theorem State.hostLearns_history (s : State) (k : Know) : (s.hostLearns k).history = s.history := rfl
@[simp] theorem State.hostLearns_carried (s : State) (k : Know) : (s.hostLearns k).carried = s.carried := rfl
@[simp] theorem State.hostLearns_fences (s : State) (k : Know) : (s.hostLearns k).fences = s.fences := rfl
@[simp] theorem State.hostLearns_fenced (s : State) (k : Know) : (s.hostLearns k).fenced = s.fenced := rfl
@[simp] theorem State.hostLearns_relaxed (s : State) (k : Know) : (s.hostLearns k).relaxed = s.relaxed := rfl
@[simp] theorem State.hostLearns_nextId (s : State) (k : Know) : (s.hostLearns k).nextId = s.nextId := rfl
@[simp] theorem State.hostLearns_stamp (s : State) (k : Know) : (s.hostLearns k).stamp = s.stamp := rfl
@[simp] theorem State.hostLearns_free (s : State) (k : Know) : (s.hostLearns k).free = s.free := rfl
@[simp] theorem State.hostLearns_now (s : State) (k : Know) : (s.hostLearns k).now = s.now := rfl
@[simp] theorem State.hostLearns_cur (s : State) (k : Know) : (s.hostLearns k).cur = s.cur := rfl
@[simp] theorem State.hostLearns_packets (s : State) (k : Know) : (s.hostLearns k).packets = s.packets := rfl
@[simp] theorem State.hostLearns_passes (s : State) (k : Know) : (s.hostLearns k).passes = s.passes := rfl
@[simp] theorem State.hostLearns_sched (s : State) (k : Know) : (s.hostLearns k).sched = s.sched := rfl

@[simp] theorem State.setTag_threads (s : State) (g tag : Nat) : (s.setTag g tag).threads = s.threads := rfl
@[simp] theorem State.setTag_groups (s : State) (g tag : Nat) : (s.setTag g tag).groups = s.groups := rfl
@[simp] theorem State.setTag_waves (s : State) (g tag : Nat) : (s.setTag g tag).waves = s.waves := rfl
@[simp] theorem State.setTag_launches (s : State) (g tag : Nat) : (s.setTag g tag).launches = s.launches := rfl
@[simp] theorem State.setTag_matrixOps (s : State) (g tag : Nat) : (s.setTag g tag).matrixOps = s.matrixOps := rfl
@[simp] theorem State.setTag_copies (s : State) (g tag : Nat) : (s.setTag g tag).copies = s.copies := rfl
@[simp] theorem State.setTag_bmvs (s : State) (g tag : Nat) : (s.setTag g tag).bmvs = s.bmvs := rfl
@[simp] theorem State.setTag_regions (s : State) (g tag : Nat) : (s.setTag g tag).regions = s.regions := rfl
@[simp] theorem State.setTag_dies (s : State) (g tag : Nat) : (s.setTag g tag).dies = s.dies := rfl
@[simp] theorem State.setTag_streams (s : State) (g tag : Nat) : (s.setTag g tag).streams = s.streams := rfl
@[simp] theorem State.setTag_mem (s : State) (g tag : Nat) : (s.setTag g tag).mem = s.mem := rfl
@[simp] theorem State.setTag_poison (s : State) (g tag : Nat) : (s.setTag g tag).poison = s.poison := rfl
@[simp] theorem State.setTag_tier (s : State) (g tag : Nat) : (s.setTag g tag).tier = s.tier := rfl
@[simp] theorem State.setTag_tlb (s : State) (g tag : Nat) : (s.setTag g tag).tlb = s.tlb := rfl
@[simp] theorem State.setTag_ptroot (s : State) (g tag : Nat) : (s.setTag g tag).ptroot = s.ptroot := rfl
@[simp] theorem State.setTag_stackMask (s : State) (g tag : Nat) : (s.setTag g tag).stackMask = s.stackMask := rfl
@[simp] theorem State.setTag_unitsOut (s : State) (g tag : Nat) : (s.setTag g tag).unitsOut = s.unitsOut := rfl
@[simp] theorem State.setTag_outAtReset (s : State) (g tag : Nat) : (s.setTag g tag).outAtReset = s.outAtReset := rfl
@[simp] theorem State.setTag_corrected (s : State) (g tag : Nat) : (s.setTag g tag).corrected = s.corrected := rfl
@[simp] theorem State.setTag_isM (s : State) (g tag : Nat) : (s.setTag g tag).isM = s.isM := rfl
@[simp] theorem State.setTag_moduleNo (s : State) (g tag : Nat) : (s.setTag g tag).moduleNo = s.moduleNo := rfl
@[simp] theorem State.setTag_peers (s : State) (g tag : Nat) : (s.setTag g tag).peers = s.peers := rfl
@[simp] theorem State.setTag_boot (s : State) (g tag : Nat) : (s.setTag g tag).boot = s.boot := rfl
@[simp] theorem State.setTag_recording (s : State) (g tag : Nat) : (s.setTag g tag).recording = s.recording := rfl
@[simp] theorem State.setTag_image (s : State) (g tag : Nat) : (s.setTag g tag).image = s.image := rfl
@[simp] theorem State.setTag_reports (s : State) (g tag : Nat) : (s.setTag g tag).reports = s.reports := rfl
@[simp] theorem State.setTag_hostReads (s : State) (g tag : Nat) : (s.setTag g tag).hostReads = s.hostReads := rfl
@[simp] theorem State.setTag_replay (s : State) (g tag : Nat) : (s.setTag g tag).replay = s.replay := rfl
@[simp] theorem State.setTag_host (s : State) (g tag : Nat) : (s.setTag g tag).host = s.host := rfl
@[simp] theorem State.setTag_outsiders (s : State) (g tag : Nat) : (s.setTag g tag).outsiders = s.outsiders := rfl
@[simp] theorem State.setTag_history (s : State) (g tag : Nat) : (s.setTag g tag).history = s.history := rfl
@[simp] theorem State.setTag_carried (s : State) (g tag : Nat) : (s.setTag g tag).carried = s.carried := rfl
@[simp] theorem State.setTag_fences (s : State) (g tag : Nat) : (s.setTag g tag).fences = s.fences := rfl
@[simp] theorem State.setTag_fenced (s : State) (g tag : Nat) : (s.setTag g tag).fenced = s.fenced := rfl
@[simp] theorem State.setTag_relaxed (s : State) (g tag : Nat) : (s.setTag g tag).relaxed = s.relaxed := rfl
@[simp] theorem State.setTag_nextId (s : State) (g tag : Nat) : (s.setTag g tag).nextId = s.nextId := rfl
@[simp] theorem State.setTag_stamp (s : State) (g tag : Nat) : (s.setTag g tag).stamp = s.stamp := rfl
@[simp] theorem State.setTag_free (s : State) (g tag : Nat) : (s.setTag g tag).free = s.free := rfl
@[simp] theorem State.setTag_now (s : State) (g tag : Nat) : (s.setTag g tag).now = s.now := rfl
@[simp] theorem State.setTag_cur (s : State) (g tag : Nat) : (s.setTag g tag).cur = s.cur := rfl
@[simp] theorem State.setTag_packets (s : State) (g tag : Nat) : (s.setTag g tag).packets = s.packets := rfl
@[simp] theorem State.setTag_passes (s : State) (g tag : Nat) : (s.setTag g tag).passes = s.passes := rfl
@[simp] theorem State.setTag_sched (s : State) (g tag : Nat) : (s.setTag g tag).sched = s.sched := rfl

@[simp] theorem State.setOutsider_threads (s : State) (o : Outsider) : (s.setOutsider o).threads = s.threads := rfl
@[simp] theorem State.setOutsider_groups (s : State) (o : Outsider) : (s.setOutsider o).groups = s.groups := rfl
@[simp] theorem State.setOutsider_waves (s : State) (o : Outsider) : (s.setOutsider o).waves = s.waves := rfl
@[simp] theorem State.setOutsider_launches (s : State) (o : Outsider) : (s.setOutsider o).launches = s.launches := rfl
@[simp] theorem State.setOutsider_matrixOps (s : State) (o : Outsider) : (s.setOutsider o).matrixOps = s.matrixOps := rfl
@[simp] theorem State.setOutsider_copies (s : State) (o : Outsider) : (s.setOutsider o).copies = s.copies := rfl
@[simp] theorem State.setOutsider_bmvs (s : State) (o : Outsider) : (s.setOutsider o).bmvs = s.bmvs := rfl
@[simp] theorem State.setOutsider_regions (s : State) (o : Outsider) : (s.setOutsider o).regions = s.regions := rfl
@[simp] theorem State.setOutsider_dies (s : State) (o : Outsider) : (s.setOutsider o).dies = s.dies := rfl
@[simp] theorem State.setOutsider_streams (s : State) (o : Outsider) : (s.setOutsider o).streams = s.streams := rfl
@[simp] theorem State.setOutsider_mem (s : State) (o : Outsider) : (s.setOutsider o).mem = s.mem := rfl
@[simp] theorem State.setOutsider_poison (s : State) (o : Outsider) : (s.setOutsider o).poison = s.poison := rfl
@[simp] theorem State.setOutsider_tags (s : State) (o : Outsider) : (s.setOutsider o).tags = s.tags := rfl
@[simp] theorem State.setOutsider_tier (s : State) (o : Outsider) : (s.setOutsider o).tier = s.tier := rfl
@[simp] theorem State.setOutsider_tlb (s : State) (o : Outsider) : (s.setOutsider o).tlb = s.tlb := rfl
@[simp] theorem State.setOutsider_ptroot (s : State) (o : Outsider) : (s.setOutsider o).ptroot = s.ptroot := rfl
@[simp] theorem State.setOutsider_stackMask (s : State) (o : Outsider) : (s.setOutsider o).stackMask = s.stackMask := rfl
@[simp] theorem State.setOutsider_unitsOut (s : State) (o : Outsider) : (s.setOutsider o).unitsOut = s.unitsOut := rfl
@[simp] theorem State.setOutsider_outAtReset (s : State) (o : Outsider) : (s.setOutsider o).outAtReset = s.outAtReset := rfl
@[simp] theorem State.setOutsider_corrected (s : State) (o : Outsider) : (s.setOutsider o).corrected = s.corrected := rfl
@[simp] theorem State.setOutsider_isM (s : State) (o : Outsider) : (s.setOutsider o).isM = s.isM := rfl
@[simp] theorem State.setOutsider_moduleNo (s : State) (o : Outsider) : (s.setOutsider o).moduleNo = s.moduleNo := rfl
@[simp] theorem State.setOutsider_peers (s : State) (o : Outsider) : (s.setOutsider o).peers = s.peers := rfl
@[simp] theorem State.setOutsider_boot (s : State) (o : Outsider) : (s.setOutsider o).boot = s.boot := rfl
@[simp] theorem State.setOutsider_recording (s : State) (o : Outsider) : (s.setOutsider o).recording = s.recording := rfl
@[simp] theorem State.setOutsider_image (s : State) (o : Outsider) : (s.setOutsider o).image = s.image := rfl
@[simp] theorem State.setOutsider_reports (s : State) (o : Outsider) : (s.setOutsider o).reports = s.reports := rfl
@[simp] theorem State.setOutsider_hostReads (s : State) (o : Outsider) : (s.setOutsider o).hostReads = s.hostReads := rfl
@[simp] theorem State.setOutsider_replay (s : State) (o : Outsider) : (s.setOutsider o).replay = s.replay := rfl
@[simp] theorem State.setOutsider_host (s : State) (o : Outsider) : (s.setOutsider o).host = s.host := rfl
@[simp] theorem State.setOutsider_history (s : State) (o : Outsider) : (s.setOutsider o).history = s.history := rfl
@[simp] theorem State.setOutsider_carried (s : State) (o : Outsider) : (s.setOutsider o).carried = s.carried := rfl
@[simp] theorem State.setOutsider_fences (s : State) (o : Outsider) : (s.setOutsider o).fences = s.fences := rfl
@[simp] theorem State.setOutsider_fenced (s : State) (o : Outsider) : (s.setOutsider o).fenced = s.fenced := rfl
@[simp] theorem State.setOutsider_relaxed (s : State) (o : Outsider) : (s.setOutsider o).relaxed = s.relaxed := rfl
@[simp] theorem State.setOutsider_nextId (s : State) (o : Outsider) : (s.setOutsider o).nextId = s.nextId := rfl
@[simp] theorem State.setOutsider_stamp (s : State) (o : Outsider) : (s.setOutsider o).stamp = s.stamp := rfl
@[simp] theorem State.setOutsider_free (s : State) (o : Outsider) : (s.setOutsider o).free = s.free := rfl
@[simp] theorem State.setOutsider_now (s : State) (o : Outsider) : (s.setOutsider o).now = s.now := rfl
@[simp] theorem State.setOutsider_cur (s : State) (o : Outsider) : (s.setOutsider o).cur = s.cur := rfl
@[simp] theorem State.setOutsider_packets (s : State) (o : Outsider) : (s.setOutsider o).packets = s.packets := rfl
@[simp] theorem State.setOutsider_passes (s : State) (o : Outsider) : (s.setOutsider o).passes = s.passes := rfl
@[simp] theorem State.setOutsider_sched (s : State) (o : Outsider) : (s.setOutsider o).sched = s.sched := rfl

@[simp] theorem State.spent_groups (s : State) (f : Form) : (s.spent f).groups = s.groups := rfl
@[simp] theorem State.spent_waves (s : State) (f : Form) : (s.spent f).waves = s.waves := rfl
@[simp] theorem State.spent_launches (s : State) (f : Form) : (s.spent f).launches = s.launches := rfl
@[simp] theorem State.spent_matrixOps (s : State) (f : Form) : (s.spent f).matrixOps = s.matrixOps := rfl
@[simp] theorem State.spent_copies (s : State) (f : Form) : (s.spent f).copies = s.copies := rfl
@[simp] theorem State.spent_bmvs (s : State) (f : Form) : (s.spent f).bmvs = s.bmvs := rfl
@[simp] theorem State.spent_regions (s : State) (f : Form) : (s.spent f).regions = s.regions := rfl
@[simp] theorem State.spent_dies (s : State) (f : Form) : (s.spent f).dies = s.dies := rfl
@[simp] theorem State.spent_streams (s : State) (f : Form) : (s.spent f).streams = s.streams := rfl
@[simp] theorem State.spent_mem (s : State) (f : Form) : (s.spent f).mem = s.mem := rfl
@[simp] theorem State.spent_poison (s : State) (f : Form) : (s.spent f).poison = s.poison := rfl
@[simp] theorem State.spent_tags (s : State) (f : Form) : (s.spent f).tags = s.tags := rfl
@[simp] theorem State.spent_tier (s : State) (f : Form) : (s.spent f).tier = s.tier := rfl
@[simp] theorem State.spent_tlb (s : State) (f : Form) : (s.spent f).tlb = s.tlb := rfl
@[simp] theorem State.spent_ptroot (s : State) (f : Form) : (s.spent f).ptroot = s.ptroot := rfl
@[simp] theorem State.spent_stackMask (s : State) (f : Form) : (s.spent f).stackMask = s.stackMask := rfl
@[simp] theorem State.spent_unitsOut (s : State) (f : Form) : (s.spent f).unitsOut = s.unitsOut := rfl
@[simp] theorem State.spent_outAtReset (s : State) (f : Form) : (s.spent f).outAtReset = s.outAtReset := rfl
@[simp] theorem State.spent_corrected (s : State) (f : Form) : (s.spent f).corrected = s.corrected := rfl
@[simp] theorem State.spent_isM (s : State) (f : Form) : (s.spent f).isM = s.isM := rfl
@[simp] theorem State.spent_moduleNo (s : State) (f : Form) : (s.spent f).moduleNo = s.moduleNo := rfl
@[simp] theorem State.spent_peers (s : State) (f : Form) : (s.spent f).peers = s.peers := rfl
@[simp] theorem State.spent_boot (s : State) (f : Form) : (s.spent f).boot = s.boot := rfl
@[simp] theorem State.spent_recording (s : State) (f : Form) : (s.spent f).recording = s.recording := rfl
@[simp] theorem State.spent_image (s : State) (f : Form) : (s.spent f).image = s.image := rfl
@[simp] theorem State.spent_reports (s : State) (f : Form) : (s.spent f).reports = s.reports := rfl
@[simp] theorem State.spent_hostReads (s : State) (f : Form) : (s.spent f).hostReads = s.hostReads := rfl
@[simp] theorem State.spent_replay (s : State) (f : Form) : (s.spent f).replay = s.replay := rfl
@[simp] theorem State.spent_host (s : State) (f : Form) : (s.spent f).host = s.host := rfl
@[simp] theorem State.spent_outsiders (s : State) (f : Form) : (s.spent f).outsiders = s.outsiders := rfl
@[simp] theorem State.spent_history (s : State) (f : Form) : (s.spent f).history = s.history := rfl
@[simp] theorem State.spent_carried (s : State) (f : Form) : (s.spent f).carried = s.carried := rfl
@[simp] theorem State.spent_fences (s : State) (f : Form) : (s.spent f).fences = s.fences := rfl
@[simp] theorem State.spent_fenced (s : State) (f : Form) : (s.spent f).fenced = s.fenced := rfl
@[simp] theorem State.spent_relaxed (s : State) (f : Form) : (s.spent f).relaxed = s.relaxed := rfl
@[simp] theorem State.spent_nextId (s : State) (f : Form) : (s.spent f).nextId = s.nextId := rfl
@[simp] theorem State.spent_stamp (s : State) (f : Form) : (s.spent f).stamp = s.stamp := rfl
@[simp] theorem State.spent_now (s : State) (f : Form) : (s.spent f).now = s.now := rfl
@[simp] theorem State.spent_cur (s : State) (f : Form) : (s.spent f).cur = s.cur := rfl
@[simp] theorem State.spent_packets (s : State) (f : Form) : (s.spent f).packets = s.packets := rfl
@[simp] theorem State.spent_passes (s : State) (f : Form) : (s.spent f).passes = s.passes := rfl
@[simp] theorem State.spent_sched (s : State) (f : Form) : (s.spent f).sched = s.sched := rfl

/-! ## Updates of a thread -/

@[simp] theorem Thread.forget_id (t : Thread) (r : Reg) : (t.forget r).id = t.id := rfl
@[simp] theorem Thread.forget_status (t : Thread) (r : Reg) : (t.forget r).status = t.status := rfl
@[simp] theorem Thread.forget_pc (t : Thread) (r : Reg) : (t.forget r).pc = t.pc := rfl
@[simp] theorem Thread.forget_regs (t : Thread) (r : Reg) : (t.forget r).regs = t.regs := rfl
@[simp] theorem Thread.forget_preds (t : Thread) (r : Reg) : (t.forget r).preds = t.preds := rfl
@[simp] theorem Thread.forget_fflags (t : Thread) (r : Reg) : (t.forget r).fflags = t.fflags := rfl
@[simp] theorem Thread.forget_fcr (t : Thread) (r : Reg) : (t.forget r).fcr = t.fcr := rfl
@[simp] theorem Thread.forget_ctl (t : Thread) (r : Reg) : (t.forget r).ctl = t.ctl := rfl
@[simp] theorem Thread.forget_fport (t : Thread) (r : Reg) : (t.forget r).fport = t.fport := rfl
@[simp] theorem Thread.forget_slim (t : Thread) (r : Reg) : (t.forget r).slim = t.slim := rfl
@[simp] theorem Thread.forget_clkh (t : Thread) (r : Reg) : (t.forget r).clkh = t.clkh := rfl
@[simp] theorem Thread.forget_h (t : Thread) (r : Reg) : (t.forget r).h = t.h := rfl
@[simp] theorem Thread.forget_mode (t : Thread) (r : Reg) : (t.forget r).mode = t.mode := rfl
@[simp] theorem Thread.forget_pending (t : Thread) (r : Reg) : (t.forget r).pending = t.pending := rfl
@[simp] theorem Thread.forget_flight (t : Thread) (r : Reg) : (t.forget r).flight = t.flight := rfl
@[simp] theorem Thread.forget_loads (t : Thread) (r : Reg) : (t.forget r).loads = t.loads := rfl
@[simp] theorem Thread.forget_stores (t : Thread) (r : Reg) : (t.forget r).stores = t.stores := rfl
@[simp] theorem Thread.forget_unposted (t : Thread) (r : Reg) : (t.forget r).unposted = t.unposted := rfl
@[simp] theorem Thread.forget_owed (t : Thread) (r : Reg) : (t.forget r).owed = t.owed := rfl
@[simp] theorem Thread.forget_modeHigh (t : Thread) (r : Reg) : (t.forget r).modeHigh = t.modeHigh := rfl
@[simp] theorem Thread.forget_spare (t : Thread) (r : Reg) : (t.forget r).spare = t.spare := rfl
@[simp] theorem Thread.forget_sight (t : Thread) (r : Reg) : (t.forget r).sight = t.sight := rfl
@[simp] theorem Thread.forget_released (t : Thread) (r : Reg) : (t.forget r).released = t.released := rfl
@[simp] theorem Thread.forget_heard (t : Thread) (r : Reg) : (t.forget r).heard = t.heard := rfl
@[simp] theorem Thread.forget_wait (t : Thread) (r : Reg) : (t.forget r).wait = t.wait := rfl
@[simp] theorem Thread.forget_held (t : Thread) (r : Reg) : (t.forget r).held = t.held := rfl
@[simp] theorem Thread.forget_readyAt (t : Thread) (r : Reg) : (t.forget r).readyAt = t.readyAt := rfl
@[simp] theorem Thread.forget_lastIssue (t : Thread) (r : Reg) : (t.forget r).lastIssue = t.lastIssue := rfl
@[simp] theorem Thread.forget_sinceRequest (t : Thread) (r : Reg) : (t.forget r).sinceRequest = t.sinceRequest := rfl
@[simp] theorem Thread.forget_reached (t : Thread) (r : Reg) : (t.forget r).reached = t.reached := rfl

@[simp] theorem Thread.putBank_id (t : Thread) (r : Reg) (v : Word) : (t.putBank r v).id = t.id := rfl
@[simp] theorem Thread.putBank_status (t : Thread) (r : Reg) (v : Word) : (t.putBank r v).status = t.status := rfl
@[simp] theorem Thread.putBank_pc (t : Thread) (r : Reg) (v : Word) : (t.putBank r v).pc = t.pc := rfl
@[simp] theorem Thread.putBank_preds (t : Thread) (r : Reg) (v : Word) : (t.putBank r v).preds = t.preds := rfl
@[simp] theorem Thread.putBank_fflags (t : Thread) (r : Reg) (v : Word) : (t.putBank r v).fflags = t.fflags := rfl
@[simp] theorem Thread.putBank_fcr (t : Thread) (r : Reg) (v : Word) : (t.putBank r v).fcr = t.fcr := rfl
@[simp] theorem Thread.putBank_ctl (t : Thread) (r : Reg) (v : Word) : (t.putBank r v).ctl = t.ctl := rfl
@[simp] theorem Thread.putBank_fport (t : Thread) (r : Reg) (v : Word) : (t.putBank r v).fport = t.fport := rfl
@[simp] theorem Thread.putBank_slim (t : Thread) (r : Reg) (v : Word) : (t.putBank r v).slim = t.slim := rfl
@[simp] theorem Thread.putBank_clkh (t : Thread) (r : Reg) (v : Word) : (t.putBank r v).clkh = t.clkh := rfl
@[simp] theorem Thread.putBank_h (t : Thread) (r : Reg) (v : Word) : (t.putBank r v).h = t.h := rfl
@[simp] theorem Thread.putBank_mode (t : Thread) (r : Reg) (v : Word) : (t.putBank r v).mode = t.mode := rfl
@[simp] theorem Thread.putBank_pending (t : Thread) (r : Reg) (v : Word) : (t.putBank r v).pending = t.pending := rfl
@[simp] theorem Thread.putBank_loads (t : Thread) (r : Reg) (v : Word) : (t.putBank r v).loads = t.loads := rfl
@[simp] theorem Thread.putBank_stores (t : Thread) (r : Reg) (v : Word) : (t.putBank r v).stores = t.stores := rfl
@[simp] theorem Thread.putBank_unposted (t : Thread) (r : Reg) (v : Word) : (t.putBank r v).unposted = t.unposted := rfl
@[simp] theorem Thread.putBank_owed (t : Thread) (r : Reg) (v : Word) : (t.putBank r v).owed = t.owed := rfl
@[simp] theorem Thread.putBank_modeHigh (t : Thread) (r : Reg) (v : Word) : (t.putBank r v).modeHigh = t.modeHigh := rfl
@[simp] theorem Thread.putBank_spare (t : Thread) (r : Reg) (v : Word) : (t.putBank r v).spare = t.spare := rfl
@[simp] theorem Thread.putBank_sight (t : Thread) (r : Reg) (v : Word) : (t.putBank r v).sight = t.sight := rfl
@[simp] theorem Thread.putBank_released (t : Thread) (r : Reg) (v : Word) : (t.putBank r v).released = t.released := rfl
@[simp] theorem Thread.putBank_heard (t : Thread) (r : Reg) (v : Word) : (t.putBank r v).heard = t.heard := rfl
@[simp] theorem Thread.putBank_wait (t : Thread) (r : Reg) (v : Word) : (t.putBank r v).wait = t.wait := rfl
@[simp] theorem Thread.putBank_held (t : Thread) (r : Reg) (v : Word) : (t.putBank r v).held = t.held := rfl
@[simp] theorem Thread.putBank_readyAt (t : Thread) (r : Reg) (v : Word) : (t.putBank r v).readyAt = t.readyAt := rfl
@[simp] theorem Thread.putBank_lastIssue (t : Thread) (r : Reg) (v : Word) : (t.putBank r v).lastIssue = t.lastIssue := rfl
@[simp] theorem Thread.putBank_sinceRequest (t : Thread) (r : Reg) (v : Word) : (t.putBank r v).sinceRequest = t.sinceRequest := rfl
@[simp] theorem Thread.putBank_reached (t : Thread) (r : Reg) (v : Word) : (t.putBank r v).reached = t.reached := rfl

@[simp] theorem Thread.commit_id (t : Thread) : t.commit.id = t.id := rfl
@[simp] theorem Thread.commit_status (t : Thread) : t.commit.status = t.status := rfl
@[simp] theorem Thread.commit_pc (t : Thread) : t.commit.pc = t.pc := rfl
@[simp] theorem Thread.commit_preds (t : Thread) : t.commit.preds = t.preds := rfl
@[simp] theorem Thread.commit_fflags (t : Thread) : t.commit.fflags = t.fflags := rfl
@[simp] theorem Thread.commit_fcr (t : Thread) : t.commit.fcr = t.fcr := rfl
@[simp] theorem Thread.commit_ctl (t : Thread) : t.commit.ctl = t.ctl := rfl
@[simp] theorem Thread.commit_fport (t : Thread) : t.commit.fport = t.fport := rfl
@[simp] theorem Thread.commit_slim (t : Thread) : t.commit.slim = t.slim := rfl
@[simp] theorem Thread.commit_clkh (t : Thread) : t.commit.clkh = t.clkh := rfl
@[simp] theorem Thread.commit_h (t : Thread) : t.commit.h = t.h := rfl
@[simp] theorem Thread.commit_mode (t : Thread) : t.commit.mode = t.mode := rfl
@[simp] theorem Thread.commit_pending (t : Thread) : t.commit.pending = t.pending := rfl
@[simp] theorem Thread.commit_flight (t : Thread) : t.commit.flight = t.flight := rfl
@[simp] theorem Thread.commit_marks (t : Thread) : t.commit.marks = t.marks := rfl
@[simp] theorem Thread.commit_loads (t : Thread) : t.commit.loads = t.loads := rfl
@[simp] theorem Thread.commit_stores (t : Thread) : t.commit.stores = t.stores := rfl
@[simp] theorem Thread.commit_unposted (t : Thread) : t.commit.unposted = t.unposted := rfl
@[simp] theorem Thread.commit_owed (t : Thread) : t.commit.owed = t.owed := rfl
@[simp] theorem Thread.commit_modeHigh (t : Thread) : t.commit.modeHigh = t.modeHigh := rfl
@[simp] theorem Thread.commit_spare (t : Thread) : t.commit.spare = t.spare := rfl
@[simp] theorem Thread.commit_sight (t : Thread) : t.commit.sight = t.sight := rfl
@[simp] theorem Thread.commit_released (t : Thread) : t.commit.released = t.released := rfl
@[simp] theorem Thread.commit_heard (t : Thread) : t.commit.heard = t.heard := rfl
@[simp] theorem Thread.commit_wait (t : Thread) : t.commit.wait = t.wait := rfl
@[simp] theorem Thread.commit_held (t : Thread) : t.commit.held = t.held := rfl
@[simp] theorem Thread.commit_readyAt (t : Thread) : t.commit.readyAt = t.readyAt := rfl
@[simp] theorem Thread.commit_lastIssue (t : Thread) : t.commit.lastIssue = t.lastIssue := rfl
@[simp] theorem Thread.commit_sinceRequest (t : Thread) : t.commit.sinceRequest = t.sinceRequest := rfl
@[simp] theorem Thread.commit_reached (t : Thread) : t.commit.reached = t.reached := rfl

@[simp] theorem Thread.settle_id (t : Thread) : t.settle.id = t.id := rfl
@[simp] theorem Thread.settle_status (t : Thread) : t.settle.status = t.status := rfl
@[simp] theorem Thread.settle_pc (t : Thread) : t.settle.pc = t.pc := rfl
@[simp] theorem Thread.settle_regs (t : Thread) : t.settle.regs = t.regs := rfl
@[simp] theorem Thread.settle_preds (t : Thread) : t.settle.preds = t.preds := rfl
@[simp] theorem Thread.settle_fflags (t : Thread) : t.settle.fflags = t.fflags := rfl
@[simp] theorem Thread.settle_fcr (t : Thread) : t.settle.fcr = t.fcr := rfl
@[simp] theorem Thread.settle_ctl (t : Thread) : t.settle.ctl = t.ctl := rfl
@[simp] theorem Thread.settle_fport (t : Thread) : t.settle.fport = t.fport := rfl
@[simp] theorem Thread.settle_slim (t : Thread) : t.settle.slim = t.slim := rfl
@[simp] theorem Thread.settle_clkh (t : Thread) : t.settle.clkh = t.clkh := rfl
@[simp] theorem Thread.settle_h (t : Thread) : t.settle.h = t.h := rfl
@[simp] theorem Thread.settle_mode (t : Thread) : t.settle.mode = t.mode := rfl
@[simp] theorem Thread.settle_pending (t : Thread) : t.settle.pending = t.pending := rfl
@[simp] theorem Thread.settle_trans (t : Thread) : t.settle.trans = t.trans := rfl
@[simp] theorem Thread.settle_marks (t : Thread) : t.settle.marks = t.marks := rfl
@[simp] theorem Thread.settle_loads (t : Thread) : t.settle.loads = t.loads := rfl
@[simp] theorem Thread.settle_stores (t : Thread) : t.settle.stores = t.stores := rfl
@[simp] theorem Thread.settle_unposted (t : Thread) : t.settle.unposted = t.unposted := rfl
@[simp] theorem Thread.settle_owed (t : Thread) : t.settle.owed = t.owed := rfl
@[simp] theorem Thread.settle_modeHigh (t : Thread) : t.settle.modeHigh = t.modeHigh := rfl
@[simp] theorem Thread.settle_spare (t : Thread) : t.settle.spare = t.spare := rfl
@[simp] theorem Thread.settle_sight (t : Thread) : t.settle.sight = t.sight := rfl
@[simp] theorem Thread.settle_released (t : Thread) : t.settle.released = t.released := rfl
@[simp] theorem Thread.settle_heard (t : Thread) : t.settle.heard = t.heard := rfl
@[simp] theorem Thread.settle_wait (t : Thread) : t.settle.wait = t.wait := rfl
@[simp] theorem Thread.settle_held (t : Thread) : t.settle.held = t.held := rfl
@[simp] theorem Thread.settle_readyAt (t : Thread) : t.settle.readyAt = t.readyAt := rfl
@[simp] theorem Thread.settle_lastIssue (t : Thread) : t.settle.lastIssue = t.lastIssue := rfl
@[simp] theorem Thread.settle_sinceRequest (t : Thread) : t.settle.sinceRequest = t.sinceRequest := rfl
@[simp] theorem Thread.settle_reached (t : Thread) : t.settle.reached = t.reached := rfl

@[simp] theorem Thread.arriving_id (t : Thread) : t.arriving.id = t.id := rfl
@[simp] theorem Thread.arriving_status (t : Thread) : t.arriving.status = t.status := rfl
@[simp] theorem Thread.arriving_pc (t : Thread) : t.arriving.pc = t.pc := rfl
@[simp] theorem Thread.arriving_preds (t : Thread) : t.arriving.preds = t.preds := rfl
@[simp] theorem Thread.arriving_fflags (t : Thread) : t.arriving.fflags = t.fflags := rfl
@[simp] theorem Thread.arriving_fcr (t : Thread) : t.arriving.fcr = t.fcr := rfl
@[simp] theorem Thread.arriving_ctl (t : Thread) : t.arriving.ctl = t.ctl := rfl
@[simp] theorem Thread.arriving_fport (t : Thread) : t.arriving.fport = t.fport := rfl
@[simp] theorem Thread.arriving_slim (t : Thread) : t.arriving.slim = t.slim := rfl
@[simp] theorem Thread.arriving_clkh (t : Thread) : t.arriving.clkh = t.clkh := rfl
@[simp] theorem Thread.arriving_h (t : Thread) : t.arriving.h = t.h := rfl
@[simp] theorem Thread.arriving_mode (t : Thread) : t.arriving.mode = t.mode := rfl
@[simp] theorem Thread.arriving_pending (t : Thread) : t.arriving.pending = t.pending := rfl
@[simp] theorem Thread.arriving_marks (t : Thread) : t.arriving.marks = t.marks := rfl
@[simp] theorem Thread.arriving_loads (t : Thread) : t.arriving.loads = t.loads := rfl
@[simp] theorem Thread.arriving_stores (t : Thread) : t.arriving.stores = t.stores := rfl
@[simp] theorem Thread.arriving_unposted (t : Thread) : t.arriving.unposted = t.unposted := rfl
@[simp] theorem Thread.arriving_owed (t : Thread) : t.arriving.owed = t.owed := rfl
@[simp] theorem Thread.arriving_modeHigh (t : Thread) : t.arriving.modeHigh = t.modeHigh := rfl
@[simp] theorem Thread.arriving_spare (t : Thread) : t.arriving.spare = t.spare := rfl
@[simp] theorem Thread.arriving_sight (t : Thread) : t.arriving.sight = t.sight := rfl
@[simp] theorem Thread.arriving_released (t : Thread) : t.arriving.released = t.released := rfl
@[simp] theorem Thread.arriving_heard (t : Thread) : t.arriving.heard = t.heard := rfl
@[simp] theorem Thread.arriving_wait (t : Thread) : t.arriving.wait = t.wait := rfl
@[simp] theorem Thread.arriving_held (t : Thread) : t.arriving.held = t.held := rfl
@[simp] theorem Thread.arriving_readyAt (t : Thread) : t.arriving.readyAt = t.readyAt := rfl
@[simp] theorem Thread.arriving_lastIssue (t : Thread) : t.arriving.lastIssue = t.lastIssue := rfl
@[simp] theorem Thread.arriving_sinceRequest (t : Thread) : t.arriving.sinceRequest = t.sinceRequest := rfl
@[simp] theorem Thread.arriving_reached (t : Thread) : t.arriving.reached = t.reached := rfl

@[simp] theorem Thread.advance_id (t : Thread) (len stall now : Nat) : (t.advance len stall now).id = t.id := rfl
@[simp] theorem Thread.advance_status (t : Thread) (len stall now : Nat) : (t.advance len stall now).status = t.status := rfl
@[simp] theorem Thread.advance_regs (t : Thread) (len stall now : Nat) : (t.advance len stall now).regs = t.regs := rfl
@[simp] theorem Thread.advance_preds (t : Thread) (len stall now : Nat) : (t.advance len stall now).preds = t.preds := rfl
@[simp] theorem Thread.advance_fflags (t : Thread) (len stall now : Nat) : (t.advance len stall now).fflags = t.fflags := rfl
@[simp] theorem Thread.advance_fcr (t : Thread) (len stall now : Nat) : (t.advance len stall now).fcr = t.fcr := rfl
@[simp] theorem Thread.advance_ctl (t : Thread) (len stall now : Nat) : (t.advance len stall now).ctl = t.ctl := rfl
@[simp] theorem Thread.advance_fport (t : Thread) (len stall now : Nat) : (t.advance len stall now).fport = t.fport := rfl
@[simp] theorem Thread.advance_slim (t : Thread) (len stall now : Nat) : (t.advance len stall now).slim = t.slim := rfl
@[simp] theorem Thread.advance_clkh (t : Thread) (len stall now : Nat) : (t.advance len stall now).clkh = t.clkh := rfl
@[simp] theorem Thread.advance_h (t : Thread) (len stall now : Nat) : (t.advance len stall now).h = t.h := rfl
@[simp] theorem Thread.advance_mode (t : Thread) (len stall now : Nat) : (t.advance len stall now).mode = t.mode := rfl
@[simp] theorem Thread.advance_pending (t : Thread) (len stall now : Nat) : (t.advance len stall now).pending = t.pending := rfl
@[simp] theorem Thread.advance_marks (t : Thread) (len stall now : Nat) : (t.advance len stall now).marks = t.marks := rfl
@[simp] theorem Thread.advance_loads (t : Thread) (len stall now : Nat) : (t.advance len stall now).loads = t.loads := rfl
@[simp] theorem Thread.advance_stores (t : Thread) (len stall now : Nat) : (t.advance len stall now).stores = t.stores := rfl
@[simp] theorem Thread.advance_unposted (t : Thread) (len stall now : Nat) : (t.advance len stall now).unposted = t.unposted := rfl
@[simp] theorem Thread.advance_owed (t : Thread) (len stall now : Nat) : (t.advance len stall now).owed = t.owed := rfl
@[simp] theorem Thread.advance_modeHigh (t : Thread) (len stall now : Nat) : (t.advance len stall now).modeHigh = t.modeHigh := rfl
@[simp] theorem Thread.advance_spare (t : Thread) (len stall now : Nat) : (t.advance len stall now).spare = t.spare := rfl
@[simp] theorem Thread.advance_sight (t : Thread) (len stall now : Nat) : (t.advance len stall now).sight = t.sight := rfl
@[simp] theorem Thread.advance_released (t : Thread) (len stall now : Nat) : (t.advance len stall now).released = t.released := rfl
@[simp] theorem Thread.advance_heard (t : Thread) (len stall now : Nat) : (t.advance len stall now).heard = t.heard := rfl
@[simp] theorem Thread.advance_reached (t : Thread) (len stall now : Nat) : (t.advance len stall now).reached = t.reached := rfl

@[simp] theorem Thread.stalled_id (t : Thread) (w : Wait) (now : Nat) : (t.stalled w now).id = t.id := rfl
@[simp] theorem Thread.stalled_status (t : Thread) (w : Wait) (now : Nat) : (t.stalled w now).status = t.status := rfl
@[simp] theorem Thread.stalled_pc (t : Thread) (w : Wait) (now : Nat) : (t.stalled w now).pc = t.pc := rfl
@[simp] theorem Thread.stalled_regs (t : Thread) (w : Wait) (now : Nat) : (t.stalled w now).regs = t.regs := rfl
@[simp] theorem Thread.stalled_preds (t : Thread) (w : Wait) (now : Nat) : (t.stalled w now).preds = t.preds := rfl
@[simp] theorem Thread.stalled_fflags (t : Thread) (w : Wait) (now : Nat) : (t.stalled w now).fflags = t.fflags := rfl
@[simp] theorem Thread.stalled_fcr (t : Thread) (w : Wait) (now : Nat) : (t.stalled w now).fcr = t.fcr := rfl
@[simp] theorem Thread.stalled_ctl (t : Thread) (w : Wait) (now : Nat) : (t.stalled w now).ctl = t.ctl := rfl
@[simp] theorem Thread.stalled_fport (t : Thread) (w : Wait) (now : Nat) : (t.stalled w now).fport = t.fport := rfl
@[simp] theorem Thread.stalled_slim (t : Thread) (w : Wait) (now : Nat) : (t.stalled w now).slim = t.slim := rfl
@[simp] theorem Thread.stalled_clkh (t : Thread) (w : Wait) (now : Nat) : (t.stalled w now).clkh = t.clkh := rfl
@[simp] theorem Thread.stalled_h (t : Thread) (w : Wait) (now : Nat) : (t.stalled w now).h = t.h := rfl
@[simp] theorem Thread.stalled_mode (t : Thread) (w : Wait) (now : Nat) : (t.stalled w now).mode = t.mode := rfl
@[simp] theorem Thread.stalled_pending (t : Thread) (w : Wait) (now : Nat) : (t.stalled w now).pending = t.pending := rfl
@[simp] theorem Thread.stalled_flight (t : Thread) (w : Wait) (now : Nat) : (t.stalled w now).flight = t.flight := rfl
@[simp] theorem Thread.stalled_trans (t : Thread) (w : Wait) (now : Nat) : (t.stalled w now).trans = t.trans := rfl
@[simp] theorem Thread.stalled_marks (t : Thread) (w : Wait) (now : Nat) : (t.stalled w now).marks = t.marks := rfl
@[simp] theorem Thread.stalled_loads (t : Thread) (w : Wait) (now : Nat) : (t.stalled w now).loads = t.loads := rfl
@[simp] theorem Thread.stalled_stores (t : Thread) (w : Wait) (now : Nat) : (t.stalled w now).stores = t.stores := rfl
@[simp] theorem Thread.stalled_unposted (t : Thread) (w : Wait) (now : Nat) : (t.stalled w now).unposted = t.unposted := rfl
@[simp] theorem Thread.stalled_owed (t : Thread) (w : Wait) (now : Nat) : (t.stalled w now).owed = t.owed := rfl
@[simp] theorem Thread.stalled_modeHigh (t : Thread) (w : Wait) (now : Nat) : (t.stalled w now).modeHigh = t.modeHigh := rfl
@[simp] theorem Thread.stalled_spare (t : Thread) (w : Wait) (now : Nat) : (t.stalled w now).spare = t.spare := rfl
@[simp] theorem Thread.stalled_sight (t : Thread) (w : Wait) (now : Nat) : (t.stalled w now).sight = t.sight := rfl
@[simp] theorem Thread.stalled_released (t : Thread) (w : Wait) (now : Nat) : (t.stalled w now).released = t.released := rfl
@[simp] theorem Thread.stalled_heard (t : Thread) (w : Wait) (now : Nat) : (t.stalled w now).heard = t.heard := rfl
@[simp] theorem Thread.stalled_held (t : Thread) (w : Wait) (now : Nat) : (t.stalled w now).held = t.held := rfl
@[simp] theorem Thread.stalled_sinceRequest (t : Thread) (w : Wait) (now : Nat) : (t.stalled w now).sinceRequest = t.sinceRequest := rfl
@[simp] theorem Thread.stalled_reached (t : Thread) (w : Wait) (now : Nat) : (t.stalled w now).reached = t.reached := rfl

@[simp] theorem Thread.learn_id (t : Thread) (k : Know) : (t.learn k).id = t.id := rfl
@[simp] theorem Thread.learn_status (t : Thread) (k : Know) : (t.learn k).status = t.status := rfl
@[simp] theorem Thread.learn_pc (t : Thread) (k : Know) : (t.learn k).pc = t.pc := rfl
@[simp] theorem Thread.learn_regs (t : Thread) (k : Know) : (t.learn k).regs = t.regs := rfl
@[simp] theorem Thread.learn_preds (t : Thread) (k : Know) : (t.learn k).preds = t.preds := rfl
@[simp] theorem Thread.learn_fflags (t : Thread) (k : Know) : (t.learn k).fflags = t.fflags := rfl
@[simp] theorem Thread.learn_fcr (t : Thread) (k : Know) : (t.learn k).fcr = t.fcr := rfl
@[simp] theorem Thread.learn_ctl (t : Thread) (k : Know) : (t.learn k).ctl = t.ctl := rfl
@[simp] theorem Thread.learn_fport (t : Thread) (k : Know) : (t.learn k).fport = t.fport := rfl
@[simp] theorem Thread.learn_slim (t : Thread) (k : Know) : (t.learn k).slim = t.slim := rfl
@[simp] theorem Thread.learn_clkh (t : Thread) (k : Know) : (t.learn k).clkh = t.clkh := rfl
@[simp] theorem Thread.learn_h (t : Thread) (k : Know) : (t.learn k).h = t.h := rfl
@[simp] theorem Thread.learn_mode (t : Thread) (k : Know) : (t.learn k).mode = t.mode := rfl
@[simp] theorem Thread.learn_pending (t : Thread) (k : Know) : (t.learn k).pending = t.pending := rfl
@[simp] theorem Thread.learn_flight (t : Thread) (k : Know) : (t.learn k).flight = t.flight := rfl
@[simp] theorem Thread.learn_trans (t : Thread) (k : Know) : (t.learn k).trans = t.trans := rfl
@[simp] theorem Thread.learn_marks (t : Thread) (k : Know) : (t.learn k).marks = t.marks := rfl
@[simp] theorem Thread.learn_loads (t : Thread) (k : Know) : (t.learn k).loads = t.loads := rfl
@[simp] theorem Thread.learn_stores (t : Thread) (k : Know) : (t.learn k).stores = t.stores := rfl
@[simp] theorem Thread.learn_unposted (t : Thread) (k : Know) : (t.learn k).unposted = t.unposted := rfl
@[simp] theorem Thread.learn_owed (t : Thread) (k : Know) : (t.learn k).owed = t.owed := rfl
@[simp] theorem Thread.learn_modeHigh (t : Thread) (k : Know) : (t.learn k).modeHigh = t.modeHigh := rfl
@[simp] theorem Thread.learn_spare (t : Thread) (k : Know) : (t.learn k).spare = t.spare := rfl
@[simp] theorem Thread.learn_released (t : Thread) (k : Know) : (t.learn k).released = t.released := rfl
@[simp] theorem Thread.learn_heard (t : Thread) (k : Know) : (t.learn k).heard = t.heard := rfl
@[simp] theorem Thread.learn_wait (t : Thread) (k : Know) : (t.learn k).wait = t.wait := rfl
@[simp] theorem Thread.learn_held (t : Thread) (k : Know) : (t.learn k).held = t.held := rfl
@[simp] theorem Thread.learn_readyAt (t : Thread) (k : Know) : (t.learn k).readyAt = t.readyAt := rfl
@[simp] theorem Thread.learn_lastIssue (t : Thread) (k : Know) : (t.learn k).lastIssue = t.lastIssue := rfl
@[simp] theorem Thread.learn_sinceRequest (t : Thread) (k : Know) : (t.learn k).sinceRequest = t.sinceRequest := rfl
@[simp] theorem Thread.learn_reached (t : Thread) (k : Know) : (t.learn k).reached = t.reached := rfl

@[simp] theorem Thread.acquire_id (t : Thread) (core : CoreId) (sc : Scope) : (t.acquire core sc).id = t.id := rfl
@[simp] theorem Thread.acquire_status (t : Thread) (core : CoreId) (sc : Scope) : (t.acquire core sc).status = t.status := rfl
@[simp] theorem Thread.acquire_pc (t : Thread) (core : CoreId) (sc : Scope) : (t.acquire core sc).pc = t.pc := rfl
@[simp] theorem Thread.acquire_regs (t : Thread) (core : CoreId) (sc : Scope) : (t.acquire core sc).regs = t.regs := rfl
@[simp] theorem Thread.acquire_preds (t : Thread) (core : CoreId) (sc : Scope) : (t.acquire core sc).preds = t.preds := rfl
@[simp] theorem Thread.acquire_fflags (t : Thread) (core : CoreId) (sc : Scope) : (t.acquire core sc).fflags = t.fflags := rfl
@[simp] theorem Thread.acquire_fcr (t : Thread) (core : CoreId) (sc : Scope) : (t.acquire core sc).fcr = t.fcr := rfl
@[simp] theorem Thread.acquire_ctl (t : Thread) (core : CoreId) (sc : Scope) : (t.acquire core sc).ctl = t.ctl := rfl
@[simp] theorem Thread.acquire_fport (t : Thread) (core : CoreId) (sc : Scope) : (t.acquire core sc).fport = t.fport := rfl
@[simp] theorem Thread.acquire_slim (t : Thread) (core : CoreId) (sc : Scope) : (t.acquire core sc).slim = t.slim := rfl
@[simp] theorem Thread.acquire_clkh (t : Thread) (core : CoreId) (sc : Scope) : (t.acquire core sc).clkh = t.clkh := rfl
@[simp] theorem Thread.acquire_h (t : Thread) (core : CoreId) (sc : Scope) : (t.acquire core sc).h = t.h := rfl
@[simp] theorem Thread.acquire_mode (t : Thread) (core : CoreId) (sc : Scope) : (t.acquire core sc).mode = t.mode := rfl
@[simp] theorem Thread.acquire_pending (t : Thread) (core : CoreId) (sc : Scope) : (t.acquire core sc).pending = t.pending := rfl
@[simp] theorem Thread.acquire_flight (t : Thread) (core : CoreId) (sc : Scope) : (t.acquire core sc).flight = t.flight := rfl
@[simp] theorem Thread.acquire_trans (t : Thread) (core : CoreId) (sc : Scope) : (t.acquire core sc).trans = t.trans := rfl
@[simp] theorem Thread.acquire_marks (t : Thread) (core : CoreId) (sc : Scope) : (t.acquire core sc).marks = t.marks := rfl
@[simp] theorem Thread.acquire_loads (t : Thread) (core : CoreId) (sc : Scope) : (t.acquire core sc).loads = t.loads := rfl
@[simp] theorem Thread.acquire_stores (t : Thread) (core : CoreId) (sc : Scope) : (t.acquire core sc).stores = t.stores := rfl
@[simp] theorem Thread.acquire_unposted (t : Thread) (core : CoreId) (sc : Scope) : (t.acquire core sc).unposted = t.unposted := rfl
@[simp] theorem Thread.acquire_owed (t : Thread) (core : CoreId) (sc : Scope) : (t.acquire core sc).owed = t.owed := rfl
@[simp] theorem Thread.acquire_modeHigh (t : Thread) (core : CoreId) (sc : Scope) : (t.acquire core sc).modeHigh = t.modeHigh := rfl
@[simp] theorem Thread.acquire_spare (t : Thread) (core : CoreId) (sc : Scope) : (t.acquire core sc).spare = t.spare := rfl
@[simp] theorem Thread.acquire_released (t : Thread) (core : CoreId) (sc : Scope) : (t.acquire core sc).released = t.released := rfl
@[simp] theorem Thread.acquire_heard (t : Thread) (core : CoreId) (sc : Scope) : (t.acquire core sc).heard = t.heard := rfl
@[simp] theorem Thread.acquire_wait (t : Thread) (core : CoreId) (sc : Scope) : (t.acquire core sc).wait = t.wait := rfl
@[simp] theorem Thread.acquire_held (t : Thread) (core : CoreId) (sc : Scope) : (t.acquire core sc).held = t.held := rfl
@[simp] theorem Thread.acquire_readyAt (t : Thread) (core : CoreId) (sc : Scope) : (t.acquire core sc).readyAt = t.readyAt := rfl
@[simp] theorem Thread.acquire_lastIssue (t : Thread) (core : CoreId) (sc : Scope) : (t.acquire core sc).lastIssue = t.lastIssue := rfl
@[simp] theorem Thread.acquire_sinceRequest (t : Thread) (core : CoreId) (sc : Scope) : (t.acquire core sc).sinceRequest = t.sinceRequest := rfl
@[simp] theorem Thread.acquire_reached (t : Thread) (core : CoreId) (sc : Scope) : (t.acquire core sc).reached = t.reached := rfl

@[simp] theorem Thread.push_id (t : Thread) (b : Bool) : (t.push b).id = t.id := rfl
@[simp] theorem Thread.push_status (t : Thread) (b : Bool) : (t.push b).status = t.status := rfl
@[simp] theorem Thread.push_pc (t : Thread) (b : Bool) : (t.push b).pc = t.pc := rfl
@[simp] theorem Thread.push_regs (t : Thread) (b : Bool) : (t.push b).regs = t.regs := rfl
@[simp] theorem Thread.push_fflags (t : Thread) (b : Bool) : (t.push b).fflags = t.fflags := rfl
@[simp] theorem Thread.push_fcr (t : Thread) (b : Bool) : (t.push b).fcr = t.fcr := rfl
@[simp] theorem Thread.push_ctl (t : Thread) (b : Bool) : (t.push b).ctl = t.ctl := rfl
@[simp] theorem Thread.push_fport (t : Thread) (b : Bool) : (t.push b).fport = t.fport := rfl
@[simp] theorem Thread.push_slim (t : Thread) (b : Bool) : (t.push b).slim = t.slim := rfl
@[simp] theorem Thread.push_clkh (t : Thread) (b : Bool) : (t.push b).clkh = t.clkh := rfl
@[simp] theorem Thread.push_h (t : Thread) (b : Bool) : (t.push b).h = t.h := rfl
@[simp] theorem Thread.push_mode (t : Thread) (b : Bool) : (t.push b).mode = t.mode := rfl
@[simp] theorem Thread.push_pending (t : Thread) (b : Bool) : (t.push b).pending = t.pending := rfl
@[simp] theorem Thread.push_flight (t : Thread) (b : Bool) : (t.push b).flight = t.flight := rfl
@[simp] theorem Thread.push_trans (t : Thread) (b : Bool) : (t.push b).trans = t.trans := rfl
@[simp] theorem Thread.push_marks (t : Thread) (b : Bool) : (t.push b).marks = t.marks := rfl
@[simp] theorem Thread.push_loads (t : Thread) (b : Bool) : (t.push b).loads = t.loads := rfl
@[simp] theorem Thread.push_stores (t : Thread) (b : Bool) : (t.push b).stores = t.stores := rfl
@[simp] theorem Thread.push_unposted (t : Thread) (b : Bool) : (t.push b).unposted = t.unposted := rfl
@[simp] theorem Thread.push_owed (t : Thread) (b : Bool) : (t.push b).owed = t.owed := rfl
@[simp] theorem Thread.push_modeHigh (t : Thread) (b : Bool) : (t.push b).modeHigh = t.modeHigh := rfl
@[simp] theorem Thread.push_spare (t : Thread) (b : Bool) : (t.push b).spare = t.spare := rfl
@[simp] theorem Thread.push_sight (t : Thread) (b : Bool) : (t.push b).sight = t.sight := rfl
@[simp] theorem Thread.push_released (t : Thread) (b : Bool) : (t.push b).released = t.released := rfl
@[simp] theorem Thread.push_heard (t : Thread) (b : Bool) : (t.push b).heard = t.heard := rfl
@[simp] theorem Thread.push_wait (t : Thread) (b : Bool) : (t.push b).wait = t.wait := rfl
@[simp] theorem Thread.push_held (t : Thread) (b : Bool) : (t.push b).held = t.held := rfl
@[simp] theorem Thread.push_readyAt (t : Thread) (b : Bool) : (t.push b).readyAt = t.readyAt := rfl
@[simp] theorem Thread.push_lastIssue (t : Thread) (b : Bool) : (t.push b).lastIssue = t.lastIssue := rfl
@[simp] theorem Thread.push_sinceRequest (t : Thread) (b : Bool) : (t.push b).sinceRequest = t.sinceRequest := rfl
@[simp] theorem Thread.push_reached (t : Thread) (b : Bool) : (t.push b).reached = t.reached := rfl

@[simp] theorem Thread.pop_id (t : Thread) : t.pop.id = t.id := rfl
@[simp] theorem Thread.pop_status (t : Thread) : t.pop.status = t.status := rfl
@[simp] theorem Thread.pop_pc (t : Thread) : t.pop.pc = t.pc := rfl
@[simp] theorem Thread.pop_regs (t : Thread) : t.pop.regs = t.regs := rfl
@[simp] theorem Thread.pop_fflags (t : Thread) : t.pop.fflags = t.fflags := rfl
@[simp] theorem Thread.pop_fcr (t : Thread) : t.pop.fcr = t.fcr := rfl
@[simp] theorem Thread.pop_ctl (t : Thread) : t.pop.ctl = t.ctl := rfl
@[simp] theorem Thread.pop_fport (t : Thread) : t.pop.fport = t.fport := rfl
@[simp] theorem Thread.pop_slim (t : Thread) : t.pop.slim = t.slim := rfl
@[simp] theorem Thread.pop_clkh (t : Thread) : t.pop.clkh = t.clkh := rfl
@[simp] theorem Thread.pop_h (t : Thread) : t.pop.h = t.h := rfl
@[simp] theorem Thread.pop_mode (t : Thread) : t.pop.mode = t.mode := rfl
@[simp] theorem Thread.pop_pending (t : Thread) : t.pop.pending = t.pending := rfl
@[simp] theorem Thread.pop_flight (t : Thread) : t.pop.flight = t.flight := rfl
@[simp] theorem Thread.pop_trans (t : Thread) : t.pop.trans = t.trans := rfl
@[simp] theorem Thread.pop_marks (t : Thread) : t.pop.marks = t.marks := rfl
@[simp] theorem Thread.pop_loads (t : Thread) : t.pop.loads = t.loads := rfl
@[simp] theorem Thread.pop_stores (t : Thread) : t.pop.stores = t.stores := rfl
@[simp] theorem Thread.pop_unposted (t : Thread) : t.pop.unposted = t.unposted := rfl
@[simp] theorem Thread.pop_owed (t : Thread) : t.pop.owed = t.owed := rfl
@[simp] theorem Thread.pop_modeHigh (t : Thread) : t.pop.modeHigh = t.modeHigh := rfl
@[simp] theorem Thread.pop_spare (t : Thread) : t.pop.spare = t.spare := rfl
@[simp] theorem Thread.pop_sight (t : Thread) : t.pop.sight = t.sight := rfl
@[simp] theorem Thread.pop_released (t : Thread) : t.pop.released = t.released := rfl
@[simp] theorem Thread.pop_heard (t : Thread) : t.pop.heard = t.heard := rfl
@[simp] theorem Thread.pop_wait (t : Thread) : t.pop.wait = t.wait := rfl
@[simp] theorem Thread.pop_held (t : Thread) : t.pop.held = t.held := rfl
@[simp] theorem Thread.pop_readyAt (t : Thread) : t.pop.readyAt = t.readyAt := rfl
@[simp] theorem Thread.pop_lastIssue (t : Thread) : t.pop.lastIssue = t.lastIssue := rfl
@[simp] theorem Thread.pop_sinceRequest (t : Thread) : t.pop.sinceRequest = t.sinceRequest := rfl
@[simp] theorem Thread.pop_reached (t : Thread) : t.pop.reached = t.reached := rfl

@[simp] theorem Thread.putFixed_id (t : Thread) (r : Reg) (v : Word) (l : Nat) (tr pd : Bool) :
    (t.putFixed r v l tr pd).id = t.id := by cases tr <;> rfl
@[simp] theorem Thread.putFixed_status (t : Thread) (r : Reg) (v : Word) (l : Nat) (tr pd : Bool) :
    (t.putFixed r v l tr pd).status = t.status := by cases tr <;> rfl
@[simp] theorem Thread.putFixed_pc (t : Thread) (r : Reg) (v : Word) (l : Nat) (tr pd : Bool) :
    (t.putFixed r v l tr pd).pc = t.pc := by cases tr <;> rfl
@[simp] theorem Thread.putFixed_preds (t : Thread) (r : Reg) (v : Word) (l : Nat) (tr pd : Bool) :
    (t.putFixed r v l tr pd).preds = t.preds := by cases tr <;> rfl
@[simp] theorem Thread.putFixed_fflags (t : Thread) (r : Reg) (v : Word) (l : Nat) (tr pd : Bool) :
    (t.putFixed r v l tr pd).fflags = t.fflags := by cases tr <;> rfl
@[simp] theorem Thread.putFixed_fcr (t : Thread) (r : Reg) (v : Word) (l : Nat) (tr pd : Bool) :
    (t.putFixed r v l tr pd).fcr = t.fcr := by cases tr <;> rfl
@[simp] theorem Thread.putFixed_ctl (t : Thread) (r : Reg) (v : Word) (l : Nat) (tr pd : Bool) :
    (t.putFixed r v l tr pd).ctl = t.ctl := by cases tr <;> rfl
@[simp] theorem Thread.putFixed_fport (t : Thread) (r : Reg) (v : Word) (l : Nat) (tr pd : Bool) :
    (t.putFixed r v l tr pd).fport = t.fport := by cases tr <;> rfl
@[simp] theorem Thread.putFixed_slim (t : Thread) (r : Reg) (v : Word) (l : Nat) (tr pd : Bool) :
    (t.putFixed r v l tr pd).slim = t.slim := by cases tr <;> rfl
@[simp] theorem Thread.putFixed_clkh (t : Thread) (r : Reg) (v : Word) (l : Nat) (tr pd : Bool) :
    (t.putFixed r v l tr pd).clkh = t.clkh := by cases tr <;> rfl
@[simp] theorem Thread.putFixed_h (t : Thread) (r : Reg) (v : Word) (l : Nat) (tr pd : Bool) :
    (t.putFixed r v l tr pd).h = t.h := by cases tr <;> rfl
@[simp] theorem Thread.putFixed_mode (t : Thread) (r : Reg) (v : Word) (l : Nat) (tr pd : Bool) :
    (t.putFixed r v l tr pd).mode = t.mode := by cases tr <;> rfl
@[simp] theorem Thread.putFixed_pending (t : Thread) (r : Reg) (v : Word) (l : Nat) (tr pd : Bool) :
    (t.putFixed r v l tr pd).pending = t.pending := by cases tr <;> rfl
@[simp] theorem Thread.putFixed_loads (t : Thread) (r : Reg) (v : Word) (l : Nat) (tr pd : Bool) :
    (t.putFixed r v l tr pd).loads = t.loads := by cases tr <;> rfl
@[simp] theorem Thread.putFixed_stores (t : Thread) (r : Reg) (v : Word) (l : Nat) (tr pd : Bool) :
    (t.putFixed r v l tr pd).stores = t.stores := by cases tr <;> rfl
@[simp] theorem Thread.putFixed_unposted (t : Thread) (r : Reg) (v : Word) (l : Nat) (tr pd : Bool) :
    (t.putFixed r v l tr pd).unposted = t.unposted := by cases tr <;> rfl
@[simp] theorem Thread.putFixed_owed (t : Thread) (r : Reg) (v : Word) (l : Nat) (tr pd : Bool) :
    (t.putFixed r v l tr pd).owed = t.owed := by cases tr <;> rfl
@[simp] theorem Thread.putFixed_modeHigh (t : Thread) (r : Reg) (v : Word) (l : Nat) (tr pd : Bool) :
    (t.putFixed r v l tr pd).modeHigh = t.modeHigh := by cases tr <;> rfl
@[simp] theorem Thread.putFixed_spare (t : Thread) (r : Reg) (v : Word) (l : Nat) (tr pd : Bool) :
    (t.putFixed r v l tr pd).spare = t.spare := by cases tr <;> rfl
@[simp] theorem Thread.putFixed_sight (t : Thread) (r : Reg) (v : Word) (l : Nat) (tr pd : Bool) :
    (t.putFixed r v l tr pd).sight = t.sight := by cases tr <;> rfl
@[simp] theorem Thread.putFixed_released (t : Thread) (r : Reg) (v : Word) (l : Nat) (tr pd : Bool) :
    (t.putFixed r v l tr pd).released = t.released := by cases tr <;> rfl
@[simp] theorem Thread.putFixed_heard (t : Thread) (r : Reg) (v : Word) (l : Nat) (tr pd : Bool) :
    (t.putFixed r v l tr pd).heard = t.heard := by cases tr <;> rfl
@[simp] theorem Thread.putFixed_wait (t : Thread) (r : Reg) (v : Word) (l : Nat) (tr pd : Bool) :
    (t.putFixed r v l tr pd).wait = t.wait := by cases tr <;> rfl
@[simp] theorem Thread.putFixed_held (t : Thread) (r : Reg) (v : Word) (l : Nat) (tr pd : Bool) :
    (t.putFixed r v l tr pd).held = t.held := by cases tr <;> rfl
@[simp] theorem Thread.putFixed_readyAt (t : Thread) (r : Reg) (v : Word) (l : Nat) (tr pd : Bool) :
    (t.putFixed r v l tr pd).readyAt = t.readyAt := by cases tr <;> rfl
@[simp] theorem Thread.putFixed_lastIssue (t : Thread) (r : Reg) (v : Word) (l : Nat) (tr pd : Bool) :
    (t.putFixed r v l tr pd).lastIssue = t.lastIssue := by cases tr <;> rfl
@[simp] theorem Thread.putFixed_sinceRequest (t : Thread) (r : Reg) (v : Word) (l : Nat) (tr pd : Bool) :
    (t.putFixed r v l tr pd).sinceRequest = t.sinceRequest := by cases tr <;> rfl
@[simp] theorem Thread.putFixed_reached (t : Thread) (r : Reg) (v : Word) (l : Nat) (tr pd : Bool) :
    (t.putFixed r v l tr pd).reached = t.reached := by cases tr <;> rfl

@[simp] theorem Thread.putBanks_id (t : Thread) (ws : List (Reg × Word)) : (t.putBanks ws).id = t.id := by
  unfold Thread.putBanks; induction ws generalizing t with
  | nil => rfl
  | cons w ws ih => simp [ih]
@[simp] theorem Thread.putBanks_status (t : Thread) (ws : List (Reg × Word)) : (t.putBanks ws).status = t.status := by
  unfold Thread.putBanks; induction ws generalizing t with
  | nil => rfl
  | cons w ws ih => simp [ih]
@[simp] theorem Thread.putBanks_pc (t : Thread) (ws : List (Reg × Word)) : (t.putBanks ws).pc = t.pc := by
  unfold Thread.putBanks; induction ws generalizing t with
  | nil => rfl
  | cons w ws ih => simp [ih]
@[simp] theorem Thread.putBanks_preds (t : Thread) (ws : List (Reg × Word)) : (t.putBanks ws).preds = t.preds := by
  unfold Thread.putBanks; induction ws generalizing t with
  | nil => rfl
  | cons w ws ih => simp [ih]
@[simp] theorem Thread.putBanks_fflags (t : Thread) (ws : List (Reg × Word)) : (t.putBanks ws).fflags = t.fflags := by
  unfold Thread.putBanks; induction ws generalizing t with
  | nil => rfl
  | cons w ws ih => simp [ih]
@[simp] theorem Thread.putBanks_fcr (t : Thread) (ws : List (Reg × Word)) : (t.putBanks ws).fcr = t.fcr := by
  unfold Thread.putBanks; induction ws generalizing t with
  | nil => rfl
  | cons w ws ih => simp [ih]
@[simp] theorem Thread.putBanks_ctl (t : Thread) (ws : List (Reg × Word)) : (t.putBanks ws).ctl = t.ctl := by
  unfold Thread.putBanks; induction ws generalizing t with
  | nil => rfl
  | cons w ws ih => simp [ih]
@[simp] theorem Thread.putBanks_fport (t : Thread) (ws : List (Reg × Word)) : (t.putBanks ws).fport = t.fport := by
  unfold Thread.putBanks; induction ws generalizing t with
  | nil => rfl
  | cons w ws ih => simp [ih]
@[simp] theorem Thread.putBanks_slim (t : Thread) (ws : List (Reg × Word)) : (t.putBanks ws).slim = t.slim := by
  unfold Thread.putBanks; induction ws generalizing t with
  | nil => rfl
  | cons w ws ih => simp [ih]
@[simp] theorem Thread.putBanks_clkh (t : Thread) (ws : List (Reg × Word)) : (t.putBanks ws).clkh = t.clkh := by
  unfold Thread.putBanks; induction ws generalizing t with
  | nil => rfl
  | cons w ws ih => simp [ih]
@[simp] theorem Thread.putBanks_h (t : Thread) (ws : List (Reg × Word)) : (t.putBanks ws).h = t.h := by
  unfold Thread.putBanks; induction ws generalizing t with
  | nil => rfl
  | cons w ws ih => simp [ih]
@[simp] theorem Thread.putBanks_mode (t : Thread) (ws : List (Reg × Word)) : (t.putBanks ws).mode = t.mode := by
  unfold Thread.putBanks; induction ws generalizing t with
  | nil => rfl
  | cons w ws ih => simp [ih]
@[simp] theorem Thread.putBanks_pending (t : Thread) (ws : List (Reg × Word)) : (t.putBanks ws).pending = t.pending := by
  unfold Thread.putBanks; induction ws generalizing t with
  | nil => rfl
  | cons w ws ih => simp [ih]
@[simp] theorem Thread.putBanks_loads (t : Thread) (ws : List (Reg × Word)) : (t.putBanks ws).loads = t.loads := by
  unfold Thread.putBanks; induction ws generalizing t with
  | nil => rfl
  | cons w ws ih => simp [ih]
@[simp] theorem Thread.putBanks_stores (t : Thread) (ws : List (Reg × Word)) : (t.putBanks ws).stores = t.stores := by
  unfold Thread.putBanks; induction ws generalizing t with
  | nil => rfl
  | cons w ws ih => simp [ih]
@[simp] theorem Thread.putBanks_unposted (t : Thread) (ws : List (Reg × Word)) : (t.putBanks ws).unposted = t.unposted := by
  unfold Thread.putBanks; induction ws generalizing t with
  | nil => rfl
  | cons w ws ih => simp [ih]
@[simp] theorem Thread.putBanks_owed (t : Thread) (ws : List (Reg × Word)) : (t.putBanks ws).owed = t.owed := by
  unfold Thread.putBanks; induction ws generalizing t with
  | nil => rfl
  | cons w ws ih => simp [ih]
@[simp] theorem Thread.putBanks_modeHigh (t : Thread) (ws : List (Reg × Word)) : (t.putBanks ws).modeHigh = t.modeHigh := by
  unfold Thread.putBanks; induction ws generalizing t with
  | nil => rfl
  | cons w ws ih => simp [ih]
@[simp] theorem Thread.putBanks_spare (t : Thread) (ws : List (Reg × Word)) : (t.putBanks ws).spare = t.spare := by
  unfold Thread.putBanks; induction ws generalizing t with
  | nil => rfl
  | cons w ws ih => simp [ih]
@[simp] theorem Thread.putBanks_sight (t : Thread) (ws : List (Reg × Word)) : (t.putBanks ws).sight = t.sight := by
  unfold Thread.putBanks; induction ws generalizing t with
  | nil => rfl
  | cons w ws ih => simp [ih]
@[simp] theorem Thread.putBanks_released (t : Thread) (ws : List (Reg × Word)) : (t.putBanks ws).released = t.released := by
  unfold Thread.putBanks; induction ws generalizing t with
  | nil => rfl
  | cons w ws ih => simp [ih]
@[simp] theorem Thread.putBanks_heard (t : Thread) (ws : List (Reg × Word)) : (t.putBanks ws).heard = t.heard := by
  unfold Thread.putBanks; induction ws generalizing t with
  | nil => rfl
  | cons w ws ih => simp [ih]
@[simp] theorem Thread.putBanks_wait (t : Thread) (ws : List (Reg × Word)) : (t.putBanks ws).wait = t.wait := by
  unfold Thread.putBanks; induction ws generalizing t with
  | nil => rfl
  | cons w ws ih => simp [ih]
@[simp] theorem Thread.putBanks_held (t : Thread) (ws : List (Reg × Word)) : (t.putBanks ws).held = t.held := by
  unfold Thread.putBanks; induction ws generalizing t with
  | nil => rfl
  | cons w ws ih => simp [ih]
@[simp] theorem Thread.putBanks_readyAt (t : Thread) (ws : List (Reg × Word)) : (t.putBanks ws).readyAt = t.readyAt := by
  unfold Thread.putBanks; induction ws generalizing t with
  | nil => rfl
  | cons w ws ih => simp [ih]
@[simp] theorem Thread.putBanks_lastIssue (t : Thread) (ws : List (Reg × Word)) : (t.putBanks ws).lastIssue = t.lastIssue := by
  unfold Thread.putBanks; induction ws generalizing t with
  | nil => rfl
  | cons w ws ih => simp [ih]
@[simp] theorem Thread.putBanks_sinceRequest (t : Thread) (ws : List (Reg × Word)) : (t.putBanks ws).sinceRequest = t.sinceRequest := by
  unfold Thread.putBanks; induction ws generalizing t with
  | nil => rfl
  | cons w ws ih => simp [ih]
@[simp] theorem Thread.putBanks_reached (t : Thread) (ws : List (Reg × Word)) : (t.putBanks ws).reached = t.reached := by
  unfold Thread.putBanks; induction ws generalizing t with
  | nil => rfl
  | cons w ws ih => simp [ih]

@[simp] theorem Thread.putFixeds_id (t : Thread) (ws : List (Reg × Word)) (l : Nat) (tr : Bool) :
    (t.putFixeds ws l tr).id = t.id := by
  unfold Thread.putFixeds; generalize decide (1 < ws.length) = b; induction ws generalizing t with
  | nil => rfl
  | cons w ws ih => simp [ih]
@[simp] theorem Thread.putFixeds_status (t : Thread) (ws : List (Reg × Word)) (l : Nat) (tr : Bool) :
    (t.putFixeds ws l tr).status = t.status := by
  unfold Thread.putFixeds; generalize decide (1 < ws.length) = b; induction ws generalizing t with
  | nil => rfl
  | cons w ws ih => simp [ih]
@[simp] theorem Thread.putFixeds_pc (t : Thread) (ws : List (Reg × Word)) (l : Nat) (tr : Bool) :
    (t.putFixeds ws l tr).pc = t.pc := by
  unfold Thread.putFixeds; generalize decide (1 < ws.length) = b; induction ws generalizing t with
  | nil => rfl
  | cons w ws ih => simp [ih]
@[simp] theorem Thread.putFixeds_preds (t : Thread) (ws : List (Reg × Word)) (l : Nat) (tr : Bool) :
    (t.putFixeds ws l tr).preds = t.preds := by
  unfold Thread.putFixeds; generalize decide (1 < ws.length) = b; induction ws generalizing t with
  | nil => rfl
  | cons w ws ih => simp [ih]
@[simp] theorem Thread.putFixeds_fflags (t : Thread) (ws : List (Reg × Word)) (l : Nat) (tr : Bool) :
    (t.putFixeds ws l tr).fflags = t.fflags := by
  unfold Thread.putFixeds; generalize decide (1 < ws.length) = b; induction ws generalizing t with
  | nil => rfl
  | cons w ws ih => simp [ih]
@[simp] theorem Thread.putFixeds_fcr (t : Thread) (ws : List (Reg × Word)) (l : Nat) (tr : Bool) :
    (t.putFixeds ws l tr).fcr = t.fcr := by
  unfold Thread.putFixeds; generalize decide (1 < ws.length) = b; induction ws generalizing t with
  | nil => rfl
  | cons w ws ih => simp [ih]
@[simp] theorem Thread.putFixeds_ctl (t : Thread) (ws : List (Reg × Word)) (l : Nat) (tr : Bool) :
    (t.putFixeds ws l tr).ctl = t.ctl := by
  unfold Thread.putFixeds; generalize decide (1 < ws.length) = b; induction ws generalizing t with
  | nil => rfl
  | cons w ws ih => simp [ih]
@[simp] theorem Thread.putFixeds_fport (t : Thread) (ws : List (Reg × Word)) (l : Nat) (tr : Bool) :
    (t.putFixeds ws l tr).fport = t.fport := by
  unfold Thread.putFixeds; generalize decide (1 < ws.length) = b; induction ws generalizing t with
  | nil => rfl
  | cons w ws ih => simp [ih]
@[simp] theorem Thread.putFixeds_slim (t : Thread) (ws : List (Reg × Word)) (l : Nat) (tr : Bool) :
    (t.putFixeds ws l tr).slim = t.slim := by
  unfold Thread.putFixeds; generalize decide (1 < ws.length) = b; induction ws generalizing t with
  | nil => rfl
  | cons w ws ih => simp [ih]
@[simp] theorem Thread.putFixeds_clkh (t : Thread) (ws : List (Reg × Word)) (l : Nat) (tr : Bool) :
    (t.putFixeds ws l tr).clkh = t.clkh := by
  unfold Thread.putFixeds; generalize decide (1 < ws.length) = b; induction ws generalizing t with
  | nil => rfl
  | cons w ws ih => simp [ih]
@[simp] theorem Thread.putFixeds_h (t : Thread) (ws : List (Reg × Word)) (l : Nat) (tr : Bool) :
    (t.putFixeds ws l tr).h = t.h := by
  unfold Thread.putFixeds; generalize decide (1 < ws.length) = b; induction ws generalizing t with
  | nil => rfl
  | cons w ws ih => simp [ih]
@[simp] theorem Thread.putFixeds_mode (t : Thread) (ws : List (Reg × Word)) (l : Nat) (tr : Bool) :
    (t.putFixeds ws l tr).mode = t.mode := by
  unfold Thread.putFixeds; generalize decide (1 < ws.length) = b; induction ws generalizing t with
  | nil => rfl
  | cons w ws ih => simp [ih]
@[simp] theorem Thread.putFixeds_pending (t : Thread) (ws : List (Reg × Word)) (l : Nat) (tr : Bool) :
    (t.putFixeds ws l tr).pending = t.pending := by
  unfold Thread.putFixeds; generalize decide (1 < ws.length) = b; induction ws generalizing t with
  | nil => rfl
  | cons w ws ih => simp [ih]
@[simp] theorem Thread.putFixeds_loads (t : Thread) (ws : List (Reg × Word)) (l : Nat) (tr : Bool) :
    (t.putFixeds ws l tr).loads = t.loads := by
  unfold Thread.putFixeds; generalize decide (1 < ws.length) = b; induction ws generalizing t with
  | nil => rfl
  | cons w ws ih => simp [ih]
@[simp] theorem Thread.putFixeds_stores (t : Thread) (ws : List (Reg × Word)) (l : Nat) (tr : Bool) :
    (t.putFixeds ws l tr).stores = t.stores := by
  unfold Thread.putFixeds; generalize decide (1 < ws.length) = b; induction ws generalizing t with
  | nil => rfl
  | cons w ws ih => simp [ih]
@[simp] theorem Thread.putFixeds_unposted (t : Thread) (ws : List (Reg × Word)) (l : Nat) (tr : Bool) :
    (t.putFixeds ws l tr).unposted = t.unposted := by
  unfold Thread.putFixeds; generalize decide (1 < ws.length) = b; induction ws generalizing t with
  | nil => rfl
  | cons w ws ih => simp [ih]
@[simp] theorem Thread.putFixeds_owed (t : Thread) (ws : List (Reg × Word)) (l : Nat) (tr : Bool) :
    (t.putFixeds ws l tr).owed = t.owed := by
  unfold Thread.putFixeds; generalize decide (1 < ws.length) = b; induction ws generalizing t with
  | nil => rfl
  | cons w ws ih => simp [ih]
@[simp] theorem Thread.putFixeds_modeHigh (t : Thread) (ws : List (Reg × Word)) (l : Nat) (tr : Bool) :
    (t.putFixeds ws l tr).modeHigh = t.modeHigh := by
  unfold Thread.putFixeds; generalize decide (1 < ws.length) = b; induction ws generalizing t with
  | nil => rfl
  | cons w ws ih => simp [ih]
@[simp] theorem Thread.putFixeds_spare (t : Thread) (ws : List (Reg × Word)) (l : Nat) (tr : Bool) :
    (t.putFixeds ws l tr).spare = t.spare := by
  unfold Thread.putFixeds; generalize decide (1 < ws.length) = b; induction ws generalizing t with
  | nil => rfl
  | cons w ws ih => simp [ih]
@[simp] theorem Thread.putFixeds_sight (t : Thread) (ws : List (Reg × Word)) (l : Nat) (tr : Bool) :
    (t.putFixeds ws l tr).sight = t.sight := by
  unfold Thread.putFixeds; generalize decide (1 < ws.length) = b; induction ws generalizing t with
  | nil => rfl
  | cons w ws ih => simp [ih]
@[simp] theorem Thread.putFixeds_released (t : Thread) (ws : List (Reg × Word)) (l : Nat) (tr : Bool) :
    (t.putFixeds ws l tr).released = t.released := by
  unfold Thread.putFixeds; generalize decide (1 < ws.length) = b; induction ws generalizing t with
  | nil => rfl
  | cons w ws ih => simp [ih]
@[simp] theorem Thread.putFixeds_heard (t : Thread) (ws : List (Reg × Word)) (l : Nat) (tr : Bool) :
    (t.putFixeds ws l tr).heard = t.heard := by
  unfold Thread.putFixeds; generalize decide (1 < ws.length) = b; induction ws generalizing t with
  | nil => rfl
  | cons w ws ih => simp [ih]
@[simp] theorem Thread.putFixeds_wait (t : Thread) (ws : List (Reg × Word)) (l : Nat) (tr : Bool) :
    (t.putFixeds ws l tr).wait = t.wait := by
  unfold Thread.putFixeds; generalize decide (1 < ws.length) = b; induction ws generalizing t with
  | nil => rfl
  | cons w ws ih => simp [ih]
@[simp] theorem Thread.putFixeds_held (t : Thread) (ws : List (Reg × Word)) (l : Nat) (tr : Bool) :
    (t.putFixeds ws l tr).held = t.held := by
  unfold Thread.putFixeds; generalize decide (1 < ws.length) = b; induction ws generalizing t with
  | nil => rfl
  | cons w ws ih => simp [ih]
@[simp] theorem Thread.putFixeds_readyAt (t : Thread) (ws : List (Reg × Word)) (l : Nat) (tr : Bool) :
    (t.putFixeds ws l tr).readyAt = t.readyAt := by
  unfold Thread.putFixeds; generalize decide (1 < ws.length) = b; induction ws generalizing t with
  | nil => rfl
  | cons w ws ih => simp [ih]
@[simp] theorem Thread.putFixeds_lastIssue (t : Thread) (ws : List (Reg × Word)) (l : Nat) (tr : Bool) :
    (t.putFixeds ws l tr).lastIssue = t.lastIssue := by
  unfold Thread.putFixeds; generalize decide (1 < ws.length) = b; induction ws generalizing t with
  | nil => rfl
  | cons w ws ih => simp [ih]
@[simp] theorem Thread.putFixeds_sinceRequest (t : Thread) (ws : List (Reg × Word)) (l : Nat) (tr : Bool) :
    (t.putFixeds ws l tr).sinceRequest = t.sinceRequest := by
  unfold Thread.putFixeds; generalize decide (1 < ws.length) = b; induction ws generalizing t with
  | nil => rfl
  | cons w ws ih => simp [ih]
@[simp] theorem Thread.putFixeds_reached (t : Thread) (ws : List (Reg × Word)) (l : Nat) (tr : Bool) :
    (t.putFixeds ws l tr).reached = t.reached := by
  unfold Thread.putFixeds; generalize decide (1 < ws.length) = b; induction ws generalizing t with
  | nil => rfl
  | cons w ws ih => simp [ih]

/-! ## Finding after an update -/

theorem find?_updateIf {α : Type} (p q : α → Bool) (f : α → α) (hp : ∀ x, p (f x) = p x) (xs : List α) :
    (updateIf q f xs).find? p = (xs.find? p).map fun x => if q x then f x else x := by
  unfold updateIf
  induction xs with
  | nil => rfl
  | cons x xs ih =>
    have h : p (if q x then f x else x) = p x := by split <;> simp [hp]
    by_cases hx : p x = true
    · simp [h, hx]
    · simp only [Bool.not_eq_true] at hx
      simp [h, hx, ih]

/-- A thread after a change of itself. -/
theorem State.thread?_mapThread_self (s : State) (id : ThreadId) (f : Thread → Thread) (hf : ∀ t, (f t).id = t.id) :
    (s.mapThread id f).thread? id = (s.thread? id).map f := by
  unfold State.thread? State.mapThread
  rw [find?_updateIf _ _ f (fun x => by simp [hf])]
  cases h : s.threads.find? fun t => t.id == id with
  | none => rfl
  | some t =>
    have : t.id = id := by simpa using List.find?_some h
    simp [this]

/-- A thread after a change of another. -/
theorem State.thread?_mapThread_other (s : State) {id id' : ThreadId} (f : Thread → Thread) (hf : ∀ t, (f t).id = t.id)
    (h : id' ≠ id) : (s.mapThread id f).thread? id' = s.thread? id' := by
  unfold State.thread? State.mapThread
  rw [find?_updateIf _ _ f (fun x => by simp [hf])]
  cases e : s.threads.find? fun t => t.id == id' with
  | none => rfl
  | some t =>
    have : t.id = id' := by simpa using List.find?_some e
    simp [this, h]

end Sys2Proof.Machine
end

