-- ==== Sys2Proof/Laws/Order.lean ====
section
/-!
SUPPORT. Reads, writes and fences while every write is seen by all: they are the plain ones. What a write, late or not, leaves alone:
the canonical form of every memory. What a thread's knowledge of a write gives it.
-/
namespace Sys2Proof.Machine

open Sys2Proof

/-! ## While nothing is to spread -/

/-- Nothing spreads late exactly when writes spread at once and none is left. -/
theorem State.late_false {s : State} : s.late = false ↔ s.relaxed = false ∧ s.history = [] := by
  simp [State.late, List.isEmpty_iff]

@[simp] theorem State.readAs_now {s : State} (h : s.late = false) (v : Viewer) (view peer : Bool) (loc : Loc) (n : Nat) :
    s.readAs v view peer loc n = ⟨s.readLoc loc n, [], []⟩ := by simp [State.readAs, h]

@[simp] theorem State.readForUpdate_now {s : State} (h : s.late = false) (v : Viewer) (view peer : Bool) (loc : Loc) (n : Nat) :
    s.readForUpdate v view peer loc n = ⟨s.readLoc loc n, [], []⟩ := by simp [State.readForUpdate, h]

@[simp] theorem State.writeAs_now {s : State} (h : s.late = false) (v : Viewer) (x : Writing) (event : Nat → Nat) (loc : Loc)
    (bs : List Byte) : s.writeAs v x event loc bs = s.writeLoc loc bs := by simp [State.writeAs, h]

@[simp] theorem State.update_now {s : State} (h : s.late = false) (v : Viewer) (x : Writing) (event : Nat) (loc : Loc) (n : Nat)
    (f : List Byte → List Byte) :
    s.update v x event loc n f = (s.writeLoc loc (f (s.readLoc loc n)), ⟨s.readLoc loc n, [], []⟩) := by
  simp [State.update, h]

@[simp] theorem State.readBy_now {s : State} (h : s.late = false) (id : ThreadId) (view peer : Bool) (loc : Loc) (n : Nat) :
    s.readBy id view peer loc n = (s, s.readLoc loc n) := by simp [State.readBy, h]

@[simp] theorem State.readRacing_now {s : State} (h : s.late = false) (v : Viewer) (view : Bool) (loc : Loc) (n base : Nat) :
    s.readRacing v view loc n base = ⟨s.readLoc loc n, []⟩ := by simp [State.readRacing, h]

@[simp] theorem State.engineWrite_now {s : State} (h : s.late = false) (v : Viewer) (view : Bool) (loc : Loc) (unit : Nat)
    (bs : List Byte) : s.engineWrite v view loc unit bs = (s.writeLoc loc bs, []) := by simp [State.engineWrite, h]

@[simp] theorem State.publish_now {s : State} (h : s.late = false) (id : ThreadId) : s.publish id = s := by
  have := State.late_false.1 h
  simp [State.publish, this.1, this.2]

@[simp] theorem State.numbered_now {s : State} (h : s.late = false) (id : ThreadId) :
    s.numbered id = { s with stamp := s.stamp + 1 } := by simp [State.numbered, h]

/-- Nothing is left to be seen. -/
theorem State.settle_now {s : State} (h : s.history = []) (test : Loc → Bool) : s.settle test = s := by
  simp [State.settle, h]

@[simp] theorem State.settlePhys_now {s : State} (h : s.late = false) (pa n : Nat) : s.settlePhys pa n = s :=
  State.settle_now (State.late_false.1 h).2 _

@[simp] theorem State.meetRing_now {s : State} (h : s.late = false) (id : ThreadId) (r : Ring) : s.meetRing id r = s := by
  simp [State.meetRing, h]

@[simp] theorem State.ringAcquire_now {s : State} (h : s.late = false) (id : ThreadId) : s.ringAcquire id = s := by
  simp [State.ringAcquire, h]

@[simp] theorem State.awaitRing_now {s : State} (h : s.late = false) (c : Ctx) (r : Ring) : s.awaitRing c r = s := by
  simp [State.awaitRing, h]

/-! ## Knowing -/

/-- A thread never forgets a write that it knows. -/
theorem Thread.learn_seen (t : Thread) (k : Know) {e : Nat} (h : e ∈ t.sight.know.seen) : e ∈ (t.learn k).sight.know.seen := by
  simp [Thread.learn, Know.join, union, h]

/-- It knows what it is told. -/
theorem Thread.learn_told (t : Thread) (k : Know) {e : Nat} (h : e ∈ k.seen) : e ∈ (t.learn k).sight.know.seen := by
  by_cases ht : e ∈ t.sight.know.seen
  · exact t.learn_seen k ht
  · simp [Thread.learn, Know.join, union, h, ht]

/-- An agent that knows a write never passes it by, through the same view (R169, R170). -/
theorem Viewer.sees_known (v : Viewer) (view peer : Bool) (e : PastWrite) (hv : e.view = view)
    (h : e.event ∈ v.sight.know.seen) : v.sees view peer e = true := by
  simp [Viewer.sees, hv, h]

/-! ## Writes as wholes -/

/-- One pass loses nothing. -/
theorem olderPass_mem {ns : List Nat} {hit : List Loc} {es : List PastWrite} {n : Nat} (h : n ∈ ns) : n ∈ olderPass ns hit es := by
  induction es generalizing ns hit with
  | nil => exact h
  | cons e es ih =>
    unfold olderPass
    split
    · exact ih h
    · split
      · exact ih (by simp [h])
      · exact ih h

theorem olderPass_length (ns : List Nat) (hit : List Loc) (es : List PastWrite) : ns.length ≤ (olderPass ns hit es).length := by
  induction es generalizing ns hit with
  | nil => simp [olderPass]
  | cons e es ih =>
    unfold olderPass
    split
    · exact ih ..
    · split
      · exact le_trans (by simp) (ih ..)
      · exact ih ..

/-- A pass that adds nothing has found nothing below a member. -/
theorem olderPass_closed {ns : List Nat} {hit : List Loc} {es : List PastWrite} (h : (olderPass ns hit es).length = ns.length) :
    (∀ x ∈ es, x.loc ∈ hit → x.event ∈ ns) ∧ es.Pairwise fun y x => y.loc = x.loc → y.event ∈ ns → x.event ∈ ns := by
  induction es generalizing hit with
  | nil => simp
  | cons e es ih =>
    unfold olderPass at h
    split at h
    · rename_i he
      have he : e.event ∈ ns := by simpa using he
      obtain ⟨h1, h2⟩ := ih h
      refine ⟨?_, ?_⟩
      · intro x hx hl
        rcases List.mem_cons.1 hx with rfl | hx
        · exact he
        · exact h1 x hx (by simp [hl])
      · exact List.pairwise_cons.2 ⟨fun x hx hl _ => h1 x hx (by simp [hl]), h2⟩
    · rename_i he
      have he : e.event ∉ ns := by simpa using he
      split at h
      · have := olderPass_length (ns ++ [e.event]) hit es
        simp only [List.length_append, List.length_singleton] at this
        omega
      · rename_i hh
        have hh : e.loc ∉ hit := by simpa using hh
        obtain ⟨h1, h2⟩ := ih h
        refine ⟨?_, List.pairwise_cons.2 ⟨fun x _ _ hy => absurd hy he, h2⟩⟩
        intro x hx hl
        rcases List.mem_cons.1 hx with rfl | hx
        · exact absurd hl hh
        · exact h1 x hx hl

/-- How many of some writes are not among some events. -/
def missing (ns : List Nat) (es : List PastWrite) : Nat := (es.filter fun e => !ns.contains e.event).length

theorem missing_mono {ns ms : List Nat} (h : ∀ n ∈ ns, n ∈ ms) (es : List PastWrite) : missing ms es ≤ missing ns es := by
  unfold missing
  induction es with
  | nil => simp
  | cons e es ih =>
    by_cases hm : e.event ∈ ms
    · by_cases hn : e.event ∈ ns
      · simpa [hm, hn] using ih
      · simpa [hm, hn] using Nat.le_succ_of_le ih
    · have hn : e.event ∉ ns := fun x => hm (h _ x)
      simpa [hm, hn] using ih

/-- A pass that adds something leaves less to add. -/
theorem olderPass_missing {ns : List Nat} {hit : List Loc} {es : List PastWrite} (h : (olderPass ns hit es).length ≠ ns.length) :
    missing (olderPass ns hit es) es < missing ns es := by
  induction es generalizing ns hit with
  | nil => simp [olderPass] at h
  | cons e es ih =>
    unfold olderPass at h ⊢
    split at h
    · rename_i he
      have he : e.event ∈ ns := by simpa using he
      rw [if_pos (by simpa using he)]
      have := ih h
      simpa [missing, he, olderPass_mem he] using this
    · rename_i he
      have he : e.event ∉ ns := by simpa using he
      rw [if_neg (by simpa using he)]
      split at h
      · rename_i hh
        rw [if_pos hh]
        have hm : e.event ∈ olderPass (ns ++ [e.event]) hit es := olderPass_mem (by simp)
        have hle := missing_mono (ns := ns) (ms := olderPass (ns ++ [e.event]) hit es)
          (fun n hn => olderPass_mem (by simp [hn])) es
        have h1 : missing (olderPass (ns ++ [e.event]) hit es) (e :: es) = missing (olderPass (ns ++ [e.event]) hit es) es := by
          simp [missing, hm]
        have h2 : missing ns (e :: es) = missing ns es + 1 := by simp [missing, he]
        omega
      · rename_i hh
        rw [if_neg hh]
        have hlt := ih h
        have h2 : missing ns (e :: es) = missing ns es + 1 := by simp [missing, he]
        have h1 : missing (olderPass ns hit es) (e :: es) ≤ missing (olderPass ns hit es) es + 1 := by
          unfold missing
          rw [List.filter_cons]
          split <;> simp
        omega

theorem olderAll_mem {es : List PastWrite} {fuel : Nat} {ns : List Nat} {n : Nat} (h : n ∈ ns) : n ∈ olderAll es fuel ns := by
  induction fuel generalizing ns with
  | zero => exact h
  | succ fuel ih =>
    simp only [olderAll]
    split
    · exact h
    · exact ih (olderPass_mem h)

theorem olderAll_closed {es : List PastWrite} {fuel : Nat} {ns : List Nat} (h : missing ns es ≤ fuel) :
    es.Pairwise fun y x => y.loc = x.loc → y.event ∈ olderAll es fuel ns → x.event ∈ olderAll es fuel ns := by
  induction fuel generalizing ns with
  | zero =>
    have h : ∀ x ∈ es, x.event ∈ ns := by
      simpa [missing] using h
    exact List.pairwise_of_forall_mem_list fun _ _ x hx _ _ => h x hx
  | succ fuel ih =>
    simp only [olderAll]
    split
    · rename_i heq
      exact (olderPass_closed heq).2
    · rename_i hne
      exact ih (by have := olderPass_missing hne; omega)

/-- A write's predecessors are among them. -/
theorem State.older_mem {s : State} {ns : List Nat} {n : Nat} (h : n ∈ ns) : n ∈ s.older ns := olderAll_mem h

/-- Writes that a spread leaves to spread. -/
theorem State.spread_history (s : State) (n : Nat) {e : PastWrite} (h : e ∈ (s.spread n).history) : e ∈ s.history ∧ e.event ≠ n := by
  simp only [State.spread, List.mem_filter, Bool.not_eq_true', List.contains_eq_mem, decide_eq_false_iff_not] at h
  exact ⟨h.1, fun x => h.2 (x ▸ State.older_mem (List.mem_singleton.mpr rfl))⟩

/-- The same of several. -/
theorem State.spreadAll_history (ns : List Nat) {s : State} {e : PastWrite} (h : e ∈ (ns.foldl State.spread s).history) :
    e ∈ s.history ∧ e.event ∉ ns := by
  induction ns generalizing s with
  | nil => exact ⟨h, List.not_mem_nil⟩
  | cons n ns ih =>
    obtain ⟨h₁, h₂⟩ := ih h
    obtain ⟨h₃, h₄⟩ := s.spread_history n h₁
    exact ⟨h₃, List.not_mem_cons_of_ne_of_not_mem h₄ h₂⟩

/-- After a settling none of the writes that it names is still to spread. -/
theorem State.settle_history (s : State) (test : Loc → Bool) {e : PastWrite} (h : e ∈ (s.settle test).history) :
    e ∈ s.history ∧ test e.loc = false := by
  obtain ⟨h₁, h₂⟩ := State.spreadAll_history _ h
  refine ⟨h₁, Bool.eq_false_iff.mpr fun x => h₂ ?_⟩
  exact List.mem_map.mpr ⟨e, List.mem_filter.mpr ⟨h₁, x⟩, rfl⟩

/-- At the bytes of a settled range no write is still to spread: what reads there meets the newest. -/
theorem State.settlePhys_pastAt (s : State) (pa n : Nat) {i : Nat} (h : i < n) : (s.settlePhys pa n).pastAt (.phys (pa + i)) = [] := by
  refine List.filter_eq_nil_iff.mpr fun e he hl => ?_
  have := (s.settle_history _ he).2
  simp [eq_of_beq hl, h] at this

/-- What `older` gives is closed: with a write at a byte it holds the older ones there. -/
theorem State.older_closed (s : State) (ns : List Nat) :
    s.history.Pairwise fun y x => y.loc = x.loc → y.event ∈ s.older ns → x.event ∈ s.older ns :=
  olderAll_closed (by unfold missing; exact List.length_filter_le ..)

theorem State.wholeAbove_closed {s : State} (bs : List Loc) (fuel : Nat) {ns : List Nat}
    (h : s.history.Pairwise fun y x => y.loc = x.loc → y.event ∈ ns → x.event ∈ ns) :
    s.history.Pairwise fun y x => y.loc = x.loc → y.event ∈ s.wholeAbove bs fuel ns → x.event ∈ s.wholeAbove bs fuel ns := by
  induction fuel generalizing ns with
  | zero => exact h
  | succ fuel ih =>
    simp only [State.wholeAbove]
    split
    · exact h
    · exact ih (s.older_closed _)

/-- A write follows, with a write at a byte, the older ones there: it takes one place at all its bytes (R174). -/
theorem State.beforeWrite_closed (s : State) (v : Viewer) (view peer : Bool) (bs : List Loc) :
    s.history.Pairwise fun y x => y.loc = x.loc → y.event ∈ s.beforeWrite v view peer bs → x.event ∈ s.beforeWrite v view peer bs :=
  State.wholeAbove_closed bs _ (s.older_closed _)

/-- Of a byte's writes those that a closed set leaves out stand above it, the others do not. -/
theorem State.mem_above {s : State} {ns : List Nat} (h : s.history.Pairwise fun y x => y.loc = x.loc → y.event ∈ ns → x.event ∈ ns)
    (b : Loc) {e : PastWrite} (he : e ∈ s.pastAt b) : e ∈ s.above ns b ↔ e.event ∉ ns := by
  have hp : (s.pastAt b).Pairwise fun y x => y.event ∈ ns → x.event ∈ ns := by
    refine (h.filter _).imp_of_mem ?_
    intro y x hy hx hyx
    simp only [List.mem_filter, beq_iff_eq] at hy hx
    exact hyx (hy.2.trans hx.2.symm)
  unfold State.above
  generalize s.pastAt b = es at hp he
  induction es with
  | nil => simp at he
  | cons y es ih =>
    rw [List.pairwise_cons] at hp
    by_cases hy : y.event ∈ ns
    · have : e.event ∈ ns := by
        rcases List.mem_cons.1 he with rfl | he
        · exact hy
        · exact hp.1 e he hy
      simp [hy, this]
    · rcases List.mem_cons.1 he with rfl | he'
      · simp [hy]
      · have := ih hp.2 he'
        by_cases hey : e = y
        · subst hey; simp [hy]
        · simpa [hy, hey] using this

/-! ## The memories -/

/-- A write where an access lands keeps every memory canonical. -/
theorem State.memOk_writeLoc {s : State} (h : s.memOk) (loc : Loc) (bs : List Byte) : (s.writeLoc loc bs).memOk := by
  cases loc with
  | phys pa =>
    simp only [State.writeLoc]
    split
    · exact h
    · exact ⟨Memory.setBytes_wf h.1 pa bs, h.2⟩
  | spad w off =>
    refine ⟨h.1, ?_, h.2.2⟩
    intro y hy
    simp only [State.writeLoc, State.mapWave, updateIf, List.mem_map] at hy
    obtain ⟨z, hz, rfl⟩ := hy
    have hm := h.2.1 z hz
    split
    · exact ⟨Memory.setBytes_wf hm.1 off bs, hm.2⟩
    · exact hm
  | fitted r n => exact h

/-- A fold of operations that each keep the memories canonical. -/
theorem State.memOk_foldl {α : Type} (f : State → α → State) (hf : ∀ s x, s.memOk → (f s x).memOk) {s : State} (h : s.memOk)
    (xs : List α) : (xs.foldl f s).memOk := by
  induction xs generalizing s with
  | nil => exact h
  | cons x xs ih => exact ih (hf s x h)

theorem State.memOk_ite {p : Prop} [Decidable p] {a b : State} (ha : a.memOk) (hb : b.memOk) :
    (if p then a else b).memOk := by split <;> assumption

theorem State.memOk_writeByte {s : State} (h : s.memOk) (v : Viewer) (x : Writing) (event : Nat) (ns : List Nat) (b : Loc)
    (val : Byte) : (s.writeByte v x event ns b val).memOk := by
  unfold State.writeByte
  exact State.memOk_ite (State.memOk_writeLoc (s := s.putPast b _) h b [val]) h

theorem State.memOk_writeUnit {s : State} (h : s.memOk) (v : Viewer) (x : Writing) (event : Nat) (bs : List (Loc × Byte)) :
    (s.writeUnit v x event bs).memOk :=
  State.memOk_foldl _ (fun _ _ hs => State.memOk_writeByte hs ..) h _

theorem State.memOk_writeAs {s : State} (h : s.memOk) (v : Viewer) (x : Writing) (event : Nat → Nat) (loc : Loc) (bs : List Byte) :
    (s.writeAs v x event loc bs).memOk := by
  unfold State.writeAs
  refine State.memOk_ite (State.memOk_writeLoc h loc bs) ?_
  split
  · rename_i r n
    exact State.memOk_writeLoc h (.fitted r n) bs
  · exact State.memOk_foldl _ (fun _ _ hs => State.memOk_writeUnit hs ..) h _

theorem State.memOk_update {s : State} (h : s.memOk) (v : Viewer) (x : Writing) (event : Nat) (loc : Loc) (n : Nat)
    (f : List Byte → List Byte) : (s.update v x event loc n f).1.memOk := by
  simp only [State.update]
  exact State.memOk_writeAs h _ _ _ _ _

theorem State.memOk_atomicAs {s : State} (h : s.memOk) (v : Viewer) (x : Writing) (event : Nat) (loc : Loc) (op : AtomOp)
    (wide : Bool) (b d : DWord) : (s.atomicAs v x event loc op wide b d).1.memOk := by
  simp only [State.atomicAs]
  exact State.memOk_update h _ _ _ _ _ _

/-- An accepted store that takes effect keeps every memory canonical. -/
theorem State.memOk_applyStore {s : State} (h : s.memOk) (id : ThreadId) (e : StoreEntry) : (s.applyStore id e).memOk := by
  unfold State.applyStore
  refine State.memOk_ite h ?_
  split
  · exact State.memOk_writeAs h ..
  · exact State.memOk_update h ..
  · exact State.memOk_atomicAs h ..

theorem State.memOk_drain {s : State} (h : s.memOk) (id : ThreadId) : (s.drain id).memOk := by
  unfold State.drain
  split
  · exact h
  · exact State.memOk_foldl _ (fun s e hs => State.memOk_applyStore hs id e) h _

/-! ## Agents of other modules, verdicts -/

theorem State.outsider_id (s : State) (who : OutsideId) : (s.outsider who).id = who := by
  unfold State.outsider
  cases h : s.outsiders.find? fun o => o.id == who with
  | none => rfl
  | some o => simpa using List.find?_some h

@[simp] theorem State.outsider_setOutsider (s : State) (o : Outsider) : (s.setOutsider o).outsider o.id = o := by
  simp [State.setOutsider, State.outsider]

theorem State.outsider_setOutsider_other (s : State) (o : Outsider) {who : OutsideId} (h : who ≠ o.id) :
    (s.setOutsider o).outsider who = s.outsider who := by
  have hne : (o.id == who) = false := by simpa using h.symm
  have hf (xs : List Outsider) : (xs.filter fun x => !(x.id == o.id)).find? (fun x => x.id == who) = xs.find? fun x => x.id == who := by
    induction xs with
    | nil => rfl
    | cons x xs ih =>
      by_cases hx : x.id = o.id
      · simp [hx, hne, ih]
      · simp [hx, List.find?_cons, ih]
  simp [State.setOutsider, State.outsider, hne, hf]

/-- No release of another module reaches a core of this one but between domain scopes (R168, R172, R344). -/
theorem Released.reaches_outside {h : Released} {who : OutsideId} {core : CoreId} (hc : h.core = who.place) (hd : core.die < 8)
    (sc : Scope) : h.reaches core sc = (decide (h.scope = .domain) && decide (sc = .domain)) := by
  have hp : 8 ≤ h.core.die := by rw [hc]; show 8 ≤ 8 * (who.module + 1) + _; omega
  have h1 : h.core ≠ core := fun e => by rw [e] at hp; omega
  have h2 : h.core.die ≠ core.die := by omega
  have h3 : h.core.die / 8 ≠ core.die / 8 := by omega
  unfold Released.reaches scopeHolds
  cases h.scope <;> cases sc <;> simp [h1, h2, h3]

/-- Where no verdict has lent anything, an operation sees what it saw at its issue (R325). -/
@[simp] theorem CopyOp.lending_none {x : CopyOp} (h : x.lent = []) (n : Nat) : x.lending n = x := by
  cases x; cases h; rfl

@[simp] theorem BmvOp.lending_none {x : BmvOp} (h : x.lent = []) (row : Nat) : x.lending row = x := by
  cases x; cases h; rfl

end Sys2Proof.Machine
end

