-- ==== Sys2Proof/Laws/Ops.lean ====
section
/-!
SUPPORT. What each shared operation of a thread instruction does, said once: the context, how an instruction executes, its
results, and the memories it leaves alone.
-/
namespace Sys2Proof.Machine

open Sys2Proof

/-! ## The context of a thread -/

/-- A context is made of the named thread, its wave, launch and group. -/
theorem State.ctx_eq {s : State} {id : ThreadId} {c : Ctx} (h : s.ctx id = some c) :
    s.thread? id = some c.t ∧ s.wave? id.wave = some c.w ∧ s.launch? c.w.launch = some c.l ∧
      s.group? id.wave (c.w.groupOf id.idx) = some c.g := by
  unfold State.ctx at h
  cases ht : s.thread? id with
  | none => simp [ht] at h
  | some t =>
    cases hw : s.wave? id.wave with
    | none => simp [ht, hw] at h
    | some w =>
      cases hl : s.launch? w.launch with
      | none => simp [ht, hw, hl] at h
      | some l =>
        cases hg : s.group? id.wave (w.groupOf id.idx) with
        | none => simp [ht, hw, hl, hg] at h
        | some g =>
          simp only [ht, hw, hl, hg, Option.some.injEq] at h
          subst h
          exact ⟨rfl, rfl, hl, hg⟩

theorem State.thread?_id {s : State} {id : ThreadId} {t : Thread} (h : s.thread? id = some t) : t.id = id := by
  simpa using List.find?_some h

theorem State.ctx_id {s : State} {id : ThreadId} {c : Ctx} (h : s.ctx id = some c) : c.t.id = id :=
  State.thread?_id (State.ctx_eq h).1

/-- A thread found by name is one of the threads. -/
theorem State.thread?_mem {s : State} {id : ThreadId} {t : Thread} (h : s.thread? id = some t) : t ∈ s.threads :=
  List.mem_of_find?_eq_some h

/-! ## How an instruction executes -/

/-- An instruction that executes goes on to its own effect. -/
theorem runForm_executes {s : State} {c : Ctx} {f : Form} (h : Executes s c f)
    (body : Ctx → (Nat → Word) → State → Effect) :
    runForm f body s =
      .next (finish c f (body c (c.reads s f) (s.spent f))) := by
  unfold runForm
  simp only [h.ctx, h.completing, h.guardReady, h.passes, h.free, h.trap]
  simp

/-- An instruction in which its thread has not waited reads its operands now. -/
theorem Ctx.reads_fresh {c : Ctx} (h : c.t.held = []) (s : State) {f : Form} {k : Nat} (hk : k < f.reads.length) :
    c.reads s f k = c.t.readAt f.reads s.free k := by
  simp [Ctx.reads, Thread.values, h, List.getD, hk]

/-- One in which it has waited has read what it holds. -/
theorem Ctx.reads_held {c : Ctx} (h : c.t.held ≠ []) (s : State) (f : Form) (k : Nat) : c.reads s f k = c.t.held.getD k 0 := by
  simp [Ctx.reads, Thread.values, h]

/-- Once its operands are read the thread holds them and is otherwise as before. -/
theorem State.spent_thread? {s : State} {c : Ctx} (h : s.ctx s.cur = some c) (f : Form) :
    (s.spent f).thread? s.cur = some { c.t with held := c.t.values f.reads s.free } := by
  refine (State.thread?_mapThread_self _ s.cur (fun t => { t with held := t.values f.reads s.free }) (fun _ => rfl)).trans ?_
  show Option.map _ (s.thread? s.cur) = _
  rw [(State.ctx_eq h).1]
  rfl

/-- An instruction whose guard is false advances past itself and does nothing else (R57). -/
theorem runForm_guarded {s : State} {c : Ctx} {f : Form} (hc : s.ctx s.cur = some c) (hl : c.t.completing = false)
    (hp : (f.g ≠ .always && c.t.pendingPush) = false) (hg : c.t.passes f.g = false)
    (body : Ctx → (Nat → Word) → State → Effect) :
    runForm f body s = .next (s.mapThread s.cur fun t => t.advance f.len (f.sc + f.delay) s.now) := by
  unfold runForm
  simp only [hc, hl, hp, hg]
  simp [finish, State.ctx_id hc]

/-- Every outcome of a thread instruction: no such thread, a wait, a false guard, a trap of R78, or its own effect. -/
theorem runForm_cases (f : Form) (body : Ctx → (Nat → Word) → State → Effect) (s : State) :
    (s.ctx s.cur = none ∧ runForm f body s = .fault .noThread) ∨
    ∃ c, s.ctx s.cur = some c ∧
      (runForm f body s = .next (finish c f (.wait s .interlock)) ∨
        runForm f body s = .next (finish c f (.done s)) ∨
        (∃ cause ea, operandTrap c f = some (cause, ea) ∧ runForm f body s = .next (finish c f (.trap s cause ea))) ∨
        (Executes s c f ∧ runForm f body s =
          .next (finish c f (body c (c.reads s f) (s.spent f))))) := by
  cases hc : s.ctx s.cur with
  | none => exact .inl ⟨rfl, by simp [runForm, hc]⟩
  | some c =>
    refine .inr ⟨c, rfl, ?_⟩
    by_cases h1 : (c.t.completing || (f.g ≠ .always && c.t.pendingPush)) = true
    · exact .inl (by unfold runForm; simp only [hc]; rw [if_pos h1])
    by_cases h2 : (!c.t.passes f.g) = true
    · exact .inr (.inl (by unfold runForm; simp only [hc]; rw [if_neg h1, if_pos h2]))
    by_cases h3 : interlocked c.t f = true
    · exact .inl (by unfold runForm; simp only [hc]; rw [if_neg h1, if_neg h2, if_pos h3])
    cases h4 : operandTrap c f with
    | some x =>
      exact .inr (.inr (.inl ⟨x.1, x.2, rfl, by
        unfold runForm; simp only [hc]; rw [if_neg h1, if_neg h2, if_neg h3, h4]⟩))
    | none =>
      simp only [Bool.or_eq_true, not_or, Bool.not_eq_true] at h1
      refine .inr (.inr (.inr ⟨⟨hc, h1.1, h1.2, by simpa using h2, by simpa using h3, h4⟩, ?_⟩))
      exact runForm_executes ⟨hc, h1.1, h1.2, by simpa using h2, by simpa using h3, h4⟩ body

/-! ## Results -/

/-- A result that the stack limit allows is written. -/
theorem checkStack_ok {c : Ctx} {ws : List (Reg × Word)} (h : c.t.belowLimit ws = false) (s : State) (k : Effect) :
    checkStack c s ws k = k := by simp [checkStack, h]

/-- A result that would put the stack pointer below its limit traps with STACK at that value (R69). -/
theorem checkStack_trap {c : Ctx} {ws : List (Reg × Word)} (h : c.t.belowLimit ws = true) (s : State) (k : Effect) :
    checkStack c s ws k = .trap s .stack (c.t.stackAfter ws) := by simp [checkStack, h]

theorem writeFixed_ok {c : Ctx} {ws : List (Reg × Word)} (h : c.t.belowLimit ws = false) (s : State) (n : Nat) (tr : Bool) :
    writeFixed c s ws n tr = .done (s.mapThread c.t.id fun t => t.putFixeds ws n tr) := checkStack_ok h s _

theorem writeFlagged_ok {c : Ctx} {ws : List (Reg × Word)} (h : c.t.belowLimit ws = false) (s : State) (n : Nat)
    (tr quiet : Bool) (fl : FpFlags) :
    writeFlagged c s ws n tr quiet fl = .done (s.mapThread c.t.id fun t =>
      { t.putFixeds ws n tr with fflags := addFlags t.fflags quiet fl }) := checkStack_ok h s _

theorem writeBoard_ok {c : Ctx} {ws : List (Reg × Word)} (h : c.t.belowLimit ws = false) (s : State) :
    writeBoard c s ws = .done (s.mapThread c.t.id fun t => t.putBanks ws) := checkStack_ok h s _

theorem writeWith_ok {c : Ctx} {ws : List (Reg × Word)} (h : c.t.belowLimit ws = false) (s s' : State) :
    writeWith c s s' ws = .done (s'.mapThread c.t.id fun t => t.putBanks ws) := checkStack_ok h s _

/-- Writes that name neither g30 nor g31 are not below the limit. -/
theorem belowLimit_of_untouched {t : Thread} {ws : List (Reg × Word)} (h : Thread.touchesStack ws = false) :
    t.belowLimit ws = false := by simp [Thread.belowLimit, h]

/-! ## Registers after a write -/

theorem find?_filter_other {α : Type} {p q : α → Bool} (h : ∀ x, p x = true → q x = false) (xs : List α) :
    (xs.filter fun x => !q x).find? p = xs.find? p := by
  induction xs with
  | nil => rfl
  | cons x xs ih =>
    by_cases hq : q x = true
    · have hp : p x = false := by
        cases hpx : p x with
        | false => rfl
        | true => simp [h x hpx] at hq
      simp [hq, hp, ih]
    · simp only [Bool.not_eq_true] at hq
      simp [hq, List.find?_cons, ih]

/-- The transient values after one register's is forgotten. -/
theorem forget_find_self (xs : List Transient) (r : Reg) :
    (xs.filter fun x => !(x.reg == r)).find? (fun x => x.reg == r) = none := by simp

theorem forget_find_other (xs : List Transient) {r r' : Reg} (h : r' ≠ r) :
    (xs.filter fun x => !(x.reg == r)).find? (fun x => x.reg == r') = xs.find? fun x => x.reg == r' :=
  find?_filter_other (p := fun x : Transient => x.reg == r') (q := fun x : Transient => x.reg == r)
    (fun x hx => by
      have : x.reg = r' := by simpa using hx
      simp [this, h]) xs

/-- The latest value of a register just written. -/
theorem Thread.latest_putFixed_self (t : Thread) (r : Reg) (v : Word) (n : Nat) (tr pd : Bool) :
    (t.putFixed r v n tr pd).latest r = v := by
  cases tr with
  | true => simp [Thread.putFixed, Thread.latest, Thread.transient?]
  | false =>
    simp only [Thread.putFixed, Thread.latest, Thread.transient?, Thread.forget, Thread.bank, Bool.false_eq_true, if_false,
      forget_find_self]
    simp

/-- The latest value of another register. -/
theorem Thread.latest_putFixed_other (t : Thread) {r r' : Reg} (h : r' ≠ r) (v : Word) (n : Nat) (tr pd : Bool) :
    (t.putFixed r v n tr pd).latest r' = t.latest r' := by
  have hv : r.val ≠ r'.val := fun e => h (Fin.ext e.symm)
  cases tr with
  | true =>
    have hr : (r == r') = false := by simpa using Ne.symm h
    simp only [Thread.putFixed, Thread.latest, Thread.transient?, Thread.forget, Thread.bank, if_true, List.find?_cons, hr]
    rw [forget_find_other _ h]
  | false =>
    simp only [Thread.putFixed, Thread.latest, Thread.transient?, Thread.forget, Thread.bank, Bool.false_eq_true, if_false,
      forget_find_other _ h]
    simp [hv]

theorem Thread.latest_putBank_self (t : Thread) (r : Reg) (v : Word) : (t.putBank r v).latest r = v := by
  simp only [Thread.putBank, Thread.latest, Thread.transient?, Thread.forget, Thread.bank, forget_find_self]
  simp

theorem Thread.latest_putBank_other (t : Thread) {r r' : Reg} (h : r' ≠ r) (v : Word) :
    (t.putBank r v).latest r' = t.latest r' := by
  have hv : r.val ≠ r'.val := fun e => h (Fin.ext e.symm)
  simp only [Thread.putBank, Thread.latest, Thread.transient?, Thread.forget, Thread.bank, forget_find_other _ h]
  simp [hv]

/-- Executing an instruction changes no latest value. -/
@[simp] theorem Thread.latest_advance (t : Thread) (len stall now : Nat) (r : Reg) :
    (t.advance len stall now).latest r = t.latest r := by
  have h : ((t.trans.map fun x => { x with age := x.age + 1 }).find? fun x => x.reg == r) =
      (t.trans.find? fun x => x.reg == r).map fun x => { x with age := x.age + 1 } := by
    rw [List.find?_map]; rfl
  cases hf : t.trans.find? fun x => x.reg == r with
  | none => simp [Thread.advance, Thread.latest, Thread.transient?, Thread.bank, h, hf]
  | some x => simp [Thread.advance, Thread.latest, Thread.transient?, h, hf]

/-- A settled thread's values are as before. -/
@[simp] theorem Thread.latest_settle (t : Thread) (r : Reg) : t.settle.latest r = t.latest r := rfl

/-! ## A change of one thread -/

/-- What changes one thread changes no memory. -/
theorem State.memOk_mapThread {s : State} (h : s.memOk) (id : ThreadId) (f : Thread → Thread) : (s.mapThread id f).memOk := h

theorem State.memOk_setThread {s : State} (h : s.memOk) (t : Thread) : (s.setThread t).memOk := h

theorem State.memOk_mapDie {s : State} (h : s.memOk) (d : Nat) (f : Die → Die) : (s.mapDie d f).memOk := h

theorem State.memOk_mapGroup {s : State} (h : s.memOk) (w i : Nat) (f : Group → Group) : (s.mapGroup w i f).memOk := h

theorem State.memOk_mapLaunch {s : State} (h : s.memOk) (l : Nat) (f : Launch → Launch) : (s.mapLaunch l f).memOk := h

/-- A change of a wave that keeps its memories canonical. -/
theorem State.memOk_mapWave {s : State} (h : s.memOk) (uid : Nat) (f : Wave → Wave) (hf : ∀ w, w.memOk → (f w).memOk) :
    (s.mapWave uid f).memOk := by
  refine ⟨h.1, ?_, h.2.2⟩
  intro w hw
  simp only [State.mapWave, updateIf, List.mem_map] at hw
  obtain ⟨v, hv, rfl⟩ := hw
  split
  · exact hf v (h.2.1 v hv)
  · exact h.2.1 v hv

end Sys2Proof.Machine
end

