-- ==== Sys2Proof/Laws/Forms.lean ====
section
/-!
SUPPORT. What an instruction of each shape does once it executes: a fixed-latency result, a pair, a scoreboarded result, a
change of the thread alone, a jump, a trap.
-/
namespace Sys2Proof.Machine

open Sys2Proof

/-! ## Bank values, marks and open writes after a write -/

theorem Thread.bank_putFixed (t : Thread) (r r' : Reg) (v : Word) (n : Nat) (tr pd : Bool) :
    (t.putFixed r v n tr pd).bank r' = if r' = r ∧ tr = false then v else t.bank r' := by
  cases tr with
  | true => simp [Thread.putFixed, Thread.bank, Thread.forget]
  | false =>
    by_cases h : r' = r
    · subst h; simp [Thread.putFixed, Thread.bank, Thread.forget]
    · have hv : r.val ≠ r'.val := fun e => h (Fin.ext e.symm)
      simp [Thread.putFixed, Thread.bank, Thread.forget, h, hv]

theorem forget_mark_other (xs : List Mark) {r r' : Reg} (h : r' ≠ r) :
    (xs.filter fun x => !(x.reg == r)).find? (fun x => x.reg == r') = xs.find? fun x => x.reg == r' :=
  find?_filter_other (p := fun x : Mark => x.reg == r') (q := fun x : Mark => x.reg == r)
    (fun x hx => by
      have : x.reg = r' := by simpa using hx
      simp [this, h]) xs

theorem Thread.mark?_putFixed_self (t : Thread) (r : Reg) (v : Word) (n : Nat) (tr pd : Bool) :
    (t.putFixed r v n tr pd).mark? r = none := by
  cases tr <;> simp [Thread.putFixed, Thread.mark?, Thread.forget]

theorem Thread.mark?_putFixed_other (t : Thread) {r r' : Reg} (h : r' ≠ r) (v : Word) (n : Nat) (tr pd : Bool) :
    (t.putFixed r v n tr pd).mark? r' = t.mark? r' := by
  cases tr <;> simp only [Thread.putFixed, Thread.mark?, Thread.forget, Bool.false_eq_true, if_false, if_true,
    forget_mark_other _ h]

@[simp] theorem Thread.bank_advance (t : Thread) (len stall now : Nat) (r : Reg) : (t.advance len stall now).bank r = t.bank r :=
  rfl

@[simp] theorem Thread.mark?_advance (t : Thread) (len stall now : Nat) (r : Reg) :
    (t.advance len stall now).mark? r = t.mark? r := rfl

/-- Dropping the writes that nothing can read late any more leaves the newest write of a register that is open. -/
theorem find_stillOpen (r : Reg) (fl : List InFlight) :
    ((Thread.stillOpen fl).find? fun x => x.reg == r).any (fun x => decide (0 < x.left)) =
      (fl.find? fun x => x.reg == r).any fun x => decide (0 < x.left) := by
  induction fl with
  | nil => rfl
  | cons x xs ih =>
    unfold Thread.stillOpen
    by_cases hk : (decide (0 < x.left) || (Thread.stillOpen xs).any fun y => y.reg == x.reg) = true
    · simp only [hk, if_true, List.find?_cons]
      cases x.reg == r <;> simp [ih]
    · simp only [hk, Bool.false_eq_true, if_false, List.find?_cons]
      simp only [Bool.or_eq_true, not_or, Bool.not_eq_true] at hk
      by_cases hr : x.reg = r
      · have hx : (Thread.stillOpen xs).find? (fun y => y.reg == r) = none := by simpa [hr] using hk.2
        simp [hx, hr, hk.1]
      · have hb : (x.reg == r) = false := by simpa using hr
        simpa [hb] using ih

/-- The newest fixed-latency write of a register decides whether a read after the next instruction is late. -/
theorem Thread.late_advance (t : Thread) (len stall now : Nat) (r : Reg) :
    (t.advance len stall now).late r = (t.flight.find? fun x => x.reg == r).any fun x => decide (1 + stall < x.left) := by
  refine (find_stillOpen r _).trans ?_
  rw [List.find?_map]
  show Option.any _ (Option.map _ (t.flight.find? fun x => x.reg == r)) = _
  cases t.flight.find? fun x => x.reg == r <;> simp

/-! ## Changes of the thread alone -/

/-- A change of the executing thread that keeps its name, with the free counter moved, changes nothing else. -/
theorem OnlyThread.of_mapThread (s : State) (k : Nat) (f : Thread → Thread) (hf : ∀ t, (f t).id = t.id) :
    OnlyThread s (State.mapThread { s with free := k } s.cur f) where
  state := rfl
  others := fun _ h => State.thread?_mapThread_other _ f hf h
  bytes := fun _ => rfl

/-- Two changes of one thread are one. -/
theorem State.mapThread_mapThread (s : State) (id : ThreadId) (f g : Thread → Thread) (hf : ∀ t, (f t).id = t.id) :
    (s.mapThread id f).mapThread id g = s.mapThread id fun t => g (f t) := by
  have : updateIf (fun u => u.id == id) g (updateIf (fun u => u.id == id) f s.threads) =
      updateIf (fun u => u.id == id) (fun t => g (f t)) s.threads := by
    unfold updateIf
    rw [List.map_map]
    refine List.map_congr_left fun t _ => ?_
    by_cases h : t.id = id
    · simp [h, hf]
    · simp [h]
  unfold State.mapThread
  simp only [this]

/-- Finding the executing thread after its change. -/
theorem Executes.found {s : State} {c : Ctx} {f : Form} (h : Executes s c f) (k : Nat) (g : Thread → Thread)
    (hg : ∀ t, (g t).id = t.id) : (State.mapThread { s with free := k } s.cur g).thread? s.cur = some (g c.t) := by
  rw [State.thread?_mapThread_self _ _ _ hg]
  have := (State.ctx_eq h.ctx).1
  show Option.map g (s.thread? s.cur) = _
  rw [this]; rfl

/-- A change of a thread has nothing to do with the operand values that it holds. -/
def Holds (g : Thread → Thread) : Prop := ∀ t v, g { t with held := v } = { g t with held := v }

theorem Holds.putFixed (r : Reg) (x : Word) (n : Nat) (tr pd : Bool) : Holds fun t => t.putFixed r x n tr pd := by
  intro t v; cases tr <;> rfl

theorem Holds.putFixeds (ws : List (Reg × Word)) (n : Nat) (tr : Bool) : Holds fun t => t.putFixeds ws n tr := by
  unfold Thread.putFixeds
  generalize decide (1 < ws.length) = b
  induction ws with
  | nil => intro t v; rfl
  | cons w ws ih =>
    intro t v
    have e : ({ t with held := v } : Thread).putFixed w.1 w.2 n tr b = { t.putFixed w.1 w.2 n tr b with held := v } :=
      Holds.putFixed w.1 w.2 n tr b t v
    simp only [List.foldl_cons, e]
    exact ih _ v

/-- What an instruction changes of its thread once it has read its operands. -/
theorem State.spent_mapThread (s : State) (f : Form) (g : Thread → Thread) :
    (s.spent f).mapThread s.cur g =
      State.mapThread { s with free := s.free + f.reads.length } s.cur fun t => g { t with held := t.values f.reads s.free } := by
  unfold State.spent
  exact State.mapThread_mapThread _ _ _ _ (fun _ => rfl)

/-- The state after an instruction that changes its thread by `g` and completes. -/
def afterDone (s : State) (f : Form) (g : Thread → Thread) : State :=
  State.mapThread { s with free := s.free + f.reads.length } s.cur fun t => (g t).advance f.len (f.sc + f.delay) s.now

/-- An instruction that changes its thread by `g` and completes. -/
theorem Executes.done {s : State} {c : Ctx} {f : Form} (h : Executes s c f) {body : Ctx → (Nat → Word) → State → Effect}
    (g : Thread → Thread) (hg : ∀ t, (g t).id = t.id) (hh : Holds g)
    (hb : body c (c.reads s f) (s.spent f) = .done ((s.spent f).mapThread c.t.id g)) :
    runForm f body s = .next (afterDone s f g) := by
  rw [runForm_executes h body, hb]
  simp only [finish, State.ctx_id h.ctx, afterDone]
  rw [State.mapThread_mapThread _ _ _ _ hg, State.spent_mapThread]
  exact congrArg _ (congrArg _ (funext fun t => by
    have e := congrArg (fun u => Thread.advance u f.len (f.sc + f.delay) s.now) (hh t (t.values f.reads s.free))
    exact e))

theorem Executes.advanced {s : State} {c : Ctx} {f : Form} (h : Executes s c f) (g : Thread → Thread)
    (hg : ∀ t, (g t).id = t.id) (hp : (g c.t).pc = c.t.pc) :
    Advanced s (afterDone s f g) c f.len (f.sc + f.delay) ((g c.t).advance f.len (f.sc + f.delay) s.now) where
  only := OnlyThread.of_mapThread s _ (fun t => (g t).advance f.len (f.sc + f.delay) s.now) (by simpa using hg)
  found := h.found _ _ (by simpa using hg)
  pc := by simp [Thread.advance, hp]
  ready := rfl

/-- A thread that has only advanced keeps its control state. -/
theorem SameControl.of_advance {u v : Thread} {n st now : Nat} (h : SameControl u v) : SameControl u (v.advance n st now) := by
  constructor <;> simp [h.id, h.preds, h.fflags, h.fcr, h.ctl, h.fport, h.slim, h.clkh, h.h, h.mode, h.pending, h.status, h.loads,
    h.stores, h.unposted, h.owed, h.modeHigh, h.spare, h.sight, h.released, h.heard]

theorem SameControl.putFixeds (u : Thread) (ws : List (Reg × Word)) (n : Nat) (tr : Bool) :
    SameControl u (u.putFixeds ws n tr) := by
  constructor <;> simp

theorem SameRegs.putFixeds (u : Thread) (ws : List (Reg × Word)) (n : Nat) (tr : Bool) :
    SameRegs u (u.putFixeds ws n tr) (ws.map (·.1)) := by
  unfold Thread.putFixeds
  generalize decide (1 < ws.length) = pd
  induction ws generalizing u with
  | nil => intro r _; exact ⟨rfl, rfl, rfl⟩
  | cons w ws ih =>
    intro r hr
    simp only [List.map_cons, List.mem_cons, not_or] at hr
    have hi := ih (u.putFixed w.1 w.2 n tr pd) r hr.2
    refine ⟨hi.1.trans (Thread.latest_putFixed_other u hr.1 _ _ _ _), hi.2.1.trans ?_,
      hi.2.2.trans (Thread.mark?_putFixed_other u hr.1 _ _ _ _)⟩
    rw [Thread.bank_putFixed]; simp [hr.1]

theorem SameRegs.of_advance {u v : Thread} {n st now : Nat} {but : List Reg} (h : SameRegs u v but) :
    SameRegs u (v.advance n st now) but := by
  intro r hr
  obtain ⟨h1, h2, h3⟩ := h r hr
  exact ⟨by simpa using h1, h2, h3⟩

theorem Wrote.of_advance {u v : Thread} {n st now : Nat} {d : Reg} {x : Word} {tr : Bool} (h : Wrote u v d x tr) :
    Wrote u (v.advance n st now) d x tr := ⟨by simpa using h.latest, h.bank, h.clean⟩

theorem Wrote.putFixed (u : Thread) (d : Reg) (x : Word) (n : Nat) (tr pd : Bool) : Wrote u (u.putFixed d x n tr pd) d x tr where
  latest := Thread.latest_putFixed_self u d x n tr pd
  bank := by rw [Thread.bank_putFixed]; cases tr <;> simp
  clean := Thread.mark?_putFixed_self u d x n tr pd

theorem Opens.putFixed (u : Thread) (d : Reg) (x : Word) (n : Nat) (tr pd : Bool) (len st now : Nat) :
    Opens ((u.putFixed d x n tr pd).advance len st now) d n st := by
  unfold Opens
  rw [Thread.late_advance]
  cases tr <;> simp [Thread.putFixed]

/-- One fixed-latency result (R59, R63). -/
theorem writesOne_of {i : Instr} {s : State} {c : Ctx} {f : Form} {d : Reg} {x : Word} {n : Nat} {tr : Bool}
    (h : Executes s c f) (hd : c.t.belowLimit [(d, x)] = false) {body : Ctx → (Nat → Word) → State → Effect}
    (hi : exec i s = runForm f body s)
    (hb : body c (c.reads s f) (s.spent f) =
      writeFixed c (s.spent f) [(d, x)] n tr) :
    WritesOne i s c f.len (f.sc + f.delay) n d x tr := by
  have e := h.done (fun t => t.putFixeds [(d, x)] n tr) (by simp) (Holds.putFixeds _ _ _) (hb.trans (writeFixed_ok hd _ _ _))
  refine ⟨_, _, hi.trans e, h.advanced _ (by simp) (by simp), (SameControl.putFixeds _ _ _ _).of_advance,
    (SameRegs.putFixeds c.t [(d, x)] n tr).of_advance, (Wrote.putFixed c.t d x n tr false).of_advance, ?_⟩
  exact Opens.putFixed c.t d x n tr false f.len _ s.now

/-- The open writes of another register. -/
theorem find_flight_putFixed (t : Thread) {r r' : Reg} (h : r' ≠ r) (v : Word) (n : Nat) (tr pd : Bool) :
    ((t.putFixed r v n tr pd).flight.find? fun x => x.reg == r') = t.flight.find? fun x => x.reg == r' := by
  have hb : ¬(r == r') = true := by simpa using h.symm
  cases tr <;> exact List.find?_cons_of_neg hb

theorem Reg.succ_ne (d : Reg) : d.succ 1 ≠ d := by
  intro h
  have := congrArg Fin.val h
  simp only [Reg.succ, Fin.ofNat] at this
  have hd := d.isLt
  omega

/-- A pair of fixed latency (R56, R109). -/
theorem writesPair_of {i : Instr} {s : State} {c : Ctx} {f : Form} {d : Reg} {x : DWord} {n : Nat} {tr : Bool}
    (hlen : f.len = 4) (h : Executes s c f) (hd : c.t.belowLimit (d.pairWrites x) = false)
    {body : Ctx → (Nat → Word) → State → Effect} (hi : exec i s = runForm f body s)
    (hb : body c (c.reads s f) (s.spent f) =
      writeFixed c (s.spent f) (d.pairWrites x) n tr) :
    WritesPair i s c (f.sc + f.delay) n d x tr := by
  have e := h.done (fun t => t.putFixeds (d.pairWrites x) n tr) (by simp) (Holds.putFixeds _ _ _) (hb.trans (writeFixed_ok hd _ _ _))
  have hne := Reg.succ_ne d
  have adv := h.advanced (fun t => t.putFixeds (d.pairWrites x) n tr) (by simp) (by simp)
  rw [hlen] at adv
  refine ⟨_, _, hi.trans e, adv, (SameControl.putFixeds _ _ _ _).of_advance,
    (SameRegs.putFixeds c.t (d.pairWrites x) n tr).of_advance, ?_, ?_, ?_, ?_⟩
  · refine Wrote.of_advance ⟨?_, ?_, ?_⟩
    · exact (Thread.latest_putFixed_other _ hne.symm _ _ _ _).trans (Thread.latest_putFixed_self _ _ _ _ _ _)
    · show ((c.t.putFixed d _ n tr true).putFixed _ _ n tr true).bank d = _
      rw [Thread.bank_putFixed, Thread.bank_putFixed]; cases tr <;> simp [hne.symm]
    · exact (Thread.mark?_putFixed_other _ hne.symm _ _ _ _).trans (Thread.mark?_putFixed_self _ _ _ _ _ _)
  · refine Wrote.of_advance ⟨Thread.latest_putFixed_self _ _ _ _ _ _, ?_, Thread.mark?_putFixed_self _ _ _ _ _ _⟩
    show ((c.t.putFixed d _ n tr true).putFixed _ _ n tr true).bank _ = _
    rw [Thread.bank_putFixed, Thread.bank_putFixed]; cases tr <;> simp [hne]
  · have hf := find_flight_putFixed (c.t.putFixed d (Word.lo x) n tr true) hne.symm (Word.hi x) n tr true
    unfold Opens
    rw [Thread.late_advance]
    show Option.any _ (((c.t.putFixed d _ n tr true).putFixed _ _ n tr true).flight.find? _) = _
    rw [hf]
    cases tr <;> simp [Thread.putFixed]
  · exact Opens.putFixed (c.t.putFixed d _ n tr true) (d.succ 1) _ n tr true 4 _ s.now

/-- A change of the thread that keeps its registers and its PC, and of its control state only what `upd` restores. -/
theorem thread_done {i : Instr} {s : State} {c : Ctx} {f : Form} (h : Executes s c f)
    {body : Ctx → (Nat → Word) → State → Effect} (g : Thread → Thread) (hg : ∀ t, (g t).id = t.id) (hh : Holds g)
    (hp : (g c.t).pc = c.t.pc) (hi : exec i s = runForm f body s)
    (hb : body c (c.reads s f) (s.spent f) = .done ((s.spent f).mapThread c.t.id g)) :
    ∃ t, exec i s = .next t ∧ Advanced s t c f.len (f.sc + f.delay) ((g c.t).advance f.len (f.sc + f.delay) s.now) :=
  ⟨_, hi.trans (h.done g hg hh hb), h.advanced g hg hp⟩

/-- A change of the predicate stack (R67). -/
theorem setsPreds_of {i : Instr} {s : State} {c : Ctx} {f : Form} (p : BitVec 8 → BitVec 8) (h : Executes s c f)
    {body : Ctx → (Nat → Word) → State → Effect} (hi : exec i s = runForm f body s)
    (hb : body c (c.reads s f) (s.spent f) = .done ((s.spent f).mapThread c.t.id fun t => { t with preds := p t.preds })) :
    SetsPreds i s c f.len (f.sc + f.delay) (p c.t.preds) := by
  obtain ⟨t, h1, h2⟩ := thread_done h (fun t => { t with preds := p t.preds }) (fun _ => rfl) (fun _ _ => rfl) rfl hi hb
  refine ⟨t, _, h1, h2, rfl, ?_, ?_⟩
  · constructor <;> rfl
  · intro r _; exact ⟨Thread.latest_advance _ _ _ _ _, rfl, rfl⟩

/-- A scoreboarded result (R60). -/
theorem writesBoard_of {i : Instr} {s : State} {c : Ctx} {f : Form} {d : Reg} {x : Word} (hlen : f.len = 4) (hdl : f.delay = 0)
    (h : Executes s c f) (hd : c.t.belowLimit [(d, x)] = false) {body : Ctx → (Nat → Word) → State → Effect}
    (hi : exec i s = runForm f body s)
    (hb : body c (c.reads s f) (s.spent f) = writeBoard c (s.spent f) [(d, x)]) :
    WritesBoard i s c f.sc d x := by
  obtain ⟨t, h1, h2⟩ := thread_done h (fun t => t.putBank d x) (fun t => by simp) (fun _ _ => rfl) (by simp) hi (hb.trans (writeBoard_ok hd _))
  rw [hlen, hdl] at h2
  refine ⟨t, _, h1, h2, SameControl.of_advance ?_, SameRegs.of_advance ?_, Wrote.of_advance ?_, ?_⟩
  · constructor <;> simp
  · intro r hr
    have hr' : r ≠ d := by simpa using hr
    have hv : d.val ≠ r.val := fun e => hr' (Fin.ext e.symm)
    refine ⟨Thread.latest_putBank_other _ hr' _, ?_, ?_⟩
    · simp [Thread.putBank, Thread.bank, Thread.forget, hv]
    · exact congrArg (Option.map _) (forget_mark_other c.t.marks hr')
  · refine ⟨Thread.latest_putBank_self _ _ _, ?_, ?_⟩
    · simp [Thread.putBank, Thread.bank, Thread.forget]
    · simp [Thread.putBank, Thread.mark?, Thread.forget]
  · rw [Thread.late_advance]
    have : (c.t.putBank d x).flight.find? (fun y => y.reg == d) = none := by
      simp [Thread.putBank]
    simp only [this, Option.any_none]

/-- A jump that leaves registers alone. -/
theorem jumps_of {i : Instr} {s : State} {c : Ctx} {f : Form} {pc : Word} {ws : List (Reg × Word)} {n : Nat} (h : Executes s c f)
    {body : Ctx → (Nat → Word) → State → Effect} (hi : exec i s = runForm f body s)
    (hb : body c (c.reads s f) (s.spent f) = .jump ((s.spent f).mapThread c.t.id fun t => t.putFixeds ws n false) pc) :
    Jumps i s c (f.sc + f.delay) pc
      { (c.t.putFixeds ws n false).advance f.len (f.sc + f.delay) s.now with pc := pc } (ws.map (·.1)) := by
  have e := runForm_executes h body
  rw [hb] at e
  simp only [finish, State.ctx_id h.ctx] at e
  rw [State.mapThread_mapThread _ _ _ _ (by simp), State.spent_mapThread] at e
  have hw : (fun t : Thread => { (Thread.putFixeds { t with held := t.values f.reads s.free } ws n false).advance f.len
      (f.sc + f.delay) s.now with pc := pc }) =
      fun t => { (t.putFixeds ws n false).advance f.len (f.sc + f.delay) s.now with pc := pc } :=
    funext fun t => congrArg (fun u : Thread => { u.advance f.len (f.sc + f.delay) s.now with pc := pc })
      (Holds.putFixeds ws n false t (t.values f.reads s.free))
  replace e := e.trans (congrArg (fun g => Host.Outcome.next (State.mapThread _ s.cur g)) hw)
  refine ⟨_, hi.trans e, OnlyThread.of_mapThread s _ _ (by simp), h.found _ _ (by simp), rfl, rfl, ?_, ?_⟩
  · have := (SameControl.putFixeds c.t ws n false).of_advance (n := f.len) (st := f.sc + f.delay) (now := s.now)
    exact ⟨this.id, this.preds, this.fflags, this.fcr, this.ctl, this.fport, this.slim, this.clkh, this.h, this.mode,
      this.pending, this.status, this.loads, this.stores, this.unposted, this.owed, this.modeHigh, this.spare, this.sight, this.released, this.heard⟩
  · intro r hr
    have := (SameRegs.putFixeds c.t ws n false).of_advance (n := f.len) (st := f.sc + f.delay) (now := s.now) r hr
    exact this

/-! ## Traps -/

theorem find?_updateIf_hit {α : Type} {p : α → Bool} {f : α → α} (hf : ∀ x, p x = true → p (f x) = true) (xs : List α) :
    (updateIf p f xs).find? p = (xs.find? p).map f := by
  unfold updateIf
  induction xs with
  | nil => rfl
  | cons x xs ih =>
    cases hx : p x with
    | true => simp [hx, hf x hx]
    | false => simp [hx, ih]

theorem find?_updateIf_miss {α : Type} {p q : α → Bool} {f : α → α} (hf : ∀ x, q x = true → p x = false ∧ p (f x) = false)
    (xs : List α) : (updateIf q f xs).find? p = xs.find? p := by
  unfold updateIf
  induction xs with
  | nil => rfl
  | cons x xs ih =>
    cases hx : q x with
    | true => simp [hx, hf x hx, ih]
    | false => simp [hx, ih, List.find?_cons]

theorem State.thread?_setThread_self {s : State} {t u : Thread} (h : s.thread? t.id = some u) :
    (s.setThread t).thread? t.id = some t := by
  have := find?_updateIf_hit (p := fun x : Thread => x.id == t.id) (f := fun _ => t) (fun x _ => by simp) s.threads
  unfold State.thread? at h
  exact this.trans (by rw [h]; rfl)

theorem State.thread?_setThread_other (s : State) {t : Thread} {id : ThreadId} (h : id ≠ t.id) :
    (s.setThread t).thread? id = s.thread? id :=
  find?_updateIf_miss (p := fun x : Thread => x.id == id) (q := fun u => u.id == t.id) (f := fun _ => t)
    (fun x hx => by
      have : x.id = t.id := by simpa using hx
      simp [this, Ne.symm h]) s.threads

/-- The registers of a committed thread. -/
theorem Thread.bank_commit (t : Thread) (r : Reg) : t.commit.bank r = if t.inWindow r then t.latest r else t.bank r := by
  have key : ∀ (xs : List Transient) (rs : Vector Word 64), (∀ x ∈ xs, t.inWindow x.reg = true) →
      (xs.foldl (fun rs x => rs.set x.reg (t.latest x.reg)) rs)[r] =
        if xs.any (fun x => x.reg == r) then t.latest r else rs[r] := by
    intro xs
    induction xs with
    | nil => intro rs _; rfl
    | cons x xs ih =>
      intro rs h
      rw [List.foldl_cons, ih _ (fun y hy => h y (List.mem_cons_of_mem _ hy))]
      by_cases hx : x.reg = r
      · subst hx; simp
      · have hv : x.reg.val ≠ r.val := fun e => hx (Fin.ext e)
        simp [hx, hv]
  have hb := key (t.trans.filter fun x => t.inWindow x.reg) t.regs (fun x hx => (List.mem_filter.mp hx).2)
  have hany : ((t.trans.filter fun x => t.inWindow x.reg).any fun x => x.reg == r) = t.inWindow r := by
    cases hw : t.inWindow r with
    | true =>
      have hs : ∃ x, t.transient? r = some x := by
        unfold Thread.inWindow at hw
        cases h : t.transient? r with
        | none => simp [h] at hw
        | some x => exact ⟨x, rfl⟩
      obtain ⟨x, hx⟩ := hs
      have hr : x.reg = r := by simpa using List.find?_some hx
      rw [List.any_eq_true]
      exact ⟨x, List.mem_filter.mpr ⟨List.mem_of_find?_eq_some hx, by rw [hr, hw]⟩, by simp [hr]⟩
    | false =>
      rw [List.any_eq_false]
      intro x hx
      have := (List.mem_filter.mp hx).2
      simp only [beq_iff_eq]
      intro hr
      rw [hr, hw] at this
      exact absurd this (by simp)
  rw [hany] at hb
  exact hb

/-- Committing changes no latest value. -/
@[simp] theorem Thread.latest_commit (t : Thread) (r : Reg) : t.commit.latest r = t.latest r := by
  have hb := Thread.bank_commit t r
  unfold Thread.latest
  cases hw : t.inWindow r with
  | true =>
    have hn : t.commit.transient? r = none := by
      unfold Thread.transient? Thread.commit
      rw [List.find?_eq_none]
      intro x hx hr
      have := (List.mem_filter.mp hx).2
      have he : x.reg = r := by simpa using hr
      simp [he, hw] at this
    rw [hn, hb, hw]
    simp [Thread.latest]
  | false =>
    have hn : t.commit.transient? r = t.transient? r := by
      show (t.trans.filter fun x => !t.inWindow x.reg).find? (fun x => x.reg == r) = _
      exact find?_filter_other (p := fun x : Transient => x.reg == r) (q := fun x : Transient => t.inWindow x.reg)
        (fun x hx => by
          have he : x.reg = r := by simpa using hx
          rw [he, hw]) t.trans
    rw [hn, hb, hw]
    simp

/-- A thread that arrives keeps every latest value. -/
@[simp] theorem Thread.latest_arriving (t : Thread) (r : Reg) : t.arriving.latest r = t.latest r := Thread.latest_commit t r

/-- What an arriving thread reads of a register, outside the transient window too early or not, is its latest value (R150). -/
theorem Thread.operand_arriving (t : Thread) (free k : Nat) {r : Reg} (h : t.arriving.stale r = false) :
    t.arriving.operand free k r = t.latest r := by
  have hv : ∀ x ∈ t.arriving.flight, x.reg = r → x.val = t.latest r ∧ x.olds = [] := by
    intro x hx hr
    simp only [Thread.arriving, List.mem_map] at hx
    obtain ⟨y, -, rfl⟩ := hx
    simp only at hr
    exact ⟨by rw [hr]; exact Thread.latest_commit t r, rfl⟩
  unfold Thread.operand
  rw [h]
  simp only [Bool.false_eq_true, if_false, Thread.latest_arriving]
  split
  · unfold Thread.lateValue
    simp only [h, Bool.false_and, Bool.false_eq_true, if_false, Thread.latest_arriving]
    have hm : ∀ x ∈ t.arriving.flight.zipIdx.filter (fun x => x.1.reg == r), x.1.val = t.latest r ∧ x.1.olds = [] := by
      intro x hx
      simp only [List.mem_filter, beq_iff_eq] at hx
      obtain ⟨hi, he⟩ := List.mem_zipIdx' hx.1
      exact hv _ (by rw [he]; exact List.getElem_mem hi) hx.2
    split
    · rename_i x hx
      exact (hm x (List.mem_of_find?_eq_some hx)).1
    · split
      · rename_i x i hx
        have hmem := hm _ (List.takeWhile_sublist _ |>.subset (List.mem_of_getLast? hx))
        simp only at hmem
        rw [hmem.2]
        exact hmem.1
      · rfl
  · rfl

/-- The thread after a trap that its handler takes. -/
def handled (c : Ctx) (cause : Cause) (ea : DWord) (now : Nat) : Thread :=
  { c.t.atEntry cause ea with
    mode := .handler
    pc := Word.lo c.l.nd.trapvec
    wait := .none
    held := []
    lastIssue := (c.t.atEntry cause ea).issuedAt now
    readyAt := now + 1 }

/-- A trap delivered to a thread that has a handler (R318). -/
theorem State.trap_handled {s : State} {c : Ctx} (hh : c.handles) (cause : Cause) (ea : DWord) :
    s.trap c cause ea = s.setThread (handled c cause ea s.now) := by
  have hm : (c.t.atEntry cause ea).mode = .normal := hh.1
  unfold State.trap
  simp only [hm]
  simp [hh.2, handled]

/-- An instruction of c's thread that traps with a handler. -/
theorem traps_of {i : Instr} {s : State} {c : Ctx} {k : Nat} {cause : Cause} {ea : DWord} (hc : s.ctx s.cur = some c)
    (hh : c.handles) (hi : exec i s = .next (State.trap { s with free := k } c cause ea)) : Traps i s c cause ea := by
  have hid := State.ctx_id hc
  rw [State.trap_handled hh] at hi
  have ht : s.thread? c.t.id = some c.t := by rw [hid]; exact (State.ctx_eq hc).1
  refine ⟨_, handled c cause ea s.now, hi, ⟨rfl, ?_, fun _ => rfl⟩, ?_, ⟨?_, ?_, ?_, ?_, ?_, rfl, rfl, ?_, rfl⟩, ?_, ?_, ?_⟩
  · intro id hne
    exact State.thread?_setThread_other _ (by show id ≠ c.t.id; rwa [hid])
  · rw [← hid]
    exact State.thread?_setThread_self (s := { s with free := k }) (t := handled c cause ea s.now) (u := c.t) ht
  · simp [handled, Thread.atEntry]
  · simp [handled, Thread.atEntry]
  · simp [handled, Thread.atEntry]
  · simp [handled, Thread.atEntry]
  · intro j hj
    have h0 : (0 : Nat) ≠ j.val := by omega
    have h1 : (1 : Nat) ≠ j.val := by omega
    have h2 : (2 : Nat) ≠ j.val := by omega
    have h3 : (3 : Nat) ≠ j.val := by omega
    simp [handled, Thread.atEntry, h0, h1, h2, h3]
  · constructor <;> rfl
  · intro r
    exact (Thread.latest_commit c.t.settle r).trans (Thread.latest_settle c.t r)
  · intro r; rfl
  · intro r hr
    have hb := Thread.bank_commit c.t.settle r
    refine Eq.trans (b := c.t.settle.commit.bank r) rfl ?_
    rw [hb]
    cases hx : c.t.transient? r with
    | none =>
      have h1 : c.t.settle.inWindow r = false := by
        show (c.t.transient? r).any _ = false; rw [hx]; rfl
      rw [h1]; simp [Thread.latest, hx]; rfl
    | some x =>
      have hage : x.age ≤ 8 := by simpa [Thread.stale, hx] using hr
      have h1 : c.t.settle.inWindow r = true := by
        show (c.t.transient? r).any _ = true; rw [hx]; simp [hage]
      rw [h1]; simp

end Sys2Proof.Machine
end

