-- ==== Sys2Proof/Laws/PerInstr.lean ====
section
/-!
SUPPORT. What holds of every instruction as syntax, one lemma a constructor. Family `Length`: bit 0 of an encoding tells its
length (R49, R50), and the fields fit: a 16-bit form is an even number below 2^16, a 32-bit form an odd one below 2^32.
-/
namespace Sys2Proof.Laws

open Sys2Proof

/-- The encoding is a halfword with bit 0 clear, a word with bit 0 set, or none. -/
def Length.Fits : Option Code → Prop
  | none => True
  | some (.half h) => h % 2 = 0 ∧ h < 2 ^ 16
  | some (.word w) => w % 2 = 1 ∧ w < 2 ^ 32

/-- The family's statement of one instruction. -/
def Length.Statement (i : Instr) : Prop := Length.Fits (encode i)

section Fields

open Encode

theorem Length.zero2 : 0 < 2 := by decide
theorem Length.zero64 : 0 < 64 := by decide
theorem Length.guard_lt (g : Guard) : g.code < 4 := by cases g <;> decide
theorem Length.bit_lt (b : Bool) : b.toNat < 2 := by cases b <;> decide
theorem Length.cond_lt (c : Cond) : c.code < 64 := by cases c <;> decide
theorem Length.fcond_lt (c : FCond) : c.code < 64 := by cases c <;> decide
theorem Length.sreg_lt (i : SReg) : i.code < 64 := by cases i <;> decide
theorem Length.preg_lt (i : PReg) : i.code < 64 := by cases i <;> decide
theorem Length.cvt_lt (c : CvtCode) : c.code < 64 := by cases c <;> decide
theorem Length.aop_lt (o : AtomOp) : o.code < 16 := by cases o <;> decide
theorem Length.scope_lt (x : Scope) : x.code < 64 := by cases x <;> decide
theorem Length.fkind_lt (x : FenceKind) : x.code < 64 := by cases x <;> decide
theorem Length.bkind_lt (x : BFenceKind) : x.code < 64 := by cases x <;> decide
theorem Length.class_lt (x : CounterClass) : x.code < 64 := by cases x <;> decide
theorem Length.mode_lt (x : MmaMode) : x.code < 8 := by cases x <;> decide
theorem Length.fmt_lt (x : MmaFmt) : x.code < 16 := by cases x <;> decide
theorem Length.size_lt (x : Size) : x.code < 8 := by cases x <;> decide

theorem Length.pack16_ok {op a d s : Nat} (ho : op < 16) (ha : a < 32) (hd : d < 32) (hs : s < 2) :
    Length.Fits (some (.half (pack16 op a d s))) := by
  simp only [Length.Fits, pack16]; omega

theorem Length.packR_ok {op b a d t f q g s : Nat} (ho : op < 64) (hb : b < 64) (ha : a < 64) (hd : d < 64) (ht : t < 2)
    (hf : f < 2) (hq : q < 2) (hg : g < 4) (hs : s < 4) : Length.Fits (some (.word (packR op b a d t f q g s))) := by
  simp only [Length.Fits, packR]; omega

theorem Length.packI_ok {op i a d g s : Nat} (ho : op < 64) (hi : i < 2 ^ 9) (ha : a < 64) (hd : d < 64) (hg : g < 4)
    (hs : s < 4) : Length.Fits (some (.word (packI op i a d g s))) := by
  simp only [Length.Fits, packI]; omega

theorem Length.packM_ok {op i a d z s : Nat} (ho : op < 64) (hi : i < 2 ^ 8) (ha : a < 64) (hd : d < 64) (hz : z < 8)
    (hs : s < 4) : Length.Fits (some (.word (packM op i a d z s))) := by
  simp only [Length.Fits, packM]; omega

theorem Length.packW_ok {op i d s : Nat} (ho : op < 64) (hi : i < 2 ^ 17) (hd : d < 64) (hs : s < 4) :
    Length.Fits (some (.word (packW op i d s))) := by
  simp only [Length.Fits, packW]; omega

theorem Length.packJ_ok {op i g s : Nat} (ho : op < 64) (hi : i < 2 ^ 21) (hg : g < 4) (hs : s < 4) :
    Length.Fits (some (.word (packJ op i g s))) := by
  simp only [Length.Fits, packJ]; omega

theorem Length.packA_ok {op b a d w o s : Nat} (ho : op < 64) (hb : b < 64) (ha : a < 64) (hd : d < 64) (hw : w < 2)
    (hp : o < 16) (hs : s < 4) : Length.Fits (some (.word (packA op b a d w o s))) := by
  simp only [Length.Fits, packA]; omega

theorem Length.packMX_ok {op m a r k f s : Nat} (ho : op < 64) (hm : m < 8) (ha : a < 64) (hr : r < 64) (hk : k < 16)
    (hf : f < 16) (hs : s < 4) : Length.Fits (some (.word (packMX op m a r k f s))) := by
  simp only [Length.Fits, packMX]; omega

theorem Length.h_ok (op : Nat) (x : H) (ho : op < 16) :
    Length.Fits (some (.half (Encode.h op x))) :=
  Length.pack16_ok ho x.a.isLt x.d.isLt x.sc.isLt

theorem Length.r_ok (op q : Nat) (x : RF) (ho : op < 64) (hq : q < 2) :
    Length.Fits (some (.word (Encode.r op q x))) :=
  Length.packR_ok ho x.b.isLt x.a.isLt x.d.isLt (Length.bit_lt x.t) Length.zero2 hq (Length.guard_lt x.g) x.sc.isLt

theorem Length.f_ok (op q : Nat) (x : FF) (ho : op < 64) (hq : q < 2) :
    Length.Fits (some (.word (Encode.f op q x))) :=
  Length.packR_ok ho x.b.isLt x.a.isLt x.d.isLt (Length.bit_lt x.t) (Length.bit_lt x.q) hq (Length.guard_lt x.g) x.sc.isLt

theorem Length.x_ok (op fn : Nat) (x : XF) (ho : op < 64) (hf : fn < 64) :
    Length.Fits (some (.word (Encode.x op fn x))) :=
  Length.packR_ok ho hf x.a.isLt x.d.isLt (Length.bit_lt x.t) Length.zero2 Length.zero2 (Length.guard_lt x.g) x.sc.isLt

theorem Length.xf_ok (op fn : Nat) (x : XFF) (ho : op < 64) (hf : fn < 64) :
    Length.Fits (some (.word (Encode.xf op fn x))) :=
  Length.packR_ok ho hf x.a.isLt x.d.isLt (Length.bit_lt x.t) (Length.bit_lt x.q) Length.zero2 (Length.guard_lt x.g) x.sc.isLt

theorem Length.g_ok (op fn : Nat) (x : GF) (ho : op < 64) (hf : fn < 64) :
    Length.Fits (some (.word (Encode.g op fn x))) :=
  Length.packR_ok ho hf Length.zero64 Length.zero64 Length.zero2 Length.zero2 Length.zero2 (Length.guard_lt x.g) x.sc.isLt

theorem Length.dt_ok (op fn : Nat) (x : DTF) (ho : op < 64) (hf : fn < 64) :
    Length.Fits (some (.word (Encode.dt op fn x))) :=
  Length.packR_ok ho hf Length.zero64 x.d.isLt (Length.bit_lt x.t) Length.zero2 Length.zero2 (Length.guard_lt x.g) x.sc.isLt

theorem Length.d_ok (op fn : Nat) (x : DF) (ho : op < 64) (hf : fn < 64) :
    Length.Fits (some (.word (Encode.d op fn x))) :=
  Length.packR_ok ho hf Length.zero64 x.d.isLt Length.zero2 Length.zero2 Length.zero2 (Length.guard_lt x.g) x.sc.isLt

theorem Length.a_ok (op fn : Nat) (x : AF) (ho : op < 64) (hf : fn < 64) :
    Length.Fits (some (.word (Encode.a op fn x))) :=
  Length.packR_ok ho hf x.a.isLt Length.zero64 Length.zero2 Length.zero2 Length.zero2 (Length.guard_lt x.g) x.sc.isLt

theorem Length.ad_ok (op fn : Nat) (x : ADF) (ho : op < 64) (hf : fn < 64) :
    Length.Fits (some (.word (Encode.ad op fn x))) :=
  Length.packR_ok ho hf x.a.isLt x.d.isLt Length.zero2 Length.zero2 Length.zero2 (Length.guard_lt x.g) x.sc.isLt

theorem Length.n_ok (op fn : Nat) (x : NF) (ho : op < 64) (hf : fn < 64) :
    Length.Fits (some (.word (Encode.n op fn x))) :=
  Length.packR_ok ho hf x.n.isLt Length.zero64 Length.zero2 Length.zero2 Length.zero2 (Length.guard_lt x.g) x.sc.isLt

theorem Length.i_ok (op : Nat) (x : IF) (ho : op < 64) :
    Length.Fits (some (.word (Encode.i op x))) :=
  Length.packI_ok ho x.imm.isLt x.a.isLt x.d.isLt (Length.guard_lt x.g) x.sc.isLt

theorem Length.s_ok (op arith : Nat) (x : SF) (ho : op < 64) (hk : arith < 2) :
    Length.Fits (some (.word (Encode.s op arith x))) :=
  Length.packI_ok ho (by have := x.n.isLt; omega) x.a.isLt x.d.isLt (Length.guard_lt x.g) x.sc.isLt

theorem Length.w_ok (op : Nat) (x : WF) (ho : op < 64) :
    Length.Fits (some (.word (Encode.w op x))) :=
  Length.packW_ok ho x.imm.isLt x.d.isLt x.sc.isLt

theorem Length.j_ok (op : Nat) (x : JF) (ho : op < 64) :
    Length.Fits (some (.word (Encode.j op x))) :=
  Length.packJ_ok ho x.disp.isLt (Length.guard_lt x.g) x.sc.isLt

theorem Length.m_ok (op : Nat) (x : MF) (ho : op < 64) :
    Length.Fits (some (.word (Encode.m op x))) :=
  Length.packM_ok ho x.imm.isLt x.a.isLt x.d.isLt (Length.size_lt x.z) x.sc.isLt

theorem Length.xl_ok (fn : Nat) (x : XlF) (hf : fn < 64) :
    Length.Fits (some (.word (Encode.xl fn x))) :=
  Length.packR_ok (by decide) hf x.a.isLt x.d.isLt Length.zero2 Length.zero2 Length.zero2 (by decide) x.sc.isLt

theorem Length.xla_ok (fn : Nat) (x : XlAF) (hf : fn < 64) :
    Length.Fits (some (.word (Encode.xla fn x))) :=
  Length.packR_ok (by decide) hf x.a.isLt Length.zero64 Length.zero2 Length.zero2 Length.zero2 (by decide) x.sc.isLt

theorem Length.xld_ok (fn : Nat) (x : XlDF) (hf : fn < 64) :
    Length.Fits (some (.word (Encode.xld fn x))) :=
  Length.packR_ok (by decide) hf Length.zero64 x.d.isLt Length.zero2 Length.zero2 Length.zero2 (by decide) x.sc.isLt

theorem Length.z_ok (op fn : Nat) (x : ScF) (ho : op < 64) (hf : fn < 64) :
    Length.Fits (some (.word (Encode.z op fn x))) :=
  Length.packR_ok ho hf Length.zero64 Length.zero64 Length.zero2 Length.zero2 Length.zero2 (by decide) x.sc.isLt

end Fields

theorem Length.mov16 (f : H) : Length.Statement (.mov16 f) := Length.h_ok 0 f (by decide)
theorem Length.add16 (f : H) : Length.Statement (.add16 f) := Length.h_ok 1 f (by decide)
theorem Length.sub16 (f : H) : Length.Statement (.sub16 f) := Length.h_ok 2 f (by decide)
theorem Length.and16 (f : H) : Length.Statement (.and16 f) := Length.h_ok 3 f (by decide)
theorem Length.or16 (f : H) : Length.Statement (.or16 f) := Length.h_ok 4 f (by decide)
theorem Length.xor16 (f : H) : Length.Statement (.xor16 f) := Length.h_ok 5 f (by decide)
theorem Length.shl16 (f : H) : Length.Statement (.shl16 f) := Length.h_ok 6 f (by decide)
theorem Length.shr16 (f : H) : Length.Statement (.shr16 f) := Length.h_ok 7 f (by decide)
theorem Length.addi16 (f : HI) : Length.Statement (.addi16 f) := Length.pack16_ok (by decide) f.imm.isLt f.d.isLt f.sc.isLt
theorem Length.fadd16 (f : H) : Length.Statement (.fadd16 f) := Length.h_ok 9 f (by decide)
theorem Length.fsub16 (f : H) : Length.Statement (.fsub16 f) := Length.h_ok 10 f (by decide)
theorem Length.fmul16 (f : H) : Length.Statement (.fmul16 f) := Length.h_ok 11 f (by decide)
theorem Length.fmax16 (f : H) : Length.Statement (.fmax16 f) := Length.h_ok 12 f (by decide)
theorem Length.fmin16 (f : H) : Length.Statement (.fmin16 f) := Length.h_ok 13 f (by decide)
theorem Length.cmpLt16 (f : H) : Length.Statement (.cmpLt16 f) := Length.h_ok 14 f (by decide)
theorem Length.fcmpLt16 (f : H) : Length.Statement (.fcmpLt16 f) := Length.h_ok 15 f (by decide)
theorem Length.add (f : RF) : Length.Statement (.add f) := Length.r_ok 0 0 f (by decide) (by decide)
theorem Length.sub (f : RF) : Length.Statement (.sub f) := Length.r_ok 1 0 f (by decide) (by decide)
theorem Length.mul (f : RF) : Length.Statement (.mul f) := Length.r_ok 2 0 f (by decide) (by decide)
theorem Length.mulh (f : RF) : Length.Statement (.mulh f) := Length.r_ok 3 0 f (by decide) (by decide)
theorem Length.mulhN (f : RF) : Length.Statement (.mulhN f) := Length.r_ok 3 1 f (by decide) (by decide)
theorem Length.and (f : RF) : Length.Statement (.and f) := Length.r_ok 4 0 f (by decide) (by decide)
theorem Length.or (f : RF) : Length.Statement (.or f) := Length.r_ok 5 0 f (by decide) (by decide)
theorem Length.xor (f : RF) : Length.Statement (.xor f) := Length.r_ok 6 0 f (by decide) (by decide)
theorem Length.andn (f : RF) : Length.Statement (.andn f) := Length.r_ok 7 0 f (by decide) (by decide)
theorem Length.shl (f : RF) : Length.Statement (.shl f) := Length.r_ok 8 0 f (by decide) (by decide)
theorem Length.shr (f : RF) : Length.Statement (.shr f) := Length.r_ok 9 0 f (by decide) (by decide)
theorem Length.shrA (f : RF) : Length.Statement (.shrA f) := Length.r_ok 9 1 f (by decide) (by decide)
theorem Length.rot (f : RF) : Length.Statement (.rot f) := Length.r_ok 10 0 f (by decide) (by decide)
theorem Length.rotR (f : RF) : Length.Statement (.rotR f) := Length.r_ok 10 1 f (by decide) (by decide)
theorem Length.min (f : RF) : Length.Statement (.min f) := Length.r_ok 11 0 f (by decide) (by decide)
theorem Length.minN (f : RF) : Length.Statement (.minN f) := Length.r_ok 11 1 f (by decide) (by decide)
theorem Length.max (f : RF) : Length.Statement (.max f) := Length.r_ok 12 0 f (by decide) (by decide)
theorem Length.maxN (f : RF) : Length.Statement (.maxN f) := Length.r_ok 12 1 f (by decide) (by decide)
theorem Length.add64 (f : RF) : Length.Statement (.add64 f) := Length.r_ok 13 0 f (by decide) (by decide)
theorem Length.sub64 (f : RF) : Length.Statement (.sub64 f) := Length.r_ok 14 0 f (by decide) (by decide)
theorem Length.mov (f : XF) : Length.Statement (.mov f) := Length.x_ok 15 0 f (by decide) (by decide)
theorem Length.not (f : XF) : Length.Statement (.not f) := Length.x_ok 15 1 f (by decide) (by decide)
theorem Length.neg (f : XF) : Length.Statement (.neg f) := Length.x_ok 15 2 f (by decide) (by decide)
theorem Length.abs (f : XF) : Length.Statement (.abs f) := Length.x_ok 15 3 f (by decide) (by decide)
theorem Length.clz (f : XF) : Length.Statement (.clz f) := Length.x_ok 15 4 f (by decide) (by decide)
theorem Length.popc (f : XF) : Length.Statement (.popc f) := Length.x_ok 15 5 f (by decide) (by decide)
theorem Length.brev (f : XF) : Length.Statement (.brev f) := Length.x_ok 15 6 f (by decide) (by decide)
theorem Length.bswap (f : XF) : Length.Statement (.bswap f) := Length.x_ok 15 7 f (by decide) (by decide)
theorem Length.sxb (f : XF) : Length.Statement (.sxb f) := Length.x_ok 15 8 f (by decide) (by decide)
theorem Length.sxh (f : XF) : Length.Statement (.sxh f) := Length.x_ok 15 9 f (by decide) (by decide)
theorem Length.zxb (f : XF) : Length.Statement (.zxb f) := Length.x_ok 15 10 f (by decide) (by decide)
theorem Length.zxh (f : XF) : Length.Statement (.zxh f) := Length.x_ok 15 11 f (by decide) (by decide)
theorem Length.mov64 (f : XF) : Length.Statement (.mov64 f) := Length.x_ok 15 12 f (by decide) (by decide)
theorem Length.sel (f : XF) : Length.Statement (.sel f) := Length.x_ok 15 13 f (by decide) (by decide)
theorem Length.addi (f : IF) : Length.Statement (.addi f) := Length.i_ok 16 f (by decide)
theorem Length.andi (f : IF) : Length.Statement (.andi f) := Length.i_ok 17 f (by decide)
theorem Length.ori (f : IF) : Length.Statement (.ori f) := Length.i_ok 18 f (by decide)
theorem Length.xori (f : IF) : Length.Statement (.xori f) := Length.i_ok 19 f (by decide)
theorem Length.shli (f : SF) : Length.Statement (.shli f) := Length.s_ok 20 0 f (by decide) (by decide)
theorem Length.shri (f : SF) : Length.Statement (.shri f) := Length.s_ok 21 0 f (by decide) (by decide)
theorem Length.shriA (f : SF) : Length.Statement (.shriA f) := Length.s_ok 21 1 f (by decide) (by decide)
theorem Length.lil (f : WF) : Length.Statement (.lil f) := Length.w_ok 22 f (by decide)
theorem Length.lih (f : WF) : Length.Statement (.lih f) := Length.w_ok 23 f (by decide)
theorem Length.cmp (f : CmpF) : Length.Statement (.cmp f) := Length.packR_ok (by decide) f.b.isLt f.a.isLt (Length.cond_lt f.c) Length.zero2 Length.zero2 Length.zero2 (Length.guard_lt f.g) f.sc.isLt
theorem Length.cmpi (f : CmpIF) : Length.Statement (.cmpi f) := Length.packI_ok (by decide) f.imm.isLt f.a.isLt (Length.cond_lt f.c) (Length.guard_lt f.g) f.sc.isLt
theorem Length.fcmp (f : FCmpF) : Length.Statement (.fcmp f) := Length.packR_ok (by decide) f.b.isLt f.a.isLt (Length.fcond_lt f.c) Length.zero2 (Length.bit_lt f.q) Length.zero2 (Length.guard_lt f.g) f.sc.isLt
theorem Length.fcmpD (f : FCmpF) : Length.Statement (.fcmpD f) := Length.packR_ok (by decide) f.b.isLt f.a.isLt (Length.fcond_lt f.c) Length.zero2 (Length.bit_lt f.q) (by decide) (Length.guard_lt f.g) f.sc.isLt
theorem Length.ppop (f : GF) : Length.Statement (.ppop f) := Length.g_ok 27 0 f (by decide) (by decide)
theorem Length.pdup (f : GF) : Length.Statement (.pdup f) := Length.g_ok 27 1 f (by decide) (by decide)
theorem Length.pswap (f : GF) : Length.Statement (.pswap f) := Length.g_ok 27 2 f (by decide) (by decide)
theorem Length.pnot (f : GF) : Length.Statement (.pnot f) := Length.g_ok 27 3 f (by decide) (by decide)
theorem Length.pand (f : GF) : Length.Statement (.pand f) := Length.g_ok 27 4 f (by decide) (by decide)
theorem Length.por (f : GF) : Length.Statement (.por f) := Length.g_ok 27 5 f (by decide) (by decide)
theorem Length.pxor (f : GF) : Length.Statement (.pxor f) := Length.g_ok 27 6 f (by decide) (by decide)
theorem Length.prot (f : GF) : Length.Statement (.prot f) := Length.g_ok 27 7 f (by decide) (by decide)
theorem Length.psave (f : DTF) : Length.Statement (.psave f) := Length.dt_ok 27 8 f (by decide) (by decide)
theorem Length.pload (f : AF) : Length.Statement (.pload f) := Length.a_ok 27 9 f (by decide) (by decide)
theorem Length.pset (f : AF) : Length.Statement (.pset f) := Length.a_ok 27 10 f (by decide) (by decide)
theorem Length.pget (f : DTF) : Length.Statement (.pget f) := Length.dt_ok 27 11 f (by decide) (by decide)
theorem Length.br (f : JF) : Length.Statement (.br f) := Length.j_ok 28 f (by decide)
theorem Length.call (f : JF) : Length.Statement (.call f) := Length.j_ok 29 f (by decide)
theorem Length.jr (f : AF) : Length.Statement (.jr f) := Length.a_ok 30 0 f (by decide) (by decide)
theorem Length.callr (f : AF) : Length.Statement (.callr f) := Length.a_ok 30 1 f (by decide) (by decide)
theorem Length.ret (f : GF) : Length.Statement (.ret f) := Length.g_ok 30 2 f (by decide) (by decide)
theorem Length.nop (f : GF) : Length.Statement (.nop f) := Length.g_ok 31 0 f (by decide) (by decide)
theorem Length.dly (f : NF) : Length.Statement (.dly f) := Length.n_ok 31 1 f (by decide) (by decide)
theorem Length.exit (f : GF) : Length.Statement (.exit f) := Length.g_ok 31 2 f (by decide) (by decide)
theorem Length.safe (f : NF) : Length.Statement (.safe f) := Length.n_ok 31 3 f (by decide) (by decide)
theorem Length.trap (f : NF) : Length.Statement (.trap f) := Length.n_ok 31 4 f (by decide) (by decide)
theorem Length.syscall (f : NF) : Length.Statement (.syscall f) := Length.n_ok 31 5 f (by decide) (by decide)
theorem Length.bkpt (f : GF) : Length.Statement (.bkpt f) := Length.g_ok 31 6 f (by decide) (by decide)
theorem Length.srd (f : SrdF) : Length.Statement (.srd f) := Length.packR_ok (by decide) (by decide) (Length.sreg_lt f.i) f.d.isLt (Length.bit_lt f.t) Length.zero2 Length.zero2 (Length.guard_lt f.g) f.sc.isLt
theorem Length.swr (f : SwrF) : Length.Statement (.swr f) := Length.packR_ok (by decide) (by decide) (Length.sreg_lt f.i) f.d.isLt Length.zero2 Length.zero2 Length.zero2 (Length.guard_lt f.g) f.sc.isLt
theorem Length.xacq (f : ScF) : Length.Statement (.xacq f) := Length.z_ok 31 9 f (by decide) (by decide)
theorem Length.xrel (f : ScF) : Length.Statement (.xrel f) := Length.z_ok 31 10 f (by decide) (by decide)
theorem Length.yield (f : GF) : Length.Statement (.yield f) := Length.g_ok 31 11 f (by decide) (by decide)
theorem Length.spawn (f : AF) : Length.Statement (.spawn f) := Length.a_ok 31 12 f (by decide) (by decide)
theorem Length.gbar (f : ScF) : Length.Statement (.gbar f) := Length.z_ok 31 13 f (by decide) (by decide)
theorem Length.eret (f : GF) : Length.Statement (.eret f) := Length.g_ok 31 14 f (by decide) (by decide)
theorem Length.hrd (f : HrdF) : Length.Statement (.hrd f) := Length.packR_ok (by decide) (by decide) (lt_of_lt_of_le f.n.isLt (by decide)) f.d.isLt (Length.bit_lt f.t) Length.zero2 Length.zero2 (Length.guard_lt f.g) f.sc.isLt
theorem Length.hwr (f : HwrF) : Length.Statement (.hwr f) := Length.packR_ok (by decide) (by decide) (lt_of_lt_of_le f.n.isLt (by decide)) f.d.isLt Length.zero2 Length.zero2 Length.zero2 (Length.guard_lt f.g) f.sc.isLt
theorem Length.fadd (f : FF) : Length.Statement (.fadd f) := Length.f_ok 32 0 f (by decide) (by decide)
theorem Length.fsub (f : FF) : Length.Statement (.fsub f) := Length.f_ok 33 0 f (by decide) (by decide)
theorem Length.fmul (f : FF) : Length.Statement (.fmul f) := Length.f_ok 34 0 f (by decide) (by decide)
theorem Length.ffma (f : FF) : Length.Statement (.ffma f) := Length.f_ok 35 0 f (by decide) (by decide)
theorem Length.fmin (f : FF) : Length.Statement (.fmin f) := Length.f_ok 36 0 f (by decide) (by decide)
theorem Length.fminD (f : FF) : Length.Statement (.fminD f) := Length.f_ok 36 1 f (by decide) (by decide)
theorem Length.fmax (f : FF) : Length.Statement (.fmax f) := Length.f_ok 37 0 f (by decide) (by decide)
theorem Length.fmaxD (f : FF) : Length.Statement (.fmaxD f) := Length.f_ok 37 1 f (by decide) (by decide)
theorem Length.fneg (f : XFF) : Length.Statement (.fneg f) := Length.xf_ok 38 0 f (by decide) (by decide)
theorem Length.fabs (f : XFF) : Length.Statement (.fabs f) := Length.xf_ok 38 1 f (by decide) (by decide)
theorem Length.fsqrt (f : XFF) : Length.Statement (.fsqrt f) := Length.xf_ok 38 2 f (by decide) (by decide)
theorem Length.frcp (f : XFF) : Length.Statement (.frcp f) := Length.xf_ok 38 3 f (by decide) (by decide)
theorem Length.frsq (f : XFF) : Length.Statement (.frsq f) := Length.xf_ok 38 4 f (by decide) (by decide)
theorem Length.fex2 (f : XFF) : Length.Statement (.fex2 f) := Length.xf_ok 38 5 f (by decide) (by decide)
theorem Length.flg2 (f : XFF) : Length.Statement (.flg2 f) := Length.xf_ok 38 6 f (by decide) (by decide)
theorem Length.ffloor (f : XFF) : Length.Statement (.ffloor f) := Length.xf_ok 38 7 f (by decide) (by decide)
theorem Length.fceil (f : XFF) : Length.Statement (.fceil f) := Length.xf_ok 38 8 f (by decide) (by decide)
theorem Length.ftrunc (f : XFF) : Length.Statement (.ftrunc f) := Length.xf_ok 38 9 f (by decide) (by decide)
theorem Length.frint (f : XFF) : Length.Statement (.frint f) := Length.xf_ok 38 10 f (by decide) (by decide)
theorem Length.fclass (f : XFF) : Length.Statement (.fclass f) := Length.xf_ok 38 11 f (by decide) (by decide)
theorem Length.fsat (f : XFF) : Length.Statement (.fsat f) := Length.xf_ok 38 12 f (by decide) (by decide)
theorem Length.cvt (f : CvtF) : Length.Statement (.cvt f) := Length.packR_ok (by decide) (Length.cvt_lt f.c) f.a.isLt f.d.isLt (Length.bit_lt f.t) (Length.bit_lt f.q) Length.zero2 (Length.guard_lt f.g) f.sc.isLt
theorem Length.dadd (f : FF) : Length.Statement (.dadd f) := Length.f_ok 40 0 f (by decide) (by decide)
theorem Length.dsub (f : FF) : Length.Statement (.dsub f) := Length.f_ok 40 1 f (by decide) (by decide)
theorem Length.dmul (f : FF) : Length.Statement (.dmul f) := Length.f_ok 41 0 f (by decide) (by decide)
theorem Length.dfma (f : FF) : Length.Statement (.dfma f) := Length.f_ok 42 0 f (by decide) (by decide)
theorem Length.dneg (f : XFF) : Length.Statement (.dneg f) := Length.xf_ok 43 0 f (by decide) (by decide)
theorem Length.dabs (f : XFF) : Length.Statement (.dabs f) := Length.xf_ok 43 1 f (by decide) (by decide)
theorem Length.dsqrt (f : XFF) : Length.Statement (.dsqrt f) := Length.xf_ok 43 2 f (by decide) (by decide)
theorem Length.drcp (f : XFF) : Length.Statement (.drcp f) := Length.xf_ok 43 3 f (by decide) (by decide)
theorem Length.dfloor (f : XFF) : Length.Statement (.dfloor f) := Length.xf_ok 43 4 f (by decide) (by decide)
theorem Length.dceil (f : XFF) : Length.Statement (.dceil f) := Length.xf_ok 43 5 f (by decide) (by decide)
theorem Length.dtrunc (f : XFF) : Length.Statement (.dtrunc f) := Length.xf_ok 43 6 f (by decide) (by decide)
theorem Length.drint (f : XFF) : Length.Statement (.drint f) := Length.xf_ok 43 7 f (by decide) (by decide)
theorem Length.dclass (f : XFF) : Length.Statement (.dclass f) := Length.xf_ok 43 8 f (by decide) (by decide)
theorem Length.dmov (f : XFF) : Length.Statement (.dmov f) := Length.xf_ok 43 9 f (by decide) (by decide)
theorem Length.hadd2 (f : FF) : Length.Statement (.hadd2 f) := Length.f_ok 44 0 f (by decide) (by decide)
theorem Length.hadd2Bf (f : FF) : Length.Statement (.hadd2Bf f) := Length.f_ok 44 1 f (by decide) (by decide)
theorem Length.hmul2 (f : FF) : Length.Statement (.hmul2 f) := Length.f_ok 45 0 f (by decide) (by decide)
theorem Length.hmul2Bf (f : FF) : Length.Statement (.hmul2Bf f) := Length.f_ok 45 1 f (by decide) (by decide)
theorem Length.hfma2 (f : FF) : Length.Statement (.hfma2 f) := Length.f_ok 46 0 f (by decide) (by decide)
theorem Length.hfma2Bf (f : FF) : Length.Statement (.hfma2Bf f) := Length.f_ok 46 1 f (by decide) (by decide)
theorem Length.dp4 (f : FF) : Length.Statement (.dp4 f) := Length.f_ok 47 0 f (by decide) (by decide)
theorem Length.dp4E4 (f : FF) : Length.Statement (.dp4E4 f) := Length.f_ok 47 1 f (by decide) (by decide)
theorem Length.ld (f : MF) : Length.Statement (.ld f) := Length.m_ok 48 f (by decide)
theorem Length.st (f : MF) : Length.Statement (.st f) := Length.m_ok 49 f (by decide)
theorem Length.ldnf (f : MF) : Length.Statement (.ldnf f) := Length.m_ok 50 f (by decide)
theorem Length.atom (f : AtomF) : Length.Statement (.atom f) := Length.packA_ok (by decide) f.b.isLt f.a.isLt f.d.isLt (Length.bit_lt f.w) (Length.aop_lt f.op) f.sc.isLt
theorem Length.red (f : RedF) : Length.Statement (.red f) := Length.packA_ok (by decide) f.b.isLt f.a.isLt Length.zero64 (Length.bit_lt f.w) (Length.aop_lt f.op) f.sc.isLt
theorem Length.fence (f : FenceF) : Length.Statement (.fence f) := Length.packR_ok (by decide) (by decide) (Length.scope_lt f.scope) (Length.fkind_lt f.kind) Length.zero2 Length.zero2 Length.zero2 (Length.guard_lt f.g) f.sc.isLt
theorem Length.afence (f : GF) : Length.Statement (.afence f) := Length.g_ok 53 1 f (by decide) (by decide)
theorem Length.bfence (f : BFenceF) : Length.Statement (.bfence f) := Length.packR_ok (by decide) (by decide) Length.zero64 (Length.bkind_lt f.kind) Length.zero2 Length.zero2 Length.zero2 (Length.guard_lt f.g) f.sc.isLt
theorem Length.waitc (f : WaitF) : Length.Statement (.waitc f) := Length.packR_ok (by decide) (by decide) (Length.class_lt f.c) f.n.isLt Length.zero2 Length.zero2 Length.zero2 (Length.guard_lt f.g) f.sc.isLt
theorem Length.stn (f : ADF) : Length.Statement (.stn f) := Length.ad_ok 53 4 f (by decide) (by decide)
theorem Length.ldn (f : ADF) : Length.Statement (.ldn f) := Length.ad_ok 53 5 f (by decide) (by decide)
theorem Length.pref (f : PrefF) : Length.Statement (.pref f) := Length.packR_ok (by decide) (by decide) f.a.isLt (lt_of_lt_of_le f.l.isLt (by decide)) Length.zero2 Length.zero2 Length.zero2 (Length.guard_lt f.g) f.sc.isLt
theorem Length.cpy (f : ADF) : Length.Statement (.cpy f) := Length.ad_ok 54 0 f (by decide) (by decide)
theorem Length.cpystat (f : ADF) : Length.Statement (.cpystat f) := Length.ad_ok 54 1 f (by decide) (by decide)
theorem Length.rclaim (f : ADF) : Length.Statement (.rclaim f) := Length.ad_ok 55 0 f (by decide) (by decide)
theorem Length.rcommit (f : ADF) : Length.Statement (.rcommit f) := Length.ad_ok 55 1 f (by decide) (by decide)
theorem Length.rawait (f : ADF) : Length.Statement (.rawait f) := Length.ad_ok 55 2 f (by decide) (by decide)
theorem Length.rretire (f : AF) : Length.Statement (.rretire f) := Length.a_ok 55 3 f (by decide) (by decide)
theorem Length.rclaimnf (f : ADF) : Length.Statement (.rclaimnf f) := Length.ad_ok 55 4 f (by decide) (by decide)
theorem Length.rawaitnf (f : ADF) : Length.Statement (.rawaitnf f) := Length.ad_ok 55 5 f (by decide) (by decide)
theorem Length.mma (f : MmaF) : Length.Statement (.mma f) := Length.packMX_ok (by decide) (Length.mode_lt f.mode) f.a.isLt f.sr.isLt f.bsel.isLt (Length.fmt_lt f.fmt) f.sc.isLt
theorem Length.sclaim (f : DF) : Length.Statement (.sclaim f) := Length.d_ok 57 0 f (by decide) (by decide)
theorem Length.srel (f : AF) : Length.Statement (.srel f) := Length.a_ok 57 1 f (by decide) (by decide)
theorem Length.aclaim (f : DF) : Length.Statement (.aclaim f) := Length.d_ok 57 2 f (by decide) (by decide)
theorem Length.arel (f : AF) : Length.Statement (.arel f) := Length.a_ok 57 3 f (by decide) (by decide)
theorem Length.azero (f : AF) : Length.Statement (.azero f) := Length.a_ok 57 4 f (by decide) (by decide)
theorem Length.bmvGq4 (f : AF) : Length.Statement (.bmvGq4 f) := Length.a_ok 58 0 f (by decide) (by decide)
theorem Length.bmvE4m3 (f : AF) : Length.Statement (.bmvE4m3 f) := Length.a_ok 58 1 f (by decide) (by decide)
theorem Length.bmvBf16 (f : AF) : Length.Statement (.bmvBf16 f) := Length.a_ok 58 2 f (by decide) (by decide)
theorem Length.palloc (f : ADF) : Length.Statement (.palloc f) := Length.ad_ok 59 0 f (by decide) (by decide)
theorem Length.pfree (f : AF) : Length.Statement (.pfree f) := Length.a_ok 59 1 f (by decide) (by decide)
theorem Length.send (f : ADF) : Length.Statement (.send f) := Length.ad_ok 59 2 f (by decide) (by decide)
theorem Length.sendnf (f : ADF) : Length.Statement (.sendnf f) := Length.ad_ok 59 3 f (by decide) (by decide)
theorem Length.padd (f : ADF) : Length.Statement (.padd f) := Length.ad_ok 59 4 f (by decide) (by decide)
theorem Length.recv (f : ADF) : Length.Statement (.recv f) := Length.ad_ok 59 5 f (by decide) (by decide)
theorem Length.recvnf (f : ADF) : Length.Statement (.recvnf f) := Length.ad_ok 59 6 f (by decide) (by decide)
theorem Length.patdef (f : ADF) : Length.Statement (.patdef f) := Length.ad_ok 59 7 f (by decide) (by decide)
theorem Length.patdel (f : AF) : Length.Statement (.patdel f) := Length.a_ok 59 8 f (by decide) (by decide)
theorem Length.patarm (f : ADF) : Length.Statement (.patarm f) := Length.ad_ok 59 9 f (by decide) (by decide)
theorem Length.pinfo (f : ADF) : Length.Statement (.pinfo f) := Length.ad_ok 59 10 f (by decide) (by decide)
theorem Length.claimR (f : AF) : Length.Statement (.claimR f) := Length.a_ok 60 0 f (by decide) (by decide)
theorem Length.claimW (f : AF) : Length.Statement (.claimW f) := Length.a_ok 60 1 f (by decide) (by decide)
theorem Length.admitItem (f : GF) : Length.Statement (.admitItem f) := Length.g_ok 60 2 f (by decide) (by decide)
theorem Length.rsvinfo (f : DF) : Length.Statement (.rsvinfo f) := Length.d_ok 60 3 f (by decide) (by decide)
theorem Length.shflIdx (f : XlF) : Length.Statement (.shflIdx f) := Length.xl_ok 0 f (by decide)
theorem Length.shflXor (f : XlF) : Length.Statement (.shflXor f) := Length.xl_ok 1 f (by decide)
theorem Length.shflUp (f : XlF) : Length.Statement (.shflUp f) := Length.xl_ok 2 f (by decide)
theorem Length.shflDown (f : XlF) : Length.Statement (.shflDown f) := Length.xl_ok 3 f (by decide)
theorem Length.voteAll (f : XlAF) : Length.Statement (.voteAll f) := Length.xla_ok 4 f (by decide)
theorem Length.voteAny (f : XlAF) : Length.Statement (.voteAny f) := Length.xla_ok 5 f (by decide)
theorem Length.ballot (f : XlF) : Length.Statement (.ballot f) := Length.xl_ok 6 f (by decide)
theorem Length.radd (f : XlF) : Length.Statement (.radd f) := Length.xl_ok 7 f (by decide)
theorem Length.rfadd (f : XlF) : Length.Statement (.rfadd f) := Length.xl_ok 8 f (by decide)
theorem Length.rmin (f : XlF) : Length.Statement (.rmin f) := Length.xl_ok 9 f (by decide)
theorem Length.rmax (f : XlF) : Length.Statement (.rmax f) := Length.xl_ok 10 f (by decide)
theorem Length.scan (f : XlF) : Length.Statement (.scan f) := Length.xl_ok 11 f (by decide)
theorem Length.elect (f : XlDF) : Length.Statement (.elect f) := Length.xld_ok 12 f (by decide)
theorem Length.gsync (f : XlAF) : Length.Statement (.gsync f) := Length.xla_ok 13 f (by decide)
theorem Length.cbar (f : ScF) : Length.Statement (.cbar f) := Length.z_ok 61 14 f (by decide) (by decide)
theorem Length.fitx (f : ADF) : Length.Statement (.fitx f) := Length.ad_ok 62 0 f (by decide) (by decide)
theorem Length.fitgen (f : ADF) : Length.Statement (.fitgen f) := Length.ad_ok 62 1 f (by decide) (by decide)
theorem Length.refit (f : ADF) : Length.Statement (.refit f) := Length.ad_ok 62 2 f (by decide) (by decide)
theorem Length.fitstat (f : ADF) : Length.Statement (.fitstat f) := Length.ad_ok 62 3 f (by decide) (by decide)
theorem Length.fitmake (f : ADF) : Length.Statement (.fitmake f) := Length.ad_ok 63 0 f (by decide) (by decide)
theorem Length.fitdrop (f : AF) : Length.Statement (.fitdrop f) := Length.a_ok 63 1 f (by decide) (by decide)
theorem Length.tlbinv (f : ADF) : Length.Statement (.tlbinv f) := Length.ad_ok 63 2 f (by decide) (by decide)
theorem Length.fqpop (f : ADF) : Length.Statement (.fqpop f) := Length.ad_ok 63 3 f (by decide) (by decide)
theorem Length.layout (f : ADF) : Length.Statement (.layout f) := Length.ad_ok 63 4 f (by decide) (by decide)
theorem Length.nodekill (f : ADF) : Length.Statement (.nodekill f) := Length.ad_ok 63 5 f (by decide) (by decide)
theorem Length.preempt (f : ADF) : Length.Statement (.preempt f) := Length.ad_ok 63 6 f (by decide) (by decide)
theorem Length.srdp (f : PrivF) : Length.Statement (.srdp f) := Length.packR_ok (by decide) (by decide) (Length.preg_lt f.i) f.d.isLt Length.zero2 Length.zero2 Length.zero2 (Length.guard_lt f.g) f.sc.isLt
theorem Length.swrp (f : PrivF) : Length.Statement (.swrp f) := Length.packR_ok (by decide) (by decide) (Length.preg_lt f.i) f.d.isLt Length.zero2 Length.zero2 Length.zero2 (Length.guard_lt f.g) f.sc.isLt
theorem Length.fresRetry (die : Nat) : Length.Statement (.fresRetry die) := trivial
theorem Length.fresFatal (die : Nat) : Length.Statement (.fresFatal die) := trivial
theorem Length.streamExpectedUpdate (stream : Nat) : Length.Statement (.streamExpectedUpdate stream) := trivial
theorem Length.launchMessage (die : Nat) (lo hi : DWord) : Length.Statement (.launchMessage die lo hi) := trivial
theorem Length.nodeAdmission (die : Nat) (dies : List Nat) : Length.Statement (.nodeAdmission die dies) := trivial
theorem Length.stepBoundary (launch : Nat) (dies : List Nat) : Length.Statement (.stepBoundary launch dies) := trivial
theorem Length.nodeCompletion (launch : Nat) : Length.Statement (.nodeCompletion launch) := trivial
theorem Length.heldDeliveryRetry (die : Nat) (n : Nat) : Length.Statement (.heldDeliveryRetry die n) := trivial
theorem Length.waveDispatch (cl : ClusterId) (ps : List Placement) : Length.Statement (.waveDispatch cl ps) := trivial
theorem Length.stealAttempt (cl : ClusterId) : Length.Statement (.stealAttempt cl) := trivial
theorem Length.stealAcknowledge (cl : ClusterId) : Length.Statement (.stealAcknowledge cl) := trivial
theorem Length.cooperativePlacement (launch : Nat) (ps : List (ClusterId × Placement)) : Length.Statement (.cooperativePlacement launch ps) := trivial
theorem Length.footprintRelease (wave : Nat) : Length.Statement (.footprintRelease wave) := trivial
theorem Length.loadDataReturn (t : ThreadId) (n : Nat) : Length.Statement (.loadDataReturn t n) := trivial
theorem Length.preemptionRequest (wave : Nat) : Length.Statement (.preemptionRequest wave) := trivial
theorem Length.hardPreemptCycleLimit (wave : Nat) : Length.Statement (.hardPreemptCycleLimit wave) := trivial
theorem Length.hardPreemptInstrLimit (wave : Nat) : Length.Statement (.hardPreemptInstrLimit wave) := trivial
theorem Length.waveLeavesCore (wave : Nat) : Length.Statement (.waveLeavesCore wave) := trivial
theorem Length.waveRestore (cl : ClusterId) (ps : List (Nat × Nat)) : Length.Statement (.waveRestore cl ps) := trivial
theorem Length.extendedBlockGrant (c : CoreId) : Length.Statement (.extendedBlockGrant c) := trivial
theorem Length.slotClaimGrant (wave : Nat) (tile : Bool) : Length.Statement (.slotClaimGrant wave tile) := trivial
theorem Length.slotReleaseComplete (wave : Nat) (tile : Bool) (n : Nat) : Length.Statement (.slotReleaseComplete wave tile n) := trivial
theorem Length.matrixOpStart (c : CoreId) : Length.Statement (.matrixOpStart c) := trivial
theorem Length.matrixOpCompletion (c : CoreId) : Length.Statement (.matrixOpCompletion c) := trivial
theorem Length.copyChunkStart (c : CoreId) (elements : Nat) : Length.Statement (.copyChunkStart c elements) := trivial
theorem Length.copyCompletion (c : CoreId) (op : Nat) : Length.Statement (.copyCompletion c op) := trivial
theorem Length.reductionApply (op : Nat) (elements : Nat) : Length.Statement (.reductionApply op elements) := trivial
theorem Length.bankRowCompute (op : Nat) (row : Nat) : Length.Statement (.bankRowCompute op row) := trivial
theorem Length.bmvCompletion (c : CoreId) (op : Nat) : Length.Statement (.bmvCompletion c op) := trivial
theorem Length.faultRecordPost (die : Nat) : Length.Statement (.faultRecordPost die) := trivial
theorem Length.refitStart (region : Nat) : Length.Statement (.refitStart region) := trivial
theorem Length.refitSwap (region : Nat) (params : FitParams) (extra : List Nat) : Length.Statement (.refitSwap region params extra) := trivial
theorem Length.refitAbandon (region : Nat) : Length.Statement (.refitAbandon region) := trivial
theorem Length.patternFiring (die : Nat) : Length.Statement (.patternFiring die) := trivial
theorem Length.itemAdmission (launch : Nat) (item : Nat) : Length.Statement (.itemAdmission launch item) := trivial
theorem Length.itemFinish (launch : Nat) (item : Nat) : Length.Statement (.itemFinish launch item) := trivial
theorem Length.pageDemotion (va : Nat) (tierId : Nat) : Length.Statement (.pageDemotion va tierId) := trivial
theorem Length.pagePromotion (va : Nat) (frame : Nat) : Length.Statement (.pagePromotion va frame) := trivial
theorem Length.moduleReset : Length.Statement (.moduleReset) := trivial
theorem Length.clusterReset (cl : ClusterId) : Length.Statement (.clusterReset cl) := trivial
theorem Length.unitOutOfService (u : HwUnit) : Length.Statement (.unitOutOfService u) := trivial
theorem Length.eccError (e : EccReport) : Length.Statement (.eccError e) := trivial
theorem Length.hostDoorbellStore (offset : Nat) (data : List Byte) : Length.Statement (.hostDoorbellStore offset data) := trivial
theorem Length.hostDoorbellRead (offset : Nat) (bytes : Nat) : Length.Statement (.hostDoorbellRead offset bytes) := trivial
theorem Length.hostMemAccess (a : HostAccess) : Length.Statement (.hostMemAccess a) := trivial
theorem Length.flitRetry (port : Nat) : Length.Statement (.flitRetry port) := trivial
theorem Length.powerAdjust (cl : ClusterId) (gated : Bool) : Length.Statement (.powerAdjust cl gated) := trivial
theorem Length.replay : Length.Statement (.replay) := trivial
theorem Length.reservedOrIllegalEncoding (w : Word) : Length.Statement (.reservedOrIllegalEncoding w) := trivial
theorem Length.storeTakesEffect (t : ThreadId) : Length.Statement (.storeTakesEffect t) := trivial
theorem Length.fabricCannotReachModule (module : Nat) (reachable : Bool) : Length.Statement (.fabricCannotReachModule module reachable) := trivial

end Sys2Proof.Laws
end

