-- ==== Sys2Proof/Tests/Slice0.lean ====
section
/-!
SUPPORT. Small tests: ill-formed terms that the check refuses, words of the spec's encodings, single steps, and for every
statement with hypotheses a state and operands that meet them.
-/
namespace Sys2Proof.Tests

open Sys2Proof Sys2Proof.Machine

set_option Elab.async false

/-! ## A small machine: one thread of a node of one wave -/

def node0 : NodeRec := { bootNode with flags := 16 }

def launch0 : Launch := { firmwareLaunch bootImage 0 with nd := node0, system := false }

def wave0 : Wave := { firmwareWave bootImage 0 with core := 0, firstCore := ⟨0, 0⟩ }

def group0 : Group := Group.start 0 0

def thread0 : Thread := Thread.start node0 0 0 0 0

/-- The machine with die 0 alone, and of waves, groups and threads only the given ones. -/
def small (c : Ctx) : State :=
  { State.reset with threads := [c.t], groups := [c.g], waves := [c.w], launches := [c.l], dies := [Die.reset 0] }

def ctx0 : Ctx := ⟨thread0, group0, wave0, launch0⟩

def state0 : State := small ctx0

/-- A thread with some values in its banks. -/
def Holding (t : Thread) (ws : List (Reg × Word)) : Thread := { t with regs := ws.foldl (fun rs w => rs.set w.1 w.2) t.regs }

/-- The same context with another thread, wave or launch. -/
def withT (t : Thread) : Ctx := { ctx0 with t := t }
def withW (w : Wave) : Ctx := { ctx0 with w := w }
def withL (l : Launch) : Ctx := { ctx0 with l := l }

/-- The conditions of `Executes` that are decided at once. -/
def clear (c : Ctx) (f : Form) : Bool :=
  !c.t.completing && !(f.g != .always && c.t.pendingPush) && c.t.passes f.g && !interlocked c.t f && (operandTrap c f).isNone

theorem executes_of {s : State} {c : Ctx} {f : Form} (h : s.ctx s.cur = some c) (k : clear c f = true) : Executes s c f := by
  simp only [clear, Bool.and_eq_true, Bool.not_eq_true', Option.isNone_iff_eq_none, Bool.and_eq_false_imp] at k
  obtain ⟨⟨⟨⟨k1, k2⟩, k3⟩, k4⟩, k5⟩ := k
  refine ⟨h, k1, ?_, k3, k4, k5⟩
  cases hg : f.g <;> cases hp : c.t.pendingPush <;> simp_all

theorem small_executes (c : Ctx) (f : Form) (h : (small c).ctx (small c).cur = some c) (k : clear c f = true) :
    Executes (small c) c f := executes_of h k

theorem state0_ctx : state0.ctx state0.cur = some ctx0 := rfl
theorem handles_of {c : Ctx} (h : (decide (c.t.mode = .normal) && (c.l.system || c.l.nd.hasVector)) = true) : c.handles := by
  simpa [Ctx.handles] using h

theorem ctx0_handles : ctx0.handles := handles_of (by decide +kernel)

/-! ## Witnesses: the integer instructions -/

theorem witness_IntegerRegisterResults :
    let f : RF := ⟨1, 2, 4, false, .always, 0⟩
    let x : XF := ⟨2, 4, true, .notP0, 3⟩
    Executes state0 ctx0 f.form ∧ ctx0.t.belowLimit [(f.d, ctx0.reads state0 f.form 0)] = false ∧
    Executes state0 ctx0 f.form64 ∧ ctx0.t.belowLimit (f.d.pairWrites 0) = false ∧
    Executes state0 ctx0 { g := x.g, sc := x.sc, reads := x.a.pair, names := x.d.pair } :=
  ⟨executes_of rfl (by decide +kernel), rfl, executes_of rfl (by decide +kernel), rfl, executes_of rfl (by decide +kernel)⟩

theorem witness_IntegerUnaryResults :
    let x : XF := ⟨2, 4, true, .notP0, 3⟩
    Executes state0 ctx0 x.form ∧ ctx0.t.belowLimit [(x.d, 5)] = false ∧
    Executes state0 ctx0 { g := x.g, sc := x.sc, reads := [x.a, x.d], preds := true } :=
  ⟨executes_of rfl (by decide +kernel), rfl, executes_of rfl (by decide +kernel)⟩

theorem witness_ImmediateAndShortResults :
    let i : IF := ⟨0x1FF, 1, 2, .always, 0⟩
    let k : SF := ⟨31, 1, 2, .always, 0⟩
    let h : H := ⟨1, 2, 0⟩
    Executes state0 ctx0 i.form ∧ Executes state0 ctx0 k.form ∧ Executes state0 ctx0 { sc := 0, names := [2] } ∧
    Executes state0 ctx0 { sc := 0, reads := [2] } ∧ Executes state0 ctx0 h.form ∧
    Executes state0 ctx0 { len := 2, sc := 0, reads := [1], names := [2] } ∧ ctx0.t.belowLimit [(2, 0xFFFFFFFF)] = false := by
  dsimp only
  and_intros <;> first | decide +kernel | exact executes_of rfl (by decide +kernel)

/-- A write of 0 to g31 puts the stack pointer below the limit; g32 is the first register of the extended block. -/
theorem witness_OperandTraps :
    let i : IF := ⟨0, 1, 31, .always, 0⟩
    let r : RF := ⟨1, 2, 30, false, .always, 0⟩
    let x : XF := ⟨1, 31, false, .always, 0⟩
    let e : RF := ⟨32, 2, 3, false, .always, 0⟩
    ctx0.handles ∧ Executes state0 ctx0 i.form ∧ ctx0.t.belowLimit [(i.d, ctx0.reads state0 i.form 0 + i.imm.signExtend 32)] = true ∧
    Executes state0 ctx0 r.form64 ∧ ctx0.t.belowLimit (r.d.pairWrites 0) = true ∧
    Executes state0 ctx0 { sc := 0, names := [31] } ∧ ctx0.t.belowLimit [(31, 0)] = true ∧ Executes state0 ctx0 x.form ∧
    interlocked ctx0.t e.form = false ∧ ctx0.g.ext = false ∧ 32 ≤ e.b.val := by
  dsimp only
  and_intros <;> first | decide +kernel | exact executes_of rfl (by decide +kernel)

/-- g2 carries a poison mark. -/
def markedCtx : Ctx := withT { thread0 with marks := [⟨2, 0x40⟩], ctl := 1 }

/-- ADD, the comparison, LD and ST read it; of ST's operands it is the address's or the data's. -/
theorem witness_PoisonedOperand :
    let c := markedCtx
    (small c).ctx (small c).cur = some c ∧ c.handles ∧ c.t.completing = false ∧ c.t.pendingPush = false ∧ c.t.checking = true ∧
    ∀ f ∈ ([RF.form ⟨1, 2, 3, false, .always, 0⟩, { sc := 0, reads := [2, 1], preds := true },
        { sc := 0, reads := Reg.pair 2, names := Reg.group 20 1 }, { sc := 0, reads := Reg.pair 2 ++ Reg.group 20 1 },
        { sc := 0, reads := Reg.pair 4 ++ Reg.group 2 2 }] : List Form),
      c.t.passes f.g = true ∧ interlocked c.t f = false ∧ (∀ r ∈ f.reads ++ f.names, r.val < 32) ∧
      (∀ r ∈ f.reads, c.t.late r = false ∧ c.t.stale r = false) ∧ (∃ r ∈ f.reads, c.t.mark? r = some 0x40) ∧
      ∀ r ∈ f.reads, c.t.mark? r = none ∨ c.t.mark? r = some 0x40 := by
  dsimp only
  and_intros <;> first | exact handles_of (c := markedCtx) (by decide +kernel) | decide +kernel

/-- g1 written two instructions short of its latency; a transient g2 of age 9. -/
def thread1 : Thread := { thread0.putFixed 1 7 2 false with ctl := 1 }
def thread2 : Thread := { thread0 with ctl := 1, trans := [⟨2, 5, 9, false⟩] }

theorem witness_GuardsAndOperands :
    let f : RF := ⟨1, 3, 4, false, .always, 0⟩
    let k : RF := ⟨2, 3, 4, false, .always, 0⟩
    let c1 : Ctx := { withT thread1 with g := { group0 with ext := true } }
    let c2 : Ctx := { withT thread2 with g := { group0 with ext := true } }
    thread0.late 1 = false ∧ thread0.stale 1 = false ∧ thread0.held = [] ∧
    (let c3 : Ctx := withT { thread1 with held := [3, 4] };
      (small c3).ctx (small c3).cur = some c3 ∧ f.form.reads[1]? = some 1 ∧ c3.reads (small c3) f.form 1 = 4) ∧
    ((small c1).ctx (small c1).cur = some c1 ∧ c1.t.passes f.g = true ∧ interlocked c1.t f.form = false ∧ c1.t.checking = true ∧
      (c1.t.late f.a || c1.t.late f.b) = true) ∧
    ((small c2).ctx (small c2).cur = some c2 ∧ interlocked c2.t k.form = false ∧ c2.t.checking = true ∧
      (c2.t.late k.a || c2.t.late k.b) = false ∧ (c2.t.stale k.a || c2.t.stale k.b) = true) ∧
    ctx0.t.passes .p0 = false ∧ ctx0.t.pendingPush = false := by
  dsimp only
  and_intros <;> decide +kernel

theorem witness_PredicateStack :
    Executes state0 ctx0 { g := .notP0, sc := 0, reads := [1, 2], preds := true } ∧
    Executes state0 ctx0 (H.form ⟨1, 2, 0⟩ |> fun f => { f with preds := true }) ∧ Executes state0 ctx0 (GF.formP ⟨.always, 0⟩) ∧
    Executes state0 ctx0 { sc := 0, reads := [1], preds := true } ∧
    Executes state0 ctx0 { sc := 0, names := [1], preds := true } ∧ ctx0.t.belowLimit [(1, 1)] = false := by
  and_intros <;> first | decide +kernel | exact executes_of rfl (by decide +kernel)

/-- g1 holds an odd target. -/
def oddTarget : Ctx := withT (Holding thread0 [(1, 0x2001), (29, 0x2001)])

theorem witness_ControlTransfers :
    let form : Form := { sc := 0, reads := [1], names := [29] }
    let ret : Form := { sc := 0, reads := [29] }
    Executes state0 ctx0 { sc := 0 } ∧ Executes state0 ctx0 { sc := 0, names := [29] } ∧ Executes state0 ctx0 form ∧
    (ctx0.reads state0 form 0).getLsbD 0 = false ∧ Executes (small oddTarget) oddTarget form ∧ oddTarget.handles ∧
    (oddTarget.reads (small oddTarget) form 0).getLsbD 0 = true ∧ (ctx0.reads state0 ret 0).getLsbD 0 = false ∧
    (oddTarget.reads (small oddTarget) ret 0).getLsbD 0 = true := by
  dsimp only
  and_intros <;> first | decide +kernel | exact executes_of rfl (by decide +kernel)

/-! ## Witnesses: control operations and collectives -/

/-- A node with one safe point, whose wave is to be pre-empted. -/
def launchSafe : Launch := { launch0 with safePoints := [⟨63, 8, 0x4000, 0x5000⟩], maxInterval := 100 }
def asked : Ctx := { withL launchSafe with w := { wave0 with request := some 0 } }
def saving : Ctx := { withL launchSafe with t := { thread0 with mode := .saving 63 } }
def savingAsked : Ctx := { asked with t := { thread0 with mode := .saving 63 } }

theorem witness_DelayAndSafePoints :
    Executes state0 ctx0 (GF.form ⟨.always, 3⟩) ∧ (ctx0.t.passes .always = true ∧ ctx0.t.completing = false) ∧
    Executes (small asked) asked { sc := 0 } ∧ (∃ p ∈ asked.l.safePoints, p.index = (63 : Fin 64).val) ∧ asked.w.request.isSome = true ∧
    asked.t.mode = .normal ∧ (ctx0.l.safePoints = [] ∧ ctx0.w.request = none) ∧ Executes (small saving) saving { sc := 0 } ∧
    saving.t.mode = .saving 63 ∧ saving.w.request = none ∧ (saving.l.safePoints.find? fun p => p.index == 63).isSome = true ∧
    Executes (small savingAsked) savingAsked { sc := 0 } ∧ savingAsked.w.request.isSome = true := by
  and_intros <;> first | decide +kernel | exact executes_of rfl (by decide +kernel)

def inHandler : Ctx := withT { thread0 with mode := .handler, h := Vector.replicate 8 0x1002 }
def noVector : Ctx := withL { launch0 with nd := { node0 with flags := 0 } }

theorem witness_TrapsTaken :
    ctx0.handles ∧ Executes state0 ctx0 { sc := 0 } ∧ ctx0.t.loads = [] ∧ ctx0.l.nd.cooperative = false ∧
    (Executes (small inHandler) inHandler { sc := 0 } ∧ inHandler.l.system = false ∧ inHandler.l.ended = false ∧
      inHandler.t.mode ≠ .normal) ∧
    (Executes (small noVector) noVector { sc := 0 } ∧ noVector.l.nd.hasVector = false) := by
  and_intros <;> first | decide +kernel | exact executes_of rfl (by decide +kernel)

theorem witness_ReturnAndTrapRegisters :
    Executes (small inHandler) inHandler { sc := 0 } ∧ inHandler.t.mode = .handler ∧ inHandler.t.h[0].getLsbD 0 = false ∧
    Executes state0 ctx0 { sc := 0 } ∧ ctx0.t.mode = .normal ∧ ctx0.handles ∧ Executes state0 ctx0 { sc := 0, names := [1] } ∧
    ctx0.t.belowLimit [(1, ctx0.t.h[7])] = false ∧ Executes state0 ctx0 { sc := 0, reads := [1] } := by
  and_intros <;> first | decide +kernel | exact executes_of rfl (by decide +kernel)

/-- g1 holds 32, the first value that sets a bit of %fflags that must be zero, g2 holds 31, g3 4, g4 3, g5 2, g6 1. -/
def limits : Ctx := withT (Holding thread0 [(1, 32), (2, 31), (3, 4), (4, 3), (5, 2), (6, 1)])

theorem witness_SpecialRegisters :
    let v (r : Reg) : Nat := (limits.reads (small limits) { sc := 0, reads := [r] } 0).toNat
    Executes (small limits) limits { sc := 0, names := [1] } ∧ limits.t.belowLimit [(1, 5)] = false ∧
    Executes (small limits) limits { sc := 0, reads := [1] } ∧ limits.handles ∧ 2 ^ 5 ≤ v 1 ∧ v 2 < 2 ^ 5 ∧ 2 ^ 2 ≤ v 3 ∧ v 4 < 2 ^ 2 ∧
    2 ≤ v 5 ∧ v 6 < 2 := by
  dsimp only
  and_intros <;> first | decide +kernel | exact executes_of rfl (by decide +kernel)

def clusterThread : Ctx := ⟨{ thread0 with pending := true }, group0, wave0, { launch0 with nd := { node0 with flags := 48 } }⟩
def deep : Ctx := withL { launch0 with depth := 8 }
def misaligned : Ctx := withT (Holding thread0 [(2, 63)])

theorem witness_ThreadsEndAndSpawn :
    let form : Form := { sc := 0, reads := Reg.pair 2 }
    Executes state0 ctx0 (GF.form ⟨.always, 0⟩) ∧ (ctx0.l.nd.clusterSet && ctx0.t.pending) = false ∧
    (∀ u ∈ state0.threads, u.arrival? = none) ∧ (Executes (small clusterThread) clusterThread (GF.form ⟨.always, 0⟩) ∧
      (clusterThread.l.nd.clusterSet && clusterThread.t.pending) = true ∧ clusterThread.handles) ∧
    (Executes state0 ctx0 form ∧ ctx0.l.depth ≠ 8 ∧ (Word.pair (ctx0.reads state0 form 0) (ctx0.reads state0 form 1)).toNat % 64 = 0 ∧
      state0.die? ctx0.w.die = some (Die.reset 0) ∧ (Die.reset 0).launchPort.length < 256 ∧ state0.recording = false ∧
      (Die.reset 0).log.length < bootImage.logRoom ∧ 256 ≤ (List.replicate 256 (0 : Nat)).length) ∧
    (Executes (small deep) deep form ∧ deep.l.depth = 8 ∧ deep.handles) ∧
    (Executes (small misaligned) misaligned form ∧
      (Word.pair (misaligned.reads (small misaligned) form 0) (misaligned.reads (small misaligned) form 1)).toNat % 64 ≠ 0) := by
  dsimp only
  and_intros <;> first | decide +kernel | exact executes_of rfl (by decide +kernel)

/-- A thread alone in its group; the state's launch is cooperative. -/
def alone : Ctx := ⟨thread0, { group0 with ext := true }, wave0, { launch0 with nd := { node0 with flags := 17 } }⟩

theorem witness_OneLaneCollectives :
    let s := small alone
    let u := alone.t.arriving
    let early : Ctx := { alone with t := { alone.t with ctl := 1, flight := [⟨1, [0], 0, 5, 3, none, false⟩] } }
    (operandTrap { early with t := early.t.arriving } { sc := 0, reads := [1], names := [3] } = some (.stall, 0) ∧ early.handles ∧
      early.t.loads = [] ∧ (∀ r, early.t.stale r = false) ∧ (small early).ctx ⟨0, 0⟩ = some early) ∧
    s.ctx s.cur = some alone ∧ alone.t.loads = [] ∧ alone.t.held = [] ∧ (∀ r, alone.t.stale r = false) ∧
    s.liveOfGroup alone.w (alone.w.groupOf alone.t.id.idx) = [alone.t] ∧ (∀ x ∈ s.threads, x.arrival? = none) ∧
    operandTrap { alone with t := u } { sc := 0, reads := [1, 2], names := [3] } = none ∧ u.belowLimit [(3, 5)] = false ∧
    0 < alone.w.width ∧ alone.w.width = 2 ^ 3 ∧ alone.t.stores = [] ∧ (∀ x ∈ s.threads, x.live = true → x = alone.t) ∧
    s.household alone.w = [alone.w] ∧ alone.l.nd.cooperative = true ∧ alone.w.launch = alone.l.id ∧ alone.w.step = alone.l.step ∧
    alone.w ∈ s.waves ∧ alone.g.ext = true := by
  dsimp only
  and_intros <;> decide +kernel

/-- The thread alone with a second thread in its group, in lane 2, that waits in some way at a PC. -/
def lane2 (w : Wait) (pc : Word) : Thread := { Thread.start node0 0 2 2 0 with wait := w, pc := pc }
def beside (w : Wait) (pc : Word) : State := { small alone with threads := [alone.t, lane2 w pc] }
def raddArrived : Wait := .arrived ⟨.radd ⟨1, 3, 0⟩, 5, 0⟩
def gsyncMine : Arrival := ⟨.gsync ⟨2, 0⟩, 5, 0⟩
def gsyncThread : Thread := Holding alone.t [(2, 4)]
def gsyncState : State := { small alone with threads := [gsyncThread, lane2 (.arrived gsyncMine) alone.t.pc] }

/-- Two lanes: neither has arrived; the other has arrived at the same RADD; at another offset; at a GSYNC that names both. -/
theorem witness_CollectivesOfSeveralLanes :
    let u := alone.t.arriving
    let group (s : State) := s.liveOfGroup alone.w 0
    let same := beside raddArrived alone.t.pc
    let gs : Ctx := { alone with t := gsyncThread }
    (∀ w ∈ [Wait.none, raddArrived], (beside w 0x2000).ctx ⟨0, 0⟩ = some alone ∧ ((beside w 0x2000).threads.map (·.id)).Nodup ∧
      group (beside w 0x2000) = [alone.t, lane2 w 0x2000]) ∧
    operandTrap { alone with t := u } { sc := 0, reads := [1], names := [3] } = none ∧
    (lane2 .none 0x2000).arrival? = none ∧ lane2 raddArrived 0x2000 ≠ alone.t ∧
    (group same = [alone.t, lane2 raddArrived alone.t.pc] ∧ (lane2 raddArrived alone.t.pc).pc = alone.t.pc ∧
      (lane2 raddArrived alone.t.pc).belowLimit [(3, 5)] = false) ∧
    ((lane2 raddArrived 0x2000).pc ≠ alone.t.pc ∧ (lane2 raddArrived 0x2000).mode = .normal) ∧
    (gsyncState.ctx ⟨0, 0⟩ = some gs ∧ gs.t.storesDone = true ∧
      (Word.pair (gsyncThread.arriving.operand 0 0 2) (gsyncThread.arriving.operand 0 1 3)).toNat % 2 ^ 8 ||| 1 = 5 ∧
      ∀ x ∈ gsyncState.threads, gsyncState.participants alone.w alone.l x gsyncMine = gsyncState.threads) := by
  dsimp only
  and_intros <;> decide +kernel

/-- Lanes 0 and 2 of a group of 4: the sources of lane 0 below the group, in it, absent, and beyond it. -/
theorem witness_CollectiveResults :
    let ls : List Lane := [{ lane := 0, a := 7, c := 2 }, { lane := 2, a := 5, c := 1 }]
    (ls.map (·.lane)).Nodup ∧ (∀ x ∈ ls, x.lane < 4) ∧ ({ lane := 0, a := 7, c := 2 } : Lane) ∈ ls ∧
    ((0 : Int) - 2 < 0 ∧ (4 : Int) ≤ 2 + 2 ∧ (0 : Int) + 2 < 4) :=
  ⟨by decide +kernel, by decide +kernel, by decide +kernel, by decide⟩

/-! ## Witnesses: floating point -/

theorem witness_FloatInstructionsComplete :
    let f : FF := ⟨2, 4, 6, true, false, .always, 0⟩
    let x : XFF := ⟨2, 4, true, true, .always, 0⟩
    let v : CvtF := ⟨.e4x4, 4, 8, false, false, .always, 0⟩
    let w : CvtF := ⟨.f64f32, 4, 8, false, false, .always, 0⟩
    Executes state0 ctx0 f.form ∧ Executes state0 ctx0 f.form3 ∧ Executes state0 ctx0 f.form64 ∧ Executes state0 ctx0 f.form364 ∧
    Executes state0 ctx0 x.form ∧ Executes state0 ctx0 x.form64 ∧ Executes state0 ctx0 v.form ∧ Cvt.wide v.c = false ∧
    Executes state0 ctx0 w.form ∧ Cvt.wide w.c = true ∧ Executes state0 ctx0 (H.form ⟨1, 2, 0⟩) ∧
    Executes state0 ctx0 { sc := 0, reads := Reg.pair 2, names := [4] } ∧ ctx0.t.belowLimit [(6, 0)] = false ∧
    ctx0.t.belowLimit (Reg.pairWrites 8 0) = false := by
  dsimp only
  and_intros <;> first | decide +kernel | exact executes_of rfl (by decide +kernel)

/-- Terms of each kind: a NaN, opposite infinities, one infinity, finite ones; a zero and an infinity as factors. -/
theorem witness_ExactSumsAndProducts :
    let nan := Fp.decode Fp.fp32 0x7FC00000
    let inf := Fp.decode Fp.fp32 0x7F800000
    let one := Fp.decode Fp.fp32 0x3F800000
    let zero := Fp.decode Fp.fp32 0x80000000
    nan.isNan = true ∧ inf = .inf false ∧ Fp.decode Fp.fp32 0xFF800000 = .inf true ∧ one.finite = true ∧ zero.isZero = true ∧
    zero.neg = true ∧ inf.isInf = true ∧ inf.isNan = false ∧ one.isZero = false ∧ (.inf true) ∉ [inf, one] := by
  dsimp only
  and_intros <;> decide +kernel

/-- The greatest value that rounds to a finite FP32 encoding in RNE, and the least sum that needs rounding. -/
theorem witness_RoundingSelectsNeighbour :
    (Fp.roundTo Fp.fp32 .rne false (2 ^ 24 - 1) 104 false).2.getLsbD 2 = false ∧
    (Fp.roundTo Fp.fp32 .rne true (2 ^ 24 + 1) 0 false).2.getLsbD 2 = false ∧ Fp.e2m1 ∈ Fp.allFormats ∧
    (Fp.decode Fp.e2m1 0xF).finite = true :=
  ⟨by decide +kernel, by decide +kernel, by decide +kernel, by decide +kernel⟩

theorem witness_SignClassMinimumMaximum :
    0x7F800000 < 0xFF800001 % 2 ^ 31 ∧ 0xFF800001 % 2 ^ 31 < 0x7FC00000 ∧ 0xFF800001 < 2 ^ 32 ∧
    ¬ 0x7F800000 < 0x7F800000 % 2 ^ 31 ∧ ¬ 0x7FFFFFFF % 2 ^ 31 < 0x7FC00000 ∧ (2 : Nat) ^ 31 < 2 * 2 ^ 31 := by decide

theorem witness_FloatComparisonsPush :
    Executes state0 ctx0 { sc := 0, reads := [1, 2], preds := true } ∧
    Executes state0 ctx0 { sc := 0, reads := Reg.pair 2 ++ Reg.pair 4, preds := true } ∧
    Executes state0 ctx0 (H.form ⟨1, 2, 0⟩ |> fun f => { f with preds := true }) :=
  ⟨executes_of rfl (by decide +kernel), executes_of rfl (by decide +kernel), executes_of rfl (by decide +kernel)⟩

theorem witness_FunctionAndIntegralValues :
    Fp.decode Fp.fp64 0xFFF0000000000000 = .inf true ∧ (∃ m e, Fp.decode Fp.fp32 0xBF000000 = .fin true m e) ∧
    (0x80000001 > 0x80000000 ∧ 0x80000001 < 0xFF800000) ∧ 0x7F800000 < 0x7F800001 % 2 ^ 31 :=
  ⟨by decide +kernel, ⟨_, _, rfl⟩, by decide, by decide⟩

/-! ## Witnesses: memory -/

/-- A wave with 256 bytes of scratchpad whose word 1 is poisoned; g2:g3 hold its address, g4:g5 that of the word, g6:g7 the last
address whose word lies within the space, g8:g9 one beyond, g10:g11 an odd one, g12:g13 physical memory under a cached
translation. -/
def waveSpad : Wave := { wave0 with spadBytes := 256, spadPoison := [1], spad := [⟨8, 0x5A⟩] }
def addresses : List (Reg × Word) := [(3, 0x01F00000), (4, 4), (5, 0x01F00000), (6, 0xFFFFFFFC), (7, 0x01FFFFFF), (8, 0xFFFFFFFD),
  (9, 0x01FFFFFF), (10, 1), (11, 0x01F00000), (13, 5), (14, 8), (15, 0x01F00000), (16, 1), (17, 10)]
def memCtx : Ctx := ⟨Holding thread0 addresses, group0, waveSpad, launch0⟩

/-- The page at 0x500000000, at the frame 0x10000, writable; the words of its first 8 bytes. -/
def memState : State :=
  { small memCtx with tlb := [⟨0x500000000, 0x10007⟩, ⟨0x500001000, 0x11007⟩], mem := [⟨0x10000, 1⟩, ⟨0x10003, 0x80⟩] }

def MF4 (a : Reg) : MF := ⟨0, a, 20, .w, 0⟩
def ldForm (a : Reg) : Form := { sc := 0, reads := a.pair, names := Reg.group 20 1 }
def eaOf (c : Ctx) (s : State) (f : Form) : Nat := (Word.pair (c.reads s f 0) (c.reads s f 1)).toNat

theorem memState_ctx : memState.ctx memState.cur = some memCtx := rfl
theorem memCtx_handles : memCtx.handles := handles_of (by decide +kernel)

theorem memState_executes (f : Form) (k : clear memCtx f = true) : Executes memState memCtx f := executes_of memState_ctx k

/-- A store that waits. -/
def entry (loc : Loc) (op : StoreOp) : StoreEntry := ⟨loc, false, false, op, 0, 0, ⟨⟨0, 0⟩, 0, none, []⟩, 0, 0⟩

/-- An access to the scratchpad, one to memory, one to poison, and one that is not translated, without a fault port. -/
theorem witness_LoadsAccepted :
    let chk (a : Reg) (n : Nat) := memState.check false memCtx.w ⟨n, true, false, true⟩ (eaOf memCtx memState (ldForm a))
    Executes memState memCtx (ldForm 2) ∧ Executes memState memCtx { ldForm 2 with preds := true } ∧
    chk 2 4 = .at (.spad 0 0) false false ∧ chk 12 1 = .at (.phys 0x10000) false false ∧ chk 4 4 = .at (.spad 0 4) false false ∧
    memState.poisoned (.spad 0 4) 4 = true ∧ memState.poisoned (.spad 0 0) 4 = false ∧
    memCtx.t.stores = [] ∧ memState.late = false ∧ memCtx.t.fport = noHandle ∧ chk 20 4 = .trap .xlate ∧
    (let c : Ctx := { memCtx with t := { memCtx.t with fport := 5, stores := [entry (.spad 0 8) (.bytes [9])] } }
      let s : State := { memState with threads := [c.t] };
      Executes s c { ldForm 20 with preds := true } ∧ c.t.fport ≠ noHandle ∧ (s.die? 0).isSome = true ∧
        s.check false c.w ⟨4, true, false, true⟩ (eaOf c s (ldForm 20)) = .trap .xlate) ∧
    eaOf memCtx memState (ldForm 20) + 4 ≤ 2 ^ 57 ∧ (Loc.spad 0 0).isFitted = false ∧
    (∀ e ∈ [entry (.spad 0 0) (.bytes [1, 2, 3, 4])], e.loc = .spad 0 0 ∧ e.view = false ∧ e.op = .bytes [1, 2, 3, 4]) := by
  dsimp only
  and_intros <;> first | decide +kernel | exact executes_of rfl (by decide +kernel)

/-- A frame tagged fitted, to which the thread has a store through its raw view. -/
def tagged : Ctx := { memCtx with t := { memCtx.t with stores := [entry (.phys 0x10000) (.bytes [1, 2, 3, 4])] } }
def taggedState : State := { small tagged with tlb := [⟨0x500000000, 0x10007⟩], tags := [(1, 4)] }

theorem witness_LoadOfTaggedFrame :
    Executes taggedState tagged (ldForm 12) ∧
    taggedState.check tagged.l.system tagged.w ⟨4, true, false, true⟩ (eaOf tagged taggedState (ldForm 12)) = .at (.phys 0x10000) false false ∧
    taggedState.poisoned (.phys 0x10000) 4 = false ∧ taggedState.tagOf 0x10000 = 4 ∧ taggedState.late = false ∧
    memState.tagOf 0x10000 ≠ 4 := by
  and_intros <;> first | decide +kernel | exact executes_of rfl (by decide +kernel)

/-- A load that returns, one that met poison and completes, one whose value lies below the stack limit. -/
def loadPlain : PendingLoad := ⟨0x10, 4, [(20, 7)], false, some true, none, false, false, false⟩
def loadPoison : PendingLoad := ⟨0x14, 4, [(31, 0)], true, none, none, true, false, true⟩
def loadStack : PendingLoad := ⟨0x18, 8, [(31, 0)], false, none, none, true, false, true⟩
def loading : Ctx := withT { thread0 with loads := [loadPlain, loadPoison, loadStack] }

theorem witness_LoadDataReturns :
    let t := loading.t
    (small loading).thread? ⟨0, 0⟩ = some t ∧ (small loading).ctx ⟨0, 0⟩ = some loading ∧ loading.handles ∧
    t.loads[0]? = some loadPlain ∧ t.loads[1]? = some loadPoison ∧ t.loads[2]? = some loadStack ∧
    (loadPlain.completing && loadPlain.poisoned && !loadPlain.nibble) = false ∧ loadPlain.ticket = none ∧
    (loadPlain.completing && !loadPlain.poisoned && t.belowLimit loadPlain.vals) = false ∧
    (loadPlain.vals.map (·.1)).Nodup ∧ (loadPoison.completing && loadPoison.poisoned && !loadPoison.nibble) = true ∧
    (loadStack.completing && !loadStack.poisoned && t.belowLimit loadStack.vals) = true :=
  ⟨rfl, rfl, handles_of (by decide +kernel), rfl, rfl, rfl, rfl, rfl, by decide +kernel, by decide, rfl, by decide +kernel⟩

theorem witness_StoresAccepted :
    let st : Form := { sc := 0, reads := Reg.pair 12 ++ Reg.group 20 1 }
    let stn : Form := { sc := 0, reads := Reg.pair 16 ++ [20] }
    let red : Form := { sc := 0, reads := Reg.pair 2 ++ atomRegs 20 true }
    let at_ (a : Reg) (n : Nat) (b c : Bool) := memState.check false memCtx.w ⟨n, b, true, c⟩ (eaOf memCtx memState (ldForm a))
    Executes memState memCtx st ∧ memCtx.claimFails (eaOf memCtx memState st) 1 = false ∧
    at_ 12 1 true true = .at (.phys 0x10000) false false ∧ Executes memState memCtx stn ∧
    memState.check false memCtx.w ⟨1, false, true, false⟩ (eaOf memCtx memState (ldForm 16) / 2) = .at (.phys 0x10000) false false ∧
    Executes memState memCtx red ∧ at_ 2 8 true false = .at (.spad 0 0) false false ∧ (∀ e ∈ memCtx.t.stores, e.packet ≠ memState.packetNo) ∧
    (Loc.phys 0x10000).overlaps 4 (entry (.phys 0x10003) (.bytes [9])).loc 1 = true := by
  dsimp only
  and_intros <;> first | decide +kernel | exact executes_of rfl (by decide +kernel)

/-- Stores of bytes, of a nibble, of a reduction, and into a scratchpad; a poisoned reduction; a frame tagged fitted. -/
def stored (e : StoreEntry) : State :=
  { memState with threads := [{ memCtx.t with stores := [e] }], poison := [0x800], tags := [(2, 4)],
                  peers := [⟨1, 0, false, false⟩] }

theorem witness_StoreTakesEffect :
    let s := stored (entry (.phys 0x10001) (.bytes [1, 2]))
    let p := stored (entry (.phys 0x20000) (.red .add false 1))
    let w := stored (entry (.spad 0 8) (.bytes [0]))
    s.memOk ∧ s.late = false ∧ (s.thread? ⟨0, 0⟩).map (·.stores) = some [entry (.phys 0x10001) (.bytes [1, 2])] ∧
    s.unreachable 0x10001 = false ∧ s.unreachable (2 ^ 46) = true ∧ s.tagOf 0x10001 ≠ 4 ∧ p.tagOf 0x20000 = 4 ∧
    p.poisoned (.phys 0x20000) (StoreEntry.size (entry (.phys 0x20000) (.red .add false 1))) = true ∧
    s.poisoned (.phys 0x10001) 2 = false ∧ (w.wave? 0).isSome = true ∧ p.die? 0 = some (Die.reset 0) := by
  dsimp only [State.memOk, Wave.memOk]
  and_intros <;> decide +kernel

theorem witness_AtomicUpdates :
    let form : Form := { sc := 0, names := atomRegs 20 false, reads := Reg.pair 12 ++ atomRegs 22 false ++ atomRegs 20 false }
    let c : Ctx := { memCtx with t := Holding memCtx.t [(12, 4)] }
    let s : State := { memState with threads := [c.t] }
    Executes s c form ∧ c.claimFails (eaOf c s form) 4 = false ∧
    s.check false c.w ⟨4, true, true, false⟩ (eaOf c s form) = .at (.phys 0x10004) false false ∧ s.tagOf 0x10004 ≠ 4 ∧ s.memOk ∧ s.late = false := by
  dsimp only [State.memOk, Wave.memOk]
  and_intros <;> first | decide +kernel | exact executes_of rfl (by decide +kernel)

/-- The last word within the space and the first access beyond it; a misaligned access; the slots of a core, and no core. -/
theorem witness_AccessChecks :
    let k : AccessKind := ⟨4, true, false, true⟩
    (2 ^ 57 < (2 ^ 57 - 3) + k.size ∧ (2 ^ 57 - 4) + k.size ≤ 2 ^ 57 ∧ 0x500000001 % k.size ≠ 0) ∧
    memState.translate false 0x600000000 = none ∧ (memState.translate false 0x500000000).map (·.layout) = some 0 ∧
    (memState.translate false 0x500000000).map (·.migrating) = some false ∧
    memState.resolveSpad memCtx.w ⟨0, 0⟩ 256 4 = none ∧ memState.coreInService ⟨0, 0⟩ = true ∧ memState.coreInService ⟨1, 0⟩ = false ∧
    Executes memState memCtx (ldForm 20) ∧ memCtx.handles ∧
    memState.check false memCtx.w k (eaOf memCtx memState (ldForm 20)) = .trap .xlate ∧
    memState.check false memCtx.w ⟨4, true, true, true⟩ (eaOf memCtx memState (ldForm 10)) = .trap .align := by
  dsimp only
  and_intros <;> first | decide +kernel | exact executes_of rfl (by decide +kernel)

/-- A group with two operations of each class: WAITC with 2 goes on, with 1 waits. -/
def busy : Ctx :=
  { ctx0 with g := ⟨0, 0, false, [1, 2], [3, 4], [5, 6], [7, 8], #v[4, 2, 2, 2], [⟨.copy, 1, ⟨[6], [6]⟩, []⟩]⟩ }
def unpostedCtx : Ctx := withT { thread0 with unposted := 1 }

theorem witness_FencesAndCounters :
    Executes state0 ctx0 { sc := 0, reads := Reg.pair 2 } ∧ Executes state0 ctx0 { sc := 0 } ∧ Executes (small busy) busy { sc := 0 } ∧
    (state0.drain state0.cur).thread? state0.cur = some thread0 ∧ busy.g.copyOps.length ≤ (2 : Fin 64).val ∧
    (1 : Fin 64).val < busy.g.remoteOps.length ∧ busy.g.bankOps.length ≤ (2 : Fin 64).val ∧
    (state0.drain state0.cur).unposted state0.cur = false ∧ Executes (small unpostedCtx) unpostedCtx { sc := 0 } ∧
    ((small unpostedCtx).drain ⟨0, 0⟩).unposted ⟨0, 0⟩ = true ∧ state0.late = false ∧ (state0.threads.map (·.id)).Nodup ∧
    thread0.sight = Sight.none ∧ thread0.heard = [] ∧ thread0.released = [] ∧ state0.fences = [] := by
  and_intros <;> first | decide +kernel | exact executes_of rfl (by decide +kernel)

/-! ## Witnesses: parameter blocks, copies, rings -/

/-- Fields of a block: offset, size, value. -/
def blockMem (fs : List (Nat × Nat × Nat)) : Memory := fs.foldl (fun m f => m.setBytes f.1 (leBytes f.2.1 f.2.2)) []

/-- A wave with the block at offset 0 of its scratchpad, slots 0 and 1 and tile 0 its own and held, tile 1 its own. -/
def blockWave (fs : List (Nat × Nat × Nat)) : Wave :=
  { wave0 with spadBytes := 256, spad := blockMem fs, slotNames := [0, 1], heldSlots := [0, 1], tileNames := [0, 1], heldTiles := [0] }

def blockCtx (fs : List (Nat × Nat × Nat)) : Ctx := withW (blockWave fs)

/-- Two writable pages of memory behind cached translations. -/
def pages : List TlbEntry := [⟨0x500000000, 0x10007⟩, ⟨0x500001000, 0x11007⟩]

def blockState (fs : List (Nat × Nat × Nat)) : State := { small (blockCtx fs) with tlb := pages }

/-- The n bytes of a block. -/
def blkOf (fs : List (Nat × Nat × Nat)) (n : Nat) : List Byte := (blockMem fs).bytes 0 n

theorem block_of {s : State} {c : Ctx} {o : Word} {n align : Nat} {blk : List Byte}
    (h : (decide (o.toNat % align = 0) && decide (c.w.spadBytes ≠ 0) && decide (o.toNat + n ≤ c.w.spadBytes) &&
      !s.poisoned (.spad c.w.uid o.toNat) n && !s.late && c.t.stores.all StoreEntry.plain &&
      blk == (s.loadBytes c.t (.spad c.w.uid o.toNat) false false n).2) = true) : Block s c o n align blk := by
  simp only [Bool.and_eq_true, decide_eq_true_eq, Bool.not_eq_true', List.all_eq_true, beq_iff_eq] at h
  obtain ⟨⟨⟨place, settled⟩, plain⟩, bytes⟩ := h
  obtain ⟨⟨start, fits⟩, clean⟩ := place
  exact ⟨start.1, start.2, fits, clean, settled, fun e he _ => plain e he, bytes⟩

/-- A copy of four bytes between the pages. -/
def copyFields : List (Nat × Nat × Nat) :=
  [(0, 8, 0x500000000), (8, 8, 0x500001000), (24, 1, 1), (40, 4, 4), (64, 4, 1), (88, 4, 1)]

def copyForm : Form := { sc := 0, reads := [1, 2] }
def copyBlk (fs : List (Nat × Nat × Nat)) : List Byte := blkOf fs 128
def copy0 : CopyOp := (blockState copyFields).copyOf (blockCtx copyFields) (copyBlk copyFields) 0

/-- The block at an offset of 3, at the end of the allocation, and poisoned; a block with format 15; an issue outside the producer
group; a full class queue. -/
theorem witness_BlocksAndCopyIssue :
    let c := blockCtx copyFields
    let s := blockState copyFields
    let one : Form := { sc := 0, reads := [1], names := [2] }
    let other : Ctx := { c with l := { launch0 with nd := { node0 with producer := 1 } } }
    let odd : Ctx := { c with t := Holding thread0 [(1, 3)] }
    let atEnd : Ctx := { c with t := Holding thread0 [(1, 0xF8)] }
    let poisoned : Ctx := { c with w := { c.w with spadPoison := [3] } }
    let bad := blockCtx ((16, 1, 15) :: copyFields)
    Executes s c one ∧ c.handles ∧ (odd.reads (small odd) one 0).toNat % 8 ≠ 0 ∧
    (atEnd.reads (small atEnd) one 0).toNat % 8 = 0 ∧ atEnd.w.spadBytes < (atEnd.reads (small atEnd) one 0).toNat + 16 ∧
    (atEnd.reads (small atEnd) one 0).toNat + 8 ≤ atEnd.w.spadBytes ∧ (small poisoned).poisoned (.spad 0 0) 16 = true ∧
    (Executes (small other) other copyForm ∧ other.w.groupOf other.t.id.idx ≠ other.l.nd.producer) ∧
    (Executes s c copyForm ∧ c.w.groupOf c.t.id.idx = c.l.nd.producer ∧ Block s c (c.reads s copyForm 0) 128 8 (copyBlk copyFields) ∧
      firstInvalid (copyChecks false (copyBlk copyFields)) = none ∧ s.copyTrap c 0 copy0 = none) ∧
    firstInvalid (copyChecks false ((small bad).readLoc (.spad 0 0) 128)) = some 16 ∧
    (s.copies.filter fun y => y.core == c.w.coreId && y.cls == copy0.cls && !y.completed).length < 64 ∧ c.g.copyOps.length < 63 ∧
    ¬ (({ c.g with copyOps := List.replicate 63 0 } : Group).copyOps.length < 63) ∧ c.t.belowLimit [(2, 0x400000)] = false := by
  dsimp only
  and_intros <;> first | decide +kernel | exact executes_of rfl (by decide +kernel) | exact handles_of (by decide +kernel) |
    exact block_of (by decide +kernel)

/-- Ranges at the bounds of each clause: below 0, at 2^57 and beyond it, at the map's start and across it; in the map the
scratchpads, the slots and tiles and what lies between, at their first and last addresses; slot 0 held and slot 1 not. -/
theorem witness_CopyRanges :
    let w := { blockWave copyFields with heldSlots := [0] }
    let c := withW w
    let s : State := { blockState copyFields with waves := [w] }
    let base : Int := 0x01F0000000000000
    (rangeOf 0x1000 2 [3, 2] [-4, 16] = (0xFF8, 0x1011) ∧ List.Forall₂ (fun i e => i < e) [2, 1] [3, 2]) ∧
    ((-1 : Int) < 0 ∧ (2 : Int) ^ 57 < 2 ^ 57 + 1 ∧ (0 : Int) ≤ 2 ^ 57 - 1 ∧ base ≤ base ∧ base < base + 1 ∧ base - 1 < base) ∧
    (s.coreInService ⟨0, 0⟩ = true ∧ s.coreInService ⟨0, 63⟩ = false) ∧
    ((s.resolveSpad c.w ⟨0, 0⟩ 255 1).isSome = true ∧ (s.resolveSpad c.w ⟨0, 0⟩ 255 2).isSome = false ∧
      (0x7FFFF : Nat) < 0x80000 ∧ (0x80000 : Nat) ≤ 0x80000) ∧
    ((0x103FFF : Nat) % 0x4000 + 1 ≤ 0x4000 ∧ 0x4000 < (0x103FFF : Nat) % 0x4000 + 2) ∧
    s.slotOwner? c.w 0x01F0000000100000 = some (0, false, 0) ∧ s.slotOwner? c.w 0x01F0000000104000 = none ∧
    s.slotOwner? c.w 0x01F0000000200000 = some (0, true, 0) ∧ s.wave? 0 = some w ∧
    (0 ∈ w.heldSlots ∧ 0 ∉ w.relSlots ∧ 0 ∈ w.heldTiles ∧ 0 ∉ w.relTiles) ∧
    ((0x13FFFF : Nat) < 0x140000 ∧ (0x240000 : Nat) ≤ 0x240000) := by
  dsimp only
  and_intros <;> decide +kernel

/-- A copy onto its own source; one with the source beyond the space; a fill of the same range. -/
theorem witness_CopyTraps :
    let c := blockCtx copyFields
    let s := blockState copyFields
    let x : CopyOp := { copy0 with dests := [⟨0x500000000, none⟩], mode := 1 }
    let far : CopyOp := { copy0 with src := 0x0200000000000000 }
    let traps (y : CopyOp) := s.rangeTrap c 0 y.mode false y.srcRange :: y.dests.map fun d => s.rangeTrap c 0 y.mode true (y.dstRange d)
    copy0.mode ≤ 5 ∧ copy0.srcRange.1 < copy0.srcRange.2 ∧ (∀ d ∈ x.dests, (x.dstRange d).1 < (x.dstRange d).2) ∧
    (∀ y ∈ traps x, y = none) ∧ (1 ≤ x.mode ∧ x.mode ≤ 4) ∧
    (x.srcRange.1 ≤ 0x500000000 ∧ 0x500000000 < x.srcRange.2 ∧ (x.dstRange ⟨0x500000000, none⟩).1 ≤ 0x500000000 ∧
      0x500000000 < (x.dstRange ⟨0x500000000, none⟩).2) ∧
    (∀ y ∈ traps copy0, y = none) ∧ (traps far)[0]? = some (some (.xlate, 0x0200000000000000)) := by
  dsimp only
  and_intros <;> decide +kernel

/-- The copy entered; its first two elements make a chunk; with its source page gone the chunk meets a fault. -/
def copying : State := { blockState copyFields with copies := [{ copy0 with id := 5 }], mem := [⟨0x10000, 0x77⟩] }
def copyCore : Core := Core.reset 0
def lost : State := { copying with tlb := [⟨0x500001000, 0x11007⟩] }

/-- A mode-0 copy one byte up onto its own source, through a page that it may not write: the write is refused at an address of the
source too, and is recorded as an engine write (R322). -/
def onItself : CopyOp := { copy0 with id := 5, mode := 0, dests := [⟨0x500000001, none⟩] }
def closed : State := { copying with tlb := [⟨0x500000000, 0x10003⟩], copies := [onItself] }

theorem test_refused_write_is_a_write :
    (match exec (.copyChunkStart ⟨0, 0⟩ 2) closed with
      | .next s => (s.die? 0).map fun d => d.posting.map fun p => (p.record.va, p.record.kind)
      | _ => none) = some [(0x500000001, 4)] := by decide +kernel

theorem witness_CopyChunks :
    copying.core? ⟨0, 0⟩ = some copyCore ∧
    (copying.arbitrate ⟨0, 0⟩ 2 16 copyCore).any (fun r => r.2.2.1 == ⟨0, 2⟩ && (match r.2.2.2 with
      | .ok _ => true
      | _ => false)) = true ∧
    (∀ y ∈ copying.copies, y.sequenced = false) ∧ (lost.wave? copy0.thread.wave).isSome = true ∧
    (match lost.elementBits (copy0.lending 0) (blockWave copyFields) 0 with
      | .ok _ => false
      | _ => true) = true ∧
    (match closed.elementBits (onItself.lending 0) (blockWave copyFields) 0, closed.elementBits (onItself.lending 0) (blockWave copyFields) 1 with
      | .ok _, .ok _ => true
      | _, _ => false) = true ∧
    (closed.arbitrate ⟨0, 0⟩ 2 16 copyCore).any (fun r => match r.2.2.2 with
      | .fault .perm 0x500000001 _ => true
      | _ => false) = true ∧ lost.core? ⟨0, 0⟩ = some copyCore ∧
    (lost.arbitrate ⟨0, 0⟩ 2 16 copyCore).any (fun r => match r.2.2.2 with
      | .fault _ _ _ => true
      | _ => false) = true ∧
    copy0.mode ≠ 4 ∧ copy0.dests = [⟨0x500001000, none⟩] ∧ copy0.dstNibbles = 2 * 1 ∧ copy0.srcNibbles = 2 * 1 ∧
    (match copying.elementBits copy0 (blockWave copyFields) 0 with
      | .ok v => v == ⟨0x77, []⟩
      | _ => false) = true ∧ copying.tagOf 0x11000 ≠ 4 ∧
    copying.copyStore copy0 (blockWave copyFields) true (copy0.dstSpot ⟨0x500001000, none⟩ 0).va 1 = .ok (.mem (.phys 0x11000) false) ∧
    copying.copyStore copy0 (blockWave copyFields) false (copy0.srcSpot 0).va 1 = .ok (.mem (.phys 0x10000) false) ∧ copying.memOk ∧ copying.late = false := by
  dsimp only [State.memOk, Wave.memOk]
  and_intros <;> first | decide +kernel | exact executes_of rfl (by decide +kernel) | exact handles_of (by decide +kernel) |
    exact block_of (by decide +kernel) | rfl

/-- A finished copy at the head of its counter; a reducing one with one element to apply; sequenced ones early and late; a stream
with a written number. -/
def finishedCopy : CopyOp := { copy0 with id := 5, next := 4 }
def reducing : CopyOp := { finishedCopy with mode := 4, srcFmt := 11, dstFmt := 11, updates := [⟨3, 0x500000000, 0x10000, false, 1, true⟩] }
/-- Its first element is to be done again, at the place of the one that waits. -/
def heldCopy : CopyOp := { reducing with stalled := [(⟨0, 1⟩, none)], updates := [⟨3, 0x500001000, 0x11000, false, 1, true⟩] }
def sequencedCopy (n : Word) : CopyOp := { reducing with sequenced := true, seqNo := n }
def withCopy (x : CopyOp) : State := { copying with copies := [x], groups := [{ group0 with copyOps := [5] }] }

theorem witness_CopyCompletesAndStreams :
    (withCopy finishedCopy).copies.find? (fun y => y.id == 5 && y.core == ⟨0, 0⟩) = some finishedCopy ∧ finishedCopy.finished = true ∧
    (withCopy finishedCopy).group? 0 0 = some { group0 with copyOps := [5] } ∧ finishedCopy.completed = false ∧
    (({ group0 with copyOps := [5] } : Group).copyOps.head? = some 5 ∧ ({ group0 with copyOps := [4, 5] } : Group).copyOps.head? ≠ some 5 ∧
      ({ finishedCopy with completed := true } : CopyOp).completed = true) ∧
    (heldCopy.mode = 4 ∧ heldCopy.passed = false ∧ heldCopy.sequenced = false ∧ heldCopy.fatal = false ∧ heldCopy.outstanding 0 = true ∧
      ⟨0x500001000, none⟩ ∈ heldCopy.dests ∧ (withCopy heldCopy).storeOf heldCopy (heldCopy.dstSpot ⟨0x500001000, none⟩ 0).va =
        some (.mem (.phys 0x11000) false)) ∧ (∀ i < 3, reducing.outstanding i = false) ∧
    (withCopy reducing).copies.find? (fun y => y.id == 5) = some reducing ∧
    reducing.passed = false ∧ (withCopy reducing).tagOf 0x10000 ≠ 4 ∧ (withCopy reducing).memOk ∧ (withCopy reducing).late = false ∧
    (withCopy reducing).unreachable 0x10000 = false ∧ (memState.wave? 0).isSome = true ∧ (memState.launch? 0).isSome = true ∧
    (let x := sequencedCopy 0
      let st := (withCopy x).stream x.stream
      x.settled = false ∧ st.written = none ∧ st.expected = x.seqNo ∧ x.seqNo + 1 ∉ st.finished ∧ x.next = x.total ∧ x.retry = [] ∧
        x.stalled = []) ∧
    (0 < ((sequencedCopy 1).seqNo - ((withCopy (sequencedCopy 1)).stream 0).expected).toInt) ∧
    (((sequencedCopy 0xFFFFFFFF).seqNo - ((withCopy (sequencedCopy 0)).stream 0).expected).toInt < 0) ∧
    ((withCopy reducing).stream (sequencedCopy 1).stream).written = none ∧
    (({ withCopy reducing with streams := [⟨0, 3, some 9, [], []⟩] } : State).stream 0).written = some 9 ∧
    (∀ x ∈ (withCopy reducing).copies, x.sequenced = true → x.stream = 0 → 0 < x.applied → x.settled = true) := by
  dsimp only [State.memOk, Wave.memOk]
  and_intros <;> decide +kernel

/-- A ring of 4 granules with H = 0, M = 3, C = 2, and one granule asked for, then two. -/
def ringFields (n : Nat) : List (Nat × Nat × Nat) := [(0, 8, 0x500000000), (8, 4, n)]
def ringMem : Memory := [(0x10008, 4, 4), (0x1000C, 4, 0xFFFFFFFF), (0x10014, 4, 3), (0x10018, 4, 2)].foldl
  (fun m f => Memory.setBytes m f.1 (leBytes f.2.1 f.2.2)) []
def ringState (n : Nat) : State := { blockState (ringFields n) with mem := ringMem }
def ring0 (n : Nat) : Ring := ⟨0x500000000, 0x10000, 4, 0xFFFFFFFF, 0, 3, 2, n⟩
def ringForm : Form := { sc := 0, reads := [1], names := [2] }

/-- The state as a ring instruction finds it there. -/
def ringFound (s : State) : State :=
  (((s.spent ringForm).loadBytes (blockCtx (ringFields 1)).t (.spad 0 0) false false 16).1).drain ⟨0, 0⟩

/-- Every check of R257 passes, where the fields are those of the ring above. -/
theorem ring_at_of {s : State} {writes : Bool} (x : State × List Byte)
    (h : (s.spent ringForm).loadBytes (blockCtx (ringFields 1)).t (.spad 0 0) false false 16 = x)
    (o : (blockCtx (ringFields 1)).reads s ringForm 0 = 0) (clean : (s.spent ringForm).poisoned (.spad 0 0) 16 = false)
    (blk : dwordAt x.2 0 = 0x500000000 ∧ fieldAt x.2 8 4 = 1 ∧ fieldAt x.2 12 4 = 0)
    (acc : x.1.check (blockCtx (ringFields 1)).l.system (blockCtx (ringFields 1)).w ⟨8, true, writes, false⟩ 0x500000000 =
      .at (.phys 0x10000) false false)
    (ok : (ringFound s).poisoned (.phys 0x10000) 64 = false) (d : (ringFound s).readLoc (.phys 0x10000) 64 = ringMem.bytes 0x10000 64) :
    RingAt s (blockCtx (ringFields 1)) ringForm writes (ringFound s) (ring0 1) := by
  subst h
  constructor
  case block => exact ⟨_, _, false, by rw [o]; rfl, rfl, blk.1.symm, blk.2.1.symm, blk.2.2, acc⟩
  case power => exact ⟨2, by decide, by decide +kernel⟩
  case start => rw [o]; rfl
  case inside => rw [o]; decide +kernel
  case readable => rw [o]; exact clean
  case clean => exact ok
  case size | notify | head | claim | commit | reserved => simp only [show (ring0 1).pa = 0x10000 from rfl, d]; decide +kernel
  all_goals decide +kernel

theorem ring_at : RingAt (ringState 1) (blockCtx (ringFields 1)) ringForm true (ringFound (ringState 1)) (ring0 1) :=
  ring_at_of _ rfl (by decide +kernel) (by decide +kernel) (by decide +kernel) (by decide +kernel) (by decide +kernel) (by decide +kernel)

theorem witness_RingOperations :
    Executes (ringState 1) (blockCtx (ringFields 1)) ringForm ∧
    RingAt (ringState 1) (blockCtx (ringFields 1)) ringForm true (ringFound (ringState 1)) (ring0 1) ∧ (ringState 1).late = false ∧
    ((ring0 1).claim - (ring0 1).head).toNat + 1 ≤ 4 ∧ 4 < ((ring0 2).claim - (ring0 2).head).toNat + 2 ∧
    2 ≤ ((ring0 2).commit - (ring0 2).head).toNat ∧ ((ring0 1).commit - (ring0 1).head).toNat < 3 ∧
    ((2 : Word) - (ring0 1).commit).toNat + 1 ≤ ((ring0 1).claim - (ring0 1).commit).toNat ∧
    ((ring0 1).claim - (ring0 1).commit).toNat < ((3 : Word) - (ring0 1).commit).toNat + 1 ∧
    (blockCtx (ringFields 1)).t.belowLimit [(2, 3)] = false ∧ (blockCtx (ringFields 1)).handles ∧
    (blockCtx (ringFields 1)).t.belowLimit [(31, 3)] = true ∧ (blockCtx (ringFields 1)).t.belowLimit [(31, 0)] = true := by
  and_intros <;> first | decide +kernel | exact executes_of rfl (by decide +kernel) | exact ring_at

/-- While writes spread late: the newest write of M, still on its way, carries a release of module scope of another core. -/
def ringWrite : PastWrite :=
  ⟨7, .phys 0x10018, 0, false, .thread ⟨1, 0⟩, ⟨0, 3⟩, false, true, [], ⟨⟨0, 3⟩, 1, none, [⟨.module, ⟨0, 3⟩, 1, ⟨[5], []⟩⟩]⟩⟩
def lateRing : State := { ringState 1 with relaxed := true, history := [ringWrite] }

theorem late_ring_at (writes : Bool) :
    RingAt lateRing (blockCtx (ringFields 1)) ringForm writes (ringFound lateRing) (ring0 1) :=
  ring_at_of _ rfl (by decide +kernel) (by decide +kernel) (by decide +kernel) (by cases writes <;> decide +kernel) (by decide +kernel)
    (by decide +kernel)

theorem witness_RingsWhileLate :
    let c := blockCtx (ringFields 1)
    let u := ringFound lateRing
    lateRing.relaxed = true ∧ Executes lateRing c ringForm ∧ (∀ b, RingAt lateRing c ringForm b u (ring0 1)) ∧ u.tagOf 0x10000 ≠ 4 ∧
    (u.thread? ⟨0, 0⟩).isSome = true ∧ (Scope.module = .module ∧ (3 : Nat) / 8 = c.w.die / 8) ∧
    u.history.find? (fun x => x.loc == .phys (0x10000 + 24)) = some ringWrite ∧ (ring0 1).notify = 0xFFFFFFFF ∧
    ((ring0 1).claim - (ring0 1).head).toNat + 1 ≤ 4 ∧ 1 ≤ ((ring0 1).commit - (ring0 1).head).toNat ∧
    1 ≤ ((ring0 1).claim - (ring0 1).commit).toNat ∧ c.t.belowLimit [(31, (ring0 1).head)] = true ∧ c.handles := by
  dsimp only
  and_intros <;> first | exact late_ring_at | exact executes_of rfl (by decide +kernel) | decide +kernel

/-- An await there acquires what M carries, but not where it traps with STACK; a retire carries a release with what its thread knows, a claim none of its own (R262). -/
theorem test_ring_order :
    let s := lateRing
    let knows (r : Host.Outcome State Fault Refusal) : Bool := match r with
      | .next t => t.knows ⟨0, 0⟩ |>.seen.contains 5
      | _ => false
    let carries (r : Host.Outcome State Fault Refusal) (pa : Nat) : List Scope := match r with
      | .next t => (t.history.filter fun e => e.loc == .phys pa).flatMap fun e => e.carries.releases.map (·.scope)
      | _ => []
    knows (exec (.rawait ⟨2, 1, .always, 0⟩) s) = true ∧ knows (exec (.rawait ⟨31, 1, .always, 0⟩) s) = false ∧ carries (exec (.rretire ⟨1, .always, 0⟩) s) 0x10010 = [.module] ∧
    knows (exec (.rretire ⟨1, .always, 0⟩) s) = false ∧ carries (exec (.rclaim ⟨2, 1, .always, 0⟩) s) 0x10014 = [] := by
  decide +kernel

/-! ## Witnesses: slots, the matrix engine, the bank units -/

def slotCtx : Ctx := blockCtx []
def queued : Ctx := { slotCtx with w := { slotCtx.w with tileQueue := [0], relSlots := [1] },
                                   t := { thread0 with wait := .claim true 4 0 } }
def releasing : Ctx := { queued with t := { thread0 with wait := .release false 1 0 } }

/-- An MMA on slots 0 and 1 into tile 0 with k = 4. -/
def mmaFields : List (Nat × Nat × Nat) := [(1, 1, 1), (4, 2, 4)]
def mma0 : MatrixOp :=
  ⟨5, ⟨0, 0⟩, 0, 0, ⟨0, 0⟩, .mma .i8 .set 0 1 0 0 4 false false 0 0 0 [], false, 0xFFFFFFFF, 0, false, 0, false, 1,
    Know.none⟩

theorem witness_SlotClaimsAndGrants :
    let one : Form := { sc := 0, names := [4] }
    let rel : Form := { sc := 0, reads := [1] }
    Executes (small slotCtx) slotCtx one ∧ ctx0.w.slotNames = [] ∧ ctx0.handles ∧ slotCtx.w.tileQueue = [] ∧
    slotCtx.w.heldTiles.length < slotCtx.w.tileNames.length ∧ (1 ∈ slotCtx.w.tileNames ∧ 1 ∉ slotCtx.w.heldTiles) ∧
    slotCtx.w.slotNames.length ≤ slotCtx.w.heldSlots.length ∧ (∀ w ∈ (small slotCtx).waves, w.uid = 0 → w = slotCtx.w) ∧
    Executes (small slotCtx) slotCtx rel ∧ 0 ∈ slotCtx.w.heldSlots ∧ 0 ∉ slotCtx.w.relSlots ∧ 2 ∉ slotCtx.w.heldSlots ∧
    (small slotCtx).nameInUse 0 false 0 = false ∧
    ({ small slotCtx with matrixOps := [mma0] } : State).nameInUse 0 false 0 = true ∧
    (small queued).ctx ⟨0, 0⟩ = some queued ∧ queued.w.tileQueue = [0] ∧ 1 ∈ releasing.w.relSlots ∧
    (∀ u ∈ (small releasing).threads, u.id.wave = 0 → u.wait = .release false 1 0 → u = releasing.t) ∧
    ((small releasing).threads.map (·.id)).Nodup ∧
    (∀ u ∈ (small releasing).threads, u.wait = .release false 1 0) ∧
    (let marked (k : Nat) : State := { small { slotCtx with w := { slotCtx.w with relMarks := [⟨false, 0, k⟩] } } with matrixOps := [mma0] };
      (marked 6).nameInUse 0 false 0 = true ∧ (marked 5).nameInUse 0 false 0 = false ∧ mma0.id = 5 ∧ (0, false, 0) ∈ mma0.names) ∧ slotCtx.t.belowLimit [(31, 1)] = true ∧
    queued.t.id.idx ∉ slotCtx.w.tileQueue := by
  dsimp only
  and_intros <;> first | decide +kernel | exact executes_of rfl (by decide +kernel)

theorem witness_MatrixIssue :
    let c := blockCtx mmaFields
    let s := blockState mmaFields
    let form : Form := { sc := 0, reads := [1] }
    Executes s c form ∧ Executes s c { sc := 0, reads := 1 :: Reg.pair 2 } ∧ c.g.matrixOps.length < 63 ∧
    Block s c (c.reads s form 0) 32 8 (blkOf mmaFields 32) ∧ c.w.width ≠ 64 ∧
    mmaTrap c.w .i8 0 (blkOf mmaFields 32) = none ∧ mmaTrap c.w .e2 0 (blkOf mmaFields 32) = none ∧
    (mmaTrap { c.w with heldTiles := [] } .i8 0 (blkOf mmaFields 32)).isSome = true ∧
    0 ∈ c.w.heldTiles ∧ 0 ∉ c.w.relTiles ∧ 1 ∉ c.w.heldTiles ∧ c.handles ∧
    ¬ (({ c.g with matrixOps := List.replicate 63 0 } : Group).matrixOps.length < 63) ∧
    mmaTrap c.w .i8 0 (blkOf ((0, 1, 16) :: mmaFields) 32) = some (.engine, 0) := by
  dsimp only
  and_intros <;> first | decide +kernel | exact executes_of rfl (by decide +kernel) | exact handles_of (by decide +kernel) |
    exact block_of (by decide +kernel)

def azero0 : MatrixOp := { mma0 with kind := .azero 1 }

theorem witness_MatrixOutputsComplete :
    let s : State := { small slotCtx with matrixOps := [mma0] }
    let w : Wave := { slotCtx.w with slotPoison := [0] }
    s.memOk ∧ (s.matrixOps.filter fun y => y.core == ⟨0, 0⟩) = mma0 :: [] ∧ mma0.started = false ∧ s.wave? 0 = some slotCtx.w ∧
    mmaPoison slotCtx.w .i8 .set 0 1 0 0 4 0 0 = [] ∧ mmaPoison w .i8 .set 0 1 0 0 4 0 0 ≠ [] ∧ azero0.kind = .azero 1 ∧
    ({ mma0 with started := true } : MatrixOp).started = true ∧ s.posting 0 (.matrix 5) = false ∧
    s.group? 0 0 = some group0 ∧ s.die? 0 = some (Die.reset 0) := by
  dsimp only [State.memOk, Wave.memOk]
  and_intros <;> decide +kernel

/-- One row of 64 bf16 weights; y in the other page; then y where x is. -/
def bmvFields (y : Nat) : List (Nat × Nat × Nat) :=
  [(0, 8, 0x500002000), (24, 8, 0x500000100), (32, 8, y), (40, 4, 1), (44, 4, 64), (48, 4, 128)]
def bmvBlk (y : Nat) : List Byte := blkOf (bmvFields y) 64
def bmv0 : BmvOp := bmvOf (blockCtx (bmvFields 0x500001000)) .bf16 5 Sight.none (bmvBlk 0x500001000)

theorem witness_BankIssue :
    let c := blockCtx (bmvFields 0x500001000)
    let s := blockState (bmvFields 0x500001000)
    let form : Form := { sc := 0, reads := [1] }
    Executes s c form ∧ c.g.bankOps.length < 63 ∧ Block s c (c.reads s form 0) 64 8 (bmvBlk 0x500001000) ∧
    firstInvalid (bmvChecks .bf16 (bmvBlk 0x500001000)) = none ∧ firstInvalid (bmvChecks .gq4 (bmvBlk 0x500001000)) = some 44 ∧
    bmv0.overlaps = false ∧ (bmvOf c .bf16 5 (s.bankSight s.cur) (bmvBlk 0x500000100)).overlaps = true ∧ c.handles ∧
    ¬ (({ c.g with bankOps := List.replicate 63 0 } : Group).bankOps.length < 63) := by
  dsimp only
  and_intros <;> first | decide +kernel | exact executes_of rfl (by decide +kernel) | exact handles_of (by decide +kernel) |
    exact block_of (by decide +kernel)

def banking (x : BmvOp) : State :=
  { blockState [] with bmvs := [x], groups := [{ group0 with bankOps := [5] }], tlb := ⟨0x500002000, 0x200C7⟩ :: pages, tags := [(2, 3)] }

theorem witness_BankRowsComplete :
    (banking bmv0).bmvs.find? (fun y => y.id == 5) = some bmv0 ∧ 0 < bmv0.m ∧ (0 ∉ bmv0.done) ∧ bmv0.stalled = [] ∧
    (banking bmv0).toRetry 0 (.row 5 0) = false ∧
    (banking bmv0).rowHeld bmv0 0 = false ∧ (match (banking bmv0).rowResult bmv0 0 with
      | .ok r => r.pa == 0x11000
      | _ => false) = true ∧
    (let x : BmvOp := { bmv0 with lent := [(0, ⟨[3], []⟩), (1, ⟨[4], []⟩)], accumulate := true };
      x.sight.know.also ((x.lent.filter fun y => y.1 == 0).map (·.2)) = ⟨[3], []⟩ ∧
      (match (banking x).enginePlace ((banking x).bankOutput x false) rawOnly 0x500001000 4 with
        | .ok _ => true
        | _ => false) = true) ∧
    bmv0.completed = false ∧ (∀ k < 4, (banking bmv0).tagOf (0x11000 + k) ≠ 4) ∧ (banking bmv0).memOk ∧ (banking bmv0).late = false ∧
    (match ({ banking bmv0 with tlb := [] } : State).rowResult bmv0 0 with
      | .fault _ _ _ => true
      | _ => false) = true ∧
    (banking { bmv0 with done := [0] }).bmvs.find? (fun y => y.id == 5 && y.core == ⟨0, 0⟩) = some { bmv0 with done := [0] } ∧
    ({ bmv0 with done := [0] } : BmvOp).done.length + 0 = bmv0.m ∧ bmv0.fatal = false ∧
    (({ group0 with bankOps := [5] } : Group).bankOps.head? = some 5 ∧ ({ group0 with bankOps := [4, 5] } : Group).bankOps.head? ≠ some 5 ∧
      ({ bmv0 with completed := true } : BmvOp).completed = true) ∧ (banking bmv0).group? 0 0 = some { group0 with bankOps := [5] } := by
  dsimp only [State.memOk, Wave.memOk]
  and_intros <;> decide +kernel

/-! ## Witnesses: ports, patterns, reserving loops -/

/-- PALLOC's word: a queue of depth 2, a count port that reloads 1. -/
def portFields (word : Nat) : List (Nat × Nat × Nat) := [(0, 4, word)]

/-- Die 0 with a queue port 1 of depth 2 holding one message, a full one 2, count ports 3 at 0 and 4 at 5, an empty queue 5; a
pattern armed on port 1, a disarmed one on port 5. -/
def msg0 : Msg := ⟨[1, 2, 3, 4], Know.none⟩
def portDie0 : Die :=
  { Die.reset 0 with
    ports := [⟨1, .queue 2 [msg0]⟩, ⟨2, .queue 1 [msg0]⟩, ⟨3, .count 0 1 Know.none⟩, ⟨4, .count 5 1 Know.none⟩, ⟨5, .queue 2 []⟩]
    patterns := [⟨0, true, [1], [1], 0x40, 3, false⟩, ⟨1, false, [5], [1], 0x40, 1, true⟩] }
def portCtx (h v : Word) (fs : List (Nat × Nat × Nat)) : Ctx := { blockCtx fs with t := Holding thread0 [(1, h), (4, v)] }
def portState (h v : Word) (fs : List (Nat × Nat × Nat)) : State := { small (portCtx h v fs) with dies := [portDie0] }

theorem witness_PortAllocation :
    let c := portCtx 0 0 (portFields 0x00010100)
    let s := portState 0 0 (portFields 0x00010100)
    let form : Form := { sc := 0, reads := [1], names := [2] }
    let free : Form := { sc := 0, reads := [1] }
    Executes s c form ∧ Block s c (c.reads s form 0) 8 8 (blkOf (portFields 0x00010100) 8) ∧
    s.die? 0 = some portDie0 ∧ (0x00010100 / 2 ^ 9 % 2 ^ 7 = 0 ∧ 0x00010100 / 2 ^ 8 % 2 = 1 ∧ 0x00010100 % 256 = 0) ∧
    (∀ p ∈ portDie0.ports, p.idx ≠ 6) ∧ (∀ j < 6, 1 ≤ j → ∃ p ∈ portDie0.ports, p.idx = j) ∧
    (Executes (portState 5 0 []) (portCtx 5 0 []) free ∧ ((portState 5 0 []).portDie 5).isSome = true ∧
      (∀ t ∈ (portState 5 0 []).threads, t.wait ≠ .recv 5)) ∧
    ((portState 5 0 []).portDie 6).isNone = true ∧ ((portState 5 0 []).portDie 0).isSome = true ∧ (portCtx 5 0 []).handles ∧
    (portCtx 0 0 []).t.belowLimit [(31, 6)] = true := by
  dsimp only
  and_intros <;> first | decide +kernel | exact executes_of rfl (by decide +kernel) | exact handles_of (by decide +kernel) |
    exact block_of (by decide +kernel)

/-- A message to port 5, one to the full port 2, the greatest and one too great a sum at port 4, port 1 bound, ports 3 to 5 not. -/
theorem witness_PortMessages :
    let send : Form := { sc := 0, reads := 1 :: Reg.group 4 4 }
    ([1, 2, 3, 4, 5, 9].all fun h => clear (portCtx h 0 []) send) = true ∧ Executes (portState 5 0 []) (portCtx 5 0 []) send ∧
    (portCtx 5 0 []).reads (portState 5 0 []) send 0 = 5 ∧ (portCtx 5 0 []).handles ∧
    ((portState 9 0 []).portDie 9).isNone = true ∧ ([1, 2, 3, 4, 5].all fun h => ((portState h 0 []).portDie h).isSome) = true ∧
    (portDie0.ports.find? fun p => p.idx == 5) = some ⟨5, .queue 2 []⟩ ∧ (portDie0.ports.find? fun p => p.idx == 2) = some ⟨2, .queue 1 [msg0]⟩ ∧
    ((5 : Int) + 0x7FFFFFFA < 2 ^ 31 ∧ 2 ^ 31 ≤ (5 : Int) + 0x7FFFFFFB) ∧
    (∃ p ∈ portDie0.patterns, p.armed = true ∧ (1 : Word) ∈ p.ports) ∧ (∀ p ∈ portDie0.patterns, p.armed = true → (5 : Word) ∉ p.ports) ∧
    ((portState 0 0 []).portDie 0).isSome = true ∧ portDie0.launchPort.length < 256 ∧ (portState 0 0 []).recording = false ∧
    (∀ q ∈ portDie0.ports, q.idx ≠ 0) ∧ (portCtx 0 0 []).t.belowLimit [(28, 0), (29, 0), (30, 0), (31, 0)] = true := by
  dsimp only
  and_intros <;> first | decide +kernel | exact executes_of rfl (by decide +kernel)

/-- A PATDEF block on port 5, node 0x40; the armed pattern is satisfied and chosen; a held delivery for port 5. -/
def patFields : List (Nat × Nat × Nat) := [(0, 4, 5), (16, 4, 1), (32, 8, 0x40), (40, 1, 2), (41, 1, 1), (42, 1, 1)]
def delivery5 : Delivery := ⟨5, [1, 0, 0, 0], 1, false, 0, Know.none⟩

/-- The die with a pattern armed on queue port 1 and count port 4, which takes what it asks for, in order, and leaves the others. -/
def joinDie : Die := { portDie0 with patterns := [⟨0, true, [4, 1], [3, 1], 0x40, 3, false⟩] }
def joined : Pattern := ⟨0, true, [4, 1], [3, 1], 0x40, 3, false⟩

theorem test_firing_of_two_ports :
    (match exec (.patternFiring 0) { portState 0 0 [] with dies := [joinDie] } with
      | .next s => (s.die? 0).map fun d => (d.ports, d.launchPort.map (·.contrib))
      | _ => none) =
    some ([⟨1, .queue 2 []⟩, ⟨2, .queue 1 [msg0]⟩, ⟨3, .count 0 1 Know.none⟩, ⟨4, .count 2 1 Know.none⟩, ⟨5, .queue 2 []⟩],
      [some (leBytes 4 5 ++ List.replicate 12 0 ++ leBytes 4 1 ++ leBytes 4 2 ++ leBytes 4 3 ++ leBytes 4 4 ++ List.replicate 32 0)]) := by
  decide +kernel

theorem witness_JoinPatterns :
    let s := portState 0 0 patFields
    let c := portCtx 0 0 patFields
    let form : Form := { sc := 0, reads := [1], names := [2] }
    let two : Form := { sc := 0, reads := [1, 4] }
    Executes s c form ∧ Block s c (c.reads s form 0) 64 8 (blkOf patFields 64) ∧
    patdefTrap s portDie0 0 (blkOf patFields 64) = none ∧
    patdefTrap s portDie0 0 (blkOf [] 64) = some (.engine, Word.pair 0 42) ∧ patdefTrap s portDie0 0 (blkOf ((0, 4, 6) :: patFields.tail) 64) = some (.portstale, 6) ∧
    (∀ p ∈ portDie0.patterns, p.idx ≠ 2) ∧ (∀ j < 2, ∃ p ∈ portDie0.patterns, p.idx = j) ∧
    Executes (portState 1 1 []) (portCtx 1 1 []) two ∧ ((portState 1 1 []).pattern? 1).isSome = true ∧
    ((portState 1 1 []).pattern? 1).map (·.2.armed) = some false ∧ ((portState 1 1 []).pattern? 0).map (·.2.armed) = some true ∧
    ((portState 1 1 []).pattern? 2).isNone = true ∧ ((portState 1 1 []).portDie 5).isSome = true ∧
    (joinDie.choosePattern.map (·.1) = some joined ∧ joined.ports.length = joined.reqs.length ∧
      (joined.ports.all fun h => h.toNat / 2 ^ 28 == 0) = true ∧ (joined.ports.map fun h => h.toNat % 2 ^ 16).Nodup ∧
      (joinDie.ports.map (·.idx)).Nodup) ∧
    portDie0.choosePattern.isSome = true ∧ portDie0.inService = true ∧ portDie0.launchPort.length < 256 ∧
    ({ portDie0 with deliveries := [delivery5] } : Die).deliveries[0]? = some delivery5 ∧
    (s.deliver? delivery5).isSome = true ∧ (s.deliver? { delivery5 with handle := 2 }).isNone = true := by
  dsimp only
  and_intros <;> first | decide +kernel | exact executes_of rfl (by decide +kernel) | exact handles_of (by decide +kernel) |
    exact block_of (by decide +kernel)

/-- A reserving node of 2 items; item 0 claims lines, or waits, or has exited. -/
def rsvLaunch (p : Phase) (lines : List (Nat × Bool)) : Launch :=
  { launch0 with nd := { node0 with flags := 20, items := 2 }, items := [⟨0, p, lines, false⟩] }
def rsvCtx (p : Phase) (lines : List (Nat × Bool)) (w : Wait) : Ctx :=
  { ctx0 with l := rsvLaunch p lines, t := { thread0 with wait := w } }

theorem witness_ReservingItems :
    let form : Form := { sc := 0, reads := Reg.pair 2 }
    let c := rsvCtx .claiming [(0, false)] .none
    let full := rsvCtx .claiming ((List.range 32).map fun i => (i + 1, false)) .none
    let w := rsvCtx .waiting [] (.admitItem 0)
    let e := rsvCtx .exited [] .none
    Executes (small c) c form ∧ (c.l.nd.flags.testBit 2 = true ∧ c.w.nodeThread 0 < c.l.nd.items) ∧ (c.l.item 0).phase = .claiming ∧
    (∃ b, (0, b) ∈ (c.l.item 0).lines) ∧ (full.l.item 0).lines.length = 32 ∧ (∀ b, (0, b) ∉ (full.l.item 0).lines) ∧
    ctx0.l.nd.flags.testBit 2 = false ∧ c.handles ∧ (Executes (small w) w { sc := 0 } ∧ (w.l.item 0).phase = .waiting) ∧
    ((rsvCtx .executing [] .none).l.item 0).phase = .executing ∧ w.l.admissible 0 = true ∧ c.l.admissible 0 = false ∧
    (small w).itemThread w.l 0 = some w.t ∧ (small w).ctx w.t.id = some w ∧ (e.l.item 0).phase = .exited ∧
    (small e).launch? 0 = some e.l ∧ (∀ t, (small e).itemThread e.l 0 = some t → t.stores = []) := by
  dsimp only
  and_intros <;> first | decide +kernel | exact executes_of rfl (by decide +kernel)

/-! ## Witnesses: fitted regions and system mode -/

/-- A region of two FP16 elements at 0x500010000, in the granule 3, its table in the granule 4. -/
def region0 : Region :=
  { id := 1, base := 0x500010000, dims := 1, fmt := 0, clamp := false, hidden := 1, extents := [2], step := [0], offset := [0],
    bound := 0, capacity := 1, granules := [3], tableFrames := [0x40000], params := ⟨0, [[0, 0, 0, 0, 0]]⟩, reference := [0, 0x3C00],
    entries := [(1, 0x3C00)], gen := 1, normal := true, running := false, pending := [], badRefs := [],
    badParams := false }

/-- The pages of 64 KiB of the region and of its table, and the tags. -/
def fitPages : List TlbEntry := [⟨0x500010000, 0x2000000000030107⟩, ⟨0x500020000, 0x2000000000040007⟩] ++ pages
def fitTags : List (Nat × Nat) := [(3, 4), (4, 4)]

/-- g2:g3 name the second element; the same with its stored data lost. -/
def fitCtx : Ctx := withT (Holding thread0 [(2, 0x10002), (3, 5)])
def fitState (r : Region) : State := { small fitCtx with tlb := fitPages, tags := fitTags, regions := [r] }

/-- The region in a module that the fabric does not reach. -/
def farRegion : Region := { region0 with granules := [2 ^ 30 + 3], tableFrames := [2 ^ 46 + 0x40000] }
def farState : State :=
  { fitState farRegion with tlb := [⟨0x500010000, 0x2000400000030107⟩], tags := [(2 ^ 30 + 3, 4)], peers := [⟨1, 15, false, false⟩] }

theorem witness_FittedReads :
    let form : Form := { sc := 0, reads := Reg.pair 2, names := [4] }
    let s := fitState region0
    Executes s fitCtx form ∧ eaOf fitCtx s form = 0x500010002 ∧
    (match s.fitCheck false fitCtx.w true 0x500010002 with
      | .ok r k => r == region0 && k == 2
      | _ => false) = true ∧
    ((s.spent form).drain s.cur).region? 1 = some region0 ∧ s.unreachable region0.home = false ∧ 1 * 2 / 64 ∉ region0.badRefs ∧
    1 * 2 / 64 ∈ ({ region0 with badRefs := [0] } : Region).badRefs ∧ s.late = false ∧ ((s.spent form).drain s.cur).unposted s.cur = false ∧ fitCtx.t.belowLimit [(4, 0x3C00)] = false ∧ region0.gen ≠ 0xFFFFFFFF ∧
    ((s.regions.filter fun x => x.stack = region0.stack).map (·.pending.length)).sum < 64 ∧
    ((match farState.fitCheck false fitCtx.w false 0x500010002 with
      | .ok r k => r == farRegion && k == 2
      | _ => false) = true ∧ farState.unreachable farRegion.home = true ∧
      Executes farState fitCtx form ∧ ((farState.spent form).drain farState.cur).region? 1 = some farRegion ∧
      fitCtx.t.belowLimit [(4, 0)] = false ∧ farState.late = false) ∧
    64 ≤ (List.replicate 64 (⟨0, 0, false, Know.none⟩ : RefitReq)).length ∧ ({ region0 with gen := 0xFFFFFFFF } : Region).gen = 0xFFFFFFFF := by
  dsimp only
  and_intros <;> first | decide +kernel | exact executes_of rfl (by decide +kernel)

theorem witness_FittedElementsAndRefits :
    (region0.normal = true ∧ (region0.entries.map (·.1)).Nodup ∧ (1, 0x3C00) ∈ region0.entries ∧ 0 < region0.reference.length ∧
      (∀ e ∈ region0.entries, e.1 ≠ 0) ∧ region0.capacity ≤ region0.entries.length) ∧
    (fitState region0).region? 1 = some region0 ∧ region0.running = false ∧
    ({ region0 with running := true } : Region).accepts region0.params = true ∧
    (region0.tableFor region0.params []).length ≤ region0.capacity ∧ region0.capacity < (region0.tableFor region0.params [0]).length ∧
    ([1].length = region0.extents.length ∧ ∀ i < [1].length, [1].getD i 0 < region0.extents.getD i 0) ∧
    (∃ (us : Nat → Nat) (zs : Nat → Nat → Nat) (ys : Nat → Nat), us 0 = 0 ∧ zs 0 0 = 0 ∧ zs 0 1 = (Fp.fma Fp.fp32 .rne 0 (us 0) (zs 0 0)).1 ∧
      ys 0 = 0 ∧ ys 1 = (Fp.fma Fp.fp32 .rne 0 (zs 0 1) (ys 0)).1) ∧
    (region0.bound.getLsbD 31 = false ∧ (Fp.decode Fp.fp32 region0.bound.toNat).finite = true) ∧
    region0.entries[0]? = some (1, 0x3C00) ∧ (∀ j, ¬ j < 0) ∧
    ({ fitState region0 with poison := [0x1000] } : State).poison.contains (region0.tableByte 0 / 64) = true := by
  and_intros <;> first
    | exact ⟨fun _ => 0, fun _ _ => 0, fun _ => 0, rfl, rfl, by decide +kernel, rfl, by decide +kernel⟩
    | exact Nat.not_lt_zero
    | decide +kernel

/-- R106 by hand: 1·1 + 0.5 = 1.5, and 2·1.5 + 0.25 = 3.25, which is 0x4280 in FP16; with the clamp 2·1 + 0.25 = 2.25, 0x4080. -/
theorem test_evaluation :
    let r : Region := { region0 with step := [0x3F800000] }
    let ps : FitParams := ⟨0x3400, [[0x3C00, 0, 0, 0x3800, 0x4000]]⟩
    r.evalWith ps 1 = 0x4280 ∧ ({ r with clamp := true } : Region).evalWith ps 1 = 0x4080 := by decide +kernel

/-- A poisoned line of the table loses the entries that lie in it: the first eight of the copy in use (R192, R303). -/
theorem test_poisoned_table_line :
    let r : Region := { region0 with capacity := 16, entries := (List.range 9).map fun i => (i, 0) }
    r.bad [0x1000] 7 = true ∧ r.bad [0x1000] 8 = false ∧ r.bad [0x1001] 8 = true ∧
    ({ r with gen := 2 } : Region).bad [0x1000] 7 = false ∧ ({ r with gen := 2 } : Region).bad [0x1002] 7 = true := by decide +kernel

/-- The machine in system mode, with g2:g3 the descriptor and g4:g5 the source. -/
def sysCtx (ws : List (Reg × Word)) : Ctx := { withL (firmwareLaunch bootImage 0) with t := Holding thread0 ws }
def fitMem : Memory := [(0x10000, 1, 1), (0x10003, 1, 1), (0x10004, 4, 2), (0x10030, 4, 1), (0x10038, 8, 0x500020000),
  (0x10048, 8, 0x500010000), (0x11002, 2, 0x3C00)].foldl (fun m f => Memory.setBytes m f.1 (leBytes f.2.1 f.2.2)) []
def makeCtx : Ctx := sysCtx [(3, 5), (4, 0x1000), (5, 5)]
def makeState : State := { small makeCtx with tlb := fitPages, tags := fitTags, mem := fitMem }

theorem witness_FittedRegionsMade :
    let form : Form := { sc := 0, reads := Reg.pair 2 ++ Reg.pair 4 }
    let u := (makeState.spent form).drain ⟨0, 0⟩
    makeCtx.l.system = true ∧ Executes makeState makeCtx form ∧ eaOf makeCtx makeState form = 0x500000000 ∧
    (match u.rawPieces makeCtx true (pieces 3 0x500000000 512) with
      | .ok ps => !u.rawPoisoned ps && (FitDesc.parse (u.rawBytes ⟨0, 0⟩ ps).2).esize == 2 &&
          (match u.fitFrames (u.rawBytes ⟨0, 0⟩ ps).2 with
            | .ok range table => range == [3] && table == [0x40000]
            | _ => false) &&
          (match u.sourceElements makeCtx 2 (pieces 2 0x500001000 4) with
            | .ok x => x.2 == [0, 0x3C00]
            | _ => false)
      | _ => false) = true ∧
    u.ownRegions.length < 4096 ∧ makeState.late = false ∧ u.unposted ⟨0, 0⟩ = false ∧ (∀ r ∈ makeState.regions, r.base ≠ 0x500000000) ∧ makeCtx.handles ∧
    ((fitState region0).ownRegions.find? fun x => x.base == 0x500010000) = some region0 ∧ (fitState region0).region? 1 = some region0 ∧
    (∀ t ∈ (fitState region0).threads, t.stores = []) ∧
    firstInvalid (fitChecksLow (blkOf [(0, 1, 4)] 512)) = some 0 := by
  dsimp only
  and_intros <;> first | decide +kernel | exact executes_of rfl (by decide +kernel)

/-- Two elements of the source beyond a table of one entry; a descriptor with four dimensions; 4,096 live regions elsewhere. -/
def makeWith (off n v : Nat) : State := { makeState with mem := fitMem.setBytes (0x10000 + off) (leBytes n v) }
def manyRegions : State :=
  { makeState with regions := List.replicate 4096 { region0 with base := 0x600000000, granules := [9], tableFrames := [0xA0000] } }

theorem witness_FitmakeOutcomes :
    let form : Form := { sc := 0, reads := Reg.pair 2 ++ Reg.pair 4 }
    let frames (s : State) : FitFrames :=
      let u := (s.spent form).drain ⟨0, 0⟩
      match u.rawPieces makeCtx true (pieces 3 0x500000000 512) with
      | .ok ps => u.fitFrames (u.rawBytes ⟨0, 0⟩ ps).2
      | _ => .wait 0
    Executes (makeWith 0x1000 2 0x3C00) makeCtx form ∧ Executes (makeWith 0 1 4) makeCtx form ∧ Executes manyRegions makeCtx form ∧
    (match frames (makeWith 0x1000 2 0x3C00), frames (makeWith 0 1 4), frames manyRegions with
      | .ok _ _, .invalid 0, .ok _ _ => true
      | _, _, _ => false) = true ∧
    manyRegions.regions.length = 4096 ∧
    (region0.fits region0.params 0 0 = true ∧ region0.fits region0.params 1 0x3C00 = false ∧ region0.capacity = 1) := by
  dsimp only
  and_intros <;> first | exact executes_of (c := makeCtx) rfl (by decide +kernel) | decide +kernel

/-- FITMAKE while writes spread late: a write of another core's thread to the descriptor is still on its way to some. -/
def farWrite : PastWrite := ⟨7, .phys 0x10000, 1, false, .thread ⟨1, 0⟩, ⟨0, 3⟩, false, false, [], ⟨⟨0, 3⟩, 1, none, [⟨.die, ⟨0, 3⟩, 1, ⟨[5], []⟩⟩]⟩⟩
def lateMake : State := { manyRegions with relaxed := true, history := [farWrite] }

theorem witness_FitmakeWhileLate :
    let form : Form := { sc := 0, reads := Reg.pair 2 ++ Reg.pair 4 }
    let u := (lateMake.spent form).drain ⟨0, 0⟩
    Executes lateMake makeCtx form ∧ lateMake.late = true ∧ eaOf makeCtx lateMake form = 0x500000000 ∧
    (match u.rawPieces makeCtx true (pieces 3 0x500000000 512) with
      | .ok (p :: ps) => p.pa == 0x10000 && !u.rawPoisoned (p :: ps) &&
          (match (u.rawBytes ⟨0, 0⟩ (p :: ps)).1.fitFrames (u.rawBytes ⟨0, 0⟩ (p :: ps)).2 with
            | .ok _ _ => true
            | _ => false) && decide (0x500001000 % (FitDesc.parse (u.rawBytes ⟨0, 0⟩ (p :: ps)).2).esize = 0) &&
          !(u.rawBytes ⟨0, 0⟩ (p :: ps)).1.unposted ⟨0, 0⟩
      | _ => false) = true ∧
    lateMake.regions.length = 4096 := by
  dsimp only
  and_intros <;> first | exact executes_of (c := makeCtx) rfl (by decide +kernel) | decide +kernel

/-- A die with records to post, stall slots and verdicts. -/
def faultDie (posts : List Post) (slots : List StallSlot) (vs : List (Poster × Bool)) : Die :=
  { Die.reset 0 with posting := posts, stallSlots := slots, verdicts := vs }

/-- g1 holds 0x1000, valid for %ptroot and invalid for %coresel; g2 holds 1. -/
def regCtx : Ctx := sysCtx [(1, 0x1000), (2, 1), (3, 56), (4, 55)]

theorem witness_SystemModeAndRegisters :
    let v (r : Reg) := (regCtx.reads (small regCtx) { sc := 0, reads := [r] } 0).toNat
    state0.ctx state0.cur = some ctx0 ∧ ctx0.t.completing = false ∧ ctx0.handles ∧ ctx0.l.system = false ∧ regCtx.l.system = true ∧
    (small regCtx).die? 0 = some (Die.reset 0) ∧ Executes (small regCtx) regCtx { sc := 0, names := [5] } ∧
    Executes (small regCtx) regCtx { sc := 0, reads := [1] } ∧ v 1 % 2 ^ 12 = 0 ∧ v 2 % 2 ^ 12 ≠ 0 ∧ 56 ≤ v 3 ∧ v 4 < 56 ∧ regCtx.handles ∧
    (0x7F / 2 % 64 = 0x3F ∧ 0x7D / 2 % 64 ≠ 0x3F) ∧ regCtx.t.belowLimit [(5, 7)] = false ∧
    ((small regCtx).drain ⟨0, 0⟩).unposted ⟨0, 0⟩ = false ∧ (faultDie [] [⟨0, 0, some (.row 5 0)⟩] []).stalledAt? 0 = some (.row 5 0) ∧
    (Die.reset 0).stalledAt? 0 = none := by
  dsimp only
  and_intros <;> first | decide +kernel | exact executes_of rfl (by decide +kernel)

/-- g2:g3 name memory through a page, g4:g5 the granule 5, g6 a scope, g7 a tag that zeroes. -/
def adminCtx : Ctx := sysCtx [(2, 0), (3, 5), (4, 0x50000), (6, 0x80000000), (7, 0x103), (8, 0x10)]
def adminState : State := { small adminCtx with tlb := pages }
def record0 : FaultRecord := ⟨.xlate, some 0, 2, 0, 0, 0, 0, 0, 0, 0, 0, 0, 0, 0, Know.none⟩

theorem witness_MemoryAdministration :
    let inv : Form := { sc := 0, reads := Reg.pair 2 ++ [6] }
    let lay : Form := { sc := 0, reads := Reg.pair 4 ++ [7] }
    let pop : Form := { sc := 0, reads := Reg.pair 2, names := [9] }
    let u := (adminState.spent lay).drain ⟨0, 0⟩
    adminCtx.l.system = true ∧ Executes adminState adminCtx inv ∧ (adminCtx.reads adminState inv 2).toNat / 2 ^ 4 % 2 ^ 27 = 0 ∧
    (0x10 / 2 ^ 4 % 2 ^ 27 ≠ 0) ∧ adminState.inFlight (Invalidated.of 0x80000000 0x500000000) = false ∧
    (Executes adminState adminCtx lay ∧ eaOf adminCtx adminState lay % 65536 = 0 ∧ u.ownHbm 0x50000 = true ∧ 0x103 / 2 ^ 9 = 0 ∧
      0x103 / 2 ^ 4 % 2 ^ 4 = 0 ∧ 0x103 % 16 ≤ 4 ∧ adminState.regionHolds 5 = false ∧ u.granuleBusy 5 = false) ∧
    (Executes adminState adminCtx pop ∧ eaOf adminCtx adminState pop % 64 = 0 ∧
      adminState.check true adminCtx.w ⟨64, true, true, false⟩ 0x500000000 = .at (.phys 0x10000) false false ∧
      adminState.die? 0 = some (Die.reset 0) ∧ ({ Die.reset 0 with faultQ := [record0] } : Die).faultQ = record0 :: []) ∧
    adminCtx.t.belowLimit [(9, 0xFFFFFFFF)] = false ∧ adminCtx.handles := by
  dsimp only
  and_intros <;> first | decide +kernel | exact executes_of rfl (by decide +kernel)

/-- A service wave at core 56 and a user wave on core 0, place 0; g4 holds 0. -/
def serviceCtx : Ctx :=
  ⟨{ Thread.start bootNode 9 0 0 0 with regs := (Holding thread0 [(1, 0x80000), (4, 0), (5, 0x3800)]).regs }, Group.start 9 0,
    { firmwareWave bootImage 0 with uid := 9, launch := 9 }, { firmwareLaunch bootImage 0 with id := 9 }⟩
def serviceState : State :=
  { small serviceCtx with waves := [serviceCtx.w, wave0], launches := [serviceCtx.l, { launch0 with node := 0x40, maxInterval := 1 }],
                          threads := [serviceCtx.t, thread0], groups := [serviceCtx.g, group0], cur := ⟨9, 0⟩ }

theorem witness_NodeAdministration :
    let kill : Form := { sc := 0, reads := Reg.pair 4, names := [9] }
    let pre : Form := { sc := 0, reads := [4], names := [9] }
    let v (x : Nat) : Prop := x / 2 ^ 6 % 4 = 0 ∧ x / 2 ^ 14 % 4 = 0 ∧ x / 2 ^ 19 = 0
    let found := serviceState.waves.find? fun w => w.die == 0 && w.core == 0 && w.place == 0 && serviceState.preemptible w
    serviceCtx.l.system = true ∧ Executes serviceState serviceCtx kill ∧ Executes serviceState serviceCtx pre ∧
    (∀ d ∈ serviceState.dies, ∀ p ∈ d.launchPort, p.node ≠ 0) ∧ serviceCtx.t.belowLimit [(9, 1)] = false ∧
    v 0 ∧ ¬ v 0x80000 ∧ v (7 * 2 ^ 16 + 55 * 2 ^ 8 + 63) ∧ found = some wave0 ∧ wave0.request = none ∧
    serviceState.together wave0 = [wave0] ∧ serviceCtx.handles ∧
    (serviceState.launch? 0).map (·.maxInterval) = some 1 := by
  dsimp only
  and_intros <;> first | decide +kernel | exact executes_of rfl (by decide +kernel)

/-! ## Witnesses: launches, waves, pre-emption -/

/-- A work node's record at 0x500000000: entry 0x1000, one wave of one group of 8, one die, stacks of 512 bytes. -/
def nodeMem : Memory := [(0x10000, 8, 0x1000), (0x10010, 4, 1), (0x10014, 2, 1), (0x10016, 1, 3), (0x1001E, 1, 3), (0x1001F, 1, 0x11),
  (0x10044, 4, 512)].foldl (fun m f => Memory.setBytes m f.1 (leBytes f.2.1 f.2.2)) []
def pend0 : PendingLaunch := ⟨0x500000000, 1, 3, 0, 0xFFFF, none, Know.none⟩
def launchDie (ps : List PendingLaunch) : Die := { Die.reset 0 with launchPort := ps }
def admitting (mem : Memory) : State := { state0 with dies := [launchDie [pend0]], tlb := pages, mem := mem }

/-- What a node read from memory comes to. -/
def readNode (s : State) (p : PendingLaunch) : Option NodeRec :=
  match s.readPieces p.node.toNat 8 with
  | .ok bs => some (NodeRec.parse bs)
  | _ => none

def doneLaunch (k : Nat) : Launch := { launch0 with released := 1, nd := { node0 with steps := k } }

theorem witness_LaunchEvents :
    state0.die? 0 = some (Die.reset 0) ∧ (Die.reset 0).launchPort.length < 256 ∧ (List.replicate 256 pend0).length = 256 ∧
    state0.recording = false ∧ ((0x40 : DWord).toNat % 64 = 0 ∧ (0x3F : DWord).toNat % 64 ≠ 0) ∧
    (admitting nodeMem).die? 0 = some (launchDie [pend0]) ∧ (launchDie [pend0]).launchPort = pend0 :: [] ∧
    (readNode (admitting nodeMem) pend0).any (fun n => (firstInvalid n.checks).isNone && n.header == 0 && n.flags == 0 &&
      decide (n.dieMin ≤ (admitting nodeMem).diesInService.length) && (admitting nodeMem).grantable n 0 [0]) = true ∧
    (readNode (admitting []) pend0).any (fun n => firstInvalid n.checks == some 20) = true ∧
    (match ({ admitting nodeMem with tlb := [] } : State).readPieces 0x500000000 8 with
      | .fault _ _ => true
      | _ => false) = true ∧
    (match ({ admitting nodeMem with tlb := [⟨0x500000000, 0x10147⟩] } : State).readPieces 0x500000000 8 with
      | .wait _ => true
      | _ => false) = true ∧
    ((doneLaunch 2).placed = true ∧ (doneLaunch 2).released = (doneLaunch 2).nd.waves ∧ (doneLaunch 2).step + 1 < max 1 (doneLaunch 2).nd.steps ∧
      (doneLaunch 2).nd.dieMin ≤ state0.diesInService.length ∧ state0.grantable (doneLaunch 2).nd 0 [0] = true) ∧
    max 1 (doneLaunch 0).nd.steps ≤ (doneLaunch 0).step + 1 ∧
    ((Die.reset 0).inService = true ∧ (Die.reset 0).portsOpen = true ∧ bootImage.logRoom ≤ (List.replicate 65536 (0 : Nat)).length) ∧
    (firstInvalid (NodeRec.parse (List.replicate 128 0)).checks = some 20 ∧
      firstInvalid (NodeRec.parse (leBytes 20 0 ++ [1, 0, 7])).checks = some 22) ∧
    (launchDie [pend0]).posting = [] ∧ (launchDie [pend0]).faultQ.length < 4096 ∧
    ((admitting nodeMem).readHeader 0 = .ok ⟨0, []⟩ ∧ (match (admitting nodeMem).readHeader 0x500000000 with
      | .invalid _ => true
      | _ => false) = true) := by
  and_intros <;> decide +kernel

/-- A record in queue 3 of cluster 0, its launch with no wave placed; the place 0 of core 0. -/
def qrec0 : QRec := ⟨0, 0, [0], [], none⟩
def withQueue (c : Cluster) (k : Nat) (rs : List QRec) : Cluster := { c with queues := c.queues.set! k rs }
def clusterDie (f : Cluster → Cluster) : Die := { Die.reset 0 with clusters := (Die.reset 0).clusters.map f }
def queueDie (r : QRec) : Die := clusterDie fun c => if c.idx = 0 then withQueue c 3 [r] else c
def dispatching : State := { state0 with threads := [], groups := [], waves := [], dies := [queueDie qrec0] }
def place0 : Placement := ⟨0, 0, 0, [], []⟩
def coopLaunch : Launch := { launch0 with nd := { node0 with flags := 17 }, placed := false }

/-- Cluster 0 as the idle cluster 1 finds it, and cluster 13 with a record copied from cluster 0. -/
def stealDie (c : Option (Nat × Nat × QRec)) : Die :=
  clusterDie fun x => if x.idx = 0 then withQueue x 3 [qrec0] else if x.idx = 13 then { x with copied := c } else x
def stealing (c : Option (Nat × Nat × QRec)) : State := { dispatching with dies := [stealDie c] }

def gone : State := { state0 with threads := [{ thread0 with status := .exited }] }

/-- The group waits at XACQ and its core's queue holds its request. -/
def xacqCtx : Ctx := withT { thread0 with wait := .arrived ⟨.xacq ⟨0⟩, 0, 0⟩ }
def xacqCore : Core := { Core.reset 0 with xacq := [(0, 0)] }
def xacqState : State := { small xacqCtx with dies := [{ Die.reset 0 with cores := [xacqCore] }] }

theorem witness_WavesAndClusters :
    ((dispatching.cluster? ⟨0, 0⟩).any (fun c => c.head? == some (3, qrec0)) = true ∧ (dispatching.launch? 0).any (fun l => l == launch0) = true ∧
      launch0.live = true ∧ launch0.inOrder [0] = true ∧ dispatching.clusterOpen ⟨0, 0⟩ = true ∧
      dispatching.placementOk launch0 ⟨0, 0⟩ place0 = true ∧ dispatching.withinBudget launch0 [⟨0, 0⟩] = true) ∧
    (coopLaunch.nd.flags.testBit 0 = true ∧ coopLaunch.live = true ∧
      (dispatching.placeAll coopLaunch (coopLaunch.records.map fun r => (r.1, r.2.waves)) [(⟨0, 0⟩, place0)]).isSome = true ∧
      (dispatching.placeAll coopLaunch (coopLaunch.records.map fun r => (r.1, r.2.waves)) []).isNone = true) ∧
    ((dispatching.cluster? ⟨0, 0⟩).any (fun c => c.chosen.isNone && c.choose.chosen == some 3 &&
        (c.choose.setQueue 0 [qrec0]).head? == some (3, qrec0) && (c.setQueue 0 [qrec0]).head? == some (0, qrec0)) = true ∧
      (dispatching.cluster? ⟨0, 0⟩).any (fun c =>
        ({ withQueue c 0 [qrec0] with aging := c.aging.set 3 64 } : Cluster).selected == some 3) = true) ∧
    ((∀ t ∈ gone.threads, t.status = .exited ∧ t.stores = []) ∧ gone.hasOps 0 = false ∧ launch0.nd.flags % 2 = 0 ∧ wave0.peers = []) ∧
    ((stealing none).cluster? ⟨0, 13⟩).any (fun c => c.copied.isNone && c.queues.toList.all List.isEmpty &&
      (stealing none).nextVictim ⟨0, 13⟩ c == some 0) = true ∧
    ((stealing none).cluster? ⟨0, 0⟩).any (fun y => y.head? == some (3, qrec0) && y.grantedAt != some (stealing none).now) = true ∧
    (stealing none).clusterOpen ⟨0, 13⟩ = true ∧ (stealing none).outranked ⟨0, 13⟩ 0 = false ∧
    ((stealing (some (0, 3, qrec0))).cluster? ⟨0, 13⟩).any (fun c => c.copied == some (0, 3, qrec0)) = true ∧
    (xacqState.core? ⟨0, 0⟩ = some xacqCore ∧ xacqState.poolUsed ⟨0, 0⟩ + 128 * wave0.width ≤ 131072 ∧
      xacqState.liveOfGroup wave0 0 = [xacqCtx.t] ∧ xacqState.ctx ⟨0, 0⟩ = some xacqCtx) := by
  and_intros <;> decide +kernel

/-- A wave asked to leave, its thread parked in its save routine's end; the wave when it is away; a thread to be stopped, its
hard-save area writable. -/
def leaving : Ctx :=
  ⟨{ thread0 with status := .parked, mode := .saving 63 }, group0, { wave0 with request := some 0 }, { launchSafe with prio := 3 }⟩
def awayRec : QRec := ⟨0, 0, [0], [0], none⟩
def away : State :=
  { small { leaving with w := { wave0 with status := .preempted } } with dies := [queueDie awayRec] }
def stopping : State :=
  { small { asked with l := { launchSafe with nd := { node0 with stackBase := 0x500000000 } } } with tlb := pages }

theorem witness_PreemptionEvents :
    state0.wave? 0 = some wave0 ∧ launch0.live = true ∧ wave0.status = .resident ∧ wave0.request = none ∧ asked.w.request ≠ none ∧
    (small asked).together asked.w = [asked.w] ∧ launchSafe.maxInterval ≠ 0 ∧ asked.w.request = some 0 ∧
    (small asked).clockOf 0 < 0 + 65536 ∧ 0 + 65536 ≤ ({ small asked with dies := [{ Die.reset 0 with clk := 65536 }] } : State).clockOf 0 ∧
    (asked.t.sinceRequest < launchSafe.maxInterval ∧ launchSafe.maxInterval ≤ ({ thread0 with sinceRequest := 100 } : Thread).sinceRequest) ∧
    ((small leaving).hasOps 0 = false ∧ (∀ u ∈ (small leaving).threads, u.status = .parked ∧ u.loads = []) ∧
      ((small leaving).cluster? ⟨0, 0⟩).isSome = true ∧ ((small leaving).threads.map (·.id)).Nodup) ∧
    ((away.cluster? ⟨0, 0⟩).any (fun k => k.head? == some (3, awayRec)) = true ∧ away.clusterOpen ⟨0, 0⟩ = true ∧
      away.restoreFits launchSafe { wave0 with status := .preempted } 0 5 = true ∧ away.withinBudget launchSafe [⟨0, 0⟩] = true ∧
      (∀ u ∈ away.threads, (away.group? 0 (u.id.idx / 8)).isSome = true)) ∧
    (stopping.ctx ⟨0, 0⟩).any (fun c => c.t.status == .running && c.t.loads.isEmpty && match stopping.hardSave c c.t.settle c.t.pc with
      | .ok _ => true
      | _ => false) = true := by
  and_intros <;> decide +kernel

/-! ## Witnesses: faults, the host, the units, migration, stepping -/

/-- A row of an operation stalls, its record posted or in its slot with the token 0x0000; a record of nobody; a load's record. A
token written to %fres that names a stalled chunk, a stalled row, nothing; a row to be done again. -/
def rowPost : Post := ⟨record0, .row 5 0⟩
def stalledBmv (token : Option Nat) : BmvOp := { bmv0 with stalled := [(0, token)] }
def faultState (d : Die) (token : Option Nat) : State := { state0 with dies := [d], bmvs := [stalledBmv token] }

theorem witness_FaultRecords :
    (faultDie [rowPost] [] []).posting = rowPost :: [] ∧ (Die.reset 0).faultQ.length < 4096 ∧ record0.cause ≠ .engine ∧
    (faultState (faultDie [rowPost] [] []) none).bmvs.find? (fun y => y.id == 5) = some (stalledBmv none) ∧
    (0, none) ∈ (stalledBmv none).stalled ∧ (∀ y ∈ (faultDie [rowPost] [] []).stallSlots, y.idx = 0 → y.what = none) ∧
    (faultDie [⟨record0, .store ⟨0, 0⟩⟩] [] []).posting.head?.map (·.poster) = some (.store ⟨0, 0⟩) ∧
    4096 ≤ (List.replicate 4096 record0).length ∧ (faultDie [] [] [(.row 5 0, true)]).verdicts = (.row 5 0, true) :: [] ∧
    (0, some 7) ∈ (stalledBmv (some 7)).stalled ∧
    ({ state0 with copies := [{ copy0 with id := 5, stalled := [(⟨0, 2⟩, some 7)] }] } : State).copies.find? (fun y => y.id == 5) =
      some { copy0 with id := 5, stalled := [(⟨0, 2⟩, some 7)] } ∧
    (faultDie [] [] [(.row 5 0, false)]).verdicts = (.row 5 0, false) :: [] ∧ bmv0.core.die = 0 ∧
    (faultDie [] [] [(.chunk 5 ⟨0, 2⟩, true)]).verdicts = (.chunk 5 ⟨0, 2⟩, true) :: [] ∧
    (faultDie [] [⟨0, 0, some (.chunk 5 ⟨0, 2⟩)⟩] []).stalledAt? 0 = some (.chunk 5 ⟨0, 2⟩) ∧
    (faultDie [] [⟨0, 0, some (.chunk 5 ⟨0, 2⟩)⟩] []).stalledAt? 1 = none := by
  and_intros
  case refine_2.refine_2.refine_2.refine_2.refine_2.refine_2.refine_2.refine_1 => rw [List.length_replicate]
  all_goals decide +kernel

/-- A chunk and a load that wait to be recorded; a chunk and a row with cause ENGINE. -/
theorem witness_RecordsOfChunks :
    let engine : FaultRecord := { record0 with cause := .engine }
    let x : CopyOp := { copy0 with id := 5, stalled := [(⟨0, 2⟩, none)] }
    (faultDie [⟨record0, .chunk 5 ⟨0, 2⟩⟩] [] []).posting = ⟨record0, .chunk 5 ⟨0, 2⟩⟩ :: [] ∧
    ({ state0 with copies := [x] } : State).copies.find? (fun y => y.id == 5) = some x ∧ (⟨0, 2⟩, none) ∈ x.stalled ∧
    (faultDie [⟨engine, .row 5 0⟩, ⟨engine, .chunk 5 ⟨0, 2⟩⟩] [] []).posting.map (·.record.cause) = [.engine, .engine] ∧
    (faultDie [⟨record0, .load ⟨0, 0⟩ 3⟩] [] []).posting = ⟨record0, .load ⟨0, 0⟩ 3⟩ :: [] ∧ (state0.thread? ⟨0, 0⟩).isSome = true := by
  dsimp only
  and_intros <;> decide +kernel

/-- A doorbell store of 16 bytes to an unallocated index, to a count port in range and beyond it either way, to index 0 with room, full,
well formed or not; while the machine records, with room in the log and without. -/
theorem witness_DoorbellStores :
    let d := portDie0
    let word (data : List Byte) (i : Nat) : Word := BitVec.ofNat 32 (leNat ((data.drop (4 * i)).take 4))
    let data (a : Nat) := leBytes 4 a ++ leBytes 12 0
    let node (a : Nat) := Word.pair (word (data a) 0) (word (data a) 1)
    (data 7).length = 16 ∧ (0x90 % 2 ^ 20 / 16 = 9 ∧ ∀ p ∈ d.ports, p.idx ≠ 9) ∧
    d.ports.find? (fun p => p.idx == 4) = some ⟨4, .count 5 1 Know.none⟩ ∧ (∀ p ∈ d.ports, p.idx ≠ 0) ∧
    (5 + (word (data 0x7FFFFFFA) 0).toInt < 2 ^ 31 ∧ 2 ^ 31 ≤ 5 + (word (data 0x7FFFFFFB) 0).toInt) ∧
    (-(2 ^ 31) ≤ 5 + (word (data 0x80000000) 0).toInt ∧ -5 + (word (data 0x80000000) 0).toInt < -(2 ^ 31)) ∧
    0x10000F % 2 ^ 20 / 16 = 0 ∧ d.launchPort.length < 256 ∧ 256 ≤ (List.replicate 256 pend0).length ∧
    (word (data 0x40) 2 = 0 ∧ word (data 0x40) 3 = 0 ∧ (node 0x40).toNat % 64 = 0) ∧ (node 0x41).toNat % 64 ≠ 0 ∧
    d.log.length + 1 < bootImage.logRoom ∧ ¬ (0x51 % 16 = 0) ∧ d.portsOpen = true := by
  dsimp only
  and_intros <;> decide +kernel

/-- A core's thread of module 1, which has read, and knows, the event 5; a release of domain scope there. -/
def far0 : OutsideId := ⟨1, 2, 3, true, 0⟩
def farRelease : Released := ⟨.domain, far0.place, 0, ⟨[5], []⟩⟩
def farModules : State :=
  { state0 with peers := [⟨1, 0, true, false⟩]
                outsiders := [⟨far0, ⟨⟨[5], []⟩, [], []⟩, [], [⟨.domain, ⟨0, 0⟩, 0, ⟨[9], []⟩⟩]⟩] }
def hearing (r : Released) : Ctx := withT { thread0 with heard := [r] }

theorem witness_OutsideAgents :
    let o := farModules.outsider far0
    farModules.packets = [] ∧ far0.module ≠ farModules.moduleNo ∧ ctx0.w.die < 8 ∧
    (o.sight.know ≠ Know.none ∧ 5 ∈ o.sight.know.seen ∧ ⟨.domain, ⟨0, 0⟩, 0, ⟨[9], []⟩⟩ ∈ o.heard) ∧
    (farRelease.core = far0.place ∧ (hearing farRelease).t.heard = [farRelease] ∧ (hearing farRelease).t.sight.know.seen = [] ∧
      farRelease.scope = .domain) ∧
    (((hearing farRelease).t.acquire ⟨0, 0⟩ .domain).sight.know.seen = [5] ∧
      ((hearing farRelease).t.acquire ⟨0, 0⟩ .module).sight.know.seen = []) := by
  dsimp only
  and_intros <;> decide +kernel

/-- The agent of module 1 has written a byte here through the layout view and AFENCEs; a thread here that has met its AFENCE, and AFENCEs
in turn, does not pass the write by through the raw view; before, it may (R179, R344). -/
def layoutWrite : PastWrite := ⟨5, .phys 0x10000, 0, true, .outside far0, far0.place, false, false, [], ⟨far0.place, 0, none, []⟩⟩
def farViews : State :=
  { farModules with relaxed := true, history := [layoutWrite], stamp := 8, sched := [.outside (.afence far0)],
                    fenced := [⟨4, .views, ⟨[3], []⟩⟩] }

theorem witness_ViewsAcrossModules :
    farViews.packets = [] ∧ farViews.sched = .outside (.afence far0) :: [] ∧ layoutWrite ∈ farViews.history ∧
    layoutWrite.writer = .outside far0 ∧ layoutWrite.view ≠ false ∧
    (∃ f ∈ farViews.fenced, f.kind = .views ∧ f.event ∈ ((farViews.outsider far0).learn (Know.ofSeen [4])).sight.know.seen) ∧
    (let v := farViews.viewer ⟨0, 0⟩
     v.sees false false layoutWrite = false ∧
     (match step farViews with
      | .next s => (((s.learn ⟨0, 0⟩ (Know.ofSeen [8])).joinViews ⟨0, 0⟩).viewer ⟨0, 0⟩).sees false false layoutWrite
      | _ => false) = true) := by
  dsimp only
  and_intros <;> decide +kernel

theorem witness_HostAndFabric :
    let d := portDie0
    let s : State := { state0 with dies := [d] }
    s.recording = false ∧ s.memOk ∧ s.late = false ∧ ({ s with recording := true } : State).recording = true ∧ s.packets = [] ∧
    ((2 ^ 45 / 2 ^ 46 == s.moduleNo && hostRange (2 ^ 45 % 2 ^ 46)) = true ∧ (2 ^ 46 / 2 ^ 46 == s.moduleNo && hostRange (2 ^ 46 % 2 ^ 46)) = false) ∧
    (far0.module ≠ s.moduleNo ∧ ∃ p ∈ farModules.peers, p.number = far0.module ∧ p.gateway = false) ∧
    ({ s with sched := [.outside (.write far0 true (2 ^ 46) [7])] } : State).sched = .outside (.write far0 true (2 ^ 46) [7]) :: [] ∧
    (∀ i < 1, 1 ≤ ({ s with tags := [(2 ^ 30, 1)] } : State).tagOf (2 ^ 46 + i) ∧ ({ s with tags := [(2 ^ 30, 1)] } : State).tagOf (2 ^ 46 + i) ≤ 3) ∧ (s.die? (0x50 / 2 ^ 20)).isSome = true ∧ d.inService = true ∧ d.portsOpen = true ∧ 0x50 % 16 = 0 ∧ 0x51 % 16 ≠ 0 ∧
    0x50 % 2 ^ 20 / 16 = 5 ∧ d.ports.find? (fun p => p.idx == 5) = some ⟨5, .queue 2 []⟩ ∧ (∀ g ∈ d.portGens, g.2 < 4096) ∧
    d.ports.find? (fun p => p.idx == 2) = some ⟨2, .queue 1 [msg0]⟩ ∧ s.ownHbm (s.moduleNo * 2 ^ 46 + 0xFFFFFFFFFF) = true ∧
    s.ownHbm (s.moduleNo * 2 ^ 46 + 0x10000000000) = false ∧ s.tagOf 0x1000 ≠ 4 ∧ s.poisoned (.phys 0x1000) 8 = false := by
  dsimp only [State.memOk, Wave.memOk]
  and_intros <;> decide +kernel

/-- A replay that has one host write to deliver. -/
def redelivery0 : Redelivery := ⟨[], none, .hostMemAccess (.write 8 [7])⟩
def replaying : State := { state0 with replay := [redelivery0], sched := [.deliver] }

theorem witness_UnitEvents :
    (({ state0 with image := some ([], [], []) } : State).image = some ([], [], []) ∧ state0.image = none) ∧
    (state0.cluster? ⟨0, 13⟩).any (fun k => k.copied.isNone) = true ∧ (∀ w ∈ state0.waves, w.clusterId = ⟨0, 13⟩ → w.status = .preempted) ∧
    (replaying.packets = [] ∧ replaying.sched = [.deliver] ∧ replaying.deliverable redelivery0 = true ∧
      replaying.deliverable { redelivery0 with after := [(0, 1)] } = false ∧
      (match exec redelivery0.instr replaying with
        | .next _ => true
        | _ => false) = true ∧ (LogEntry.hostWrite 8 [7]).fromHost = true ∧
      ∀ d ∈ state0.dies, d.inService = true → d.drained ++ ([.hostWrite 8 [7]] : List LogEntry) = [.hostWrite 8 [7]]) ∧
    (∃ w ∈ state0.waves, w.clusterId = ⟨0, 0⟩ ∧ w.status ≠ .preempted) ∧ state0.coreInService ⟨0, 55⟩ = true ∧
    (∀ w ∈ state0.waves, w.coreId = ⟨0, 55⟩ → w.status = .preempted) ∧ state0.ownHbm 0x1000 = true ∧ 255 < waveSpad.spadBytes ∧ HwUnit.stack 3 ∉ state0.outAtReset ∧
    HwUnit.stack 3 ∈ ({ state0 with outAtReset := [.stack 3] } : State).outAtReset ∧
    ((fitState region0).region? 1 = some region0 ∧ region0.entries[0]? = some (1, 0x3C00)) := by
  and_intros <;> decide +kernel

/-- A page of 64 KiB at 0x10000, 16 leaves of it under tables at 0x100000; the same page in the tier. -/
def tableMem (leaf : Nat) : Memory :=
  blockMem ([(0x100000, 8, 0x101001), (0x101000, 8, 0x102001), (0x102000, 8, 0x103001), (0x103000, 8, 0x104001)] ++
    (List.range 16).map fun i => (0x104080 + 8 * i, 8, leaf))
def mapped (leaf : Nat) (tier : List TierPage) : State := { state0 with mem := tableMem leaf, ptroot := 0x100000, tier := tier }
def tierPage : TierPage := ⟨7, 65536, 0, [0], [⟨5, 9⟩], [3]⟩

theorem witness_Migration :
    (mapped 0x2000000000200007 []).leafPath 0x10000 4 0x100000 = some (0, 0x104080, 0x2000000000200007) ∧
    (mapped 0x2000000000200007 []).demotable (Leaf.ofEntry 0x2000000000200007) 0x10000 = true ∧
    (mapped 0x2000000000200017 []).demotable (Leaf.ofEntry 0x2000000000200017) 0x10000 = false ∧
    (mapped 0x2000000000007147 [tierPage]).leafPath 0x10000 4 0x100000 = some (0, 0x104080, 0x2000000000007147) ∧
    (Leaf.ofEntry 0x2000000000007147).layout = 5 ∧ (Leaf.ofEntry 0x2000000000007147).frame / 4096 = 7 ∧
    (mapped 0x2000000000007147 [tierPage]).frameFits (Leaf.ofEntry 0x2000000000007147) tierPage 0x200000 = true ∧
    (mapped 0x2000000000007147 [tierPage]).frameFits (Leaf.ofEntry 0x2000000000007147) tierPage 0x200001 = false ∧
    tierPage.layout < 16 ∧ (∀ c ∈ tierPage.mem, c.1 < 65536) ∧ (∀ i ∈ tierPage.poison, i < 65536 / 64) ∧
    (∀ i < 16, (mapped 0x2000000000007147 [tierPage]).tagOf (0x104080 + 8 * i) ≠ 4) ∧ (tableMem 0x2000000000007147).wf = true ∧
    0x104080 + 8 * 16 ≤ 0x200000 := by
  and_intros <;> decide +kernel

/-- A thread about to fetch a 16-bit MOV, then a 32-bit ADD, in its code window; beyond it no translation; an event. -/
def codeMem : Memory := Memory.setBytes [] 0x10000 [0x40, 0x08, 0x01, 0x40, 0x10, 0x08]
def fetching (pc : Word) : State :=
  { small { withL { launch0 with nd := { node0 with entry := 0x500000000 } } with t := { thread0 with pc := pc } } with
    tlb := [⟨0x500000000, 0x1000F⟩], mem := codeMem, packets := [⟨1, [⟨0, 0⟩], false, none⟩] }

/-- Two members of a packet at a CPY, the first waiting there for room, the second to come; and with the first gone on. -/
def behind (w : Wait) : State :=
  let l := { launch0 with nd := { node0 with entry := 0x500000000 } }
  let t (i : Nat) (w : Wait) : Thread := { thread0 with id := ⟨0, i⟩, pc := 8, wait := w }
  { small (withL l) with
    threads := [t 0 w, t 1 .none], tlb := [⟨0x500000000, 0x1000F⟩], mem := codeMem.setBytes 0x10008 [0x6D, 0x80, 0x10, 0x00]
    packets := [⟨1, [⟨0, 1⟩], true, some ⟨0, 0⟩⟩] }

theorem witness_PacketHeldBack :
    (behind (.copy copy0 0)).heldBack ⟨1, [⟨0, 1⟩], true, some ⟨0, 0⟩⟩ ⟨0, 1⟩ = true ∧
    (behind .none).heldBack ⟨1, [⟨0, 1⟩], true, some ⟨0, 0⟩⟩ ⟨0, 1⟩ = false ∧
    (behind .poll).packets = ⟨1, ⟨0, 1⟩ :: [], true, some ⟨0, 0⟩⟩ :: [] ∧
    ((behind .poll).thread? ⟨0, 1⟩).any (fun t => (behind .poll).onCore t) = true := by
  and_intros <;> decide +kernel

theorem witness_StepRunsDecoded :
    (fetching 0).packets = ⟨1, [⟨0, 0⟩], false, none⟩ :: [] ∧
    ((fetching 2).ctx ⟨0, 0⟩).any (fun c => (fetching 2).onCore c.t && c.t.fresh && c.t.stores.isEmpty && !c.t.completing &&
      (match (fetching 2).fetchPlace c (c.codeAddress 2), (fetching 2).fetchPlace c (c.codeAddress 4),
          (fetching 2).fetchPlace c (c.codeAddress 0x1000) with
        | .ok a, .ok b, .trap _ _ => a == (0x10002, false) && b == (0x10004, false)
        | _, _, _ => false) && !(fetching 2).late) = true ∧
    leNat ((fetching 0).readLoc (.phys 0x10000) 2) % 2 = 0 ∧ leNat ((fetching 0).readLoc (.phys 0x10002) 2) % 2 = 1 ∧
    (decode [0x40, 0x08]).toOption.isSome = true ∧ (decode [0x01, 0x40, 0x10, 0x08]).toOption.isSome = true ∧
    (decode [0x01, 0x18, 0x10, 0x08]).toOption.isNone = true ∧
    (({ state0 with sched := [.event .moduleReset] } : State).packets = [] ∧ Instr.isEvent .moduleReset = true) := by
  and_intros <;> decide +kernel

theorem witness_EncodeDecodeRoundTrip :
    (Instr.add ⟨63, 62, 61, true, .p1, 3⟩).wf = true ∧ encode (.add ⟨63, 62, 61, true, .p1, 3⟩) = some (.word 0xFFEF_6781) ∧
    decode [0x81, 0x67, 0xEF, 0xFF, 0] = .ok (.add ⟨63, 62, 61, true, .p1, 3⟩, 4) :=
  ⟨by decide +kernel, by decide +kernel, by decide +kernel⟩

/-- A core about to choose its packets; a packet served whose two lanes named different words of one bank. -/
def issuing : State := { small memCtx with sched := [.issue ⟨0, 0⟩] }
def served : State :=
  { state0 with packets := [⟨1, [], true, none⟩], passes := [⟨⟨0, 0⟩, [3], false⟩, ⟨⟨0, 0⟩, [67], false⟩] }

/-- A halfword written under number 3 that not all see yet, its low byte written again under number 4. -/
def pastWrite (event pa : Nat) : PastWrite :=
  ⟨event, .phys pa, 0, false, .thread ⟨1, 0⟩, ⟨0, 1⟩, false, false, [], ⟨⟨0, 1⟩, 1, none, []⟩⟩
def spreading : State := { memState with history := [pastWrite 4 0x10000, pastWrite 3 0x10000, pastWrite 3 0x10001] }

/-- Another core's thread, which sees neither, writes the halfword under number 9: its bytes take one place, below both or above them. -/
theorem test_halfword_is_whole :
    let v : Viewer := ⟨.thread ⟨0, 0⟩, ⟨0, 0⟩, ⟨⟨[4], []⟩, [], []⟩⟩
    let t := spreading.writeAs v (Writing.plain false) (fun _ => 9) (.phys 0x10000) [0x33, 0x33]
    ((t.pastAt (.phys 0x10000)).map (·.event), (t.pastAt (.phys 0x10001)).map (·.event), t.mem.bytes 0x10000 2) =
      ([9, 4, 3], [9, 3], [0x33, 0x33]) := by decide +kernel

theorem witness_PacketsPassesAndOrder :
    let t : Thread := { thread0 with sight := ⟨⟨[4, 9], [4]⟩, [], []⟩ }
    let c := (t.release ⟨0, 0⟩ .core).carries ⟨0, 0⟩ false
    let m : Met := ⟨[], [], [c]⟩
    issuing.packets = [] ∧ (issuing.core? ⟨0, 0⟩).map (·.issuedAt) = some none ∧ (issuing.threads.map (·.id)).Nodup ∧
    issuing.canIssue memCtx.t = true ∧ issuing.coreOf ⟨0, 0⟩ = ⟨0, 0⟩ ∧ (served.core? ⟨0, 0⟩).isSome = true ∧
    (served.passes.map (·.words)) = [[3], [67]] ∧ 3 % 64 = 67 % 64 ∧ memState.tagOf 0x10000 ≠ 4 ∧
    scopeHolds .core ⟨0, 0⟩ ⟨0, 0⟩ = true ∧ c ∈ m.carried ∧ 4 ∈ t.sight.know.seen ∧
    (({ state0 with threads := [t], fenced := [⟨9, .completion, ⟨[7], [7]⟩⟩] } : State).thread? ⟨0, 0⟩ = some t ∧ 4 ∈ t.sight.know.written ∧
      9 ∈ t.sight.know.seen) ∧
    (∀ e ∈ spreading.history, e.event ≠ 9) ∧ 3 ∈ (spreading.pastAt (.phys 0x10000)).map (·.event) ∧
    3 ∈ (spreading.pastAt (.phys 0x10001)).map (·.event) ∧ 4 ∉ (spreading.pastAt (.phys 0x10001)).map (·.event) := by
  dsimp only
  and_intros <;> decide +kernel

theorem witness_StepKeepsMemoriesCanonical :
    (memState.mem.wf = true ∧ (∀ w ∈ memState.waves, w.spad.wf = true ∧ w.slotMem.wf = true ∧ w.tileMem.wf = true) ∧
      memState.tier = [] ∧ memState.image = none) ∧
    (match step { state0 with sched := [.event (.flitRetry 0)] } with
      | .next _ => true
      | _ => false) = true :=
  ⟨⟨by decide +kernel, by decide +kernel, rfl, rfl⟩, by decide +kernel⟩

theorem witness_UserModeLeavesPrivilegedState :
    Instr.isEvent (.nop ⟨.always, 0⟩) = false ∧ state0.ctx state0.cur = some ctx0 ∧ ctx0.l.system = false ∧
    (match exec (.nop ⟨.always, 0⟩) state0 with
      | .next _ => true
      | _ => false) = true :=
  ⟨rfl, rfl, rfl, by decide +kernel⟩

/-! ## Ill-formed terms are refused (R55, R56, R70, R73 to R75, R339) -/

theorem test_wf_pairs : Instr.wf (.add64 ⟨1, 2, 4, false, .always, 0⟩) = false ∧ Instr.wf (.sub64 ⟨2, 3, 4, false, .always, 0⟩) = false ∧
    Instr.wf (.mov64 ⟨2, 5, false, .always, 0⟩) = false ∧ Instr.wf (.fcmpD ⟨1, 2, .eq, false, .always, 0⟩) = false ∧
    Instr.wf (.dadd ⟨2, 4, 7, false, false, .always, 0⟩) = false ∧ Instr.wf (.dfma ⟨2, 4, 7, false, false, .always, 0⟩) = false ∧
    Instr.wf (.dsqrt ⟨1, 2, false, false, .always, 0⟩) = false ∧ Instr.wf (.dclass ⟨1, 2, false, false, .always, 0⟩) = false ∧
    Instr.wf (.ballot ⟨2, 3, 0⟩) = false ∧ Instr.wf (.gsync ⟨3, 0⟩) = false ∧ Instr.wf (.spawn ⟨3, .always, 0⟩) = false ∧
    Instr.wf (.fitx ⟨3, 2, .always, 0⟩) = false ∧ Instr.wf (.fitmake ⟨2, 3, .always, 0⟩) = false ∧
    Instr.wf (.tlbinv ⟨3, 2, .always, 0⟩) = false ∧ Instr.wf (.claimR ⟨3, .always, 0⟩) = false ∧
    Instr.wf (.stn ⟨3, 2, .always, 0⟩) = false ∧ Instr.wf (.pref ⟨3, 0, .always, 0⟩) = false := by decide +kernel

theorem test_wf_groups_and_codes : Instr.wf (.send ⟨1, 6, .always, 0⟩) = false ∧ Instr.wf (.recv ⟨1, 7, .always, 0⟩) = false ∧
    Instr.wf (.cvt ⟨.e4x4, 6, 1, false, false, .always, 0⟩) = false ∧ Instr.wf (.cvt ⟨.f64f32, 1, 3, false, false, .always, 0⟩) = false ∧
    Instr.wf (.ld ⟨0, 3, 4, .w, 0⟩) = false ∧ Instr.wf (.ld ⟨0, 2, 6, .q, 0⟩) = false ∧ Instr.wf (.st ⟨0, 2, 4, .sb, 0⟩) = false ∧
    Instr.wf (.ldnf ⟨0, 2, 4, .sh, 0⟩) = false ∧ Instr.wf (.atom ⟨2, 2, 4, true, .bfadd2, 0⟩) = false ∧
    Instr.wf (.atom ⟨1, 2, 4, true, .add, 0⟩) = false ∧ Instr.wf (.red ⟨2, 2, false, .cas, 0⟩) = false ∧
    Instr.wf (.red ⟨1, 2, true, .add, 0⟩) = false ∧ Instr.wf (.mma ⟨.set, 1, 2, 0, .i8, 0⟩) = false ∧
    Instr.wf (.mma ⟨.set, 1, 3, 0, .bfgq4, 0⟩) = false ∧ Instr.wf (.mma ⟨.set, 1, 0, 1, .f32, 0⟩) = false ∧
    Instr.wf (.swr ⟨.tid, 1, .always, 0⟩) = false ∧ Instr.wf (.swrp ⟨.fqcount, 1, .always, 0⟩) = false := by decide +kernel

/-! ## Words written out from the encoding tables (R50 to R54, R70 to R76) decode to their instructions -/

def word (w : Nat) : Except DecodeError (Instr × Nat) := decode (leBytes 4 w)

theorem test_decode_short : decode [0x44, 0x10] = .ok (.add16 ⟨2, 1, 0⟩, 2) := by decide +kernel

theorem test_decode_integer : word 0xFF821021 = .ok (.addi ⟨0x1FF, 1, 2, .always, 0⟩, 4) ∧
    word 0x8000062D = .ok (.lil ⟨0x10000, 3, 0⟩, 4) ∧ word 0x08114031 = .ok (.cmp ⟨2, 1, .ge, .always, 0⟩, 4) ∧
    word 0x20010037 = .ok (.psave ⟨4, false, .always, 0⟩, 4) := by decide +kernel

theorem test_decode_control : word 0xFFFFF839 = .ok (.br ⟨0x1FFFFF, .always, 0⟩, 4) ∧ word 0x0000003F = .ok (.nop ⟨.always, 0⟩, 4) ∧
    word 0x1050003F = .ok (.trap ⟨5, .always, 0⟩, 4) ∧ word 0x1CA0C03F = .ok (.srd ⟨.clk, 3, false, .always, 0⟩, 4) := by decide +kernel

theorem test_decode_float : word 0x18408055 = .ok (.dfma ⟨6, 4, 2, false, false, .always, 0⟩, 4) ∧
    word 0x5042004F = .ok (.cvt ⟨.e4x4, 4, 8, false, false, .always, 0⟩, 4) := by decide +kernel

theorem test_decode_memory : word 0x03088861 = .ok (.ld ⟨3, 2, 8, .w, 0⟩, 4) ∧ word 0xFF108A61 = .ok (.ld ⟨0xFF, 4, 8, .d, 0⟩, 4) ∧
    word 0x02087863 = .ok (.st ⟨2, 2, 7, .w, 0⟩, 4) ∧ word 0x00088865 = .ok (.ldnf ⟨0, 2, 8, .w, 0⟩, 4) ∧
    word 0x1C418067 = .ok (.atom ⟨7, 4, 6, false, .add, 0⟩, 4) ∧ word 0x1C401469 = .ok (.red ⟨7, 4, false, .fadd, 0⟩, 4) ∧
    word 0x0030C06B = .ok (.fence ⟨.module, .full, .always, 0⟩, 4) ∧ word 0x0400006B = .ok (.afence ⟨.always, 0⟩, 4) ∧
    word 0x0800C06B = .ok (.bfence ⟨.both, .always, 0⟩, 4) ∧ word 0x0C20006B = .ok (.waitc ⟨.bank, 0, .always, 0⟩, 4) ∧
    word 0x1041C06B = .ok (.stn ⟨4, 7, .always, 0⟩, 4) ∧ word 0x1442006B = .ok (.ldn ⟨4, 8, .always, 0⟩, 4) ∧
    word 0x1840406B = .ok (.pref ⟨4, 1, .always, 0⟩, 4) := by decide +kernel

theorem test_decode_engines : word 0x0010806D = .ok (.cpy ⟨1, 2, .always, 0⟩, 4) ∧ word 0x0010806F = .ok (.rclaim ⟨1, 2, .always, 0⟩, 4) ∧
    word 0x20847071 = .ok (.mma ⟨.acc, 1, 2, 3, .bfgq4, 0⟩, 4) ∧ word 0x00014073 = .ok (.sclaim ⟨5, .always, 0⟩, 4) ∧
    word 0x08100075 = .ok (.bmvBf16 ⟨1, .always, 0⟩, 4) ∧ word 0x08110077 = .ok (.send ⟨1, 4, .always, 0⟩, 4) ∧
    word 0x04200079 = .ok (.claimW ⟨2, .always, 0⟩, 4) := by decide +kernel

theorem test_decode_lanes_and_regions : word 0x2041407B = .ok (.rfadd ⟨4, 5, 0⟩, 4) ∧ word 0x3001807B = .ok (.elect ⟨6, 0⟩, 4) ∧
    word 0x0041807D = .ok (.fitx ⟨4, 6, .always, 0⟩, 4) ∧ word 0x0441C07D = .ok (.fitgen ⟨4, 7, .always, 0⟩, 4) ∧
    word 0x0840C07D = .ok (.refit ⟨4, 3, .always, 0⟩, 4) ∧ word 0x0C41C07D = .ok (.fitstat ⟨4, 7, .always, 0⟩, 4) := by decide +kernel

theorem test_decode_system : word 0x0041807F = .ok (.fitmake ⟨4, 6, .always, 0⟩, 4) ∧ word 0x0440007F = .ok (.fitdrop ⟨4, .always, 0⟩, 4) ∧
    word 0x0841807F = .ok (.tlbinv ⟨4, 6, .always, 0⟩, 4) ∧ word 0x0C40807F = .ok (.fqpop ⟨4, 2, .always, 0⟩, 4) ∧
    word 0x1041807F = .ok (.layout ⟨4, 6, .always, 0⟩, 4) ∧ word 0x1440807F = .ok (.nodekill ⟨4, 2, .always, 0⟩, 4) ∧
    word 0x1860807F = .ok (.preempt ⟨6, 2, .always, 0⟩, 4) ∧ word 0x1C20807F = .ok (.srdp ⟨.fqcount, 2, .always, 0⟩, 4) ∧
    word 0x2030C07F = .ok (.swrp ⟨.fres, 3, .always, 0⟩, 4) := by decide +kernel

/-- One word for each reason of R76. -/
theorem test_decode_rejects : decode [] = .error .truncated ∧ decode [0x01, 0] = .error .truncated ∧
    word 0xFC00001F = .error .reservedMinor ∧ word 0xFC00004F = .error .reservedCode ∧ word 0x0010003F = .error .fieldNotZero ∧
    word 0x0000203F = .error .transientNotAllowed ∧ word 0x0000103F = .error .quietNotAllowed ∧
    word 0x0000083F = .error .qualifierNotAllowed ∧ word 0x3400023F = .error .guardNotAllowed ∧ word 0x0400001B = .error .oddPair ∧
    word 0x08004077 = .error .misalignedGroup ∧ word 0x1FF0003F = .error .badIndex ∧
    word 0x00000263 = .error .illegalCombination := by decide +kernel

theorem test_decodeTableWord : decodeTableWord 16 0x1044 = some (.add16 ⟨2, 1, 0⟩) ∧
    decodeTableWord 32 0x2030C07F = some (.swrp ⟨.fres, 3, .always, 0⟩) := by decide +kernel

/-! ## Single steps -/

/-- The thread after an instruction of a thread with given registers. -/
def after (i : Instr) (ws : List (Reg × Word)) : Option Thread :=
  match exec i (small (withT (Holding thread0 ws))) with
  | .next t => t.thread? ⟨0, 0⟩
  | _ => none

/-- The value that a register has received. -/
def result (i : Instr) (ws : List (Reg × Word)) (d : Reg) : Option Word := (after i ws).map (·.latest d)

theorem test_add_wraps : result (.add ⟨1, 2, 3, false, .always, 0⟩) [(1, 1), (2, 0xFFFFFFFF)] 3 = some 0 := by decide +kernel
theorem test_mulh_signs : result (.mulh ⟨1, 2, 3, false, .always, 0⟩) [(1, 0xFFFFFFFF), (2, 0xFFFFFFFF)] 3 = some 0 ∧
    result (.mulhN ⟨1, 2, 3, false, .always, 0⟩) [(1, 0xFFFFFFFF), (2, 0xFFFFFFFF)] 3 = some 0xFFFFFFFE := by decide +kernel
theorem test_shift_by_width : result (.shl ⟨1, 2, 3, false, .always, 0⟩) [(1, 32), (2, 1)] 3 = some 0 ∧
    result (.shrA ⟨1, 2, 3, false, .always, 0⟩) [(1, 40), (2, 0x80000000)] 3 = some 0xFFFFFFFF := by decide +kernel
theorem test_sub64_borrows : result (.sub64 ⟨2, 4, 6, false, .always, 0⟩) [(2, 1), (5, 1)] 6 = some 0xFFFFFFFF ∧
    result (.sub64 ⟨2, 4, 6, false, .always, 0⟩) [(2, 1), (5, 1)] 7 = some 0 := by decide +kernel
theorem test_clz_zero : result (.clz ⟨1, 2, false, .always, 0⟩) [] 2 = some 32 := by decide +kernel
theorem test_cmp_pushes : (after (.cmp ⟨1, 2, .ltn, .always, 0⟩) [(1, 0xFFFFFFFF)]).map (·.preds) = some 1 ∧
    (after (.cmp ⟨1, 2, .lt, .always, 0⟩) [(1, 0xFFFFFFFF)]).map (·.preds) = some 0 := by decide +kernel
theorem test_call_links : result (.call ⟨0x1FFFFF, .always, 0⟩) [] 29 = some (thread0.pc + 4) ∧
    (after (.call ⟨0x1FFFFF, .always, 0⟩) []).map (·.pc) = some (thread0.pc - 2) := by decide +kernel
theorem test_fadd_one_and_one :
    result (.fadd ⟨1, 2, 3, false, false, .always, 0⟩) [(1, 0x3F800000), (2, 0x3F800000)] 3 = some 0x40000000 := by decide +kernel
theorem test_frcp_zero : (after (.frcp ⟨1, 2, false, false, .always, 0⟩) []).map (fun t => (t.latest 2, t.fflags)) =
    some (0x7F800000, 2) := by decide +kernel
theorem test_trap_enters : (after (.trap ⟨5, .always, 0⟩) []).map (fun t => (t.pc, t.mode, t.h[0], t.h[1], t.h[2])) =
    some (0x800, .handler, thread0.pc, BitVec.ofNat 32 Cause.trapi.code, 5) := by decide +kernel
theorem test_atomic_updates : (match exec (.atom ⟨22, 12, 20, false, .inc, 0⟩)
      { memState with threads := [Holding memCtx.t [(22, 0x80000001)]] } with
    | .next t => (t.mem.nat 0x10000 4, (t.thread? ⟨0, 0⟩).map fun u => u.loads.map (·.vals))
    | _ => (0, none)) = (0, some [[(20, 0x80000001)]]) := by decide +kernel

/-- The instruction that withFetchWord places is the one that the next step runs, from reset (NOP: the PC moves on by 4). -/
theorem test_withFetchWord : (match step (State.reset.withFetchWord 32 0x0000003F) with
    | .next t => (t.thread? State.reset.cur).map (·.pc)
    | _ => none) = (State.reset.thread? State.reset.cur).map (·.pc + 4) := by decide +kernel

end Sys2Proof.Tests
end

section
/-!
PROOF. O58: what a step does to the memories. The operations that the instructions share: who sees which writes, ports, ready queues, the end of a
launch, traps, and how a thread instruction ends.
-/
namespace Sys2Proof.Machine
open Sys2Proof

/-- What changes no memory keeps them canonical. -/
theorem State.memOk.same {s t : State} (h : s.memOk) (hm : t.mem = s.mem := by simp) (hw : t.waves = s.waves := by simp)
    (ht : t.tier = s.tier := by simp) (hi : t.image = s.image := by simp) : t.memOk := by
  unfold State.memOk
  rwa [hm, hw, ht, hi]

/-- Waves whose memories are canonical may take the place of the present ones. -/
theorem State.memOk_withWaves {s : State} (h : s.memOk) {ws : List Wave} (hw : ∀ w ∈ ws, w.memOk) :
    ({ s with waves := ws } : State).memOk := ⟨h.1, hw, h.2.2⟩

/-- A change of some waves that keeps the memories of each canonical. -/
theorem updateIf_waves_memOk {ws : List Wave} (h : ∀ w ∈ ws, w.memOk) (test : Wave → Bool) {f : Wave → Wave}
    (hf : ∀ w, w.memOk → (f w).memOk) : ∀ w ∈ updateIf test f ws, w.memOk := by
  intro w hw
  obtain ⟨v, hv, rfl⟩ := List.mem_map.mp hw
  split
  · exact hf v (h v hv)
  · exact h v hv

/-- A state chosen together with another result. -/
theorem State.memOk_fst_ite {α : Type} {p : Prop} [Decidable p] {a b : State × α} (ha : a.1.memOk) (hb : b.1.memOk) :
    (if p then a else b).1.memOk := by split <;> assumption

/-- A wave and everything of it may go. -/
theorem State.memOk_dropWave {s : State} (h : s.memOk) (uid : Nat) : (s.dropWave uid).memOk :=
  State.memOk_withWaves h fun w hw => h.2.1 w (List.mem_of_mem_filter hw)

/-! ## Who sees which writes -/

theorem State.memOk_publish {s : State} (h : s.memOk) (id : ThreadId) : (s.publish id).memOk := State.memOk_ite h h

theorem State.memOk_numbered {s : State} (h : s.memOk) (id : ThreadId) : (s.numbered id).memOk := State.memOk_ite h h

theorem State.memOk_sending {s : State} (h : s.memOk) (id : ThreadId) : (s.sending id).memOk :=
  State.memOk_publish (State.memOk_drain h id) id

theorem State.memOk_readBy {s : State} (h : s.memOk) (id : ThreadId) (view peer : Bool) (loc : Loc) (n : Nat) :
    (s.readBy id view peer loc n).1.memOk := by
  unfold State.readBy
  split <;> exact h

theorem State.memOk_engineWrite {s : State} (h : s.memOk) (v : Viewer) (view : Bool) (loc : Loc) (unit : Nat) (bs : List Byte) :
    (s.engineWrite v view loc unit bs).1.memOk := by
  unfold State.engineWrite
  split
  · exact State.memOk_writeLoc h loc bs
  · exact (State.memOk_writeAs h v (Writing.plain view) (fun i => s.stamp + i / unit) loc bs).same

theorem State.memOk_outsideWrite {s : State} (h : s.memOk) (v : Viewer) (x : Writing) (pa : Nat) (bs : List Byte) :
    (s.outsideWrite v x pa bs).memOk := by
  unfold State.outsideWrite
  exact (State.memOk_writeAs h v x (fun i => s.stamp + (pa % 8 + i) / 8) (.phys pa) bs).same

theorem State.memOk_hostWrite {s : State} (h : s.memOk) (pa : Nat) (bs : List Byte) : (s.hostWrite pa bs).memOk := by
  have hw := State.memOk_outsideWrite h s.hostViewer (Writing.plain false) pa bs
  unfold State.hostWrite
  exact State.memOk_ite hw.same hw

theorem State.memOk_hostRead {s : State} (h : s.memOk) (pa n : Nat) : (s.hostRead pa n).1.memOk := by
  unfold State.hostRead
  split <;> exact h

theorem State.memOk_outsideKnows {s : State} (h : s.memOk) (who : OutsideId) (first : Nat) : (s.outsideKnows who first).memOk :=
  State.memOk_ite h h

theorem State.memOk_outsideMeets {s : State} (h : s.memOk) (who : OutsideId) (m : Met) : (s.outsideMeets who m).memOk :=
  State.memOk_ite h h

theorem State.memOk_outsideStore {s : State} (h : s.memOk) (who : OutsideId) (view : Bool) (pa : Nat) (bs : List Byte) :
    (s.outsideStore who view pa bs).memOk :=
  State.memOk_outsideKnows (State.memOk_outsideWrite h ..) who s.stamp

theorem State.memOk_outsideUpdate {s : State} (h : s.memOk) (who : OutsideId) (view : Bool) (pa : Nat) (op : AtomOp) (wide : Bool)
    (b d : DWord) : (s.outsideUpdate who view pa op wide b d).memOk :=
  State.memOk_outsideMeets (State.memOk_outsideKnows
    (State.memOk_atomicAs h (s.outsideViewer who) (s.outsideWriting who view) s.stamp (.phys pa) op wide b d).same who s.stamp) who _

theorem State.memOk_outsideFence {s : State} (h : s.memOk) (who : OutsideId) (sc : Scope) (k : FenceKind) :
    (s.outsideFence who sc k).memOk := by
  cases k with
  | acquire | release => exact h
  | full => exact State.memOk_ite h h

theorem State.memOk_settle {s : State} (h : s.memOk) (test : Loc → Bool) : (s.settle test).memOk :=
  State.memOk_foldl State.spread (fun _ _ hs => hs) h _

theorem State.memOk_settlePhys {s : State} (h : s.memOk) (pa n : Nat) : (s.settlePhys pa n).memOk := State.memOk_settle h _

theorem State.memOk_relandByte {s : State} (h : s.memOk) (event upper : Nat) (b : Loc) : (s.relandByte event upper b).memOk :=
  State.memOk_writeLoc (s := s.putPast b _) h b _

theorem State.memOk_reland {s : State} (h : s.memOk) (event : Nat) : (s.reland event).memOk := by
  unfold State.reland
  split
  · exact h
  · exact State.memOk_ite h (State.memOk_foldl _ (fun _ _ hs => State.memOk_relandByte hs ..) h _)

theorem State.memOk_fullFence {s : State} (h : s.memOk) (id : ThreadId) (sc : Scope) : (s.fullFence id sc).memOk := by
  have hp := State.memOk_publish h id
  unfold State.fullFence
  exact State.memOk_mapThread (State.memOk_ite hp.same hp.same) _ _

theorem State.memOk_fence {s : State} (h : s.memOk) (id : ThreadId) (sc : Scope) (k : FenceKind) : (s.fence id sc k).memOk := by
  cases k with
  | acquire => exact h
  | release => exact State.memOk_publish h id
  | full => exact State.memOk_fullFence h id sc

theorem State.memOk_joinViews {s : State} (h : s.memOk) (id : ThreadId) : (s.joinViews id).memOk := by
  unfold State.joinViews
  exact State.memOk_ite (p := _ = true) h h

theorem State.memOk_outsideJoin {s : State} (h : s.memOk) (who : OutsideId) : (s.outsideJoin who).memOk := by
  unfold State.outsideJoin
  exact State.memOk_ite (p := _ = true) h h

theorem State.memOk_toBank {s : State} (h : s.memOk) (id : ThreadId) : (s.toBank id).memOk := State.memOk_ite h h

/-! ## Ports and deliveries -/

theorem State.memOk_launchMessage {s : State} (h : s.memOk) (d : Nat) (lo hi : DWord) (know : Know) :
    (s.launchMessage d lo hi know).memOk := State.memOk_ite h h

theorem State.memOk_deliver? {s t : State} (h : s.memOk) {x : Delivery} (ht : s.deliver? x = some t) : t.memOk := by
  unfold State.deliver? at ht
  have hm := State.memOk_launchMessage h (handleDie x.handle) (msgLo x.msg) (msgHi x.msg) x.know
  split at ht
  · cases ht; exact h
  split at ht
  · split at ht
    · cases ht; exact hm
    · cases ht
  split at ht
  · cases ht; exact h
  split at ht
  · split at ht
    · cases ht; exact h
    · cases ht
  split at ht
  · cases ht; exact h
  split at ht
  · cases ht; exact h
  · cases ht

theorem State.memOk_deliver {s : State} (h : s.memOk) (x : Delivery) : (s.deliver x).memOk := by
  unfold State.deliver
  refine State.memOk_ite h ?_
  split
  · exact State.memOk_deliver? h ‹_›
  · exact h

theorem State.memOk_notify {s : State} (h : s.memOk) (die : Nat) (port : Word) (status : Nat) (tag : Word) (cls : Nat) (know : Know) :
    (s.notify die port status tag cls know).memOk := State.memOk_deliver h _

theorem State.memOk_reportNode {s : State} (h : s.memOk) (die : Nat) (port : Word) (status detail : Nat) (node : DWord) (know : Know) :
    (s.reportNode die port status detail node know).memOk :=
  State.memOk_ite h (State.memOk_deliver h _)

/-! ## Ready queues, the end of a launch -/

theorem State.memOk_deal {s : State} (h : s.memOk) (die prio : Nat) (r : QRec) : (s.deal die prio r).memOk := by
  unfold State.deal
  split <;> exact h

theorem State.memOk_enqueueStep {s : State} (h : s.memOk) (l : Launch) : (s.enqueueStep l).memOk :=
  State.memOk_ite h (State.memOk_foldl _ (fun _ r hs => State.memOk_deal hs r.1 l.prio r.2) h _)

theorem State.memOk_stopThreads {s : State} (h : s.memOk) (l : Nat) : (s.stopThreads l).memOk :=
  State.memOk_foldl _ (fun _ t hs => State.memOk_drain hs t.id) h _

theorem State.memOk_discardQueued {s : State} (h : s.memOk) (l : Nat) : (s.discardQueued l).memOk := by
  unfold State.discardQueued
  exact State.memOk_foldl _ (fun _ w hs => State.memOk_dropWave hs w.uid) h.same _

theorem State.memOk_endHoldings {s : State} (h : s.memOk) (l : Nat) : (s.endHoldings l).memOk :=
  State.memOk_withWaves (s := State.mk ..) h (updateIf_waves_memOk h.2.1 _ fun _ hw => hw)

theorem State.memOk_unhold {s : State} (h : s.memOk) (d : Nat) : (s.unhold d).memOk := by
  unfold State.unhold
  refine State.memOk_ite ?_ h
  split
  · exact State.memOk_enqueueStep (State.memOk_mapLaunch h _ _) _
  · exact h

theorem State.memOk_sweepLaunch {s : State} (h : s.memOk) (l : Nat) : (s.sweepLaunch l).memOk := State.memOk_ite h h.same

theorem State.memOk_endOps {s : State} (h : s.memOk) (l : Nat) : (s.endOps l).memOk := by
  unfold State.endOps
  exact h.same

theorem State.memOk_endLaunch {s : State} (h : s.memOk) (l : Launch) (status detail : Nat) : (s.endLaunch l status detail).memOk :=
  have hd := State.memOk_endOps (State.memOk_discardQueued (State.memOk_stopThreads h l.id) l.id) l.id
  State.memOk_reportNode (State.memOk_sweepLaunch (State.memOk_unhold
    (State.memOk_mapLaunch (State.memOk_endHoldings hd _) _ _) _) _) ..

theorem State.memOk_endPending {s : State} (h : s.memOk) (d : Nat) (looks : PendingLaunch → Bool)
    (names : PendingLaunch → NodeRec → Bool) (status detail : Nat) (ps : List PendingLaunch) :
    (s.endPending d looks names status detail ps).1.memOk := by
  induction ps generalizing s with
  | nil => exact h
  | cons p ps ih =>
    unfold State.endPending
    dsimp only
    split
    · exact ih h
    · split
      · split
        · exact ih (State.memOk_reportNode h ..)
        · exact ih h
      · exact ih h
      · split
        · exact ih (s := s.record d _) h
        · exact ih h

theorem State.memOk_endPendings {s : State} (h : s.memOk) (looks : PendingLaunch → Bool)
    (names : PendingLaunch → NodeRec → Bool) (status detail : Nat) : (s.endPendings looks names status detail).1.memOk := by
  unfold State.endPendings
  refine List.foldlRecOn (motive := fun acc : State × Nat => acc.1.memOk) _ _ h fun acc ha d _ => ?_
  exact State.memOk_mapDie (State.memOk_endPending ha ..) _ _

theorem State.memOk_stopDomain {s : State} (h : s.memOk) (domain : Word) (c : Cause) : (s.stopDomain domain c).memOk :=
  State.memOk_endPendings (State.memOk_foldl _ (fun _ l hs => State.memOk_endLaunch hs l 3 c.code) h _) ..

/-! ## Saving a thread, traps -/

/-- What a walk over memory leaves, where it does not stop, is canonical. -/
def AreaResult.memOk (r : AreaResult State) : Prop := ∀ t, r = .ok t → t.memOk

theorem State.memOk_storeArea {s : State} (h : s.memOk) (c : Ctx) (va n : Nat) (bs : List Byte) : (s.storeArea c va n bs).memOk := by
  induction n generalizing s va bs with
  | zero => rintro _ ⟨⟩; exact h
  | succ n ih =>
    intro t ht
    unfold State.storeArea at ht
    repeat' split at ht
    · cases ht
    · exact ih (State.memOk_mapThread (State.memOk_writeAs h.same ..) _ _) _ _ t ht
    · cases ht
    · cases ht

theorem State.memOk_storePieces {s : State} (h : s.memOk) (c : Ctx) (base : Nat) (ps : List (Nat × List Byte)) :
    (s.storePieces c base ps).memOk := by
  induction ps generalizing s with
  | nil => rintro _ ⟨⟩; exact h
  | cons p ps ih =>
    intro t ht
    have hp := State.memOk_storeArea h c (base + p.1) (p.2.length / 16) p.2
    unfold State.storePieces at ht
    split at ht
    · exact ih (hp _ ‹_›) t ht
    · exact hp t ht

theorem State.memOk_hardSave {s : State} (h : s.memOk) (c : Ctx) (t : Thread) (resume : Word) : (s.hardSave c t resume).memOk :=
  State.memOk_storePieces (s := { s with free := s.free + 64 }) h c c.saveArea _

theorem State.memOk_recover {s : State} (h : s.memOk) (c : Ctx) (t : Thread) : (s.recover c t).memOk := by
  have hd := State.memOk_drain h c.t.id
  unfold State.recover
  refine State.memOk_ite h ?_
  dsimp only
  split
  next s' hs => exact (State.memOk_hardSave hd _ _ _ s' hs).same
  next => exact hd
  next => exact State.memOk_ite hd.same hd

theorem State.memOk_trap {s : State} (h : s.memOk) (c : Ctx) (cause : Cause) (ea : DWord) : (s.trap c cause ea).memOk := by
  unfold State.trap
  exact State.memOk_ite (State.memOk_recover h ..) (State.memOk_ite (State.memOk_stopDomain (State.memOk_setThread h _) ..) h)

/-! ## How a thread instruction executes -/

theorem State.memOk_spent {s : State} (h : s.memOk) (f : Form) : (s.spent f).memOk := h

/-- The state that an effect leaves before the instruction ends. -/
def Effect.state : Effect → State
  | .done s | .jump s _ | .trap s _ _ | .wait s _ | .ended s => s

theorem Effect.memOk_ite {p : Prop} [Decidable p] {a b : Effect} (ha : a.state.memOk) (hb : b.state.memOk) :
    (if p then a else b).state.memOk := by split <;> assumption

/-- However it ends, an instruction whose effect leaves the memories canonical does so itself. -/
theorem memOk_finish {e : Effect} (h : e.state.memOk) (c : Ctx) (f : Form) : (finish c f e).memOk := by
  cases e with
  | done s | jump s pc | wait s w | ended s => exact h
  | trap s cause ea =>
    simp only [finish]
    split
    · exact State.memOk_trap h ..
    · exact h

/-- A step of the machine that keeps every memory canonical. -/
def KeepsMemOk (f : State → Host.Outcome State Fault Refusal) : Prop := ∀ s t, s.memOk → f s = .next t → t.memOk

/-- A step that always answers a next state. -/
theorem keepsMemOk_next {f : State → State} (hf : ∀ s, s.memOk → (f s).memOk) : KeepsMemOk fun s => .next (f s) := by
  rintro s _ h ⟨⟩
  exact hf s h

theorem keepsMemOk_runForm (f : Form) {body : Ctx → (Nat → Word) → State → Effect}
    (hb : ∀ c o s, s.memOk → (body c o s).state.memOk) : KeepsMemOk (runForm f body) := by
  intro s t h ht
  obtain ⟨-, hn⟩ | ⟨c, -, hr | hr | ⟨cause, ea, -, hr⟩ | ⟨-, hr⟩⟩ := runForm_cases f body s
  · rw [hn] at ht; cases ht
  all_goals
    rw [hr] at ht
    cases ht
    refine memOk_finish ?_ c f
  · exact h
  · exact h
  · exact h
  · exact hb c _ _ h

/-- A result that the stack limit allows, or the trap before it. -/
theorem memOk_checkStack {s : State} {k : Effect} (h : s.memOk) (hk : k.state.memOk) (c : Ctx) (ws : List (Reg × Word)) :
    (checkStack c s ws k).state.memOk := by
  unfold checkStack
  split
  · exact h
  · exact hk

theorem memOk_writeFixed {s : State} (h : s.memOk) (c : Ctx) (ws : List (Reg × Word)) (n : Nat) (tr : Bool) :
    (writeFixed c s ws n tr).state.memOk :=
  memOk_checkStack (k := .done (c.on s _)) h h c ws

theorem memOk_writeFlagged {s : State} (h : s.memOk) (c : Ctx) (ws : List (Reg × Word)) (n : Nat) (tr quiet : Bool) (fl : FpFlags) :
    (writeFlagged c s ws n tr quiet fl).state.memOk :=
  memOk_checkStack (k := .done (c.on s _)) h h c ws

theorem memOk_writeBoard {s : State} (h : s.memOk) (c : Ctx) (ws : List (Reg × Word)) : (writeBoard c s ws).state.memOk :=
  memOk_checkStack (k := .done (c.on s _)) h h c ws

theorem memOk_writeWith {s s' : State} (h : s.memOk) (h' : s'.memOk) (c : Ctx) (ws : List (Reg × Word)) :
    (writeWith c s s' ws).state.memOk := memOk_checkStack (k := .done (c.on s' _)) h h' c ws

theorem memOk_eretEffect {s : State} (h : s.memOk) (c : Ctx) : (eretEffect c s).state.memOk := by
  unfold eretEffect
  dsimp only
  split
  · exact h
  · exact h
  all_goals split <;> exact h

end Sys2Proof.Machine
end

section
/-!
PROOF. O58: arithmetic, collectives and control keep the memories canonical.
-/
namespace Sys2Proof.Machine
open Sys2Proof

/-! ## Integer and floating-point shapes -/

theorem keepsMemOk_aluR (f : RF) (op : Word → Word → Word) : KeepsMemOk (aluR f op) :=
  keepsMemOk_runForm _ fun c _ _ h => memOk_writeFixed h c _ _ _

theorem keepsMemOk_aluR64 (f : RF) (op : DWord → DWord → DWord) : KeepsMemOk (aluR64 f op) :=
  keepsMemOk_runForm _ fun c _ _ h => memOk_writeFixed h c _ _ _

theorem keepsMemOk_aluH (f : H) (op : Word → Word → Word) : KeepsMemOk (aluH f op) :=
  keepsMemOk_runForm _ fun c _ _ h => memOk_writeFixed h c _ _ _

theorem keepsMemOk_aluX (f : XF) (op : Word → Word) : KeepsMemOk (aluX f op) :=
  keepsMemOk_runForm _ fun c _ _ h => memOk_writeFixed h c _ _ _

theorem keepsMemOk_aluI (f : IF) (op : Word → Word → Word) : KeepsMemOk (aluI f op) :=
  keepsMemOk_runForm _ fun c _ _ h => memOk_writeFixed h c _ _ _

theorem keepsMemOk_aluS (f : SF) (op : Word → Word → Word) : KeepsMemOk (aluS f op) :=
  keepsMemOk_runForm _ fun c _ _ h => memOk_writeFixed h c _ _ _

theorem keepsMemOk_fltR (f : FF) (op : Rounding → Nat → Nat → Nat × FpFlags) : KeepsMemOk (fltR f op) :=
  keepsMemOk_runForm _ fun c _ _ h => memOk_writeFlagged h c _ _ _ _ _

theorem keepsMemOk_fltR3 (f : FF) (op : Rounding → Nat → Nat → Nat → Nat × FpFlags) : KeepsMemOk (fltR3 f op) :=
  keepsMemOk_runForm _ fun c _ _ h => memOk_writeFlagged h c _ _ _ _ _

theorem keepsMemOk_fltH (f : H) (op : Rounding → Nat → Nat → Nat × FpFlags) : KeepsMemOk (fltH f op) :=
  keepsMemOk_runForm _ fun c _ _ h => memOk_writeFlagged h c _ _ _ _ _

theorem keepsMemOk_dblR (f : FF) (op : Rounding → Nat → Nat → Nat × FpFlags) : KeepsMemOk (dblR f op) :=
  keepsMemOk_runForm _ fun c _ _ h => memOk_writeFlagged h c _ _ _ _ _

theorem keepsMemOk_dblR3 (f : FF) (op : Rounding → Nat → Nat → Nat → Nat × FpFlags) : KeepsMemOk (dblR3 f op) :=
  keepsMemOk_runForm _ fun c _ _ h => memOk_writeFlagged h c _ _ _ _ _

theorem keepsMemOk_fltX (f : XFF) (latency : Nat) (op : Rounding → Nat → Nat × FpFlags) : KeepsMemOk (fltX f latency op) :=
  keepsMemOk_runForm _ fun c _ _ h => memOk_writeFlagged h c _ _ _ _ _

theorem keepsMemOk_dblX (f : XFF) (latency : Nat) (op : Rounding → Nat → Nat × FpFlags) : KeepsMemOk (dblX f latency op) :=
  keepsMemOk_runForm _ fun c _ _ h => memOk_writeFlagged h c _ _ _ _ _

theorem keepsMemOk_packed2 (f : FF) (op : Rounding → Nat → Nat → Nat × FpFlags) : KeepsMemOk (packed2 f op) :=
  keepsMemOk_runForm _ fun c _ _ h => memOk_writeFlagged h c _ _ _ _ _

theorem keepsMemOk_packed3 (f : FF) (op : Rounding → Nat → Nat → Nat → Nat × FpFlags) : KeepsMemOk (packed3 f op) :=
  keepsMemOk_runForm _ fun c _ _ h => memOk_writeFlagged h c _ _ _ _ _

/-! ## Collectives -/

theorem State.memOk_finishLane {s : State} (h : s.memOk) (id : ThreadId) (i : Instr) (r : LaneResult) : (s.finishLane id i r).memOk := by
  unfold State.finishLane
  split
  · exact h
  · exact State.memOk_ite (State.memOk_trap h ..) h

theorem State.memOk_finishAll {s : State} (h : s.memOk) (ps : List Thread) (i : Instr) : (s.finishAll ps i).memOk :=
  State.memOk_foldl _ (fun _ _ hs => State.memOk_finishLane hs ..) h _

theorem State.memOk_completeInstance {s : State} (h : s.memOk) (w : Wave) (t : Thread) (x : Arrival) (ps : List Thread) :
    (s.completeInstance w t x ps).memOk := by
  unfold State.completeInstance
  split
  · exact State.memOk_ite (State.memOk_finishAll h ..) h
  · exact State.memOk_finishAll (State.memOk_mapGroup h _ _ _) ..
  · exact State.memOk_finishAll (s := State.mapThreads (s.shareAll ps) _ _) h ..
  · exact State.memOk_finishAll (s := s.shareAll ps) h ..
  · exact State.memOk_finishAll (s := s.shareAll ps) h ..
  · refine State.memOk_foldl _ (fun s u hs => ?_) h _
    split
    · exact State.memOk_finishLane hs ..
    · exact hs

theorem State.memOk_tryComplete {s : State} (h : s.memOk) (id : ThreadId) : (s.tryComplete id).memOk := by
  unfold State.tryComplete
  split
  · exact h
  · split
    · exact h
    · exact State.memOk_ite (State.memOk_completeInstance h ..) h

theorem State.memOk_trapMismatch {s : State} (h : s.memOk) (w : Wave) (g : Nat) : (s.trapMismatch w g).memOk := by
  refine State.memOk_foldl _ (fun s t hs => ?_) h _
  split
  · exact State.memOk_ite (State.memOk_trap hs ..) hs
  · exact hs

theorem State.memOk_settleGroup {s : State} (h : s.memOk) (w : Wave) (l : Launch) (g : Nat) : (s.settleGroup w l g).memOk := by
  have hc := State.memOk_foldl State.tryComplete (fun _ id hs => State.memOk_tryComplete hs id) h
  unfold State.settleGroup
  exact State.memOk_ite (State.memOk_trapMismatch (hc _) w g) (hc _)

theorem State.memOk_fenceFull {s : State} (h : s.memOk) (id : ThreadId) (sc : Scope) : (s.fenceFull id sc).1.memOk := by
  have hd := State.memOk_drain h id
  unfold State.fenceFull
  dsimp only
  split
  · exact hd
  · exact State.memOk_fullFence hd id sc

theorem State.memOk_arrive {s : State} (h : s.memOk) (c : Ctx) (x : Arrival) : (s.arrive c x).memOk :=
  State.memOk_settleGroup (State.memOk_mapThread h _ _) ..

theorem keepsMemOk_runArrival (i : Instr) (reads names : List Reg) (preds : Bool) (barrier : Option Scope)
    (check : Ctx → Option (Cause × DWord)) (vals : Ctx → (Nat → Word) → DWord × Word) :
    KeepsMemOk (runArrival i reads names preds barrier check vals) := by
  intro s t h ht
  unfold runArrival at ht
  split at ht
  next => cases ht
  next c _ =>
    cases ht
    refine State.memOk_ite (memOk_finish ?_ _ _) (State.memOk_ite (memOk_finish ?_ _ _) ?_)
    · exact h
    · exact h
    dsimp only
    split
    · refine memOk_finish ?_ _ _
      exact h
    split
    · refine memOk_finish ?_ _ _
      exact h
    split
    · exact State.memOk_arrive (State.memOk_spent (State.memOk_mapThread h _ _) _) _ _
    next sc =>
      have hf := State.memOk_fenceFull (State.memOk_spent (State.memOk_mapThread h c.t.arriving.id Thread.arriving)
        { sc := collectiveStall i, reads := reads, names := names, preds := preds }) c.t.arriving.id sc
      refine State.memOk_ite (State.memOk_arrive hf _ _) (memOk_finish ?_ _ _)
      exact hf

/-! ## Control -/

theorem memOk_jumpTo {s : State} (h : s.memOk) (c : Ctx) (target : Word) (link : Bool) : (jumpTo c s target link).state.memOk := by
  unfold jumpTo
  split
  · exact h
  · exact State.memOk_ite h h

theorem memOk_exitItem {s : State} (h : s.memOk) (c : Ctx) : (exitItem c s).memOk := State.memOk_ite h (State.memOk_ite h h)

theorem keepsMemOk_execExit (f : GF) : KeepsMemOk (execExit f) := by
  refine keepsMemOk_runForm _ fun c _ s h => ?_
  split
  · exact h
  · have he : (exitItem c (s.mapThread c.t.id fun t => (t.advance 4 f.sc s.now).end_)).memOk :=
      memOk_exitItem (State.memOk_mapThread h _ _) c
    exact State.memOk_settleGroup (State.memOk_ite (State.memOk_mapGroup he _ _ _) he) ..

theorem keepsMemOk_execSafe (f : NF) : KeepsMemOk (execSafe f) := by
  refine keepsMemOk_runForm _ fun c _ s h => ?_
  dsimp only
  split
  · split <;> exact h
  · exact h

theorem keepsMemOk_execSrd (f : SrdF) : KeepsMemOk (execSrd f) := by
  refine keepsMemOk_runForm _ fun c _ s h => memOk_checkStack h ?_ c _
  exact h

theorem keepsMemOk_execSwr (f : SwrF) : KeepsMemOk (execSwr f) :=
  keepsMemOk_runForm _ fun _ _ _ h => by split <;> exact h

theorem keepsMemOk_execHrd (f : HrdF) : KeepsMemOk (execHrd f) := by
  refine keepsMemOk_runForm _ fun c _ s h => memOk_checkStack h ?_ c _
  exact h

theorem keepsMemOk_execYield (f : GF) : KeepsMemOk (execYield f) := by
  refine keepsMemOk_runForm _ fun c _ s h => ?_
  split
  · split <;> exact h
  · exact h

theorem keepsMemOk_execSpawn (f : AF) : KeepsMemOk (execSpawn f) := by
  refine keepsMemOk_runForm _ fun c _ s h => ?_
  have hs := State.memOk_sending h c.t.id
  dsimp only
  split
  · exact h
  · split
    · exact h
    · split <;> exact hs

end Sys2Proof.Machine
end

section
/-!
PROOF. O58: loads, stores, atomics, fences, control blocks, reports and verdicts keep the memories canonical.
-/
namespace Sys2Proof.Machine
open Sys2Proof

/-! ## Accesses -/

theorem State.memOk_notePass {s : State} (h : s.memOk) (loc : Loc) (n : Nat) (atomic : Bool) : (s.notePass loc n atomic).memOk := by
  cases loc <;> exact h

theorem memOk_accept {s : State} (h : s.memOk) (c : Ctx) (loc : Loc) (n : Nat) (atomic peer : Bool) :
    (accept c s loc n atomic peer).memOk := by
  have hp := State.memOk_notePass h loc n atomic
  unfold accept
  exact State.memOk_ite (State.memOk_mapThread hp _ _) hp

theorem memOk_acceptLoad {s : State} (h : s.memOk) (c : Ctx) (loc : Loc) (n : Nat) (atomic peer : Bool) (vals : List (Reg × Word)) :
    (acceptLoad c s loc n atomic peer vals).memOk := by
  have ha := memOk_accept h c loc n atomic (peer && !Thread.touchesStack vals)
  unfold acceptLoad
  exact State.memOk_ite ha.same ha

theorem State.memOk_loadBytes {s : State} (h : s.memOk) (t : Thread) (loc : Loc) (view peer : Bool) (n : Nat) :
    (s.loadBytes t loc view peer n).1.memOk := by
  have hr := State.memOk_readBy h t.id view peer loc n
  unfold State.loadBytes
  exact State.memOk_fst_ite hr (State.memOk_fst_ite (State.memOk_fst_ite h hr) (State.memOk_readBy (State.memOk_drain h t.id) ..))

theorem State.memOk_lanesBefore {s : State} (h : s.memOk) (id : ThreadId) (loc : Loc) (n : Nat) : (s.lanesBefore id loc n).memOk :=
  State.memOk_foldl _ (fun _ id hs => State.memOk_drain hs id) h _

theorem State.memOk_addStore {s : State} (h : s.memOk) (c : Ctx) (loc : Loc) (view peer : Bool) (op : StoreOp) (ea : DWord) :
    (s.addStore c loc view peer op ea).memOk :=
  State.memOk_numbered (State.memOk_mapThread (State.memOk_lanesBefore (State.memOk_publish h c.t.id) ..) _ _) _

theorem State.memOk_addBytes {s : State} (h : s.memOk) (c : Ctx) (loc : Loc) (view peer : Bool) (bs : List Byte) (ea : DWord) :
    (s.addBytes c loc view peer bs ea).memOk :=
  State.memOk_ite (State.memOk_addStore h ..) (State.memOk_foldl _ (fun _ _ hs => State.memOk_addStore hs ..) h _)

theorem State.memOk_atomicBy {s : State} (h : s.memOk) (id : ThreadId) (view peer : Bool) (loc : Loc) (op : AtomOp) (wide : Bool)
    (b d : DWord) : (s.atomicBy id view peer loc op wide b d).1.memOk := by
  have hn := fun v x e => State.memOk_numbered (State.memOk_atomicAs (State.memOk_publish h id) v x e loc op wide b d) id
  unfold State.atomicBy
  exact State.memOk_ite (State.memOk_mapThread (hn _ _ _) _ _) (hn _ _ _)

theorem memOk_withBytes {s : State} (h : s.memOk) (c : Ctx) (loc : Loc) (view peer : Bool) (n : Nat)
    {go : State → List Byte → Effect} (hg : ∀ s bs, s.memOk → (go s bs).state.memOk) :
    (withBytes c s loc view peer n go).state.memOk := by
  unfold withBytes
  split
  · split
    · exact hg _ _ (State.memOk_loadBytes h ..)
    · exact State.memOk_notePass (State.memOk_loadBytes h ..) ..
  · exact hg _ _ (State.memOk_loadBytes h ..)

theorem memOk_withAccess {s : State} (h : s.memOk) (c : Ctx) (k : AccessKind) (ea : DWord) {go : Loc → Bool → Bool → Effect}
    (hg : ∀ loc view peer, (go loc view peer).state.memOk) : (withAccess c s k ea go).state.memOk := by
  unfold withAccess
  split
  · exact h
  · exact h
  · exact hg ..

theorem memOk_failLdnf {s : State} (h : s.memOk) (c : Ctx) (ea : DWord) (n : Nat) (cause : Option Cause) (hold peer : Bool) :
    (failLdnf c s ea n cause hold peer).state.memOk := by
  cases cause with
  | none => exact h
  | some cause =>
    have hs : ({ s.sending c.t.id with nextId := (s.sending c.t.id).nextId + 1 } : State).memOk := (State.memOk_sending h c.t.id).same
    unfold failLdnf
    exact Effect.memOk_ite h hs

/-! ## Loads, stores, atomics, fences -/

theorem keepsMemOk_execLd (f : MF) : KeepsMemOk (execLd f) :=
  keepsMemOk_runForm _ fun c _ _ h => memOk_withAccess h c _ _ fun loc view peer =>
    memOk_withBytes h c loc view peer _ fun _ _ hs => memOk_acceptLoad hs ..

theorem keepsMemOk_execSt (f : MF) : KeepsMemOk (execSt f) :=
  keepsMemOk_runForm _ fun c _ _ h => memOk_withAccess h c _ _ fun _ _ _ =>
    Effect.memOk_ite h (State.memOk_addBytes (memOk_accept h ..) ..)

theorem keepsMemOk_execLdnf (f : MF) : KeepsMemOk (execLdnf f) := by
  refine keepsMemOk_runForm _ fun c o s h => ?_
  dsimp only
  split
  · split
    · exact h
    · exact memOk_failLdnf h ..
  · exact memOk_failLdnf h ..
  · exact h
  · exact h
  · refine memOk_withBytes h c _ _ _ _ fun s bs hs => ?_
    split
    · exact memOk_failLdnf (memOk_acceptLoad hs ..) ..
    · exact memOk_acceptLoad hs ..

theorem keepsMemOk_execLdn (f : ADF) : KeepsMemOk (execLdn f) :=
  keepsMemOk_runForm _ fun c _ _ h => memOk_withAccess h c _ _ fun _ _ _ => memOk_acceptLoad (State.memOk_loadBytes h ..) ..

theorem keepsMemOk_execStn (f : ADF) : KeepsMemOk (execStn f) :=
  keepsMemOk_runForm _ fun c _ _ h => memOk_withAccess h c _ _ fun _ _ _ =>
    Effect.memOk_ite h (State.memOk_addStore (memOk_accept h ..) ..)

theorem keepsMemOk_execAtom (f : AtomF) : KeepsMemOk (execAtom f) := by
  refine keepsMemOk_runForm _ fun c _ s h => memOk_withAccess h c _ _ fun loc view peer => Effect.memOk_ite h ?_
  refine State.memOk_fst_ite ?_ (State.memOk_atomicBy ?_ ..) <;>
    exact State.memOk_drain (State.memOk_ite (memOk_acceptLoad h ..) (memOk_accept h ..)) _

theorem keepsMemOk_execRed (f : RedF) : KeepsMemOk (execRed f) :=
  keepsMemOk_runForm _ fun c _ _ h => memOk_withAccess h c _ _ fun _ _ _ =>
    Effect.memOk_ite h (State.memOk_addStore (memOk_accept h ..) ..)

theorem keepsMemOk_execFence (f : FenceF) : KeepsMemOk (execFence f) := by
  refine keepsMemOk_runForm _ fun c _ s h => ?_
  split
  · have hf := State.memOk_fenceFull h c.t.id f.scope
    dsimp only
    split <;> exact hf
  · exact State.memOk_fence h ..

theorem keepsMemOk_execAfence (f : GF) : KeepsMemOk (execAfence f) := by
  refine keepsMemOk_runForm _ fun c _ s h => ?_
  have hd := State.memOk_drain h c.t.id
  dsimp only
  split
  · exact hd
  · exact State.memOk_joinViews hd _

theorem keepsMemOk_execBfence (f : BFenceF) : KeepsMemOk (execBfence f) := by
  refine keepsMemOk_runForm _ fun c _ s h => ?_
  have hb := State.memOk_toBank (State.memOk_drain h c.t.id) c.t.id
  cases f.kind with
  | toLoad => exact h
  | toBank | both => exact hb

theorem keepsMemOk_execWaitc (f : WaitF) : KeepsMemOk (execWaitc f) :=
  keepsMemOk_runForm _ fun _ _ _ h => by split <;> exact h

/-! ## Parameter blocks, reports, verdicts -/

theorem memOk_withBlock {s : State} (h : s.memOk) (c : Ctx) (o : Word) (n align : Nat) {go : State → List Byte → Effect}
    (hg : ∀ s bs, s.memOk → (go s bs).state.memOk) : (withBlock c s o n align go).state.memOk := by
  unfold withBlock
  split
  · exact h
  split
  · exact h
  split
  · exact h
  · exact hg _ _ (State.memOk_loadBytes h ..)

theorem memOk_withFields {s : State} (h : s.memOk) (o : Word) (checks : List (Bool × Nat)) {go : Effect} (hg : go.state.memOk) :
    (withFields s o checks go).state.memOk := by
  unfold withFields
  split
  · exact h
  · exact hg

theorem State.memOk_finishWaiting {s : State} (h : s.memOk) (id : ThreadId) (ws : List (Reg × Word)) (sc : Nat) :
    (s.finishWaiting id ws sc).memOk := by
  unfold State.finishWaiting
  split
  · exact memOk_finish (memOk_writeBoard h ..) ..
  · exact h

theorem State.memOk_orFlags {s : State} (h : s.memOk) (id : ThreadId) (fl : FpFlags) : (s.orFlags id fl).memOk := h

theorem State.memOk_report {s : State} (h : s.memOk) (id : ThreadId) (group : Nat) (c : CounterClass) (op order : Nat)
    (waitc step : Know) (wrote : List Nat) : (s.report id group c op order waitc step wrote).memOk := by
  unfold State.report
  dsimp only
  split <;> exact h

theorem State.memOk_setToken {s : State} (h : s.memOk) (who : Poster) (token : Option Nat) : (s.setToken who token).memOk := by
  cases who <;> exact h

theorem State.memOk_declareFatal {s : State} (h : s.memOk) (who : Poster) : (s.declareFatal who).memOk := by
  cases who <;> exact h

theorem State.memOk_retry {s : State} (h : s.memOk) (who : Poster) : (s.retry who).memOk := by
  cases who <;> exact h

theorem State.memOk_giveVerdict {s : State} (h : s.memOk) (die : Nat) (know : Know) (v : Word) : (s.giveVerdict die know v).memOk := by
  unfold State.giveVerdict
  dsimp only
  split
  · exact h
  next who _ =>
    have ht : (s.freeTokens die [v.toNat % 65536]).memOk := h
    have hv := State.memOk_ite (p := v.getLsbD 31 = true) (State.memOk_declareFatal ht who) (State.memOk_retry ht who)
    split
    · exact State.memOk_ite hv hv
    · exact State.memOk_ite hv hv
    · exact hv

end Sys2Proof.Machine
end

section
/-!
PROOF. O58: slots and tiles, matrix operations and the bank units keep the memories canonical.
-/
namespace Sys2Proof.Machine
open Sys2Proof

/-! ## Slots and tiles -/

theorem Wave.memOk_ite {p : Prop} [Decidable p] {a b : Wave} (ha : a.memOk) (hb : b.memOk) : (if p then a else b).memOk := by
  split <;> assumption

theorem Wave.memOk_hold {w : Wave} (h : w.memOk) (tile : Bool) (n : Nat) : (w.hold tile n).memOk := Wave.memOk_ite h h

theorem Wave.memOk_enqueueClaim {w : Wave} (h : w.memOk) (tile : Bool) (idx : Nat) : (w.enqueueClaim tile idx).memOk :=
  Wave.memOk_ite h (Wave.memOk_ite h h)

theorem Wave.memOk_dequeueClaim {w : Wave} (h : w.memOk) (tile : Bool) (idx : Nat) : (w.dequeueClaim tile idx).memOk :=
  Wave.memOk_ite h h

theorem Wave.memOk_markReleasing {w : Wave} (h : w.memOk) (tile : Bool) (n before : Nat) : (w.markReleasing tile n before).memOk :=
  Wave.memOk_ite h h

theorem Wave.memOk_giveBack {w : Wave} (h : w.memOk) (tile : Bool) (n : Nat) : (w.giveBack tile n).memOk := by
  have hu : (w.unmark tile n).memOk := Wave.memOk_ite h h
  exact Wave.memOk_ite hu hu

/-- A wave found by its number is one of the waves. -/
theorem State.memOk_wave? {s : State} (h : s.memOk) {uid : Nat} {w : Wave} (hw : s.wave? uid = some w) : w.memOk :=
  h.2.1 w (List.mem_of_find?_eq_some hw)

theorem memOk_claimName {s : State} (h : s.memOk) (c : Ctx) (tile : Bool) (d : Reg) (sc : Nat) :
    (claimName c s tile d sc).state.memOk := by
  unfold claimName
  refine Effect.memOk_ite h ?_
  split
  · exact memOk_writeBoard (State.memOk_mapWave h _ _ fun _ hw => Wave.memOk_hold hw ..) ..
  · exact State.memOk_mapWave h _ _ fun _ hw => Wave.memOk_enqueueClaim hw ..

theorem memOk_releaseName {s : State} (h : s.memOk) (c : Ctx) (tile : Bool) (n sc : Nat) :
    (releaseName c s tile n sc).state.memOk := by
  unfold releaseName
  refine Effect.memOk_ite h (Effect.memOk_ite ?_ ?_)
  · exact State.memOk_mapWave h _ _ fun _ hw => Wave.memOk_markReleasing hw ..
  · exact State.memOk_mapWave h _ _ fun _ hw => Wave.memOk_giveBack hw ..

theorem keepsMemOk_execSlotClaimGrant (wave : Nat) (tile : Bool) : KeepsMemOk (execSlotClaimGrant wave tile) := by
  refine keepsMemOk_next fun s h => ?_
  have hd := fun idx => State.memOk_mapWave h wave _ fun _ hw => Wave.memOk_dequeueClaim hw tile idx
  split
  · exact h
  split
  · split
    · split
      · refine State.memOk_ite (State.memOk_finishWaiting ?_ ..) h
        exact State.memOk_mapWave h _ _ fun _ hw => Wave.memOk_hold (Wave.memOk_dequeueClaim hw ..) ..
      · exact hd _
    · exact hd _
  · exact h

theorem keepsMemOk_execSlotReleaseComplete (wave : Nat) (tile : Bool) (n : Nat) :
    KeepsMemOk (execSlotReleaseComplete wave tile n) := by
  refine keepsMemOk_next fun s h => ?_
  have hg := State.memOk_mapWave h wave _ fun _ hw => Wave.memOk_giveBack hw tile n
  split
  · exact h
  · refine State.memOk_ite h (State.memOk_foldl _ (fun s t hs => ?_) hg _)
    split
    · exact State.memOk_finishWaiting hs ..
    · exact hs

/-! ## The matrix engine -/

theorem memOk_enterMatrix {s : State} (h : s.memOk) (c : Ctx) (kind : MatrixKind) (port : Option Word) (tag : Word) :
    (enterMatrix c s kind port tag).memOk := by
  have hs := State.memOk_sending h c.t.id
  unfold enterMatrix
  exact hs.same

theorem keepsMemOk_execMma (f : MmaF) : KeepsMemOk (execMma f) := by
  refine keepsMemOk_runForm _ fun c o s h => Effect.memOk_ite h (memOk_withBlock h c _ _ _ fun s blk hs => Effect.memOk_ite hs ?_)
  split
  · exact hs
  · refine memOk_enterMatrix ?_ ..
    exact State.memOk_ite hs.same hs

theorem keepsMemOk_execAzero (f : AF) : KeepsMemOk (execAzero f) :=
  keepsMemOk_runForm _ fun _ _ _ h => Effect.memOk_ite h (Effect.memOk_ite h (memOk_enterMatrix h ..))

/-- The outputs of an MMA make a canonical memory of tiles. -/
theorem mmaCompute_wf {w : Wave} (h : w.memOk) (fmt : MmaFmt) (mode : MmaMode) (a b c c2 k : Nat) (aCol bCol : Bool) (scale : Word)
    (oA oB : Nat) (scales : List Nat) : (mmaCompute w fmt mode a b c c2 k aCol bCol scale oA oB scales).1.wf = true := by
  obtain ⟨-, -, ht⟩ := h
  unfold mmaCompute
  dsimp only
  split
  · exact Memory.splice_wf (Memory.splice_wf ht _ _) _ _
  · exact Memory.splice_wf ht _ _

theorem State.memOk_runMatrix {s : State} (h : s.memOk) (x : MatrixOp) {w : Wave} (hw : w.memOk) : (s.runMatrix x w).1.memOk := by
  unfold State.runMatrix
  split
  · exact State.memOk_mapWave h _ _ fun _ ⟨h₁, h₂, h₃⟩ => ⟨h₁, h₂, Memory.zero_wf h₃ _ _⟩
  · exact State.memOk_fst_ite (State.memOk_mapWave h _ _ fun _ ⟨h₁, h₂, _⟩ => ⟨h₁, h₂, mmaCompute_wf hw ..⟩) h

theorem keepsMemOk_execMatrixOpStart (c : CoreId) : KeepsMemOk (execMatrixOpStart c) := by
  refine keepsMemOk_next fun s h => ?_
  split
  · exact h
  · refine State.memOk_ite h ?_
    split
    · exact h
    next x _ _ _ w hw => exact (State.memOk_runMatrix h x (State.memOk_wave? h hw)).same

theorem keepsMemOk_execMatrixOpCompletion (c : CoreId) : KeepsMemOk (execMatrixOpCompletion c) := by
  refine keepsMemOk_next fun s h => ?_
  split
  · exact h
  · refine State.memOk_ite h (State.memOk_ite (State.memOk_notify ?_ ..) ?_) <;>
      exact State.memOk_orFlags (State.memOk_report h.same ..) ..

/-! ## The bank units -/

theorem keepsMemOk_runBmv (form : BankForm) (f : AF) : KeepsMemOk (runBmv form f) :=
  keepsMemOk_runForm _ fun c _ _ h => Effect.memOk_ite h (memOk_withBlock h c _ _ _ fun _ _ hs =>
    memOk_withFields hs _ _ (Effect.memOk_ite hs hs))

theorem State.memOk_writeRow {s : State} (h : s.memOk) (x : BmvOp) (row : Nat) (y : RowResult) : (s.writeRow x row y).memOk := by
  have hw := State.memOk_engineWrite h (s.bankOutput x true).viewer false (.phys y.pa) 4 (leBytes 4 y.value)
  unfold State.writeRow
  exact hw.same

theorem keepsMemOk_execBankRowCompute (op row : Nat) : KeepsMemOk (execBankRowCompute op row) := by
  refine keepsMemOk_next fun s h => ?_
  split
  · exact h
  · refine State.memOk_ite h ?_
    split
    · exact State.memOk_writeRow h ..
    · exact h
    · exact h

theorem State.memOk_completeBmv {s : State} (h : s.memOk) (x : BmvOp) : (s.completeBmv x).memOk := h

theorem State.memOk_reportBmv {s : State} (h : s.memOk) (x : BmvOp) : (s.reportBmv x).memOk := by
  unfold State.reportBmv
  refine State.memOk_ite (State.memOk_notify ?_ ..) ?_ <;>
    exact State.memOk_orFlags (State.memOk_report (State.memOk_ite h.same h.same) ..) ..

theorem keepsMemOk_execBmvCompletion (c : CoreId) (op : Nat) : KeepsMemOk (execBmvCompletion c op) := by
  refine keepsMemOk_next fun s h => ?_
  split
  · exact h
  next x _ =>
    have hc := State.memOk_ite (p := x.completed = true) h (State.memOk_completeBmv h x)
    exact State.memOk_ite h (State.memOk_ite (State.memOk_reportBmv hc x) hc)

end Sys2Proof.Machine
end

section
/-!
PROOF. O58: copies and rings keep the memories canonical.
-/
namespace Sys2Proof.Machine
open Sys2Proof

/-! ## Copies -/

theorem memOk_enterCopy {s : State} (h : s.memOk) (c : Ctx) (x : CopyOp) (sc : Nat) : (enterCopy c s x sc).state.memOk := by
  have hs := State.memOk_sending h c.t.id
  unfold enterCopy
  refine Effect.memOk_ite h ?_
  dsimp only [Effect.state]
  exact hs.same

theorem keepsMemOk_execCpy (f : ADF) : KeepsMemOk (execCpy f) := by
  refine keepsMemOk_runForm _ fun c o s h => ?_
  split
  · exact memOk_enterCopy h ..
  · refine Effect.memOk_ite h (memOk_withBlock h c _ _ _ fun s blk hs => memOk_withFields hs _ _ ?_)
    dsimp only
    split
    · exact hs
    · exact memOk_enterCopy hs ..

theorem keepsMemOk_execCpystat (f : ADF) : KeepsMemOk (execCpystat f) :=
  keepsMemOk_runForm _ fun c _ _ h => memOk_writeBoard h c _

theorem State.memOk_copyLearns {s : State} (h : s.memOk) (op : Nat) (events : List Nat) : (s.copyLearns op events).memOk :=
  State.memOk_ite h h

theorem State.memOk_copyMeets {s : State} (h : s.memOk) (op : Nat) (events : List Nat) : (s.copyMeets op events).memOk :=
  State.memOk_ite h h

theorem State.memOk_storeByte {s : State} (h : s.memOk) (x : CopyOp) (p : Store) (i : Nat) (b : Byte) : (s.storeByte x p i b).memOk := by
  unfold State.storeByte
  split
  · exact State.memOk_copyLearns (State.memOk_engineWrite h ..) ..
  · refine State.memOk_mapWave h _ _ fun w ⟨h₁, h₂, h₃⟩ => Wave.memOk_ite ?_ ?_
    · exact ⟨h₁, h₂, Memory.set_wf h₃ _ _⟩
    · exact ⟨h₁, Memory.set_wf h₂ _ _, h₃⟩

theorem State.memOk_streamUpdated {s : State} (h : s.memOk) (x : CopyOp) (event : Nat) : (s.streamUpdated x event).memOk :=
  State.memOk_ite h h

theorem State.memOk_copyUpdate {s : State} (h : s.memOk) (x : CopyOp) (loc : Loc) (view : Bool) (n : Nat) (f : List Byte → List Byte) :
    (s.copyUpdate x loc view n f).memOk := by
  have hu := State.memOk_update h (s.copyWriter x) (Writing.plain view) s.stamp loc n f
  unfold State.copyUpdate
  refine State.memOk_ite (State.memOk_streamUpdated (State.memOk_copyMeets (State.memOk_copyLearns ?_ ..) ..) ..) hu
  exact hu.same

theorem State.memOk_cleanUnit {s : State} (h : s.memOk) (u : PoisonUnit) : (s.cleanUnit u).memOk := by
  cases u with
  | line n => exact h
  | spad w n => exact State.memOk_mapWave h _ _ fun _ hw => hw
  | sram w tile n => exact State.memOk_mapWave h _ _ fun _ hw => Wave.memOk_ite hw hw

theorem State.memOk_keepOld {s : State} (h : s.memOk) (x : CopyOp) (p : Store) (va i : Nat) : (s.keepOld x p va i).memOk :=
  State.memOk_ite h h

theorem State.memOk_writeElement {s : State} (h : s.memOk) (x : CopyOp) (ch : Chunk) (e : Written) : (s.writeElement x ch e).memOk := by
  unfold State.writeElement
  refine State.memOk_ite (State.memOk_ite h ?_) (State.memOk_foldl _ (fun s b hs => State.memOk_ite hs ?_) h _)
  · dsimp only
    split
    · exact State.memOk_copyUpdate h ..
    · exact State.memOk_storeByte h ..
  · exact State.memOk_storeByte (State.memOk_keepOld hs ..) ..

/-- A chunk that is done, if it is, leaves canonical memories. -/
def Reached.memOk (r : Reached State) : Prop := ∀ t, r = .ok t → t.memOk

theorem Reached.memOk_ok {s : State} (h : s.memOk) : (Reached.ok s).memOk := by
  rintro _ ⟨⟩
  exact h

theorem Reached.memOk_bind {α : Type} (r : Reached α) {f : α → Reached State} (hf : ∀ x, (f x).memOk) : (r.bind f).memOk := by
  cases r with
  | ok x => exact hf x
  | wait => rintro _ ⟨⟩
  | fault c va n => rintro _ ⟨⟩

theorem State.memOk_runChunk {s : State} (h : s.memOk) (x : CopyOp) (w : Wave) (ch : Chunk) : (s.runChunk x w ch).memOk := by
  refine Reached.memOk_bind _ fun vals => Reached.memOk_bind _ fun outs => ?_
  have hm := State.memOk_copyMeets (s := s.pastReads ch) h x.id (vals.flatMap (·.2.met))
  dsimp only
  split
  · exact Reached.memOk_ok hm
  · refine Reached.memOk_ok (s := State.mapCopy _ _ _) ?_
    exact State.memOk_foldl State.cleanUnit (fun _ u hs => State.memOk_cleanUnit hs u)
      (State.memOk_foldl _ (fun _ _ hs => State.memOk_writeElement hs ..) hm _) _

theorem State.memOk_tryChunk {s : State} (h : s.memOk) {x y : CopyOp} {elements : Nat} {ch : Chunk} {r : Reached State}
    (hr : s.tryChunk x elements = some (y, ch, r)) : r.memOk := by
  unfold State.tryChunk at hr
  split at hr
  · cases hr
  split at hr
  · split at hr
    · cases hr
    split at hr
    · cases hr
    · cases hr
      exact State.memOk_runChunk h _ _ _
  · cases hr

theorem State.memOk_classChunk {s : State} (h : s.memOk) {c : Core} {id : CoreId} {k elements : Nat} {x : CopyOp} {ch : Chunk}
    {r : Reached State} (hr : s.classChunk c id k elements = some (x, ch, r)) : r.memOk := by
  obtain ⟨y, -, hy⟩ := List.exists_of_findSome?_eq_some hr
  exact State.memOk_tryChunk h hy

theorem State.memOk_arbitrate {s : State} (h : s.memOk) {id : CoreId} {elements fuel : Nat} {c d : Core} {x : CopyOp} {ch : Chunk}
    {r : Reached State} (hr : s.arbitrate id elements fuel c = some (d, x, ch, r)) : r.memOk := by
  induction fuel generalizing c with
  | zero => cases hr
  | succ fuel ih =>
    unfold State.arbitrate at hr
    dsimp only at hr
    split at hr
    · exact ih hr
    next hc =>
      split at hr
      · split at hr
        · cases hr
          exact State.memOk_classChunk h hc
        · exact ih hr
      · exact ih hr

theorem State.memOk_settleCopy {s : State} (h : s.memOk) (op : Nat) : (s.settleCopy op).memOk := by
  unfold State.settleCopy
  split
  · exact h
  · exact State.memOk_ite h (State.memOk_ite h (State.memOk_ite h h))

theorem State.memOk_updateExpected {s : State} (h : s.memOk) (id : Nat) : (s.updateExpected id).memOk := by
  unfold State.updateExpected
  dsimp only
  split
  · exact State.memOk_ite h h
  · exact h

theorem keepsMemOk_execCopyChunkStart (c : CoreId) (elements : Nat) : KeepsMemOk (execCopyChunkStart c elements) := by
  refine keepsMemOk_next fun s h => ?_
  split
  · exact h
  split
  · exact h
  next ha =>
    dsimp only
    split
    next s' =>
      refine State.memOk_settleCopy ?_ _
      exact State.memOk_arbitrate h ha s' rfl
    next => exact h
    next =>
      refine State.memOk_settleCopy ?_ _
      exact h

theorem State.memOk_applyUpdate {s : State} (h : s.memOk) (x : CopyOp) (u : Update) : (s.applyUpdate x u).memOk := by
  have hu := fun f => State.memOk_copyUpdate h (x.lending u.ordinal) (.phys u.pa) u.view (x.dstNibbles / 2) f
  exact State.memOk_ite h (State.memOk_ite (State.memOk_cleanUnit (hu _) _) (hu _))

theorem State.memOk_applyAll {s : State} (h : s.memOk) (x : CopyOp) (us : List Update) : (s.applyAll x us).1.memOk := by
  induction us generalizing s with
  | nil => exact h
  | cons u us ih => exact State.memOk_fst_ite h (ih (State.memOk_applyUpdate h x u))

theorem State.memOk_applyUpdates {s : State} (h : s.memOk) (x : CopyOp) (elements : Nat) : (s.applyUpdates x elements).memOk :=
  State.memOk_settleCopy (s := State.mapCopy _ _ _) (State.memOk_applyAll h x _) _

theorem keepsMemOk_execReductionApply (op elements : Nat) : KeepsMemOk (execReductionApply op elements) := by
  refine keepsMemOk_next fun s h => ?_
  split
  · exact h
  next x _ =>
    have he := State.memOk_updateExpected h x.stream
    exact State.memOk_ite h (State.memOk_ite (State.memOk_applyUpdates h ..)
      (State.memOk_ite he (State.memOk_ite (State.memOk_applyUpdates he ..) (State.memOk_ite he (State.memOk_settleCopy he op)))))

theorem State.memOk_completeCopy {s : State} (h : s.memOk) (x : CopyOp) : (s.completeCopy x).memOk := by
  have hs := State.memOk_settleCopy h x.id
  unfold State.completeCopy
  generalize s.settleCopy x.id = u at hs
  exact State.memOk_ite hs hs

theorem State.memOk_reportCopy {s : State} (h : s.memOk) (x : CopyOp) : (s.reportCopy x).memOk := by
  unfold State.reportCopy
  refine State.memOk_ite ?_ (State.memOk_notify ?_ ..) <;> exact State.memOk_report h.same ..

theorem keepsMemOk_execCopyCompletion (c : CoreId) (op : Nat) : KeepsMemOk (execCopyCompletion c op) := by
  refine keepsMemOk_next fun s h => ?_
  split
  · exact h
  next x _ =>
    have hc := State.memOk_ite (p := x.completed = true) h (State.memOk_completeCopy h x)
    exact State.memOk_ite h (State.memOk_ite (State.memOk_reportCopy hc x) hc)

theorem State.memOk_resolve {s : State} (h : s.memOk) (die : Nat) (fatal : Bool) : (s.resolve die fatal).memOk := by
  unfold State.resolve
  split
  · refine State.memOk_ite h ?_
    dsimp only
    split
    · exact State.memOk_settleCopy (State.memOk_mapDie h _ _) _
    · exact h
  · exact h

/-! ## Rings -/

theorem State.memOk_descriptor {s : State} (h : s.memOk) (pa : Nat) : (s.descriptor pa).1.memOk := State.memOk_fst_ite h h

theorem memOk_withRing {s : State} (h : s.memOk) (c : Ctx) (o : Word) (writes : Bool) {go : Ring → State → Effect}
    (hg : ∀ r s, s.memOk → (go r s).state.memOk) : (withRing c s o writes go).state.memOk := by
  refine memOk_withBlock h c _ _ _ fun s blk hs => Effect.memOk_ite hs (Effect.memOk_ite hs ?_)
  refine memOk_withAccess hs c _ _ fun loc view _ => ?_
  cases loc with
  | phys pa =>
    have hd := State.memOk_descriptor (State.memOk_settlePhys (State.memOk_drain hs c.t.id) pa 64) pa
    exact Effect.memOk_ite hs (Effect.memOk_ite hs (Effect.memOk_ite hs (Effect.memOk_ite hs (hg _ _ hd))))
  | spad w off => exact hs
  | fitted r e => exact hs

theorem State.memOk_meetRing {s : State} (h : s.memOk) (id : ThreadId) (r : Ring) : (s.meetRing id r).memOk :=
  State.memOk_ite h (State.memOk_readBy h ..)

theorem State.memOk_putRing {s : State} (h : s.memOk) (id : ThreadId) (pc : Word) (r : Ring) (releases : Bool) (off : Nat) (v : Word) :
    (s.putRing id pc r releases off v).memOk :=
  State.memOk_ite h (State.memOk_numbered (State.memOk_writeAs (State.memOk_publish h id) ..) id)

theorem State.memOk_ringAcquire {s : State} (h : s.memOk) (id : ThreadId) : (s.ringAcquire id).memOk := State.memOk_ite h h

theorem State.memOk_claimRing {s : State} (h : s.memOk) (c : Ctx) (r : Ring) : (s.claimRing c r).memOk :=
  State.memOk_ringAcquire (State.memOk_putRing (State.memOk_meetRing h ..) ..) _

theorem State.memOk_awaitRing {s : State} (h : s.memOk) (c : Ctx) (r : Ring) : (s.awaitRing c r).memOk :=
  State.memOk_ringAcquire (State.memOk_meetRing h ..) _

theorem memOk_writePush {s : State} (h : s.memOk) (c : Ctx) (ws : List (Reg × Word)) : (writePush c s ws).state.memOk :=
  memOk_checkStack (k := .done (c.on s _)) h h c ws

theorem keepsMemOk_execRclaim (f : ADF) : KeepsMemOk (execRclaim f) :=
  keepsMemOk_runForm _ fun c _ _ h => memOk_withRing h c _ _ fun _ _ hs =>
    Effect.memOk_ite (memOk_writeBoard (State.memOk_claimRing hs ..) ..) hs

theorem keepsMemOk_execRclaimnf (f : ADF) : KeepsMemOk (execRclaimnf f) :=
  keepsMemOk_runForm _ fun c _ _ h => memOk_withRing h c _ _ fun _ _ hs =>
    Effect.memOk_ite (memOk_writePush (State.memOk_claimRing hs ..) ..) (State.memOk_meetRing hs ..)

theorem keepsMemOk_execRawait (f : ADF) : KeepsMemOk (execRawait f) :=
  keepsMemOk_runForm _ fun c _ _ h => memOk_withRing h c _ _ fun _ _ hs =>
    Effect.memOk_ite (memOk_writeWith hs (State.memOk_awaitRing hs ..) ..) hs

theorem keepsMemOk_execRawaitnf (f : ADF) : KeepsMemOk (execRawaitnf f) :=
  keepsMemOk_runForm _ fun c _ _ h => memOk_withRing h c _ _ fun _ _ hs =>
    Effect.memOk_ite (memOk_writeBoard (s := c.on _ _) (State.memOk_awaitRing hs ..) ..) (State.memOk_meetRing hs ..)

theorem keepsMemOk_execRcommit (f : ADF) : KeepsMemOk (execRcommit f) := by
  refine keepsMemOk_runForm _ fun c _ _ h => memOk_withRing h c _ _ fun r s hs => Effect.memOk_ite hs (Effect.memOk_ite ?_ hs)
  refine State.memOk_ite ?_ (State.memOk_deliver ?_ _) <;> exact State.memOk_putRing (State.memOk_meetRing hs ..) ..

theorem keepsMemOk_execRretire (f : AF) : KeepsMemOk (execRretire f) :=
  keepsMemOk_runForm _ fun c _ _ h => memOk_withRing h c _ _ fun _ _ hs =>
    Effect.memOk_ite hs (State.memOk_putRing (State.memOk_meetRing hs ..) ..)

end Sys2Proof.Machine
end

section
/-!
PROOF. O58: ports and join patterns keep the memories canonical.
-/
namespace Sys2Proof.Machine
open Sys2Proof

/-! ## Ports and patterns -/

theorem memOk_withPort {s : State} (h : s.memOk) (p : Word) {go : Die → Effect} (hg : ∀ d, (go d).state.memOk) :
    (withPort s p go).state.memOk := by
  unfold withPort
  split
  · exact h
  · exact hg _

theorem State.memOk_trapWaiting {s : State} (h : s.memOk) (p : Word) (cause : Cause) : (s.trapWaiting p cause).memOk := by
  refine State.memOk_foldl _ (fun s t hs => ?_) h _
  split
  · exact State.memOk_trap hs ..
  · exact hs

theorem keepsMemOk_execPalloc (f : ADF) : KeepsMemOk (execPalloc f) := by
  refine keepsMemOk_runForm _ fun c o s h => memOk_withBlock h c _ _ _ fun s blk hs => memOk_withFields hs _ _ ?_
  split
  · exact memOk_writeBoard hs ..
  · exact memOk_writeBoard (State.memOk_mapDie hs _ _) ..

theorem State.memOk_freePort {s : State} (h : s.memOk) (p : Word) : (s.freePort p).memOk :=
  State.memOk_trapWaiting (State.memOk_mapDie h _ _) ..

theorem keepsMemOk_execPfree (f : AF) : KeepsMemOk (execPfree f) :=
  keepsMemOk_runForm _ fun _ _ _ h => memOk_withPort h _ fun _ => Effect.memOk_ite h (State.memOk_freePort h _)

theorem memOk_sent {s t : State} (h : s.memOk) {c : Ctx} {p : Word} {msg : List Word} {k : Int} (ht : sent c s p msg k = some t) :
    t.memOk := State.memOk_deliver? (State.memOk_sending h c.t.id) ht

theorem memOk_sendOrTrap {s : State} (h : s.memOk) (c : Ctx) (p : Word) (msg : List Word) (k : Int) :
    (sendOrTrap c s p msg k).state.memOk := by
  refine memOk_withPort h _ fun _ => ?_
  split
  · exact memOk_sent h ‹_›
  · exact h

theorem keepsMemOk_execSendnf (f : ADF) : KeepsMemOk (execSendnf f) := by
  refine keepsMemOk_runForm _ fun c o s h => memOk_withPort h _ fun _ => ?_
  split
  next ht =>
    have hs := memOk_sent h ht
    exact hs
  next => exact State.memOk_sending h _

theorem memOk_withConsumption {s : State} (h : s.memOk) (p : Word) {go : Option (List Word × PortKind × Know) → Effect}
    (hg : ∀ x, (go x).state.memOk) : (withConsumption s p go).state.memOk := by
  refine memOk_withPort h _ fun d => ?_
  split
  · exact h
  · exact Effect.memOk_ite h (hg _)

theorem memOk_consumed {s : State} (h : s.memOk) (c : Ctx) (p : Word) (k : PortKind) (know : Know) : (consumed c s p k know).memOk := h

theorem keepsMemOk_execRecv (f : ADF) : KeepsMemOk (execRecv f) := by
  refine keepsMemOk_runForm _ fun c o s h => memOk_withConsumption h _ fun x => ?_
  cases x with
  | none => exact h
  | some x => exact memOk_writeBoard (memOk_consumed h ..) ..

theorem keepsMemOk_execRecvnf (f : ADF) : KeepsMemOk (execRecvnf f) := by
  refine keepsMemOk_runForm _ fun c o s h => memOk_withConsumption h _ fun x => ?_
  cases x with
  | none => exact h
  | some x => exact memOk_writePush (memOk_consumed h ..) ..

theorem keepsMemOk_execPinfo (f : ADF) : KeepsMemOk (execPinfo f) :=
  keepsMemOk_runForm _ fun c _ _ h => memOk_withPort h _ fun _ => memOk_writeBoard h c _

theorem keepsMemOk_execPatdef (f : ADF) : KeepsMemOk (execPatdef f) := by
  refine keepsMemOk_runForm _ fun c o s h => memOk_withBlock h c _ _ _ fun s blk hs => ?_
  split
  · exact memOk_writeBoard hs ..
  split
  · exact hs
  split
  · exact memOk_writeBoard hs ..
  · exact memOk_writeBoard (State.memOk_mapDie hs _ _) ..

theorem keepsMemOk_execPatdel (f : AF) : KeepsMemOk (execPatdel f) :=
  keepsMemOk_runForm _ fun _ _ _ h => by split <;> exact h

theorem keepsMemOk_execPatarm (f : ADF) : KeepsMemOk (execPatarm f) := by
  refine keepsMemOk_runForm _ fun c o s h => ?_
  split
  · exact h
  · refine Effect.memOk_ite h (Effect.memOk_ite h (Effect.memOk_ite h ?_))
    split
    · exact h
    · refine State.memOk_foldl _ (fun _ p hs => State.memOk_trapWaiting hs p .portbound) ?_ _
      exact h

/-- Consuming from a pattern's ports changes no memory. -/
theorem State.memOk_fire {s : State} (h : s.memOk) (die : Nat) (p : Pattern) : (s.fire die p).memOk := by
  refine State.memOk_mapDie ?_ die _
  refine List.foldlRecOn (motive := fun acc : State × List Byte × Know => acc.1.memOk) _ _ h fun acc ha x _ => ?_
  split
  · exact ha
  · exact ha

theorem keepsMemOk_execPatternFiring (die : Nat) : KeepsMemOk (execPatternFiring die) := by
  refine keepsMemOk_next fun s h => ?_
  split
  · exact h
  · refine State.memOk_ite h ?_
    split
    · exact h
    · exact State.memOk_fire (State.memOk_mapDie h _ _) ..

theorem keepsMemOk_execHeldDeliveryRetry (die n : Nat) : KeepsMemOk (execHeldDeliveryRetry die n) := by
  refine keepsMemOk_next fun s h => ?_
  split
  · exact h
  split
  · exact h
  · refine State.memOk_ite h ?_
    split
    · exact h
    next ht => exact State.memOk_mapDie (State.memOk_deliver? h ht) _ _

end Sys2Proof.Machine
end

section
/-!
PROOF. O58: reserving loops and fitted regions keep the memories canonical.
-/
namespace Sys2Proof.Machine
open Sys2Proof

/-! ## Reserving loops -/

theorem keepsMemOk_runClaim (w : Bool) (f : AF) : KeepsMemOk (runClaim w f) :=
  keepsMemOk_runForm _ fun _ _ _ h =>
    Effect.memOk_ite h (Effect.memOk_ite h (Effect.memOk_ite h (Effect.memOk_ite h h)))

theorem keepsMemOk_execAdmit (f : GF) : KeepsMemOk (execAdmit f) := by
  refine keepsMemOk_runForm _ fun c o s h => Effect.memOk_ite h ?_
  split <;> exact h

theorem keepsMemOk_execRsvinfo (f : DF) : KeepsMemOk (execRsvinfo f) :=
  keepsMemOk_runForm _ fun c _ s h => memOk_writeBoard (s := { s with free := s.free + 1 }) h c _

theorem keepsMemOk_execItemAdmission (launch item : Nat) : KeepsMemOk (execItemAdmission launch item) := by
  refine keepsMemOk_next fun s h => ?_
  split
  · exact h
  split
  · exact h
  split
  · exact State.memOk_ite (State.memOk_finishWaiting (State.memOk_mapThread (State.memOk_fence (State.memOk_mapLaunch h _ _) ..) _ _) ..) h
  · exact h

theorem keepsMemOk_execItemFinish (launch item : Nat) : KeepsMemOk (execItemFinish launch item) := by
  refine keepsMemOk_next fun s h => ?_
  split
  · exact h
  · exact State.memOk_ite h h

/-! ## Fitted regions -/

theorem keepsMemOk_runFit (f : ADF) (reads names : List Reg) (element release : Bool)
    {body : Ctx → (Nat → Word) → State → DWord → Region → Nat → Effect}
    (hb : ∀ c o s ea r k, s.memOk → (body c o s ea r k).state.memOk) : KeepsMemOk (runFit f reads names element release body) := by
  refine keepsMemOk_runForm _ fun c o s h => ?_
  dsimp only
  split
  · exact h
  · exact h
  · refine Effect.memOk_ite ?_ (hb _ _ _ _ _ _ ?_) <;> exact State.memOk_ite (State.memOk_drain h _) h

theorem memOk_markedZero {s : State} (h : s.memOk) (c : Ctx) (d : Reg) (ea : DWord) : (markedZero c s d ea).state.memOk :=
  memOk_checkStack (k := .done (c.on s _)) h h c _

theorem keepsMemOk_execFitx (f : ADF) : KeepsMemOk (execFitx f) :=
  keepsMemOk_runFit f _ _ _ _ fun _ _ _ _ _ _ h =>
    Effect.memOk_ite (memOk_markedZero h ..) (memOk_writeWith h (State.memOk_readBy h ..) ..)

theorem keepsMemOk_execFitgen (f : ADF) : KeepsMemOk (execFitgen f) :=
  keepsMemOk_runFit f _ _ _ _ fun _ _ _ _ _ _ h => Effect.memOk_ite (memOk_markedZero h ..) (memOk_writeBoard h ..)

theorem keepsMemOk_execFitstat (f : ADF) : KeepsMemOk (execFitstat f) :=
  keepsMemOk_runFit f _ _ _ _ fun _ _ _ _ _ _ h => Effect.memOk_ite (memOk_markedZero h ..) (memOk_writeBoard h ..)

theorem State.memOk_reportRefit {s : State} (h : s.memOk) (q : RefitReq) (status : Nat) (gen : Word) :
    (s.reportRefit q status gen).memOk := State.memOk_ite h (State.memOk_notify h ..)

theorem State.memOk_reportRefits {s : State} (h : s.memOk) (qs : List RefitReq) (status : Nat) (gen : Word) :
    (s.reportRefits qs status gen).memOk :=
  State.memOk_foldl _ (fun _ _ hs => State.memOk_reportRefit hs ..) h _

theorem State.memOk_mapRegion {s : State} (h : s.memOk) (id : Nat) (f : Region → Region) : (s.mapRegion id f).memOk := h

theorem State.memOk_withRegions {s : State} (h : s.memOk) (rs : List Region) (n : Nat) :
    ({ s with regions := rs, nextId := n } : State).memOk := h

theorem keepsMemOk_execRefit (f : ADF) : KeepsMemOk (execRefit f) := by
  refine keepsMemOk_runFit f _ _ _ _ fun c o s ea r k h => ?_
  have hp := State.memOk_publish h c.t.id
  exact Effect.memOk_ite hp (Effect.memOk_ite hp (Effect.memOk_ite (State.memOk_reportRefit hp ..) hp))

theorem keepsMemOk_execRefitSwap (region : Nat) (params : FitParams) (extra : List Nat) :
    KeepsMemOk (execRefitSwap region params extra) := by
  refine keepsMemOk_next fun s h => ?_
  split
  · exact h
  · exact State.memOk_ite h (State.memOk_reportRefits (State.memOk_mapRegion h _ _) ..)

theorem State.memOk_abandonRefit {s : State} (h : s.memOk) (r : Region) : (s.abandonRefit r).memOk :=
  State.memOk_ite h (State.memOk_reportRefits (State.memOk_mapRegion h _ _) ..)

theorem keepsMemOk_execRefitAbandon (region : Nat) : KeepsMemOk (execRefitAbandon region) := by
  refine keepsMemOk_next fun s h => ?_
  split
  · exact h
  · exact State.memOk_abandonRefit h _

theorem keepsMemOk_runSys (f : Form) {body : Ctx → (Nat → Word) → State → Effect}
    (hb : ∀ c o s, s.memOk → (body c o s).state.memOk) : KeepsMemOk (runSys f body) := by
  intro s t h ht
  unfold runSys at ht
  split at ht
  · cases ht
  split at ht
  · exact keepsMemOk_runForm f hb s t h ht
  · cases ht
    refine memOk_finish ?_ ..
    exact h

theorem keepsMemOk_illegalEncoding (sys : Bool) : KeepsMemOk (illegalEncoding sys) := by
  intro s t h ht
  unfold illegalEncoding at ht
  split at ht
  · cases ht
  · cases ht
    refine State.memOk_ite (memOk_finish ?_ ..) (memOk_finish ?_ ..) <;> exact h

/-! ## Making and dropping a fitted region -/

theorem State.memOk_rawBytes {s : State} (h : s.memOk) (id : ThreadId) (ps : List RawPiece) : (s.rawBytes id ps).1.memOk := by
  induction ps generalizing s with
  | nil => exact h
  | cons p ps ih => exact ih (State.memOk_readBy h ..)

theorem State.memOk_writeField {s : State} (h : s.memOk) (id : ThreadId) (ps : List RawPiece) (va : Nat) (bs : List Byte) :
    (s.writeField id ps va bs).memOk := by
  unfold State.writeField
  split
  · exact State.memOk_numbered (State.memOk_writeAs h ..) _
  · exact h

/-- A step over an area that answers gave what it goes on with. -/
theorem AreaResult.bind_ok {α β : Type} {r : AreaResult α} {f : α → AreaResult β} {y : β} (h : r.bind f = .ok y) :
    ∃ x, r = .ok x ∧ f x = .ok y := by
  cases r with
  | ok x => exact ⟨x, rfl, h⟩
  | wait va => cases h
  | fault c va => cases h

theorem State.memOk_sourceElements {s : State} (h : s.memOk) (c : Ctx) (e : Nat) (ps : List (Nat × Nat)) {r : State × List Nat}
    (hr : s.sourceElements c e ps = .ok r) : r.1.memOk := by
  induction ps generalizing s r with
  | nil => cases hr; exact h
  | cons p ps ih =>
    unfold State.sourceElements at hr
    obtain ⟨q, -, hq⟩ := AreaResult.bind_ok hr
    split at hq
    · cases hq
    · obtain ⟨more, hm, hmore⟩ := AreaResult.bind_ok hq
      cases hmore
      have hi := ih (State.memOk_rawBytes h _ _) hm
      exact hi

theorem keepsMemOk_execFitmake (f : ADF) : KeepsMemOk (execFitmake f) := by
  refine keepsMemOk_runSys _ fun c o s h => ?_
  have hd := State.memOk_drain h c.t.id
  refine Effect.memOk_ite hd ?_
  split
  · exact hd
  · exact hd
  next ps _ =>
    have hr := State.memOk_rawBytes hd c.t.id ps
    refine Effect.memOk_ite hd ?_
    dsimp only
    split
    · exact hd
    · exact hd
    · have hf := State.memOk_fence hr c.t.id .module .release
      refine Effect.memOk_ite hd (Effect.memOk_ite hd (Effect.memOk_ite (State.memOk_writeField hf ..) ?_))
      split
      · exact hd
      · exact hd
      next hs =>
        refine State.memOk_withRegions (State.memOk_writeField (State.memOk_writeField (State.memOk_writeField
          (State.memOk_writeField ?_ ..) ..) ..) ..) _ _
        exact State.memOk_sourceElements hf _ _ _ hs

theorem keepsMemOk_execFitdrop (f : AF) : KeepsMemOk (execFitdrop f) := by
  refine keepsMemOk_runSys _ fun c o s h => ?_
  have hd := State.memOk_drain h c.t.id
  dsimp only
  split
  · exact h
  · refine Effect.memOk_ite hd ?_
    refine State.memOk_reportRefits ?_ ..
    exact hd.same

end Sys2Proof.Machine
end

section
/-!
PROOF. O58: the end of accesses, pre-emption and the privileged instructions keep the memories canonical.
-/
namespace Sys2Proof.Machine
open Sys2Proof

/-! ## Loads and stores come to an end -/

theorem memOk_trapAtLoad {s : State} (h : s.memOk) (id : ThreadId) (l : PendingLoad) (cause : Cause) (ea : DWord) :
    (trapAtLoad s id l cause ea).memOk := by
  unfold trapAtLoad
  split
  · exact State.memOk_trap h ..
  · exact h

theorem State.memOk_returnLoad {s : State} (h : s.memOk) (id : ThreadId) (n : Nat) : (s.returnLoad id n).memOk := by
  unfold State.returnLoad
  split
  · exact h
  split
  · exact h
  · have hm := State.memOk_mapThread h id fun t => { t with loads := t.loads.eraseIdx n }
    exact State.memOk_ite h (State.memOk_ite (memOk_trapAtLoad hm ..) (State.memOk_ite (memOk_trapAtLoad hm ..) hm))

theorem keepsMemOk_execLoadDataReturn (t : ThreadId) (n : Nat) : KeepsMemOk (execLoadDataReturn t n) :=
  keepsMemOk_next fun _ h => State.memOk_returnLoad h t n

theorem State.memOk_storeEffect {s : State} (h : s.memOk) (id : ThreadId) : (s.storeEffect id).memOk := by
  unfold State.storeEffect
  split
  · exact h
  split
  · exact h
  · exact State.memOk_mapThread (State.memOk_applyStore h ..) _ _

theorem keepsMemOk_execStoreTakesEffect (t : ThreadId) : KeepsMemOk (execStoreTakesEffect t) :=
  keepsMemOk_next fun _ h => State.memOk_storeEffect h t

theorem State.memOk_finishLoads {s : State} (h : s.memOk) (id : ThreadId) (fuel : Nat) : (s.finishLoads id fuel).memOk := by
  induction fuel generalizing s with
  | zero => exact h
  | succ fuel ih =>
    unfold State.finishLoads
    split
    · exact ih (State.memOk_returnLoad h ..)
    · exact h

/-! ## Hard pre-emption -/

theorem Wave.memOk_unmark {w : Wave} (h : w.memOk) (tile : Bool) (n : Nat) : (w.unmark tile n).memOk := Wave.memOk_ite h h

theorem State.memOk_leaveWait {s : State} (h : s.memOk) (c : Ctx) : (s.leaveWait c).memOk := by
  unfold State.leaveWait
  refine State.memOk_mapThread ?_ _ _
  split
  · exact State.memOk_mapWave h _ _ fun _ hw => Wave.memOk_dequeueClaim hw ..
  · exact State.memOk_mapWave h _ _ fun _ hw => Wave.memOk_unmark hw ..
  · exact h
  · exact h

theorem State.memOk_failArea {s t : State} (h : s.memOk) {c : Ctx} {cause : Cause} {va : Nat} (ht : s.failArea c cause va = some t) :
    t.memOk := by
  unfold State.failArea at ht
  dsimp only at ht
  split at ht
  · cases ht
    refine State.memOk_stopDomain ?_ ..
    exact h
  · cases ht

theorem State.memOk_hardStop {s t : State} (h : s.memOk) {id : ThreadId} (ht : s.hardStop id = some t) : t.memOk := by
  unfold State.hardStop at ht
  split at ht
  · cases ht; exact h
  split at ht
  · cases ht; exact h
  next c0 _ _ =>
    have hd := State.memOk_drain (State.memOk_finishLoads (State.memOk_leaveWait h c0) id c0.t.loads.length) id
    dsimp only at ht
    generalize ((s.leaveWait c0).finishLoads id c0.t.loads.length).drain id = u at hd ht
    split at ht
    · cases ht; exact hd
    next c _ =>
      split at ht
      · cases ht; exact hd
      have hs := State.memOk_hardSave hd c c.t.settle c.t.settle.pc
      split at ht
      · cases ht
      · exact State.memOk_failArea hd ht
      next hr => cases ht; exact State.memOk_mapThread (hs _ hr) _ _

theorem State.memOk_hardStops {s t : State} (h : s.memOk) {ids : List ThreadId} (ht : s.hardStops ids = some t) : t.memOk := by
  induction ids generalizing s with
  | nil => cases ht; exact h
  | cons id ids ih =>
    unfold State.hardStops at ht
    split at ht
    next hs => exact ih (State.memOk_hardStop h hs) ht
    next => cases ht

/-- A change that may not take place yet keeps the memories canonical when the change does. -/
theorem State.memOk_getD {s : State} (h : s.memOk) {o : Option State} (ho : ∀ t, o = some t → t.memOk) : (o.getD s).memOk := by
  cases o with
  | none => exact h
  | some t => exact ho t rfl

theorem State.memOk_hardPreempt {s : State} (h : s.memOk) (w : Wave) : (s.hardPreempt w).memOk :=
  State.memOk_ite h (State.memOk_getD h fun _ ht => State.memOk_hardStops h ht)

theorem State.memOk_cancelSteal {s : State} (h : s.memOk) (c : ClusterId) : (s.cancelSteal c).memOk := by
  unfold State.cancelSteal
  split <;> exact h

theorem State.memOk_requestOne {s : State} (h : s.memOk) (w : Wave) : (s.requestOne w).memOk := by
  have hw := State.memOk_mapWave (State.memOk_cancelSteal h w.clusterId) w.uid
    (fun y => { y with request := some ((s.cancelSteal w.clusterId).clockOf w.die) }) fun _ hy => hy
  unfold State.requestOne
  refine State.memOk_ite h (State.memOk_ite (State.memOk_hardPreempt ?_ w) ?_)
  · exact hw
  · exact hw

theorem State.memOk_requestPreemption {s : State} (h : s.memOk) (w : Wave) : (s.requestPreemption w).memOk :=
  State.memOk_foldl _ (fun _ w hs => State.memOk_requestOne hs w) h _

theorem keepsMemOk_execPreemptionRequest (wave : Nat) : KeepsMemOk (execPreemptionRequest wave) := by
  refine keepsMemOk_next fun s h => ?_
  split
  · exact h
  · exact State.memOk_ite h (State.memOk_requestPreemption h _)

theorem keepsMemOk_execHardPreemptCycleLimit (wave : Nat) : KeepsMemOk (execHardPreemptCycleLimit wave) := by
  refine keepsMemOk_next fun s h => ?_
  split
  · exact h
  · exact State.memOk_ite (State.memOk_hardPreempt h _) h

theorem keepsMemOk_execHardPreemptInstrLimit (wave : Nat) : KeepsMemOk (execHardPreemptInstrLimit wave) := by
  refine keepsMemOk_next fun s h => ?_
  split
  · exact h
  · exact State.memOk_ite (State.memOk_hardPreempt h _) h

theorem State.memOk_queuePreempted {s : State} (h : s.memOk) (w : Wave) : (s.queuePreempted w).memOk := by
  refine State.memOk_ite h ?_
  split <;> exact h

theorem keepsMemOk_execWaveLeavesCore (wave : Nat) : KeepsMemOk (execWaveLeavesCore wave) := by
  refine keepsMemOk_next fun s h => ?_
  split
  · exact h
  · refine State.memOk_ite h (State.memOk_queuePreempted ?_ _)
    refine State.memOk_withWaves (s := State.mk ..) ?_ (updateIf_waves_memOk h.2.1 _ fun _ hw => hw)
    exact h

/-! ## The privileged instructions -/

theorem State.memOk_invalidate {s : State} (h : s.memOk) (x : Invalidated) : (s.invalidate x).memOk := h

theorem keepsMemOk_execTlbinv (f : ADF) : KeepsMemOk (execTlbinv f) :=
  keepsMemOk_runSys _ fun c _ _ h =>
    have hf := State.memOk_fenceFull h c.t.id .module
    Effect.memOk_ite h (Effect.memOk_ite hf (State.memOk_invalidate hf _))

theorem memOk_writeAfter {s : State} (h : s.memOk) (c : Ctx) (ws : List (Reg × Word)) : (writeAfter c s ws).state.memOk :=
  memOk_checkStack (k := .done (c.on s _)) h h c ws

theorem keepsMemOk_execFqpop (f : ADF) : KeepsMemOk (execFqpop f) := by
  refine keepsMemOk_runSys _ fun c o s h => Effect.memOk_ite h (memOk_withAccess h _ _ _ fun loc view peer => ?_)
  split
  · exact memOk_writeBoard h ..
  · refine memOk_writeAfter (State.memOk_addBytes (memOk_accept ?_ ..) ..) ..
    exact h

theorem State.memOk_setTag {s : State} (h : s.memOk) (g tag : Nat) : (s.setTag g tag).memOk := h

theorem State.memOk_scrub {s : State} (h : s.memOk) (pa : Nat) : (s.scrub pa).memOk := ⟨Memory.zero_wf h.1 _ _, h.2⟩

theorem keepsMemOk_execLayout (f : ADF) : KeepsMemOk (execLayout f) := by
  refine keepsMemOk_runSys _ fun c o s h => ?_
  have hd := State.memOk_drain h c.t.id
  refine Effect.memOk_ite h (Effect.memOk_ite h (Effect.memOk_ite h (Effect.memOk_ite hd (State.memOk_setTag ?_ ..))))
  have hs := State.memOk_settlePhys hd (Word.pair (o 0) (o 1)).toNat 65536
  exact State.memOk_ite (State.memOk_scrub hs _) hs

theorem State.memOk_killNode {s : State} (h : s.memOk) (node : DWord) : (s.killNode node).1.memOk :=
  State.memOk_endPendings (State.memOk_foldl _ (fun _ l hs => State.memOk_endLaunch hs l 4 0) h _) ..

theorem keepsMemOk_execNodekill (f : ADF) : KeepsMemOk (execNodekill f) := by
  refine keepsMemOk_runSys _ fun c o s h => ?_
  dsimp only
  split
  · exact h
  · exact Effect.memOk_ite h (memOk_writeAfter (State.memOk_killNode h _) ..)

theorem keepsMemOk_execPreempt (f : ADF) : KeepsMemOk (execPreempt f) := by
  refine keepsMemOk_runSys _ fun c o s h => Effect.memOk_ite h ?_
  split
  · exact Effect.memOk_ite (memOk_writeAfter h ..) (memOk_writeAfter (State.memOk_requestPreemption h _) ..)
  · exact memOk_writeAfter h ..

theorem keepsMemOk_execSrdp (f : PrivF) : KeepsMemOk (execSrdp f) :=
  keepsMemOk_runSys _ fun _ _ _ h => memOk_writeBoard h ..

theorem State.memOk_setPrivileged {s : State} (h : s.memOk) (d : Die) (know : Know) (i : PReg) (v : Word) :
    (s.setPrivileged d know i v).memOk := by
  unfold State.setPrivileged
  split
  case h_3 => exact State.memOk_giveVerdict h ..
  all_goals exact h

theorem keepsMemOk_execSwrp (f : PrivF) : KeepsMemOk (execSwrp f) := by
  unfold execSwrp
  split
  · exact keepsMemOk_illegalEncoding true
  · refine keepsMemOk_runSys _ fun c o s h => Effect.memOk_ite h ?_
    split
    · exact h
    · have hs := State.memOk_ite (p := f.i = .fres) (State.memOk_sending h c.t.id) h
      exact Effect.memOk_ite hs (State.memOk_setPrivileged hs ..)

end Sys2Proof.Machine
end

section
/-!
PROOF. O58: the node dispatcher and the placing of waves keep the memories canonical.
-/
namespace Sys2Proof.Machine
open Sys2Proof

/-! ## The node dispatcher -/

theorem keepsMemOk_execLaunchMessage (die : Nat) (lo hi : DWord) : KeepsMemOk (execLaunchMessage die lo hi) :=
  keepsMemOk_next fun _ h =>
    have hm := State.memOk_launchMessage h die lo hi Know.none
    State.memOk_ite (State.memOk_ite (State.memOk_mapDie hm _ _) hm) h

theorem State.memOk_discardLaunch {s t : State} (h : s.memOk) {die : Nat} {p : PendingLaunch} {c : Cause} {size : Nat}
    (ht : s.discardLaunch die p c size = some t) : t.memOk := by
  unfold State.discardLaunch at ht
  split at ht
  · cases ht; exact h
  · cases ht

theorem State.memOk_admitHead {s t : State} (h : s.memOk) {die : Nat} {p : PendingLaunch} {dies : List Nat}
    (ht : s.admitHead die p dies = some t) : t.memOk := by
  have hrej (port : Word) (status detail : Nat) : (s.reportNode die port status detail p.node p.know).memOk :=
    State.memOk_reportNode h ..
  unfold State.admitHead at ht
  split at ht
  · cases ht
  · exact State.memOk_discardLaunch h ht
  dsimp only at ht
  split at ht
  · cases ht; exact hrej ..
  split at ht
  · cases ht
  · exact State.memOk_discardLaunch h ht
  · cases ht; exact hrej ..
  split at ht
  · cases ht; exact hrej ..
  split at ht
  · cases ht
  split at ht
  · cases ht; exact hrej ..
  · cases ht
    refine State.memOk_enqueueStep ?_ _
    exact h

theorem keepsMemOk_execNodeAdmission (die : Nat) (dies : List Nat) : KeepsMemOk (execNodeAdmission die dies) := by
  refine keepsMemOk_next fun s h => ?_
  split
  · exact h
  split
  · exact h
  · exact State.memOk_ite h (State.memOk_getD h fun _ ht => State.memOk_admitHead (State.memOk_mapDie h _ _) ht)

theorem State.memOk_removeLaunch {s : State} (h : s.memOk) (l : Launch) : (s.removeLaunch l).memOk := by
  refine State.memOk_unhold ?_ _
  exact h

theorem keepsMemOk_execStepBoundary (launch : Nat) (dies : List Nat) : KeepsMemOk (execStepBoundary launch dies) := by
  refine keepsMemOk_next fun s h => ?_
  split
  · exact h
  next l _ =>
    have hrej (status : Nat) : ((s.removeLaunch l).reportNode l.homeDie l.nd.port status 0 l.node l.later).memOk :=
      State.memOk_reportNode (State.memOk_removeLaunch h l) ..
    exact State.memOk_ite h (State.memOk_ite (hrej 5) (State.memOk_ite h (State.memOk_ite (hrej 2)
      (State.memOk_enqueueStep (State.memOk_mapLaunch h _ _) _))))

theorem keepsMemOk_execNodeCompletion (launch : Nat) : KeepsMemOk (execNodeCompletion launch) := by
  refine keepsMemOk_next fun s h => ?_
  split
  · exact h
  · exact State.memOk_ite (State.memOk_reportNode (State.memOk_removeLaunch h _) ..) h

theorem State.memOk_finishItems {s : State} (h : s.memOk) (w : Wave) : (s.finishItems w).memOk :=
  State.memOk_foldl _ (fun _ _ hs => State.memOk_mapLaunch hs _ _) h _

theorem State.memOk_letGo {s : State} (h : s.memOk) (w : Wave) : (s.letGo w).memOk := by
  unfold State.letGo
  refine State.memOk_dropWave ?_ _
  exact h

theorem State.memOk_dropWaves {s : State} (h : s.memOk) (ws : List Wave) : (s.dropWaves ws).memOk :=
  State.memOk_foldl _ (fun _ w hs => State.memOk_letGo hs w) h _

theorem keepsMemOk_execFootprintRelease (wave : Nat) : KeepsMemOk (execFootprintRelease wave) := by
  refine keepsMemOk_next fun s h => ?_
  split
  · exact h
  split
  · exact h
  next w _ _ l _ =>
    have hf := State.memOk_mapLaunch (State.memOk_finishItems h w) l.id fun l =>
      { l with later := l.later.join (s.waveKnows wave) }
    refine State.memOk_ite h ?_
    have hq := fun {u : State} (hu : u.memOk) =>
      State.memOk_ite (p := l.ended = true) (State.memOk_sweepLaunch (State.memOk_queuePreempted hu w) l.id)
        (State.memOk_queuePreempted hu w)
    refine hq (State.memOk_ite (State.memOk_mapLaunch (State.memOk_dropWaves hf _) _ _) ?_)
    exact State.memOk_mapWave hf _ _ fun _ hw => ⟨hw.1, rfl, rfl⟩

/-! ## Placing waves on cores -/

theorem memOk_firstWave (l : Launch) (uid index : Nat) (peers : List Nat) (c : CoreId) (p : Placement) :
    (l.firstWave uid index peers c p).memOk := ⟨Memory.setBytes_wf rfl _ _, rfl, rfl⟩

theorem State.memOk_placeWave {s : State} (h : s.memOk) (l : Launch) (uid index : Nat) (peers : List Nat) (c : CoreId) (p : Placement) :
    (s.placeWave l uid index peers c p).memOk := by
  refine State.memOk_withWaves (s := State.mk ..) h fun w hw => ?_
  obtain hw | hw := List.mem_append.mp hw
  · exact h.2.1 w hw
  · cases List.mem_singleton.mp hw
    exact memOk_firstWave l uid index peers c p

theorem State.memOk_placeRecord {s t : State} (h : s.memOk) {l : Launch} {die : Nat} {indices : List Nat} {ps : List Placement}
    (ht : s.placeRecord l die indices ps = some t) : t.memOk := by
  unfold State.placeRecord at ht
  dsimp only at ht
  split at ht
  · cases ht
  · cases ht
    refine State.memOk_mapLaunch ?_ _ _
    exact State.memOk_foldl _ (fun _ x hs => State.memOk_placeWave hs ..) h _

theorem keepsMemOk_execWaveDispatch (cl : ClusterId) (ps : List Placement) : KeepsMemOk (execWaveDispatch cl ps) := by
  refine keepsMemOk_next fun s h => ?_
  split
  · exact h
  split
  · exact h
  split
  · exact h
  · refine State.memOk_ite h ?_
    split
    · exact h
    next ht =>
      have hp := State.memOk_placeRecord h ht
      exact hp

theorem State.memOk_placeAll {s t : State} (h : s.memOk) {l : Launch} {rs : List (Nat × List Nat)} {ps : List (ClusterId × Placement)}
    (ht : s.placeAll l rs ps = some t) : t.memOk := by
  induction rs generalizing s ps with
  | nil =>
    unfold State.placeAll at ht
    split at ht
    · cases ht; exact h
    · cases ht
  | cons r rs ih =>
    unfold State.placeAll at ht
    dsimp only at ht
    split at ht
    · split at ht
      next hs => exact ih (State.memOk_placeRecord h hs) ht
      next => cases ht
    · cases ht

theorem keepsMemOk_execCooperativePlacement (launch : Nat) (ps : List (ClusterId × Placement)) :
    KeepsMemOk (execCooperativePlacement launch ps) := by
  refine keepsMemOk_next fun s h => ?_
  split
  · exact h
  · refine State.memOk_ite h ?_
    split
    · exact h
    next ht =>
      have hp := State.memOk_placeAll h ht
      exact hp

theorem keepsMemOk_execStealAttempt (cl : ClusterId) : KeepsMemOk (execStealAttempt cl) := by
  refine keepsMemOk_next fun s h => ?_
  split
  · exact h
  · refine State.memOk_ite h ?_
    split
    · exact h
    · dsimp only
      split
      · exact h
      · exact State.memOk_ite h h

theorem keepsMemOk_execStealAcknowledge (cl : ClusterId) : KeepsMemOk (execStealAcknowledge cl) := by
  refine keepsMemOk_next fun s h => ?_
  split <;> exact h

theorem State.memOk_restoreThread {s t : State} (h : s.memOk) {id : ThreadId} (ht : s.restoreThread id = some t) : t.memOk := by
  unfold State.restoreThread at ht
  split at ht
  · cases ht; exact h
  split at ht
  · cases ht; exact h
  · dsimp only at ht
    split at ht
    · cases ht
    · cases ht
    · cases ht
    · exact State.memOk_failArea h ht
    · exact State.memOk_failArea h ht
    · exact State.memOk_failArea h ht
    · cases ht; exact h
  · cases ht; exact h

theorem State.memOk_restoreThreads {s t : State} (h : s.memOk) {ids : List ThreadId} (ht : s.restoreThreads ids = some t) : t.memOk := by
  induction ids generalizing s with
  | nil => cases ht; exact h
  | cons id ids ih =>
    unfold State.restoreThreads at ht
    split at ht
    next hs => exact ih (State.memOk_restoreThread h hs) ht
    next => cases ht

theorem State.memOk_seatWaves {s t : State} (h : s.memOk) {l : Launch} {xs : List (Nat × Nat × Nat)}
    (ht : s.seatWaves l xs = some t) : t.memOk := by
  induction xs generalizing s with
  | nil => cases ht; exact h
  | cons x xs ih =>
    obtain ⟨uid, core, place⟩ := x
    have hm := State.memOk_mapWave h uid (fun w => { w with status := .resident, core := core, place := place, request := none })
      fun _ hw => hw
    unfold State.seatWaves at ht
    split at ht
    · cases ht
    split at ht
    · exact ih hm ht
    · cases ht

theorem keepsMemOk_execWaveRestore (cl : ClusterId) (ps : List (Nat × Nat)) : KeepsMemOk (execWaveRestore cl ps) := by
  refine keepsMemOk_next fun s h => ?_
  split
  · exact h
  split
  · exact h
  split
  · exact h
  · refine State.memOk_ite h ?_
    split
    · exact h
    next hs =>
      refine State.memOk_getD h fun _ ht => State.memOk_restoreThreads (s := State.mapCluster _ cl _) ?_ ht
      have hw := State.memOk_seatWaves h hs
      exact hw

theorem keepsMemOk_execExtendedBlockGrant (c : CoreId) : KeepsMemOk (execExtendedBlockGrant c) := by
  refine keepsMemOk_next fun s h => ?_
  split
  · exact h
  split
  · exact h
  · dsimp only
    split
    · exact h
    · refine State.memOk_ite h (State.memOk_foldl _ (fun u t hu => ?_) ?_ _)
      · split
        · exact State.memOk_finishLane hu ..
        · exact hu
      · exact h

end Sys2Proof.Machine
end

section
/-!
PROOF. O58: the events of the machine's units and of the agents outside keep the memories canonical.
-/
namespace Sys2Proof.Machine
open Sys2Proof

/-! ## Fault records -/

theorem State.memOk_accepted {s : State} (h : s.memOk) (p : Post) (token : Option Nat) : (s.accepted p token).memOk := by
  unfold State.accepted
  split
  · exact h
  · exact h
  · exact State.memOk_ite (State.memOk_setToken h ..) (State.memOk_settleCopy (State.memOk_declareFatal h _) _)
  · exact State.memOk_ite (State.memOk_setToken h ..) (State.memOk_declareFatal h _)
  · exact h

theorem keepsMemOk_execFaultRecordPost (die : Nat) : KeepsMemOk (execFaultRecordPost die) := by
  refine keepsMemOk_next fun s h => ?_
  split
  · exact h
  · refine State.memOk_ite h ?_
    split
    · exact h
    split
    · exact h
    · refine State.memOk_accepted ?_ _ _
      exact h

/-! ## Migration -/

theorem State.memOk_writeLeaf {s : State} (h : s.memOk) (va level at_ x : Nat) : (s.writeLeaf va level at_ x).memOk :=
  State.memOk_foldl _ (fun _ _ hs => State.memOk_writeLoc (State.memOk_settlePhys hs ..) ..) h _

theorem keepsMemOk_execPageDemotion (va tierId : Nat) : KeepsMemOk (execPageDemotion va tierId) := by
  refine keepsMemOk_next fun s h => ?_
  split
  · exact h
  next x _ =>
    have hs := State.memOk_settlePhys h (Leaf.ofEntry x).frame (Leaf.ofEntry x).size
    refine State.memOk_ite h (State.memOk_invalidate (State.memOk_writeLeaf ?_ ..) _)
    refine ⟨hs.1, hs.2.1, fun p hp => ?_, hs.2.2.2⟩
    obtain hp | hp := List.mem_append.mp hp
    · exact hs.2.2.1 p hp
    · cases List.mem_singleton.mp hp
      exact Memory.extract_wf hs.1 _ _

theorem keepsMemOk_execPagePromotion (va frame : Nat) : KeepsMemOk (execPagePromotion va frame) := by
  refine keepsMemOk_next fun s h => ?_
  split
  · exact h
  next x _ =>
    dsimp only
    split
    · exact h
    · have hs := State.memOk_settlePhys h frame (Leaf.ofEntry x).size
      refine State.memOk_ite h (State.memOk_invalidate (State.memOk_writeLeaf ?_ ..) _)
      exact ⟨Memory.implant_wf (Memory.zero_wf hs.1 _ _) _ _, hs.2.1, fun p hp => hs.2.2.1 p (List.mem_of_mem_filter hp), hs.2.2.2⟩

/-! ## Reset, units, errors -/

theorem firmwareWave_memOk (b : BootImage) (d : Nat) : (firmwareWave b d).memOk := ⟨rfl, rfl, rfl⟩

theorem afterReset_waves_memOk (b : BootImage) (isM : Bool) : ∀ w ∈ (State.afterReset b isM).waves, w.memOk := by
  intro w hw
  unfold State.afterReset at hw
  dsimp only at hw
  split at hw
  · obtain ⟨d, -, rfl⟩ := List.mem_map.mp hw
    exact firmwareWave_memOk b d
  · cases hw

theorem State.memOk_moduleReset {s : State} (h : s.memOk) : s.moduleReset.memOk := by
  refine ⟨Memory.filter_wf _ h.1, fun w hw => afterReset_waves_memOk _ _ w (List.mem_of_mem_filter hw), nofun, fun i hi => ?_⟩
  obtain ⟨-, -, rfl⟩ := Option.mem_map.mp hi
  exact Memory.filter_wf _ h.1

theorem keepsMemOk_execModuleReset : KeepsMemOk execModuleReset := keepsMemOk_next fun _ h => State.memOk_moduleReset h

theorem keepsMemOk_execClusterReset (cl : ClusterId) : KeepsMemOk (execClusterReset cl) := by
  refine keepsMemOk_next fun s h => ?_
  have hc := State.memOk_cancelSteal h cl
  exact hc

theorem keepsMemOk_execUnitOutOfService (u : HwUnit) : KeepsMemOk (execUnitOutOfService u) := by
  refine keepsMemOk_next fun s h => ?_
  split
  · refine State.memOk_ite h ?_
    split
    · exact h
    · exact State.memOk_foldl _ (fun _ w hs => State.memOk_ite (State.memOk_requestPreemption hs w) hs) h _
  · exact State.memOk_ite h h

theorem keepsMemOk_execEccError (e : EccReport) : KeepsMemOk (execEccError e) := by
  refine keepsMemOk_next fun s h => ?_
  split
  · exact h
  · exact State.memOk_ite h h
  · exact State.memOk_mapWave h _ _ fun _ hw => Wave.memOk_ite hw hw
  · exact State.memOk_mapWave h _ _ fun _ hw => Wave.memOk_ite hw hw
  · exact State.memOk_mapWave h _ _ fun _ hw => Wave.memOk_ite hw hw
  · split
    · exact h
    · exact h
    · split <;> exact h
    · exact h

/-! ## The host -/

theorem State.memOk_logAll {s : State} (h : s.memOk) (e : LogEntry) : (s.logAll e).memOk := State.memOk_ite h h

theorem keepsMemOk_execHostDoorbellStore (offset : Nat) (data : List Byte) : KeepsMemOk (execHostDoorbellStore offset data) := by
  refine keepsMemOk_next fun s h => ?_
  have hl := State.memOk_logAll h (.doorbell offset data)
  dsimp only
  split
  · exact h
  · refine State.memOk_ite h (State.memOk_ite hl ?_)
    split
    next ht => exact State.memOk_deliver? hl ht
    next => exact hl

theorem keepsMemOk_execHostDoorbellRead (offset bytes : Nat) : KeepsMemOk (execHostDoorbellRead offset bytes) :=
  keepsMemOk_next fun _ h => h

theorem keepsMemOk_execHostMemAccess (a : HostAccess) : KeepsMemOk (execHostMemAccess a) := by
  refine keepsMemOk_next fun s h => ?_
  cases a with
  | read pa n =>
    refine State.memOk_ite h (State.memOk_ite h ?_)
    have hr := State.memOk_hostRead h (s.moduleNo * 2 ^ 46 + pa) n
    exact hr
  | write pa bs => exact State.memOk_ite h (State.memOk_hostWrite (State.memOk_logAll h _) ..)

/-! ## Other agents of the domain -/

theorem State.memOk_outsideRead {s : State} (h : s.memOk) (who : OutsideId) (view : Bool) (loc : Loc) (n : Nat) :
    (s.outsideRead who view loc n).memOk := State.memOk_outsideMeets h ..

theorem State.memOk_outsideElement {s : State} (h : s.memOk) (who : OutsideId) (loc : Loc) (bs : List Byte) :
    (s.outsideElement who loc bs).memOk := State.memOk_writeAs h ..

theorem State.memOk_peerDrop {s : State} (h : s.memOk) (region : Nat) : (s.peerDrop region).memOk := by
  unfold State.peerDrop
  split
  · exact h
  · refine State.memOk_ite h (State.memOk_reportRefits ?_ ..)
    exact h

theorem State.memOk_peerStore {s : State} (h : s.memOk) (who : OutsideId) (region elem value : Nat) :
    (s.peerStore who region elem value).memOk := by
  unfold State.peerStore
  split
  · exact h
  · exact State.memOk_ite h (State.memOk_outsideElement h ..)

theorem State.memOk_peerLoad {s : State} (h : s.memOk) (who : OutsideId) (region elem : Nat) : (s.peerLoad who region elem).memOk := by
  unfold State.peerLoad
  split
  · exact h
  · exact State.memOk_ite h (State.memOk_outsideRead h ..)

theorem State.memOk_peerRefit {s : State} (h : s.memOk) (region : Nat) : (s.peerRefit region).memOk := by
  unfold State.peerRefit
  split
  · exact h
  · exact State.memOk_ite h h

theorem State.memOk_peerTag {s : State} (h : s.memOk) (g tag : Nat) : (s.peerTag g tag).memOk := by
  have hs := State.memOk_settlePhys h (g * 65536) 65536
  refine State.memOk_ite h (State.memOk_setTag ?_ ..)
  exact State.memOk_ite (State.memOk_scrub hs _) hs

theorem State.memOk_peerActs {s : State} (h : s.memOk) (who : OutsideId) (o : Outside) : (s.peerActs who o).memOk := by
  refine State.memOk_ite h ?_
  cases o with
  | write => exact State.memOk_ite h (State.memOk_outsideStore h ..)
  | read => exact State.memOk_ite h (State.memOk_outsideRead h ..)
  | update => exact State.memOk_ite h (State.memOk_outsideUpdate h ..)
  | load => exact State.memOk_peerLoad h ..
  | store => exact State.memOk_peerStore h ..
  | fence => exact State.memOk_outsideFence h ..
  | afence => exact State.memOk_outsideJoin h _
  | inform => exact State.memOk_ite h h
  | see => exact State.memOk_ite h h
  | _ => exact h

theorem State.memOk_outsideActs {s : State} (h : s.memOk) (o : Outside) : (s.outsideActs o).memOk := by
  cases o with
  | hostStore => exact State.memOk_ite (State.memOk_hostWrite h ..) h
  | tag => exact State.memOk_peerTag h ..
  | make =>
    unfold State.outsideActs
    dsimp only
    split <;> exact h
  | drop => exact State.memOk_peerDrop h _
  | refit => exact State.memOk_peerRefit h _
  | poison => exact State.memOk_ite h h
  | _ => exact State.memOk_peerActs h ..

/-! ## Fabric, power, replay -/

theorem keepsMemOk_execFlitRetry (port : Nat) : KeepsMemOk (execFlitRetry port) := keepsMemOk_next fun _ h => h

theorem keepsMemOk_execFabricCannotReachModule (module : Nat) (reachable : Bool) :
    KeepsMemOk (execFabricCannotReachModule module reachable) := keepsMemOk_next fun _ h => h

theorem keepsMemOk_execPowerAdjust (cl : ClusterId) (gated : Bool) : KeepsMemOk (execPowerAdjust cl gated) := by
  refine keepsMemOk_next fun s h => State.memOk_ite h ?_
  have hc := State.memOk_ite (p := gated = true) (State.memOk_cancelSteal h cl) h
  exact hc

theorem keepsMemOk_execReplay : KeepsMemOk execReplay := by
  refine keepsMemOk_next fun s h => ?_
  have hr := State.memOk_moduleReset h
  split
  · exact h
  next mem poison tags hi =>
    have hm : mem.wf = true := h.2.2.2 _ hi
    refine ⟨hm, hr.2.1, hr.2.2.1, fun i hi' => ?_⟩
    cases hi'
    exact hm

end Sys2Proof.Machine
end

section
/-!
PROOF. O58: every instruction and event keeps the memories canonical.
-/
namespace Sys2Proof.Machine
open Sys2Proof

/-! ## Shapes that several instructions share -/

theorem keepsMemOk_xlOp (i : Instr) (f : XlF) (selector pair : Bool) : KeepsMemOk (xlOp i f selector pair) :=
  keepsMemOk_runArrival _ _ _ _ _ _ _

theorem keepsMemOk_voteOp (i : Instr) (f : XlAF) : KeepsMemOk (voteOp i f) :=
  keepsMemOk_runArrival _ _ _ _ _ _ _

theorem keepsMemOk_predOp (f : GF) (op : Thread → Thread) : KeepsMemOk (predOp f op) := keepsMemOk_runForm _ fun _ _ _ h => h

/-! ## The instructions of no shared shape -/

theorem keepsMemOk_execMov16 (f : H) : KeepsMemOk (execMov16 f) := keepsMemOk_runForm _ fun _ _ _ h => memOk_writeFixed h ..

theorem keepsMemOk_execAddi16 (f : HI) : KeepsMemOk (execAddi16 f) := keepsMemOk_runForm _ fun _ _ _ h => memOk_writeFixed h ..

theorem keepsMemOk_execMov64 (f : XF) : KeepsMemOk (execMov64 f) := keepsMemOk_runForm _ fun _ _ _ h => memOk_writeFixed h ..

theorem keepsMemOk_execSel (f : XF) : KeepsMemOk (execSel f) := keepsMemOk_runForm _ fun _ _ _ h => memOk_writeFixed h ..

theorem keepsMemOk_execLil (f : WF) : KeepsMemOk (execLil f) := keepsMemOk_runForm _ fun _ _ _ h => memOk_writeFixed h ..

theorem keepsMemOk_execLih (f : WF) : KeepsMemOk (execLih f) := keepsMemOk_runForm _ fun _ _ _ h => memOk_writeFixed h ..

theorem keepsMemOk_execPsave (f : DTF) : KeepsMemOk (execPsave f) := keepsMemOk_runForm _ fun _ _ _ h => memOk_writeFixed h ..

theorem keepsMemOk_execPget (f : DTF) : KeepsMemOk (execPget f) := keepsMemOk_runForm _ fun _ _ _ h => memOk_writeFixed h ..

theorem keepsMemOk_execDclass (f : XFF) : KeepsMemOk (execDclass f) := keepsMemOk_runForm _ fun _ _ _ h => memOk_writeFixed h ..

theorem keepsMemOk_execDmov (f : XFF) : KeepsMemOk (execDmov f) := keepsMemOk_runForm _ fun _ _ _ h => memOk_writeFixed h ..

theorem keepsMemOk_execDp4 (f : FF) : KeepsMemOk (execDp4 f) := keepsMemOk_runForm _ fun _ _ _ h => memOk_writeFixed h ..

theorem keepsMemOk_execCvt (f : CvtF) : KeepsMemOk (execCvt f) := keepsMemOk_runForm _ fun _ _ _ h => memOk_writeFlagged h ..

theorem keepsMemOk_execDp4E4 (f : FF) : KeepsMemOk (execDp4E4 f) := keepsMemOk_runForm _ fun _ _ _ h => memOk_writeFlagged h ..

theorem keepsMemOk_execCmpLt16 (f : H) : KeepsMemOk (execCmpLt16 f) := keepsMemOk_runForm _ fun _ _ _ h => h

theorem keepsMemOk_execFcmpLt16 (f : H) : KeepsMemOk (execFcmpLt16 f) := keepsMemOk_runForm _ fun _ _ _ h => h

theorem keepsMemOk_execCmp (f : CmpF) : KeepsMemOk (execCmp f) := keepsMemOk_runForm _ fun _ _ _ h => h

theorem keepsMemOk_execCmpi (f : CmpIF) : KeepsMemOk (execCmpi f) := keepsMemOk_runForm _ fun _ _ _ h => h

theorem keepsMemOk_execFcmp (f : FCmpF) : KeepsMemOk (execFcmp f) := keepsMemOk_runForm _ fun _ _ _ h => h

theorem keepsMemOk_execFcmpD (f : FCmpF) : KeepsMemOk (execFcmpD f) := keepsMemOk_runForm _ fun _ _ _ h => h

theorem keepsMemOk_execPload (f : AF) : KeepsMemOk (execPload f) := keepsMemOk_runForm _ fun _ _ _ h => h

theorem keepsMemOk_execPset (f : AF) : KeepsMemOk (execPset f) := keepsMemOk_runForm _ fun _ _ _ h => h

theorem keepsMemOk_execBr (f : JF) : KeepsMemOk (execBr f) := keepsMemOk_runForm _ fun _ _ _ h => h

theorem keepsMemOk_execCall (f : JF) : KeepsMemOk (execCall f) := keepsMemOk_runForm _ fun _ _ _ h => h

theorem keepsMemOk_execNop (f : GF) : KeepsMemOk (execNop f) := keepsMemOk_runForm _ fun _ _ _ h => h

theorem keepsMemOk_execDly (f : NF) : KeepsMemOk (execDly f) := keepsMemOk_runForm _ fun _ _ _ h => h

theorem keepsMemOk_execTrap (f : NF) : KeepsMemOk (execTrap f) := keepsMemOk_runForm _ fun _ _ _ h => h

theorem keepsMemOk_execSyscall (f : NF) : KeepsMemOk (execSyscall f) := keepsMemOk_runForm _ fun _ _ _ h => h

theorem keepsMemOk_execBkpt (f : GF) : KeepsMemOk (execBkpt f) := keepsMemOk_runForm _ fun _ _ _ h => h

theorem keepsMemOk_execHwr (f : HwrF) : KeepsMemOk (execHwr f) := keepsMemOk_runForm _ fun _ _ _ h => h

theorem keepsMemOk_execPref (f : PrefF) : KeepsMemOk (execPref f) := keepsMemOk_runForm _ fun _ _ _ h => h

theorem keepsMemOk_execJr (f : AF) : KeepsMemOk (execJr f) := keepsMemOk_runForm _ fun _ _ _ h => memOk_jumpTo h ..

theorem keepsMemOk_execCallr (f : AF) : KeepsMemOk (execCallr f) := keepsMemOk_runForm _ fun _ _ _ h => memOk_jumpTo h ..

theorem keepsMemOk_execRet (f : GF) : KeepsMemOk (execRet f) := keepsMemOk_runForm _ fun _ _ _ h => memOk_jumpTo h ..

theorem keepsMemOk_execEret (f : GF) : KeepsMemOk (execEret f) := keepsMemOk_runForm _ fun _ _ _ h => memOk_eretEffect h _

theorem keepsMemOk_execXacq (f : ScF) : KeepsMemOk (execXacq f) := keepsMemOk_runArrival _ _ _ _ _ _ _

theorem keepsMemOk_execXrel (f : ScF) : KeepsMemOk (execXrel f) := keepsMemOk_runArrival _ _ _ _ _ _ _

theorem keepsMemOk_execGbar (f : ScF) : KeepsMemOk (execGbar f) := keepsMemOk_runArrival _ _ _ _ _ _ _

theorem keepsMemOk_execElect (f : XlDF) : KeepsMemOk (execElect f) := keepsMemOk_runArrival _ _ _ _ _ _ _

theorem keepsMemOk_execGsync (f : XlAF) : KeepsMemOk (execGsync f) := keepsMemOk_runArrival _ _ _ _ _ _ _

theorem keepsMemOk_execCbar (f : ScF) : KeepsMemOk (execCbar f) := keepsMemOk_runArrival _ _ _ _ _ _ _

theorem keepsMemOk_execSclaim (f : DF) : KeepsMemOk (execSclaim f) := keepsMemOk_runForm _ fun _ _ _ h => memOk_claimName h ..

theorem keepsMemOk_execAclaim (f : DF) : KeepsMemOk (execAclaim f) := keepsMemOk_runForm _ fun _ _ _ h => memOk_claimName h ..

theorem keepsMemOk_execSrel (f : AF) : KeepsMemOk (execSrel f) := keepsMemOk_runForm _ fun _ _ _ h => memOk_releaseName h ..

theorem keepsMemOk_execArel (f : AF) : KeepsMemOk (execArel f) := keepsMemOk_runForm _ fun _ _ _ h => memOk_releaseName h ..

theorem keepsMemOk_execSend (f : ADF) : KeepsMemOk (execSend f) := keepsMemOk_runForm _ fun _ _ _ h => memOk_sendOrTrap h ..

theorem keepsMemOk_execPadd (f : ADF) : KeepsMemOk (execPadd f) := keepsMemOk_runForm _ fun _ _ _ h => memOk_sendOrTrap h ..

theorem keepsMemOk_execFmax16 (f : H) : KeepsMemOk (execFmax16 f) := keepsMemOk_fltH f _

theorem keepsMemOk_execFmin16 (f : H) : KeepsMemOk (execFmin16 f) := keepsMemOk_fltH f _

theorem keepsMemOk_execAndn (f : RF) : KeepsMemOk (execAndn f) := keepsMemOk_aluR f _

theorem keepsMemOk_execFmin (f : FF) : KeepsMemOk (execFmin f) := keepsMemOk_fltR f _

theorem keepsMemOk_execFmax (f : FF) : KeepsMemOk (execFmax f) := keepsMemOk_fltR f _

theorem keepsMemOk_execFminD (f : FF) : KeepsMemOk (execFminD f) := keepsMemOk_dblR f _

theorem keepsMemOk_execFmaxD (f : FF) : KeepsMemOk (execFmaxD f) := keepsMemOk_dblR f _

theorem keepsMemOk_execFneg (f : XFF) : KeepsMemOk (execFneg f) := keepsMemOk_fltX f _ _

theorem keepsMemOk_execFabs (f : XFF) : KeepsMemOk (execFabs f) := keepsMemOk_fltX f _ _

theorem keepsMemOk_execFfloor (f : XFF) : KeepsMemOk (execFfloor f) := keepsMemOk_fltX f _ _

theorem keepsMemOk_execFceil (f : XFF) : KeepsMemOk (execFceil f) := keepsMemOk_fltX f _ _

theorem keepsMemOk_execFtrunc (f : XFF) : KeepsMemOk (execFtrunc f) := keepsMemOk_fltX f _ _

theorem keepsMemOk_execFrint (f : XFF) : KeepsMemOk (execFrint f) := keepsMemOk_fltX f _ _

theorem keepsMemOk_execFclass (f : XFF) : KeepsMemOk (execFclass f) := keepsMemOk_fltX f _ _

theorem keepsMemOk_execFsat (f : XFF) : KeepsMemOk (execFsat f) := keepsMemOk_fltX f _ _

theorem keepsMemOk_execDneg (f : XFF) : KeepsMemOk (execDneg f) := keepsMemOk_dblX f _ _

theorem keepsMemOk_execDabs (f : XFF) : KeepsMemOk (execDabs f) := keepsMemOk_dblX f _ _

theorem keepsMemOk_execDfloor (f : XFF) : KeepsMemOk (execDfloor f) := keepsMemOk_dblX f _ _

theorem keepsMemOk_execDceil (f : XFF) : KeepsMemOk (execDceil f) := keepsMemOk_dblX f _ _

theorem keepsMemOk_execDtrunc (f : XFF) : KeepsMemOk (execDtrunc f) := keepsMemOk_dblX f _ _

theorem keepsMemOk_execDrint (f : XFF) : KeepsMemOk (execDrint f) := keepsMemOk_dblX f _ _

/-! ## Every instruction and event -/

/-- What every instruction and every event does to the memories, by the shape that it has. -/
theorem keepsMemOk_exec (i : Instr) : KeepsMemOk (exec i) := by
  cases i with
  | fmax16 f => exact keepsMemOk_execFmax16 f
  | fmin16 f => exact keepsMemOk_execFmin16 f
  | andn f => exact keepsMemOk_execAndn f
  | fmin f => exact keepsMemOk_execFmin f
  | fmax f => exact keepsMemOk_execFmax f
  | fminD f => exact keepsMemOk_execFminD f
  | fmaxD f => exact keepsMemOk_execFmaxD f
  | fneg f => exact keepsMemOk_execFneg f
  | fabs f => exact keepsMemOk_execFabs f
  | ffloor f => exact keepsMemOk_execFfloor f
  | fceil f => exact keepsMemOk_execFceil f
  | ftrunc f => exact keepsMemOk_execFtrunc f
  | frint f => exact keepsMemOk_execFrint f
  | fclass f => exact keepsMemOk_execFclass f
  | fsat f => exact keepsMemOk_execFsat f
  | dneg f => exact keepsMemOk_execDneg f
  | dabs f => exact keepsMemOk_execDabs f
  | dfloor f => exact keepsMemOk_execDfloor f
  | dceil f => exact keepsMemOk_execDceil f
  | dtrunc f => exact keepsMemOk_execDtrunc f
  | drint f => exact keepsMemOk_execDrint f
  | add16 f | sub16 f | and16 f | or16 f | xor16 f | shl16 f | shr16 f => exact keepsMemOk_aluH f _
  | fadd16 f | fsub16 f | fmul16 f => exact keepsMemOk_fltH f _
  | add f | sub f | mul f | mulh f | mulhN f | and f | or f | xor f | shl f | shr f | shrA f | rot f | rotR f
  | min f | minN f | max f | maxN f => exact keepsMemOk_aluR f _
  | add64 f | sub64 f => exact keepsMemOk_aluR64 f _
  | mov f | not f | neg f | abs f | clz f | popc f | brev f | bswap f | sxb f | sxh f | zxb f | zxh f => exact keepsMemOk_aluX f _
  | addi f | andi f | ori f | xori f => exact keepsMemOk_aluI f _
  | shli f | shri f | shriA f => exact keepsMemOk_aluS f _
  | ppop f | pdup f | pswap f | pnot f | pand f | por f | pxor f | prot f => exact keepsMemOk_predOp f _
  | fadd f | fsub f | fmul f => exact keepsMemOk_fltR f _
  | ffma f => exact keepsMemOk_fltR3 f _
  | dadd f | dsub f | dmul f => exact keepsMemOk_dblR f _
  | dfma f => exact keepsMemOk_dblR3 f _
  | fsqrt f | frcp f | frsq f | fex2 f | flg2 f => exact keepsMemOk_fltX f _ _
  | dsqrt f | drcp f => exact keepsMemOk_dblX f _ _
  | hadd2 f | hadd2Bf f | hmul2 f | hmul2Bf f => exact keepsMemOk_packed2 f _
  | hfma2 f | hfma2Bf f => exact keepsMemOk_packed3 f _
  | mov16 f => exact keepsMemOk_execMov16 f
  | addi16 f => exact keepsMemOk_execAddi16 f
  | mov64 f => exact keepsMemOk_execMov64 f
  | sel f => exact keepsMemOk_execSel f
  | lil f => exact keepsMemOk_execLil f
  | lih f => exact keepsMemOk_execLih f
  | psave f => exact keepsMemOk_execPsave f
  | pget f => exact keepsMemOk_execPget f
  | dclass f => exact keepsMemOk_execDclass f
  | dmov f => exact keepsMemOk_execDmov f
  | dp4 f => exact keepsMemOk_execDp4 f
  | cvt f => exact keepsMemOk_execCvt f
  | dp4E4 f => exact keepsMemOk_execDp4E4 f
  | cmpLt16 f => exact keepsMemOk_execCmpLt16 f
  | fcmpLt16 f => exact keepsMemOk_execFcmpLt16 f
  | cmp f => exact keepsMemOk_execCmp f
  | cmpi f => exact keepsMemOk_execCmpi f
  | fcmp f => exact keepsMemOk_execFcmp f
  | fcmpD f => exact keepsMemOk_execFcmpD f
  | pload f => exact keepsMemOk_execPload f
  | pset f => exact keepsMemOk_execPset f
  | br f => exact keepsMemOk_execBr f
  | call f => exact keepsMemOk_execCall f
  | nop f => exact keepsMemOk_execNop f
  | dly f => exact keepsMemOk_execDly f
  | trap f => exact keepsMemOk_execTrap f
  | syscall f => exact keepsMemOk_execSyscall f
  | bkpt f => exact keepsMemOk_execBkpt f
  | hwr f => exact keepsMemOk_execHwr f
  | pref f => exact keepsMemOk_execPref f
  | jr f => exact keepsMemOk_execJr f
  | callr f => exact keepsMemOk_execCallr f
  | ret f => exact keepsMemOk_execRet f
  | exit f => exact keepsMemOk_execExit f
  | safe f => exact keepsMemOk_execSafe f
  | srd f => exact keepsMemOk_execSrd f
  | swr f => exact keepsMemOk_execSwr f
  | yield f => exact keepsMemOk_execYield f
  | spawn f => exact keepsMemOk_execSpawn f
  | eret f => exact keepsMemOk_execEret f
  | hrd f => exact keepsMemOk_execHrd f
  | xacq f => exact keepsMemOk_execXacq f
  | xrel f => exact keepsMemOk_execXrel f
  | gbar f => exact keepsMemOk_execGbar f
  | elect f => exact keepsMemOk_execElect f
  | gsync f => exact keepsMemOk_execGsync f
  | cbar f => exact keepsMemOk_execCbar f
  | shflIdx f | shflXor f | shflUp f | shflDown f | ballot f | radd f | rfadd f | rmin f | rmax f | scan f => exact keepsMemOk_xlOp _ f _ _
  | voteAll f | voteAny f => exact keepsMemOk_voteOp _ f
  | ld f => exact keepsMemOk_execLd f
  | st f => exact keepsMemOk_execSt f
  | ldnf f => exact keepsMemOk_execLdnf f
  | atom f => exact keepsMemOk_execAtom f
  | red f => exact keepsMemOk_execRed f
  | fence f => exact keepsMemOk_execFence f
  | afence f => exact keepsMemOk_execAfence f
  | bfence f => exact keepsMemOk_execBfence f
  | waitc f => exact keepsMemOk_execWaitc f
  | stn f => exact keepsMemOk_execStn f
  | ldn f => exact keepsMemOk_execLdn f
  | cpy f => exact keepsMemOk_execCpy f
  | cpystat f => exact keepsMemOk_execCpystat f
  | rclaim f => exact keepsMemOk_execRclaim f
  | rcommit f => exact keepsMemOk_execRcommit f
  | rawait f => exact keepsMemOk_execRawait f
  | rretire f => exact keepsMemOk_execRretire f
  | rclaimnf f => exact keepsMemOk_execRclaimnf f
  | rawaitnf f => exact keepsMemOk_execRawaitnf f
  | mma f => exact keepsMemOk_execMma f
  | azero f => exact keepsMemOk_execAzero f
  | sclaim f => exact keepsMemOk_execSclaim f
  | aclaim f => exact keepsMemOk_execAclaim f
  | srel f => exact keepsMemOk_execSrel f
  | arel f => exact keepsMemOk_execArel f
  | bmvGq4 f | bmvE4m3 f | bmvBf16 f => exact keepsMemOk_runBmv _ f
  | palloc f => exact keepsMemOk_execPalloc f
  | pfree f => exact keepsMemOk_execPfree f
  | send f => exact keepsMemOk_execSend f
  | padd f => exact keepsMemOk_execPadd f
  | sendnf f => exact keepsMemOk_execSendnf f
  | recv f => exact keepsMemOk_execRecv f
  | recvnf f => exact keepsMemOk_execRecvnf f
  | patdef f => exact keepsMemOk_execPatdef f
  | patdel f => exact keepsMemOk_execPatdel f
  | patarm f => exact keepsMemOk_execPatarm f
  | pinfo f => exact keepsMemOk_execPinfo f
  | claimR f | claimW f => exact keepsMemOk_runClaim _ f
  | admitItem f => exact keepsMemOk_execAdmit f
  | rsvinfo f => exact keepsMemOk_execRsvinfo f
  | fitx f => exact keepsMemOk_execFitx f
  | fitgen f => exact keepsMemOk_execFitgen f
  | refit f => exact keepsMemOk_execRefit f
  | fitstat f => exact keepsMemOk_execFitstat f
  | fitmake f => exact keepsMemOk_execFitmake f
  | fitdrop f => exact keepsMemOk_execFitdrop f
  | tlbinv f => exact keepsMemOk_execTlbinv f
  | fqpop f => exact keepsMemOk_execFqpop f
  | layout f => exact keepsMemOk_execLayout f
  | nodekill f => exact keepsMemOk_execNodekill f
  | preempt f => exact keepsMemOk_execPreempt f
  | srdp f => exact keepsMemOk_execSrdp f
  | swrp f => exact keepsMemOk_execSwrp f
  | launchMessage die lo hi => exact keepsMemOk_execLaunchMessage die lo hi
  | nodeAdmission die dies => exact keepsMemOk_execNodeAdmission die dies
  | stepBoundary launch dies => exact keepsMemOk_execStepBoundary launch dies
  | nodeCompletion launch => exact keepsMemOk_execNodeCompletion launch
  | waveDispatch cl ps => exact keepsMemOk_execWaveDispatch cl ps
  | footprintRelease wave => exact keepsMemOk_execFootprintRelease wave
  | loadDataReturn t n => exact keepsMemOk_execLoadDataReturn t n
  | preemptionRequest wave => exact keepsMemOk_execPreemptionRequest wave
  | waveLeavesCore wave => exact keepsMemOk_execWaveLeavesCore wave
  | waveRestore cl ps => exact keepsMemOk_execWaveRestore cl ps
  | extendedBlockGrant c => exact keepsMemOk_execExtendedBlockGrant c
  | matrixOpStart c => exact keepsMemOk_execMatrixOpStart c
  | matrixOpCompletion c => exact keepsMemOk_execMatrixOpCompletion c
  | copyChunkStart c elements => exact keepsMemOk_execCopyChunkStart c elements
  | copyCompletion c op => exact keepsMemOk_execCopyCompletion c op
  | reductionApply op elements => exact keepsMemOk_execReductionApply op elements
  | bankRowCompute op row => exact keepsMemOk_execBankRowCompute op row
  | bmvCompletion c op => exact keepsMemOk_execBmvCompletion c op
  | faultRecordPost die => exact keepsMemOk_execFaultRecordPost die
  | refitStart _ => exact keepsMemOk_next fun _ h => h
  | refitSwap region params extra => exact keepsMemOk_execRefitSwap region params extra
  | patternFiring die => exact keepsMemOk_execPatternFiring die
  | itemAdmission launch item => exact keepsMemOk_execItemAdmission launch item
  | itemFinish launch item => exact keepsMemOk_execItemFinish launch item
  | moduleReset => exact keepsMemOk_execModuleReset
  | hostDoorbellStore offset data => exact keepsMemOk_execHostDoorbellStore offset data
  | hostMemAccess a => exact keepsMemOk_execHostMemAccess a
  | reservedOrIllegalEncoding w => exact keepsMemOk_illegalEncoding _
  | storeTakesEffect t => exact keepsMemOk_execStoreTakesEffect t
  | fresRetry die => exact keepsMemOk_next fun _ h => State.memOk_resolve h die false
  | fresFatal die => exact keepsMemOk_next fun _ h => State.memOk_resolve h die true
  | streamExpectedUpdate stream => exact keepsMemOk_next fun _ h => State.memOk_updateExpected h stream
  | heldDeliveryRetry die n => exact keepsMemOk_execHeldDeliveryRetry die n
  | stealAttempt cl => exact keepsMemOk_execStealAttempt cl
  | stealAcknowledge cl => exact keepsMemOk_execStealAcknowledge cl
  | cooperativePlacement launch ps => exact keepsMemOk_execCooperativePlacement launch ps
  | hardPreemptCycleLimit wave => exact keepsMemOk_execHardPreemptCycleLimit wave
  | hardPreemptInstrLimit wave => exact keepsMemOk_execHardPreemptInstrLimit wave
  | slotClaimGrant wave tile => exact keepsMemOk_execSlotClaimGrant wave tile
  | slotReleaseComplete wave tile n => exact keepsMemOk_execSlotReleaseComplete wave tile n
  | refitAbandon region => exact keepsMemOk_execRefitAbandon region
  | pageDemotion va tierId => exact keepsMemOk_execPageDemotion va tierId
  | pagePromotion va frame => exact keepsMemOk_execPagePromotion va frame
  | clusterReset cl => exact keepsMemOk_execClusterReset cl
  | unitOutOfService u => exact keepsMemOk_execUnitOutOfService u
  | eccError e => exact keepsMemOk_execEccError e
  | hostDoorbellRead offset bytes => exact keepsMemOk_execHostDoorbellRead offset bytes
  | flitRetry port => exact keepsMemOk_execFlitRetry port
  | powerAdjust cl gated => exact keepsMemOk_execPowerAdjust cl gated
  | replay => exact keepsMemOk_execReplay
  | fabricCannotReachModule module reachable => exact keepsMemOk_execFabricCannotReachModule module reachable

end Sys2Proof.Machine
end

section
/-!
PROOF. O58: fetching, packets and the schedule keep the memories canonical, and so every step does.
-/
namespace Sys2Proof.Machine
open Sys2Proof

/-! ## Fetching -/

theorem State.memOk_fetchHalf {s : State} (h : s.memOk) {c : Ctx} {off : Word} {r : State × List Byte}
    (hr : s.fetchHalf c off = .ok r) : r.1.memOk := by
  unfold State.fetchHalf at hr
  split at hr
  · cases hr; exact State.memOk_loadBytes h ..
  · cases hr
  · cases hr

theorem State.memOk_fetch {s : State} (h : s.memOk) {c : Ctx} {r : State × Instr} (hr : s.fetch c = .ok r) : r.1.memOk := by
  unfold State.fetch at hr
  split at hr
  · cases hr
  · cases hr
  next hlo =>
    have h₁ := State.memOk_fetchHalf h hlo
    split at hr
    · cases hr; exact h₁
    split at hr
    · cases hr
    · cases hr
    next hhi => cases hr; exact State.memOk_fetchHalf h₁ hhi

theorem keepsMemOk_threadStep : KeepsMemOk threadStep := by
  intro s t h ht
  unfold threadStep at ht
  split at ht
  · cases ht
  split at ht
  · cases ht; exact h
  split at ht
  · cases ht; exact State.memOk_trap h ..
  · cases ht; exact h
  next hf => exact keepsMemOk_exec _ _ t (State.memOk_fetch h hf) ht

/-! ## Packets -/

theorem State.memOk_mapCore {s : State} (h : s.memOk) (c : CoreId) (f : Core → Core) : (s.mapCore c f).memOk := h

theorem State.memOk_withPasses {s : State} (h : s.memOk) (ps : List PassEntry) : ({ s with passes := ps } : State).memOk := h

theorem State.memOk_issueCore {s : State} (h : s.memOk) (c : CoreId) : (s.issueCore c).memOk :=
  State.memOk_ite h (State.memOk_foldl (fun s ids => s.addPacket ids false) (fun _ _ hs => hs) (State.memOk_mapCore h c _) _)

theorem State.memOk_resume {s : State} (h : s.memOk) (id : ThreadId) : (s.resume id).memOk := by
  unfold State.resume
  split
  · exact h
  · exact State.memOk_ite h h

theorem State.memOk_begin {s : State} (h : s.memOk) (p : Packet) (more : List Packet) : (s.begin p more).memOk := State.memOk_ite h h

theorem State.memOk_holdBack {s : State} (h : s.memOk) (p : Packet) (more : List Packet) : (s.holdBack p more).memOk := h

theorem State.memOk_closePacket {s : State} (h : s.memOk) : s.closePacket.memOk := by
  unfold State.closePacket
  exact State.memOk_withPasses (State.memOk_foldl _ (fun _ _ hs => State.memOk_mapCore hs _ _) h _) []

/-! ## What moves next -/

theorem State.memOk_cacheLeaf {s : State} (h : s.memOk) (va : Nat) : (s.cacheLeaf va).memOk := by
  unfold State.cacheLeaf
  split <;> exact h

theorem State.memOk_relax {s : State} (h : s.memOk) (on : Bool) : (s.relax on).memOk := by
  have hd := State.memOk_foldl (fun (s : State) (t : Thread) => s.drain t.id) (fun _ t hs => State.memOk_drain hs t.id) h s.threads
  refine State.memOk_ite ?_ h
  exact hd

theorem State.memOk_redeliver {s : State} (h : s.memOk) : s.redeliver.memOk := by
  unfold State.redeliver
  split
  · exact h
  · refine State.memOk_ite h ?_
    split
    next he =>
      have hx := keepsMemOk_exec _ _ _ h he
      exact hx
    next => exact h

theorem keepsMemOk_dieSteps (d : Die) : ∀ f ∈ d.steps, KeepsMemOk f := by
  intro f hf
  simp only [Die.steps, List.mem_append, List.mem_cons, List.not_mem_nil, or_false, List.mem_map] at hf
  obtain ((((rfl | rfl | rfl) | ⟨n, -, rfl⟩) | hf) | ⟨c, -, rfl⟩) := hf
  · exact keepsMemOk_execFaultRecordPost d.idx
  · exact keepsMemOk_exec (.fresRetry d.idx)
  · exact keepsMemOk_exec (.fresFatal d.idx)
  · exact keepsMemOk_execHeldDeliveryRetry d.idx n
  · split at hf
    · cases hf
    · cases List.mem_singleton.mp hf
      exact keepsMemOk_execPatternFiring d.idx
  · exact keepsMemOk_execExtendedBlockGrant ⟨d.idx, c.idx⟩

theorem keepsMemOk_waveSteps (w : Wave) : ∀ f ∈ w.steps, KeepsMemOk f := by
  intro f hf
  simp only [Wave.steps, List.mem_append, List.mem_cons, List.not_mem_nil, or_false, List.mem_map] at hf
  obtain (((rfl | rfl | rfl | rfl | rfl | rfl) | ⟨n, -, rfl⟩) | ⟨n, -, rfl⟩) := hf
  · exact keepsMemOk_execHardPreemptCycleLimit w.uid
  · exact keepsMemOk_execHardPreemptInstrLimit w.uid
  · exact keepsMemOk_execWaveLeavesCore w.uid
  · exact keepsMemOk_execFootprintRelease w.uid
  · exact keepsMemOk_execSlotClaimGrant w.uid false
  · exact keepsMemOk_execSlotClaimGrant w.uid true
  · exact keepsMemOk_execSlotReleaseComplete w.uid false n
  · exact keepsMemOk_execSlotReleaseComplete w.uid true n

theorem keepsMemOk_launchSteps (l : Launch) : ∀ f ∈ l.steps, KeepsMemOk f := by
  intro f hf
  simp only [Launch.steps, List.mem_cons, List.not_mem_nil, or_false, List.mem_flatMap] at hf
  obtain (rfl | ⟨x, -, rfl | rfl⟩) := hf
  · exact keepsMemOk_execNodeCompletion l.id
  · exact keepsMemOk_execItemAdmission l.id x.n
  · exact keepsMemOk_execItemFinish l.id x.n

theorem keepsMemOk_bmvSteps (b : BmvOp) : ∀ f ∈ b.steps, KeepsMemOk f := by
  intro f hf
  simp only [BmvOp.steps, List.mem_append, Option.mem_toList, Option.map_eq_some_iff, List.mem_singleton] at hf
  obtain ⟨row, -, rfl⟩ | rfl := hf
  · exact keepsMemOk_execBankRowCompute b.id row
  · exact keepsMemOk_execBmvCompletion b.core b.id

/-- The steps that units take without a choice. -/
theorem keepsMemOk_unitSteps (s : State) : ∀ f ∈ s.unitSteps, KeepsMemOk f := by
  intro f hf
  simp only [State.unitSteps, List.mem_append, List.mem_cons, List.not_mem_nil, or_false, List.mem_flatMap, List.mem_map] at hf
  obtain ((((((⟨d, -, hd⟩ | ⟨w, -, hw⟩) | ⟨l, -, hl⟩) | ⟨o, -, rfl | rfl⟩) | ⟨x, -, rfl | rfl | rfl⟩) | ⟨x, -, rfl⟩) |
    ⟨b, -, hb⟩) := hf
  · exact keepsMemOk_dieSteps d f hd
  · exact keepsMemOk_waveSteps w f hw
  · exact keepsMemOk_launchSteps l f hl
  · exact keepsMemOk_execMatrixOpStart o.core
  · exact keepsMemOk_execMatrixOpCompletion o.core
  · exact keepsMemOk_execCopyChunkStart x.core x.total
  · exact keepsMemOk_execReductionApply x.id x.total
  · exact keepsMemOk_execCopyCompletion x.core x.id
  · exact keepsMemOk_exec (.streamExpectedUpdate x.id)
  · exact keepsMemOk_bmvSteps b f hb

theorem State.memOk_firstStep {s t : State} (h : s.memOk) {fs : List (State → Host.Outcome State Fault Refusal)}
    (hfs : ∀ f ∈ fs, KeepsMemOk f) (ht : s.firstStep fs = some t) : t.memOk := by
  induction fs with
  | nil => cases ht
  | cons f fs ih =>
    have hrest := ih fun g hg => hfs g (List.mem_cons_of_mem _ hg)
    unfold State.firstStep at ht
    split at ht
    next hf =>
      split at ht
      · exact hrest ht
      · cases ht; exact hfs f List.mem_cons_self s _ h hf
    next => exact hrest ht

theorem State.memOk_idle {s : State} (h : s.memOk) : s.idle.memOk := by
  unfold State.idle
  split
  · exact State.memOk_returnLoad h ..
  split
  · exact State.memOk_storeEffect h _
  split
  next hf => exact State.memOk_firstStep h (keepsMemOk_unitSteps s) hf
  next =>
  split
  · exact State.memOk_resume h _
  split
  · exact State.memOk_issueCore h _
  · exact State.memOk_ite (State.memOk_redeliver h) h

theorem keepsMemOk_act (a : Action) : KeepsMemOk fun s => s.act a := by
  intro s t h ht
  cases a with
  | event i =>
    dsimp only [State.act] at ht
    split at ht
    · exact keepsMemOk_exec i s t h ht
    · cases ht; exact h
  | issue c => cases ht; exact State.memOk_issueCore h c
  | resume id => cases ht; exact State.memOk_resume h id
  | tlbFill va => cases ht; exact State.memOk_cacheLeaf h va
  | relax on => cases ht; exact State.memOk_relax h on
  | see id event => cases ht; exact State.memOk_ite h h
  | reland event => cases ht; exact State.memOk_reland h event
  | outside o => cases ht; exact State.memOk_outsideActs h o
  | deliver => cases ht; exact State.memOk_redeliver h
  | tick | spread event | glimpse id event on | drainLog die n => cases ht; exact h

theorem keepsMemOk_runMember : KeepsMemOk State.runMember := by
  intro s t h ht
  unfold State.runMember at ht
  split at ht
  · split at ht
    · exact keepsMemOk_threadStep s t h ht
    · cases ht; exact h
  · cases ht; exact h

theorem keepsMemOk_runStep : KeepsMemOk runStep := by
  intro s t h ht
  unfold runStep at ht
  split at ht
  · split at ht
    · split at ht
      · cases ht; exact State.memOk_holdBack h ..
      split at ht
      · refine keepsMemOk_runMember _ t ?_ ht
        exact h
      · cases ht; exact State.memOk_begin h ..
    · cases ht
      refine State.memOk_closePacket ?_
      exact h
  · split at ht
    next a rest _ =>
      refine keepsMemOk_act a { s with sched := rest } t ?_ ht
      exact h
    next => cases ht; exact State.memOk_idle h

/-- Settles O58: by cases on what happens next, down to the one reasoning rule for each operation on the state. -/
theorem stepKeepsMemoriesCanonical : Obligations.StepKeepsMemoriesCanonical := by
  unfold Obligations.StepKeepsMemoriesCanonical
  exact keepsMemOk_runStep

end Sys2Proof.Machine
end

section
/-!
PROOF. O53: reading a memory of which a part was filtered out, moved, or put in, and little-endian values.
-/
namespace Sys2Proof.Machine
open Sys2Proof

/-! ## Little-endian values -/

/-- The bytes of a value give its low part back. -/
theorem leNat_leBytes (n v : Nat) : leNat (leBytes n v) = v % 256 ^ n := by
  induction n generalizing v with
  | zero => simp [leBytes, leNat, Nat.mod_one]
  | succ n ih =>
    have hm : v % (256 * 256 ^ n) = v % 256 + 256 * (v / 256 % 256 ^ n) := Nat.mod_mul
    rw [leBytes, leNat, ih, BitVec.toNat_ofNat, pow_succ' 256 n, hm]

theorem leBytes_length (n v : Nat) : (leBytes n v).length = n := by
  induction n generalizing v with
  | zero => rfl
  | succ n ih => rw [leBytes, List.length_cons, ih]

theorem Memory.bytes_eq_of_get {m : Memory} {a : Nat} {bs : List Byte} (h : ∀ j < bs.length, m.get (a + j) = bs.getD j 0) :
    m.bytes a bs.length = bs := by
  induction bs generalizing a with
  | nil => rfl
  | cons b bs ih =>
    have hb : m.get a = b := h 0 (by simp)
    have hbs : m.bytes (a + 1) bs.length = bs := ih fun j hj => by
      simpa [Nat.add_assoc, Nat.add_comm 1 j] using h (j + 1) (by simpa using hj)
    rw [List.length_cons, Memory.bytes, hb, hbs]

/-- A doubleword whose eight bytes lie in memory is read back. -/
theorem Memory.nat_of_get {m : Memory} {a v : Nat} (hv : v < 2 ^ 64) (h : ∀ j < 8, m.get (a + j) = (leBytes 8 v).getD j 0) :
    m.nat a 8 = v := by
  have hb : m.bytes a (leBytes 8 v).length = leBytes 8 v := Memory.bytes_eq_of_get (by rwa [leBytes_length])
  rw [leBytes_length] at hb
  rw [Memory.nat, hb, leNat_leBytes, Nat.mod_eq_of_lt (by simpa using hv)]

/-! ## Parts of a memory -/

/-- Bytes that a filter keeps read as before. -/
theorem Memory.get_filter_of_pos (m : Memory) {p : Host.Cell → Bool} {a : Nat} (h : ∀ b, p (a, b) = true) :
    Memory.get (m.filter p) a = m.get a := by
  induction m with
  | nil => rfl
  | cons c m ih =>
    obtain ⟨x, b⟩ := c
    rw [List.filter_cons]
    by_cases hx : x = a
    · subst hx
      simp [h, Memory.get]
    · split <;> simp [Memory.get, hx, ih]

/-- A byte that a filter drops reads as 0. -/
theorem Memory.get_filter_of_neg (m : Memory) {p : Host.Cell → Bool} {a : Nat} (h : ∀ b, p (a, b) = false) :
    Memory.get (m.filter p) a = 0 := by
  induction m with
  | nil => rfl
  | cons c m ih =>
    obtain ⟨x, b⟩ := c
    rw [List.filter_cons]
    split
    next hp =>
      have hx : x ≠ a := by rintro rfl; simp [h] at hp
      simp [Memory.get, hx, ih]
    next => exact ih

theorem Memory.get_zero_inside (m : Memory) {a n x : Nat} (h : a ≤ x ∧ x < a + n) : (m.zero a n).get x = 0 :=
  Memory.get_filter_of_neg m fun _ => by simp; omega

theorem Memory.get_zero_outside (m : Memory) {a n x : Nat} (h : x < a ∨ a + n ≤ x) : (m.zero a n).get x = m.get x :=
  Memory.get_filter_of_pos m fun _ => by simpa using h

/-- A listing moved down: where every address is at least the distance. -/
theorem Memory.get_shift {m : Memory} {a : Nat} (h : ∀ c ∈ m, a ≤ c.1) (i : Nat) :
    Memory.get (m.map fun c => (c.1 - a, c.2)) i = m.get (a + i) := by
  induction m with
  | nil => rfl
  | cons c m ih =>
    obtain ⟨x, b⟩ := c
    have hx : a ≤ x := h (x, b) List.mem_cons_self
    have hi := ih fun c hc => h c (List.mem_cons_of_mem _ hc)
    have he : x - a = i ↔ x = a + i := by omega
    simp only [List.map_cons, Memory.get, he, hi]

theorem Memory.get_extract (m : Memory) {a n i : Nat} (h : i < n) : (m.extract a n).get i = m.get (a + i) := by
  have hge : ∀ c ∈ m.filter fun c => decide (a ≤ c.1) && decide (c.1 < a + n), a ≤ c.1 := by
    intro c hc
    have hp := (List.mem_filter.mp hc).2
    rw [Bool.and_eq_true, decide_eq_true_iff, decide_eq_true_iff] at hp
    exact hp.1
  rw [Memory.extract, Memory.get_shift hge]
  exact Memory.get_filter_of_pos m fun _ => by simpa using h

/-- A canonical listing lies above its bound. -/
theorem Memory.le_of_wfFrom {m : Memory} {lo : Nat} (w : m.wfFrom lo = true) : ∀ c ∈ m, lo ≤ c.1 := by
  induction m generalizing lo with
  | nil => nofun
  | cons c m ih =>
    obtain ⟨x, b⟩ := c
    rw [Memory.wfFrom_cons] at w
    obtain ⟨hx, -, w⟩ := w
    intro d hd
    obtain rfl | hd := List.mem_cons.mp hd
    · exact hx
    · exact (Nat.le_succ_of_le hx).trans (ih w d hd)

/-- A byte where nothing is put stays. -/
theorem Memory.get_implant_of_not_mem {m : Memory} (w : m.wf = true) (a : Nat) {src : Memory} {x : Nat}
    (h : ∀ c ∈ src, a + c.1 ≠ x) : (m.implant a src).get x = m.get x := by
  unfold Memory.implant
  induction src generalizing m with
  | nil => rfl
  | cons c src ih =>
    have hc : x ≠ a + c.1 := (h c List.mem_cons_self).symm
    rw [List.foldl_cons, ih (Memory.set_wf w _ _) fun d hd => h d (List.mem_cons_of_mem _ hd), Memory.get_set w, if_neg hc]

/-- What a canonical listing holds is read where it is put, over zeros. -/
theorem Memory.get_implant {m : Memory} (w : m.wf = true) (a : Nat) {src : Memory} {lo : Nat} (ws : src.wfFrom lo = true) {i : Nat}
    (h : m.get (a + i) = 0) : (m.implant a src).get (a + i) = src.get i := by
  induction src generalizing m lo with
  | nil => exact h
  | cons c src ih =>
    obtain ⟨x, b⟩ := c
    rw [Memory.wfFrom_cons] at ws
    obtain ⟨-, -, ws⟩ := ws
    change (Memory.implant (m.set (a + x) b) a src).get (a + i) = _
    by_cases hx : x = i
    · subst hx
      have hrest : ∀ c ∈ src, a + c.1 ≠ a + x := fun c hc => by
        have hc := Memory.le_of_wfFrom ws c hc
        omega
      rw [Memory.get_implant_of_not_mem (Memory.set_wf w _ _) a hrest, Memory.get_set w]
      simp [Memory.get]
    · have h0 : (m.set (a + x) b).get (a + i) = 0 := by rw [Memory.get_set w, if_neg (by omega), h]
      rw [ih (Memory.set_wf w _ _) ws h0]
      simp [Memory.get, hx]

end Sys2Proof.Machine
end

section
/-!
PROOF. O53: what settling and physical writes leave as it was, and the replicas of a leaf.
-/
namespace Sys2Proof.Machine
open Sys2Proof

/-! ## What settling and writing physical memory leave as it was -/

/-- Settling changes nothing but which writes are still to be seen. -/
theorem State.settle_eq (s : State) (test : Loc → Bool) :
    s.settle test = { s with history := (s.settle test).history, carried := (s.settle test).carried } := by
  unfold State.settle
  refine List.foldlRecOn (motive := fun t : State => t = { s with history := t.history, carried := t.carried }) _ _ rfl
    fun t ht event _ => ?_
  unfold State.spread
  rw [ht]

theorem State.settlePhys_eq (s : State) (pa n : Nat) :
    s.settlePhys pa n = { s with history := (s.settlePhys pa n).history, carried := (s.settlePhys pa n).carried } := s.settle_eq _

@[simp] theorem State.settlePhys_mem (s : State) (pa n : Nat) : (s.settlePhys pa n).mem = s.mem := by
  rw [State.settlePhys_eq]

@[simp] theorem State.settlePhys_tags (s : State) (pa n : Nat) : (s.settlePhys pa n).tags = s.tags := by
  rw [State.settlePhys_eq]

@[simp] theorem State.settlePhys_poison (s : State) (pa n : Nat) : (s.settlePhys pa n).poison = s.poison := by
  rw [State.settlePhys_eq]

@[simp] theorem State.settlePhys_tier (s : State) (pa n : Nat) : (s.settlePhys pa n).tier = s.tier := by
  rw [State.settlePhys_eq]

@[simp] theorem State.settlePhys_tlb (s : State) (pa n : Nat) : (s.settlePhys pa n).tlb = s.tlb := by
  rw [State.settlePhys_eq]

@[simp] theorem State.settlePhys_waves (s : State) (pa n : Nat) : (s.settlePhys pa n).waves = s.waves := by
  rw [State.settlePhys_eq]

@[simp] theorem State.settlePhys_dies (s : State) (pa n : Nat) : (s.settlePhys pa n).dies = s.dies := by
  rw [State.settlePhys_eq]

@[simp] theorem State.settlePhys_regions (s : State) (pa n : Nat) : (s.settlePhys pa n).regions = s.regions := by
  rw [State.settlePhys_eq]

@[simp] theorem State.settlePhys_moduleNo (s : State) (pa n : Nat) : (s.settlePhys pa n).moduleNo = s.moduleNo := by
  rw [State.settlePhys_eq]

@[simp] theorem State.settlePhys_tagOf (s : State) (pa n a : Nat) : (s.settlePhys pa n).tagOf a = s.tagOf a := by
  unfold State.tagOf
  rw [State.settlePhys_tags]

theorem State.writePhys_eq (s : State) (pa : Nat) (bs : List Byte) :
    s.writeLoc (.phys pa) bs = { s with mem := (s.writeLoc (.phys pa) bs).mem } := by
  unfold State.writeLoc
  dsimp only
  split <;> rfl

/-- A byte of memory after a physical write: the granules tagged 4 hold none. -/
theorem State.get_writePhys {s : State} (w : s.mem.wf = true) (pa : Nat) (bs : List Byte) (a : Nat) :
    (s.writeLoc (.phys pa) bs).mem.get a =
      if s.tagOf pa ≠ 4 ∧ pa ≤ a ∧ a < pa + bs.length then bs.getD (a - pa) 0 else s.mem.get a := by
  by_cases h : s.tagOf pa = 4
  · simp [State.writeLoc, h]
  · simp [State.writeLoc, h, Memory.get_setBytes w]

/-! ## The replicas of a leaf -/

/-- n entries from an address on take a doubleword, in turn. -/
def State.putEntries (s : State) (first x n : Nat) : State :=
  (List.range n).foldl (fun s i => (s.settlePhys (first + 8 * i) 8).writeLoc (.phys (first + 8 * i)) (leBytes 8 x)) s

theorem State.writeLeaf_eq_putEntries (s : State) (va level at_ x : Nat) :
    s.writeLeaf va level at_ x = s.putEntries (at_ - 8 * (va % (Leaf.ofEntry x).size / 2 ^ (12 + 9 * level))) x
      (max 1 ((Leaf.ofEntry x).size / 2 ^ (12 + 9 * level))) := rfl

theorem State.putEntries_succ (s : State) (first x n : Nat) :
    s.putEntries first x (n + 1) =
      ((s.putEntries first x n).settlePhys (first + 8 * n) 8).writeLoc (.phys (first + 8 * n)) (leBytes 8 x) := by
  rw [State.putEntries, List.range_succ, List.foldl_append]
  rfl

/-- Entries put in a table change memory, and which writes are still to be seen. -/
theorem State.putEntries_eq (s : State) (first x n : Nat) :
    s.putEntries first x n = { s with
      mem := (s.putEntries first x n).mem
      history := (s.putEntries first x n).history
      carried := (s.putEntries first x n).carried } := by
  induction n with
  | zero => rfl
  | succ n ih =>
    rw [State.putEntries_succ, State.writePhys_eq, State.settlePhys_eq, ih]

@[simp] theorem State.putEntries_tags (s : State) (first x n : Nat) : (s.putEntries first x n).tags = s.tags := by
  rw [State.putEntries_eq]

@[simp] theorem State.putEntries_poison (s : State) (first x n : Nat) : (s.putEntries first x n).poison = s.poison := by
  rw [State.putEntries_eq]

@[simp] theorem State.putEntries_tier (s : State) (first x n : Nat) : (s.putEntries first x n).tier = s.tier := by
  rw [State.putEntries_eq]

@[simp] theorem State.putEntries_tlb (s : State) (first x n : Nat) : (s.putEntries first x n).tlb = s.tlb := by
  rw [State.putEntries_eq]

@[simp] theorem State.putEntries_waves (s : State) (first x n : Nat) : (s.putEntries first x n).waves = s.waves := by
  rw [State.putEntries_eq]

@[simp] theorem State.putEntries_dies (s : State) (first x n : Nat) : (s.putEntries first x n).dies = s.dies := by
  rw [State.putEntries_eq]

@[simp] theorem State.putEntries_regions (s : State) (first x n : Nat) : (s.putEntries first x n).regions = s.regions := by
  rw [State.putEntries_eq]

@[simp] theorem State.putEntries_moduleNo (s : State) (first x n : Nat) : (s.putEntries first x n).moduleNo = s.moduleNo := by
  rw [State.putEntries_eq]

theorem State.putEntries_tagOf (s : State) (first x n a : Nat) : (s.putEntries first x n).tagOf a = s.tagOf a := by
  unfold State.tagOf
  rw [State.putEntries_tags]

theorem State.putEntries_wf {s : State} (h : s.mem.wf = true) (first x n : Nat) : (s.putEntries first x n).mem.wf = true := by
  induction n with
  | zero => exact h
  | succ n ih =>
    rw [State.putEntries_succ, State.writeLoc]
    split
    · simpa using ih
    · exact Memory.setBytes_wf (by simpa using ih) _ _

/-- One more entry put: a byte of memory. -/
theorem State.get_putEntries_succ {s : State} (h : s.mem.wf = true) (first x n a : Nat) :
    (s.putEntries first x (n + 1)).mem.get a =
      if s.tagOf (first + 8 * n) ≠ 4 ∧ first + 8 * n ≤ a ∧ a < first + 8 * n + 8 then (leBytes 8 x).getD (a - (first + 8 * n)) 0
      else (s.putEntries first x n).mem.get a := by
  rw [State.putEntries_succ, State.get_writePhys (by simpa using State.putEntries_wf h first x n), leBytes_length,
    State.settlePhys_tagOf, State.putEntries_tagOf, State.settlePhys_mem]

theorem State.get_putEntries_outside {s : State} (h : s.mem.wf = true) {first x n a : Nat} (ha : a < first ∨ first + 8 * n ≤ a) :
    (s.putEntries first x n).mem.get a = s.mem.get a := by
  induction n with
  | zero => rfl
  | succ n ih => rw [State.get_putEntries_succ h, if_neg (by omega), ih (by omega)]

theorem State.get_putEntries_inside {s : State} (h : s.mem.wf = true) {first x n i j : Nat} (hi : i < n) (hj : j < 8)
    (ht : s.tagOf (first + 8 * i) ≠ 4) : (s.putEntries first x n).mem.get (first + 8 * i + j) = (leBytes 8 x).getD j 0 := by
  induction n with
  | zero => omega
  | succ n ih =>
    rw [State.get_putEntries_succ h]
    by_cases hn : i = n
    · subst hn
      rw [if_pos ⟨ht, by omega, by omega⟩, Nat.add_sub_cancel_left]
    · rw [if_neg (by omega), ih (by omega)]

/-- Every entry in a granule that is not tagged 4 is the doubleword. -/
theorem State.nat_putEntries {s : State} (h : s.mem.wf = true) {first x n i : Nat} (hx : x < 2 ^ 64) (hi : i < n)
    (ht : s.tagOf (first + 8 * i) ≠ 4) : (s.putEntries first x n).mem.nat (first + 8 * i) 8 = x :=
  Memory.nat_of_get hx fun _ hj => State.get_putEntries_inside h hi hj ht

/-! ## Leaf entries -/

/-- The entry that keeps a leaf's size and rights and names a frame, or a page of the tier, with a layout. -/
def movedEntry (x frame layout : Nat) : Nat := x / 2 ^ 60 % 16 * 2 ^ 60 + frame + layout * 2 ^ 6 + x % 2 ^ 5

theorem movedEntry_lt {x frame layout : Nat} (hf : frame + layout * 2 ^ 6 + 2 ^ 5 ≤ 2 ^ 52) : movedEntry x frame layout < 2 ^ 64 := by
  unfold movedEntry
  omega

theorem movedEntry_size {x frame layout : Nat} (hf : frame + layout * 2 ^ 6 + 2 ^ 5 ≤ 2 ^ 52) :
    (Leaf.ofEntry (movedEntry x frame layout)).size = (Leaf.ofEntry x).size := by
  have hk : movedEntry x frame layout / 2 ^ 60 % 16 = x / 2 ^ 60 % 16 := by
    unfold movedEntry
    omega
  unfold Leaf.size Leaf.ofEntry field
  dsimp only
  rw [show (2 : Nat) ^ 4 = 16 from rfl, hk]

/-- A page is a whole number of poison units. -/
theorem Leaf.size_mod (l : Leaf) : l.size % 64 = 0 := by
  unfold Leaf.size
  omega

theorem Leaf.size_mod_page (l : Leaf) : l.size % 4096 = 0 := by
  unfold Leaf.size
  omega

end Sys2Proof.Machine
end

section
/-!
PROOF. O53: pages leave for the tier and come back.
-/
namespace Sys2Proof.Machine
open Sys2Proof

/-! ## The room of the tier -/

/-- One more page in the tier takes its size. -/
theorem State.tierUsed_append (s : State) (p : TierPage) : ({ s with tier := s.tier ++ [p] } : State).tierUsed = s.tierUsed + p.size := by
  unfold State.tierUsed
  dsimp only
  rw [List.foldl_append]
  exact List.foldl_hom (· + p.size) fun n r => by omega

/-- The room in use depends on the tier and on this module's live regions. -/
theorem State.tierUsed_congr {s t : State} (ht : t.tier = s.tier) (hr : t.regions = s.regions) (hm : t.moduleNo = s.moduleNo) :
    t.tierUsed = s.tierUsed := by
  unfold State.tierUsed State.ownRegions
  rw [ht, hr, hm]

/-! ## Demotion -/

/-- The page of the tier that a demotion makes. -/
def State.pageOut (s : State) (l : Leaf) (id : Nat) : TierPage where
  id := id
  size := l.size
  layout := l.layout
  tags := (granuleRange l.frame l.size).map fun g => s.tagOf (g * 65536)
  mem := s.mem.extract l.frame l.size
  poison := (s.poison.filter fun u => decide (l.frame / 64 ≤ u) && decide (u < (l.frame + l.size) / 64)).map (· - l.frame / 64)

theorem State.mem_pageOut_poison (s : State) (l : Leaf) (id : Nat) {i : Nat} (hi : i < l.size / 64) :
    i ∈ (s.pageOut l id).poison ↔ l.frame / 64 + i ∈ s.poison := by
  have hs := l.size_mod
  simp only [State.pageOut, List.mem_map, List.mem_filter, Bool.and_eq_true, decide_eq_true_eq]
  constructor
  · rintro ⟨u, ⟨hu, hlo, -⟩, rfl⟩
    rwa [Nat.add_sub_cancel' hlo]
  · exact fun h => ⟨l.frame / 64 + i, ⟨h, by omega, by omega⟩, by omega⟩

/-- The state that a demotion leaves: the page in the tier, each of n entries naming it, its translations dropped. -/
def State.demoted (s : State) (l : Leaf) (va id first n x : Nat) : State :=
  let out : State := { s.settlePhys l.frame l.size with tier := s.tier ++ [s.pageOut l id] }
  (out.putEntries first (movedEntry x (id * 2 ^ 12) 5) n).invalidate (.page (va - va % l.size) l.size)

theorem execPageDemotion_of_demotable {s : State} {va id level at_ x : Nat}
    (hp : s.leafPath va 4 s.ptroot.toNat = some (level, at_, x)) (hd : s.demotable (Leaf.ofEntry x) va = true) (hid : id < 2 ^ 40)
    (hnew : ∀ p ∈ s.tier, p.id ≠ id) :
    execPageDemotion va id s = .next (s.demoted (Leaf.ofEntry x) va id
      (at_ - 8 * (va % (Leaf.ofEntry x).size / 2 ^ (12 + 9 * level))) (max 1 ((Leaf.ofEntry x).size / 2 ^ (12 + 9 * level))) x) := by
  have hfree : (s.tier.any fun p => p.id == id) = false := by simpa using hnew
  have hentry : (Leaf.ofEntry x).k * 2 ^ 60 + id * 2 ^ 12 + 5 * 2 ^ 6 + field x 0 5 = movedEntry x (id * 2 ^ 12) 5 := by
    simp [movedEntry, Leaf.ofEntry, field]
  unfold execPageDemotion
  rw [hp]
  dsimp only
  rw [if_neg (by simp [hd, hfree]; omega), hentry, State.writeLeaf_eq_putEntries, movedEntry_size (by omega)]
  simp only [State.demoted, State.pageOut, State.settlePhys_mem, State.settlePhys_poison, State.settlePhys_tier, State.settlePhys_tagOf]

theorem execPageDemotion_of_not_demotable {s : State} {va id level at_ x : Nat}
    (hp : s.leafPath va 4 s.ptroot.toNat = some (level, at_, x)) (hd : s.demotable (Leaf.ofEntry x) va = false) :
    execPageDemotion va id s = .next s := by
  unfold execPageDemotion
  rw [hp]
  simp [hd]

theorem State.demoted_tierUsed_le {s : State} {l : Leaf} {va : Nat} (hd : s.demotable l va = true) (id first n x : Nat) :
    (s.demoted l va id first n x).tierUsed ≤ 2 ^ 41 := by
  have hroom : s.tierUsed + l.size ≤ tierBytes := by
    simp only [State.demotable, Bool.and_eq_true, decide_eq_true_eq] at hd
    tauto
  have hused : (s.demoted l va id first n x).tierUsed = ({ s with tier := s.tier ++ [s.pageOut l id] } : State).tierUsed :=
    State.tierUsed_congr (by simp [State.demoted, State.invalidate]) (by simp [State.demoted, State.invalidate])
      (by simp [State.demoted, State.invalidate])
  rw [hused, State.tierUsed_append]
  exact hroom

/-- The pages whose translations a demotion leaves are not in the page that goes. -/
theorem State.mem_invalidate_tlb {s : State} {x : Invalidated} {e : TlbEntry} (h : e ∈ (s.invalidate x).tlb) :
    e ∈ s.tlb ∧ x.holds e.base (Leaf.ofEntry e.leaf).size = false := by
  simpa [State.invalidate] using h

/-! ## Promotion -/

/-- The state with a page of the tier back in a frame. -/
def State.pageIn (s : State) (l : Leaf) (p : TierPage) (frame : Nat) : State :=
  { s.settlePhys frame l.size with
    mem := (s.mem.zero frame l.size).implant frame p.mem
    poison := (s.poison.filter fun u => decide (u < frame / 64) || decide ((frame + l.size) / 64 ≤ u)) ++ p.poison.map (· + frame / 64)
    tier := s.tier.filter fun y => y.id != p.id }

theorem State.pageIn_wf {s : State} (h : s.mem.wf = true) (l : Leaf) (p : TierPage) (frame : Nat) : (s.pageIn l p frame).mem.wf = true :=
  Memory.implant_wf (Memory.zero_wf h _ _) _ _

theorem State.pageIn_tagOf (s : State) (l : Leaf) (p : TierPage) (frame a : Nat) : (s.pageIn l p frame).tagOf a = s.tagOf a :=
  s.settlePhys_tagOf frame l.size a

theorem State.get_pageIn_inside {s : State} (h : s.mem.wf = true) {l : Leaf} {p : TierPage} (hp : p.mem.wf = true) {frame i : Nat}
    (hi : i < l.size) : (s.pageIn l p frame).mem.get (frame + i) = p.mem.get i :=
  Memory.get_implant (Memory.zero_wf h _ _) frame hp (Memory.get_zero_inside s.mem ⟨by omega, by omega⟩)

theorem State.get_pageIn_outside {s : State} (h : s.mem.wf = true) {l : Leaf} {p : TierPage} (hp : ∀ c ∈ p.mem, c.1 < l.size)
    {frame a : Nat} (ha : a < frame ∨ frame + l.size ≤ a) : (s.pageIn l p frame).mem.get a = s.mem.get a := by
  have hout : ∀ c ∈ p.mem, frame + c.1 ≠ a := fun c hc => by
    have hc := hp c hc
    omega
  exact (Memory.get_implant_of_not_mem (Memory.zero_wf h _ _) frame hout).trans (Memory.get_zero_outside s.mem ha)

theorem State.mem_pageIn_poison_inside (s : State) (l : Leaf) (p : TierPage) {frame i : Nat} (hi : i < l.size / 64) :
    frame / 64 + i ∈ (s.pageIn l p frame).poison ↔ i ∈ p.poison := by
  have hs := l.size_mod
  have hin : ¬(frame / 64 + i < frame / 64 ∨ (frame + l.size) / 64 ≤ frame / 64 + i) := by omega
  simp only [State.pageIn, List.mem_append, List.mem_filter, Bool.or_eq_true, decide_eq_true_eq, hin, and_false, false_or, List.mem_map]
  constructor
  · rintro ⟨j, hj, he⟩
    rwa [show i = j by omega]
  · exact fun h => ⟨i, h, Nat.add_comm _ _⟩

theorem State.mem_pageIn_poison_outside (s : State) {l : Leaf} {p : TierPage} (hp : ∀ i ∈ p.poison, i < l.size / 64) {frame u : Nat}
    (hu : u < frame / 64 ∨ (frame + l.size) / 64 ≤ u) : u ∈ (s.pageIn l p frame).poison ↔ u ∈ s.poison := by
  have hs := l.size_mod
  have hout : ¬∃ i ∈ p.poison, i + frame / 64 = u := by
    rintro ⟨i, hi, rfl⟩
    have hi := hp i hi
    omega
  simp only [State.pageIn, List.mem_append, List.mem_filter, Bool.or_eq_true, decide_eq_true_eq, hu, and_true, List.mem_map, hout, or_false]

/-- The state that a promotion leaves: the page in its frame, each of n entries naming it, its translations dropped. -/
def State.promoted (s : State) (l : Leaf) (va : Nat) (p : TierPage) (frame first n x : Nat) : State :=
  ((s.pageIn l p frame).putEntries first (movedEntry x frame p.layout) n).invalidate (.page (va - va % l.size) l.size)

theorem State.promoted_poison (s : State) (l : Leaf) (va : Nat) (p : TierPage) (frame first n x : Nat) :
    (s.promoted l va p frame first n x).poison = (s.pageIn l p frame).poison := by
  simp [State.promoted, State.invalidate]

/-- A frame that fits is aligned to 4096 bytes, so that an entry has room for it and a layout. -/
theorem frame_room {s : State} {l : Leaf} {p : TierPage} {frame : Nat} (hf : s.frameFits l p frame = true) (hlt : frame < 2 ^ 52)
    (hlay : p.layout < 16) : frame + p.layout * 2 ^ 6 + 2 ^ 5 ≤ 2 ^ 52 := by
  have hmod : frame % l.size = 0 := by
    simp only [State.frameFits, Bool.and_eq_true, beq_iff_eq] at hf
    tauto
  have hpage : 4096 ∣ frame := (Nat.dvd_of_mod_eq_zero l.size_mod_page).trans (Nat.dvd_of_mod_eq_zero hmod)
  omega

theorem execPagePromotion_of_fits {s : State} {va frame level at_ x : Nat} {p : TierPage}
    (hp : s.leafPath va 4 s.ptroot.toNat = some (level, at_, x))
    (ht : s.tier.find? (fun p => p.id == (Leaf.ofEntry x).frame / 4096) = some p) (hl : (Leaf.ofEntry x).layout = 5)
    (hf : s.frameFits (Leaf.ofEntry x) p frame = true) (hlt : frame < 2 ^ 52) (hlay : p.layout < 16) :
    execPagePromotion va frame s = .next (s.promoted (Leaf.ofEntry x) va p frame
      (at_ - 8 * (va % (Leaf.ofEntry x).size / 2 ^ (12 + 9 * level))) (max 1 ((Leaf.ofEntry x).size / 2 ^ (12 + 9 * level))) x) := by
  have hentry : (Leaf.ofEntry x).k * 2 ^ 60 + frame + p.layout * 2 ^ 6 + field x 0 5 = movedEntry x frame p.layout := by
    simp [movedEntry, Leaf.ofEntry, field]
  unfold execPagePromotion
  rw [hp]
  dsimp only
  rw [ht]
  dsimp only
  rw [if_neg (by simp [hl, hf]), hentry, State.writeLeaf_eq_putEntries, movedEntry_size (frame_room hf hlt hlay)]
  simp only [State.promoted, State.pageIn, State.settlePhys_mem, State.settlePhys_poison, State.settlePhys_tier]

theorem execPagePromotion_of_not_fits {s : State} {va frame level at_ x : Nat} {p : TierPage}
    (hp : s.leafPath va 4 s.ptroot.toNat = some (level, at_, x))
    (ht : s.tier.find? (fun p => p.id == (Leaf.ofEntry x).frame / 4096) = some p)
    (hf : s.frameFits (Leaf.ofEntry x) p frame = false) : execPagePromotion va frame s = .next s := by
  unfold execPagePromotion
  rw [hp]
  dsimp only
  rw [ht]
  simp [hf]

/-- Settles O53, by what each move puts where: the page's bytes as a part of memory taken out or put in, then its leaf's replicas one
after the other. -/
theorem migration : Obligations.Migration := by
  unfold Obligations.Migration
  constructor
  · intro s va id level at_ x hmem hp
    refine ⟨fun hd hid hnew => ?_, execPageDemotion_of_not_demotable hp⟩
    have hx : movedEntry x (id * 2 ^ 12) 5 < 2 ^ 64 := movedEntry_lt (by omega)
    refine ⟨_, s.pageOut (Leaf.ofEntry x) id, execPageDemotion_of_demotable hp hd hid hnew, ?_, rfl, rfl, rfl,
      State.demoted_tierUsed_le hd .., fun i hi => Memory.get_extract _ hi, fun i hi => s.mem_pageOut_poison _ _ hi, fun e he => ?_,
      fun i hi ht => State.nat_putEntries ?_ hx hi ?_, fun a ha => ?_, ?_, ?_, ?_, ?_, ?_⟩
    · simp [State.demoted, State.invalidate]
    · have he := State.mem_invalidate_tlb he
      simpa using he
    · simpa using hmem.1
    · simpa [State.tagOf] using ht
    · exact (State.get_putEntries_outside (by simpa using hmem.1) ha).trans (by simp)
    all_goals simp [State.demoted, State.invalidate]
  · intro s va frame level at_ x p hmem hp
    dsimp only
    intro ht hl
    refine ⟨execPagePromotion_of_not_fits hp ht, fun hf hlt hlay hbytes hpoison hapart => ?_⟩
    obtain ⟨hwf, -, htier, -⟩ := hmem
    have hpwf : p.mem.wf = true := htier p (List.mem_of_find?_eq_some ht)
    have hin := s.pageIn_wf hwf (Leaf.ofEntry x) p frame
    have hx : movedEntry x frame p.layout < 2 ^ 64 := movedEntry_lt (frame_room hf hlt hlay)
    refine ⟨_, execPagePromotion_of_fits hp ht hl hf hlt hlay, fun i hi => ?_, fun i hi => ?_, fun u hu => ?_,
      fun i hi htag => State.nat_putEntries hin hx hi (by rwa [State.pageIn_tagOf]), fun a ha hframe => ?_, ?_, ?_, ?_, ?_, ?_⟩
    · exact (State.get_putEntries_outside hin (by omega)).trans (State.get_pageIn_inside hwf hpwf hi)
    · rw [State.promoted_poison]
      exact s.mem_pageIn_poison_inside _ p hi
    · rw [State.promoted_poison]
      exact s.mem_pageIn_poison_outside hpoison hu
    · exact (State.get_putEntries_outside hin ha).trans (State.get_pageIn_outside hwf hbytes hframe)
    all_goals simp [State.promoted, State.invalidate, State.pageIn]

end Sys2Proof.Machine
end

section
/-!
PROOF. O56: the codes of the small fields, the checks of the decoder, and what the fields of a packed word hold.
-/
namespace Sys2Proof

/-! ## Codes of the small fields -/

@[simp] theorem Guard.code_lt (g : Guard) : g.code < 4 := Laws.Length.guard_lt g
@[simp] theorem Cond.code_lt (c : Cond) : c.code < 64 := Laws.Length.cond_lt c
@[simp] theorem FCond.code_lt (c : FCond) : c.code < 64 := Laws.Length.fcond_lt c
@[simp] theorem Size.code_lt (z : Size) : z.code < 8 := Laws.Length.size_lt z
@[simp] theorem AtomOp.code_lt (o : AtomOp) : o.code < 16 := Laws.Length.aop_lt o
@[simp] theorem Scope.code_lt (s : Scope) : s.code < 64 := Laws.Length.scope_lt s
@[simp] theorem FenceKind.code_lt (k : FenceKind) : k.code < 64 := Laws.Length.fkind_lt k
@[simp] theorem BFenceKind.code_lt (k : BFenceKind) : k.code < 64 := Laws.Length.bkind_lt k
@[simp] theorem CounterClass.code_lt (c : CounterClass) : c.code < 64 := Laws.Length.class_lt c
@[simp] theorem SReg.code_lt (i : SReg) : i.code < 64 := Laws.Length.sreg_lt i
@[simp] theorem PReg.code_lt (i : PReg) : i.code < 64 := Laws.Length.preg_lt i
@[simp] theorem CvtCode.code_lt (c : CvtCode) : c.code < 64 := Laws.Length.cvt_lt c
@[simp] theorem MmaFmt.code_lt (f : MmaFmt) : f.code < 16 := Laws.Length.fmt_lt f
@[simp] theorem MmaMode.code_lt (m : MmaMode) : m.code < 8 := Laws.Length.mode_lt m

@[simp] theorem Guard.ofCode_code (g : Guard) : Guard.ofCode g.code = g := by cases g <;> rfl
@[simp] theorem Cond.ofCode_code (c : Cond) : Cond.ofCode c.code = some c := by cases c <;> rfl
@[simp] theorem FCond.ofCode_code (c : FCond) : FCond.ofCode c.code = some c := by cases c <;> rfl
@[simp] theorem Size.ofCode_code (z : Size) : Size.ofCode z.code = some z := by cases z <;> rfl
@[simp] theorem AtomOp.ofCode_code (o : AtomOp) : AtomOp.ofCode o.code = some o := by cases o <;> rfl
@[simp] theorem Scope.ofCode_code (s : Scope) : Scope.ofCode s.code = some s := by cases s <;> rfl
@[simp] theorem FenceKind.ofCode_code (k : FenceKind) : FenceKind.ofCode k.code = some k := by cases k <;> rfl
@[simp] theorem BFenceKind.ofCode_code (k : BFenceKind) : BFenceKind.ofCode k.code = some k := by cases k <;> rfl
@[simp] theorem CounterClass.ofCode_code (c : CounterClass) : CounterClass.ofCode c.code = some c := by cases c <;> rfl
@[simp] theorem SReg.ofCode_code (i : SReg) : SReg.ofCode i.code = some i := by cases i <;> rfl
@[simp] theorem PReg.ofCode_code (i : PReg) : PReg.ofCode i.code = some i := by cases i <;> rfl
@[simp] theorem CvtCode.ofCode_code (c : CvtCode) : CvtCode.ofCode c.code = some c := by cases c <;> rfl
@[simp] theorem MmaFmt.ofCode_code (f : MmaFmt) : MmaFmt.ofCode f.code = some f := by cases f <;> rfl
@[simp] theorem MmaMode.ofCode_code (m : MmaMode) : MmaMode.ofCode m.code = some m := by cases m <;> rfl

theorem Guard.code_ofCode {n : Nat} (h : n < 4) : (Guard.ofCode n).code = n := by interval_cases n <;> rfl
theorem Cond.code_of_ofCode {n : Nat} {c : Cond} (h : Cond.ofCode n = some c) : c.code = n := by
  unfold Cond.ofCode at h; split at h <;> cases h <;> rfl
theorem FCond.code_of_ofCode {n : Nat} {c : FCond} (h : FCond.ofCode n = some c) : c.code = n := by
  unfold FCond.ofCode at h; split at h <;> cases h <;> rfl
theorem Size.code_of_ofCode {n : Nat} {z : Size} (h : Size.ofCode n = some z) : z.code = n := by
  unfold Size.ofCode at h; split at h <;> cases h <;> rfl
theorem AtomOp.code_of_ofCode {n : Nat} {o : AtomOp} (h : AtomOp.ofCode n = some o) : o.code = n := by
  unfold AtomOp.ofCode at h; split at h <;> cases h <;> rfl
theorem Scope.code_of_ofCode {n : Nat} {s : Scope} (h : Scope.ofCode n = some s) : s.code = n := by
  unfold Scope.ofCode at h; split at h <;> cases h <;> rfl
theorem FenceKind.code_of_ofCode {n : Nat} {k : FenceKind} (h : FenceKind.ofCode n = some k) : k.code = n := by
  unfold FenceKind.ofCode at h; split at h <;> cases h <;> rfl
theorem BFenceKind.code_of_ofCode {n : Nat} {k : BFenceKind} (h : BFenceKind.ofCode n = some k) : k.code = n := by
  unfold BFenceKind.ofCode at h; split at h <;> cases h <;> rfl
theorem CounterClass.code_of_ofCode {n : Nat} {c : CounterClass} (h : CounterClass.ofCode n = some c) : c.code = n := by
  unfold CounterClass.ofCode at h; split at h <;> cases h <;> rfl
theorem SReg.code_of_ofCode {n : Nat} {i : SReg} (h : SReg.ofCode n = some i) : i.code = n := by
  unfold SReg.ofCode at h; split at h <;> cases h <;> rfl
theorem PReg.code_of_ofCode {n : Nat} {i : PReg} (h : PReg.ofCode n = some i) : i.code = n := by
  unfold PReg.ofCode at h; split at h <;> cases h <;> rfl
theorem CvtCode.code_of_ofCode {n : Nat} {c : CvtCode} (h : CvtCode.ofCode n = some c) : c.code = n := by
  unfold CvtCode.ofCode at h; split at h <;> cases h <;> rfl
theorem MmaFmt.code_of_ofCode {n : Nat} {f : MmaFmt} (h : MmaFmt.ofCode n = some f) : f.code = n := by
  unfold MmaFmt.ofCode at h; split at h <;> cases h <;> rfl
theorem MmaMode.code_of_ofCode {n : Nat} {m : MmaMode} (h : MmaMode.ofCode n = some m) : m.code = n := by
  unfold MmaMode.ofCode at h; split at h <;> cases h <;> rfl

/-! ## The checks of the decoder -/

namespace Decode

@[simp] theorem chk_eq_ok {α : Type} {c : Bool} {e : DecodeError} {k : Except DecodeError α} {x : α} :
    chk c e k = .ok x ↔ c = true ∧ k = .ok x := by
  cases c <;> simp [chk]

@[simp] theorem named_eq_ok {α β : Type} {o : Option α} {e : DecodeError} {k : α → Except DecodeError β} {x : β} :
    named o e k = .ok x ↔ ∃ a, o = some a ∧ k a = .ok x := by
  cases o <;> simp [named]

@[simp] theorem bit_eq_true {w lo : Nat} : bit w lo = true ↔ field w lo 1 = 1 := by simp [bit]

@[simp] theorem bit_eq_false {w lo : Nat} : bit w lo = false ↔ field w lo 1 = 0 := by
  have hlt : field w lo 1 < 2 := Nat.mod_lt _ (by decide)
  simp only [bit, beq_eq_false_iff_ne]
  omega

@[simp] theorem noFQ_eq_ok {α : Type} {w : Nat} {k : Except DecodeError α} {x : α} :
    noFQ w k = .ok x ↔ field w 12 1 = 0 ∧ field w 11 1 = 0 ∧ k = .ok x := by simp [noFQ]

@[simp] theorem noTFQ_eq_ok {α : Type} {w : Nat} {k : Except DecodeError α} {x : α} :
    noTFQ w k = .ok x ↔ field w 13 1 = 0 ∧ field w 12 1 = 0 ∧ field w 11 1 = 0 ∧ k = .ok x := by simp [noTFQ]

@[simp] theorem noA_eq_ok {α : Type} {w : Nat} {k : Except DecodeError α} {x : α} :
    noA w k = .ok x ↔ field w 20 6 = 0 ∧ k = .ok x := by simp [noA]

@[simp] theorem noD_eq_ok {α : Type} {w : Nat} {k : Except DecodeError α} {x : α} :
    noD w k = .ok x ↔ field w 14 6 = 0 ∧ k = .ok x := by simp [noD]

@[simp] theorem noG_eq_ok {α : Type} {w : Nat} {k : Except DecodeError α} {x : α} :
    noG w k = .ok x ↔ field w 9 2 = 0 ∧ k = .ok x := by simp [noG]

@[simp] theorem even_eq_ok {α : Type} {w lo : Nat} {k : Except DecodeError α} {x : α} :
    even w lo k = .ok x ↔ field w lo 6 % 2 = 0 ∧ k = .ok x := by simp [even]

@[simp] theorem aligned_eq_ok {α : Type} {w lo n : Nat} {k : Except DecodeError α} {x : α} :
    aligned w lo n k = .ok x ↔ field w lo 6 % n = 0 ∧ k = .ok x := by simp [aligned]

end Decode

/-! ## The fields of a packed word -/

/-- A 32-bit word of a major opcode; bit 0 tells it from a 16-bit form (R49, R52). -/
structure IsWord (op w : Nat) : Prop where
  odd : w % 2 = 1
  lt : w < 2 ^ 32
  major : field w 1 6 = op

theorem isWord_iff {op w : Nat} : IsWord op w ↔ w % 2 = 1 ∧ w < 2 ^ 32 ∧ field w 1 6 = op :=
  ⟨fun ⟨hodd, hlt, hmajor⟩ => ⟨hodd, hlt, hmajor⟩, fun ⟨hodd, hlt, hmajor⟩ => ⟨hodd, hlt, hmajor⟩⟩

namespace Encode

/-- The R and X formats. -/
@[simp] theorem packR_fields {op b a d t f q g s : Nat} (hop : op < 64) (hb : b < 64) (ha : a < 64) (hd : d < 64) (ht : t ≤ 1)
    (hf : f ≤ 1) (hq : q ≤ 1) (hg : g < 4) (hs : s < 4) :
    IsWord op (packR op b a d t f q g s) ∧ field (packR op b a d t f q g s) 7 2 = s ∧
    field (packR op b a d t f q g s) 9 2 = g ∧ field (packR op b a d t f q g s) 11 1 = q ∧
    field (packR op b a d t f q g s) 12 1 = f ∧ field (packR op b a d t f q g s) 13 1 = t ∧
    field (packR op b a d t f q g s) 14 6 = d ∧ field (packR op b a d t f q g s) 20 6 = a ∧
    field (packR op b a d t f q g s) 26 6 = b := by
  simp only [isWord_iff, field, packR]; omega

/-- The I format; the shifts read its immediate in parts. -/
@[simp] theorem packI_fields {op i a d g s : Nat} (hop : op < 64) (hi : i < 512) (ha : a < 64) (hd : d < 64) (hg : g < 4)
    (hs : s < 4) :
    IsWord op (packI op i a d g s) ∧ field (packI op i a d g s) 7 2 = s ∧ field (packI op i a d g s) 9 2 = g ∧
    field (packI op i a d g s) 11 6 = d ∧ field (packI op i a d g s) 17 6 = a ∧ field (packI op i a d g s) 23 9 = i ∧
    field (packI op i a d g s) 23 5 = i % 32 ∧ field (packI op i a d g s) 28 4 = i / 32 ∧
    field (packI op i a d g s) 28 2 = i / 32 % 4 ∧ field (packI op i a d g s) 30 1 = i / 128 % 2 ∧
    field (packI op i a d g s) 31 1 = i / 256 := by
  simp only [isWord_iff, field, packI]; omega

/-- The M format. -/
@[simp] theorem packM_fields {op i a d z s : Nat} (hop : op < 64) (hi : i < 256) (ha : a < 64) (hd : d < 64) (hz : z < 8)
    (hs : s < 4) :
    IsWord op (packM op i a d z s) ∧ field (packM op i a d z s) 7 2 = s ∧ field (packM op i a d z s) 9 3 = z ∧
    field (packM op i a d z s) 12 6 = d ∧ field (packM op i a d z s) 18 6 = a ∧ field (packM op i a d z s) 24 8 = i := by
  simp only [isWord_iff, field, packM]; omega

/-- The W format. -/
@[simp] theorem packW_fields {op i d s : Nat} (hop : op < 64) (hi : i < 131072) (hd : d < 64) (hs : s < 4) :
    IsWord op (packW op i d s) ∧ field (packW op i d s) 7 2 = s ∧ field (packW op i d s) 9 6 = d ∧
    field (packW op i d s) 15 17 = i := by
  simp only [isWord_iff, field, packW]; omega

/-- The J format. -/
@[simp] theorem packJ_fields {op i g s : Nat} (hop : op < 64) (hi : i < 2097152) (hg : g < 4) (hs : s < 4) :
    IsWord op (packJ op i g s) ∧ field (packJ op i g s) 7 2 = s ∧ field (packJ op i g s) 9 2 = g ∧
    field (packJ op i g s) 11 21 = i := by
  simp only [isWord_iff, field, packJ]; omega

/-- The A format. -/
@[simp] theorem packA_fields {op b a d w o s : Nat} (hop : op < 64) (hb : b < 64) (ha : a < 64) (hd : d < 64) (hw : w ≤ 1)
    (ho : o < 16) (hs : s < 4) :
    IsWord op (packA op b a d w o s) ∧ field (packA op b a d w o s) 7 2 = s ∧ field (packA op b a d w o s) 9 4 = o ∧
    field (packA op b a d w o s) 13 1 = w ∧ field (packA op b a d w o s) 14 6 = d ∧ field (packA op b a d w o s) 20 6 = a ∧
    field (packA op b a d w o s) 26 6 = b := by
  simp only [isWord_iff, field, packA]; omega

/-- The MX format. -/
@[simp] theorem packMX_fields {op m a r k f s : Nat} (hop : op < 64) (hm : m < 8) (ha : a < 64) (hr : r < 64) (hk : k < 16)
    (hf : f < 16) (hs : s < 4) :
    IsWord op (packMX op m a r k f s) ∧ field (packMX op m a r k f s) 7 2 = s ∧ field (packMX op m a r k f s) 9 4 = f ∧
    field (packMX op m a r k f s) 13 4 = k ∧ field (packMX op m a r k f s) 17 6 = r ∧ field (packMX op m a r k f s) 23 6 = a ∧
    field (packMX op m a r k f s) 29 3 = m := by
  simp only [isWord_iff, field, packMX]; omega

/-- The 16-bit format. -/
@[simp] theorem pack16_fields {op4 a d s : Nat} (hop : op4 < 16) (ha : a < 32) (hd : d < 32) (hs : s ≤ 1) :
    pack16 op4 a d s % 2 = 0 ∧ pack16 op4 a d s < 65536 ∧ field (pack16 op4 a d s) 1 1 = s ∧
      field (pack16 op4 a d s) 2 4 = op4 ∧ field (pack16 op4 a d s) 6 5 = d ∧
    field (pack16 op4 a d s) 11 5 = a := by
  simp only [field, pack16]; omega

end Encode

namespace Encode

@[simp] theorem h_fields {op4 : Nat} (hop : op4 < 16) (x : H) :
    h op4 x % 2 = 0 ∧ h op4 x < 65536 ∧ field (h op4 x) 2 4 = op4 ∧ Decode.h (h op4 x) = x := by
  simp [h, Decode.h, Decode.reg5, hop, Fin.is_le x.sc]

@[simp] theorem r_fields {op q : Nat} (hop : op < 64) (hq : q ≤ 1) (x : RF) :
    IsWord op (r op q x) ∧ field (r op q x) 11 1 = q ∧ field (r op q x) 12 1 = 0 ∧ field (r op q x) 14 6 = x.d ∧
    field (r op q x) 20 6 = x.a ∧ field (r op q x) 26 6 = x.b ∧ Decode.rf (r op q x) = x := by
  simp [r, Decode.rf, Decode.reg, Decode.bit, Decode.guard, Decode.sc, hop, hq, Bool.toNat_le]

@[simp] theorem f_fields {op q : Nat} (hop : op < 64) (hq : q ≤ 1) (x : FF) :
    IsWord op (f op q x) ∧ field (f op q x) 11 1 = q ∧ field (f op q x) 14 6 = x.d ∧
    field (f op q x) 20 6 = x.a ∧ field (f op q x) 26 6 = x.b ∧ Decode.ff (f op q x) = x := by
  simp [f, Decode.ff, Decode.reg, Decode.bit, Decode.guard, Decode.sc, hop, hq, Bool.toNat_le]

@[simp] theorem x_fields {op fn : Nat} (hop : op < 64) (hfn : fn < 64) (f : XF) :
    IsWord op (x op fn f) ∧ field (x op fn f) 11 1 = 0 ∧ field (x op fn f) 12 1 = 0 ∧ field (x op fn f) 14 6 = f.d ∧
    field (x op fn f) 20 6 = f.a ∧ field (x op fn f) 26 6 = fn ∧ Decode.xf (x op fn f) = f := by
  simp [x, Decode.xf, Decode.reg, Decode.bit, Decode.guard, Decode.sc, hop, hfn, Bool.toNat_le]

@[simp] theorem xf_fields {op fn : Nat} (hop : op < 64) (hfn : fn < 64) (f : XFF) :
    IsWord op (xf op fn f) ∧ field (xf op fn f) 11 1 = 0 ∧ field (xf op fn f) 14 6 = f.d ∧
    field (xf op fn f) 20 6 = f.a ∧ field (xf op fn f) 26 6 = fn ∧ Decode.xff (xf op fn f) = f := by
  simp [xf, Decode.xff, Decode.reg, Decode.bit, Decode.guard, Decode.sc, hop, hfn, Bool.toNat_le]

@[simp] theorem g_fields {op fn : Nat} (hop : op < 64) (hfn : fn < 64) (f : GF) :
    IsWord op (g op fn f) ∧ field (g op fn f) 11 1 = 0 ∧ field (g op fn f) 12 1 = 0 ∧ field (g op fn f) 13 1 = 0 ∧
    field (g op fn f) 14 6 = 0 ∧ field (g op fn f) 20 6 = 0 ∧ field (g op fn f) 26 6 = fn ∧ Decode.gf (g op fn f) = f := by
  simp [g, Decode.gf, Decode.guard, Decode.sc, hop, hfn]

@[simp] theorem dt_fields {op fn : Nat} (hop : op < 64) (hfn : fn < 64) (f : DTF) :
    IsWord op (dt op fn f) ∧ field (dt op fn f) 11 1 = 0 ∧ field (dt op fn f) 12 1 = 0 ∧
    field (dt op fn f) 20 6 = 0 ∧ field (dt op fn f) 26 6 = fn ∧ Decode.dtf (dt op fn f) = f := by
  simp [dt, Decode.dtf, Decode.reg, Decode.bit, Decode.guard, Decode.sc, hop, hfn, Bool.toNat_le]

@[simp] theorem d_fields {op fn : Nat} (hop : op < 64) (hfn : fn < 64) (f : DF) :
    IsWord op (d op fn f) ∧ field (d op fn f) 11 1 = 0 ∧ field (d op fn f) 12 1 = 0 ∧ field (d op fn f) 13 1 = 0 ∧
    field (d op fn f) 20 6 = 0 ∧ field (d op fn f) 26 6 = fn ∧ Decode.df (d op fn f) = f := by
  simp [d, Decode.df, Decode.reg, Decode.guard, Decode.sc, hop, hfn]

@[simp] theorem a_fields {op fn : Nat} (hop : op < 64) (hfn : fn < 64) (f : AF) :
    IsWord op (a op fn f) ∧ field (a op fn f) 11 1 = 0 ∧ field (a op fn f) 12 1 = 0 ∧ field (a op fn f) 13 1 = 0 ∧
    field (a op fn f) 14 6 = 0 ∧ field (a op fn f) 20 6 = f.a ∧ field (a op fn f) 26 6 = fn ∧ Decode.af (a op fn f) = f := by
  simp [a, Decode.af, Decode.reg, Decode.guard, Decode.sc, hop, hfn]

@[simp] theorem ad_fields {op fn : Nat} (hop : op < 64) (hfn : fn < 64) (f : ADF) :
    IsWord op (ad op fn f) ∧ field (ad op fn f) 11 1 = 0 ∧ field (ad op fn f) 12 1 = 0 ∧ field (ad op fn f) 13 1 = 0 ∧
    field (ad op fn f) 14 6 = f.d ∧ field (ad op fn f) 20 6 = f.a ∧ field (ad op fn f) 26 6 = fn ∧
    Decode.adf (ad op fn f) = f := by
  simp [ad, Decode.adf, Decode.reg, Decode.guard, Decode.sc, hop, hfn]

@[simp] theorem n_fields {op fn : Nat} (hop : op < 64) (hfn : fn < 64) (f : NF) :
    IsWord op (n op fn f) ∧ field (n op fn f) 11 1 = 0 ∧ field (n op fn f) 12 1 = 0 ∧ field (n op fn f) 13 1 = 0 ∧
    field (n op fn f) 14 6 = 0 ∧ field (n op fn f) 26 6 = fn ∧ Decode.nf (n op fn f) = f := by
  simp [n, Decode.nf, Decode.reg, Decode.guard, Decode.sc, hop, hfn]

@[simp] theorem z_fields {op fn : Nat} (hop : op < 64) (hfn : fn < 64) (f : ScF) :
    IsWord op (z op fn f) ∧ field (z op fn f) 9 2 = 0 ∧ field (z op fn f) 11 1 = 0 ∧ field (z op fn f) 12 1 = 0 ∧
    field (z op fn f) 13 1 = 0 ∧ field (z op fn f) 14 6 = 0 ∧ field (z op fn f) 20 6 = 0 ∧ field (z op fn f) 26 6 = fn ∧
    Decode.scf (z op fn f) = f := by
  simp [z, Decode.scf, Decode.sc, hop, hfn]

@[simp] theorem xl_fields {fn : Nat} (hfn : fn < 64) (f : XlF) :
    IsWord 61 (xl fn f) ∧ field (xl fn f) 9 2 = 0 ∧ field (xl fn f) 11 1 = 0 ∧ field (xl fn f) 12 1 = 0 ∧
    field (xl fn f) 13 1 = 0 ∧ field (xl fn f) 14 6 = f.d ∧ field (xl fn f) 20 6 = f.a ∧ field (xl fn f) 26 6 = fn ∧
    Decode.xlf (xl fn f) = f := by
  simp [xl, Decode.xlf, Decode.reg, Decode.sc, hfn]

@[simp] theorem xla_fields {fn : Nat} (hfn : fn < 64) (f : XlAF) :
    IsWord 61 (xla fn f) ∧ field (xla fn f) 9 2 = 0 ∧ field (xla fn f) 11 1 = 0 ∧ field (xla fn f) 12 1 = 0 ∧
    field (xla fn f) 13 1 = 0 ∧ field (xla fn f) 14 6 = 0 ∧ field (xla fn f) 20 6 = f.a ∧ field (xla fn f) 26 6 = fn ∧
    Decode.xlaf (xla fn f) = f := by
  simp [xla, Decode.xlaf, Decode.reg, Decode.sc, hfn]

@[simp] theorem xld_fields {fn : Nat} (hfn : fn < 64) (f : XlDF) :
    IsWord 61 (xld fn f) ∧ field (xld fn f) 9 2 = 0 ∧ field (xld fn f) 11 1 = 0 ∧ field (xld fn f) 12 1 = 0 ∧
    field (xld fn f) 13 1 = 0 ∧ field (xld fn f) 20 6 = 0 ∧ field (xld fn f) 26 6 = fn ∧ Decode.xldf (xld fn f) = f := by
  simp [xld, Decode.xldf, Decode.reg, Decode.sc, hfn]

@[simp] theorem i_fields {op : Nat} (hop : op < 64) (f : IF) : IsWord op (i op f) ∧ Decode.if_ (i op f) = f := by
  have himm : f.imm.toNat < 512 := f.imm.isLt
  simp [i, Decode.if_, Decode.reg, Decode.guard, Decode.sc, hop, himm]

/-- The shift count lies in the low five bits of the immediate, the bit of an arithmetic shift two above them (R54). -/
@[simp] theorem s_fields {op ar : Nat} (hop : op < 64) (har : ar ≤ 1) (f : SF) :
    IsWord op (s op ar f) ∧ field (s op ar f) 28 4 = 4 * ar ∧ field (s op ar f) 28 2 = 0 ∧ field (s op ar f) 30 1 = ar ∧
    field (s op ar f) 31 1 = 0 ∧ Decode.sf (s op ar f) = f := by
  have hn : f.n.val < 32 := f.n.isLt
  have himm : f.n.val + 128 * ar < 512 := by omega
  have hlow : (f.n.val + 128 * ar) % 32 = f.n.val := by omega
  have hhigh : (f.n.val + 128 * ar) / 32 = 4 * ar := by omega
  have harith : (f.n.val + 128 * ar) / 128 % 2 = ar := by omega
  have htop : (f.n.val + 128 * ar) / 256 = 0 := by omega
  simp [s, Decode.sf, Decode.reg, Decode.guard, Decode.sc, hop, himm, hlow, hhigh, harith, htop]

@[simp] theorem w_fields {op : Nat} (hop : op < 64) (f : WF) : IsWord op (w op f) ∧ Decode.wf (w op f) = f := by
  have himm : f.imm.toNat < 131072 := f.imm.isLt
  simp [w, Decode.wf, Decode.reg, Decode.sc, hop, himm]

@[simp] theorem j_fields {op : Nat} (hop : op < 64) (f : JF) : IsWord op (j op f) ∧ Decode.jf (j op f) = f := by
  have hdisp : f.disp.toNat < 2097152 := f.disp.isLt
  simp [j, Decode.jf, Decode.guard, Decode.sc, hop, hdisp]

@[simp] theorem m_fields {op : Nat} (hop : op < 64) (f : MF) :
    IsWord op (m op f) ∧ field (m op f) 7 2 = f.sc ∧ field (m op f) 9 3 = f.z.code ∧ field (m op f) 12 6 = f.d ∧
    field (m op f) 18 6 = f.a ∧ field (m op f) 24 8 = f.imm.toNat := by
  have himm : f.imm.toNat < 256 := f.imm.isLt
  simp [m, hop, himm]

end Encode

/-! ## Decoding by major opcode -/

namespace Decode

/-- What a word of each major opcode decodes as, in the order of the opcodes (R71). -/
def byMajor (w : Nat) : List (Except DecodeError Instr) :=
  [int w .add, int w .sub, int w .mul, intQ w .mulh .mulhN, int w .and, int w .or, int w .xor, int w .andn, int w .shl,
   intQ w .shr .shrA, intQ w .rot .rotR, intQ w .min .minN, intQ w .max .maxN, int64 w .add64, int64 w .sub64, ix w,
   .ok (.addi (if_ w)), .ok (.andi (if_ w)), .ok (.ori (if_ w)), .ok (.xori (if_ w)), shli w, shri w, .ok (.lil (wf w)),
   .ok (.lih (wf w)), cmp w, cmpi w, fcmp w, prd w, .ok (.br (jf w)), .ok (.call (jf w)), jr w, ctl w, flt w .fadd,
   flt w .fsub, flt w .fmul, flt w .ffma, fltD w .fmin .fminD, fltD w .fmax .fmaxD, fx w, cvt w, dblQ w .dadd .dsub,
   dbl w .dmul, dbl w .dfma, dx w, fltQ w .hadd2 .hadd2Bf, fltQ w .hmul2 .hmul2Bf, fltQ w .hfma2 .hfma2Bf,
   fltQ w .dp4 .dp4E4, mf w true .ld, mf w false .st, mf w false .ldnf, atom w, red w, mem w, cpy w, ring w, mma w, tile w,
   bmv w, port w, rsv w, xl w, fit w, sys w]

theorem byMajor_word (w : Nat) : (byMajor w)[field w 1 6]? = some (word w) := by
  have hlt : field w 1 6 < 64 := Nat.mod_lt _ (by decide)
  delta word
  generalize field w 1 6 = n at hlt
  interval_cases n <;> rfl

theorem word_of_byMajor {w n : Nat} {d : Except DecodeError Instr} (hn : field w 1 6 = n) (hd : (byMajor w)[n]? = some d) :
    word w = d := by
  subst hn
  exact Option.some.inj ((byMajor_word w).symm.trans hd)

end Decode

end Sys2Proof
end

section
/-!
PROOF. O56: decoding what was encoded, encoding what was decoded.
-/
namespace Sys2Proof
open Sys2Proof.Machine

/-! ## Decoding what was encoded -/

/-- An instruction whose word is `v` decodes from the word that encodes it as what the major opcode of `v` says. -/
theorem word_of_encode {i : Instr} {v n w : Nat} {d : Except DecodeError Instr} (hv : encode i = some (.word v))
    (hn : IsWord n v) (hd : (Decode.byMajor v)[n]? = some d) (hi : d = .ok i) (hw : encode i = some (.word w)) :
    (∃ op, IsWord op w) ∧ Decode.word w = .ok i := by
  obtain rfl : v = w := by simpa [hv] using hw
  exact ⟨⟨n, hn⟩, (Decode.word_of_byMajor hn.major hd).trans hi⟩

theorem half_of_encode {i : Instr} {v h : Nat} (hv : encode i = some (.half v)) (hi : v % 2 = 0 ∧ v < 65536 ∧ Decode.half v = i)
    (hh : encode i = some (.half h)) : h % 2 = 0 ∧ h < 65536 ∧ Decode.half h = i := by
  obtain rfl : v = h := by simpa [hv] using hh
  exact hi

theorem half_encode {i : Instr} {h : Nat} (he : encode i = some (.half h)) : h % 2 = 0 ∧ h < 65536 ∧ Decode.half h = i := by
  cases i
  case mov16 f | add16 f | sub16 f | and16 f | or16 f | xor16 f | shl16 f | shr16 f | fadd16 f | fsub16 f | fmul16 f | fmax16 f |
      fmin16 f | cmpLt16 f | fcmpLt16 f =>
    exact half_of_encode rfl (by simp [Decode.half]) he
  case addi16 f =>
    have himm : f.imm.toNat < 32 := f.imm.isLt
    exact half_of_encode rfl (by simp [Decode.half, Decode.hi, Decode.reg5, himm, Fin.is_le f.sc]) he
  all_goals cases he

@[simp] theorem Reg.even_iff {r : Reg} : r.even = true ↔ r.val % 2 = 0 := by simp [Reg.even]

@[simp] theorem Reg.four_iff {r : Reg} : r.four = true ↔ r.val % 4 = 0 := by simp [Reg.four]

open Decode Encode in
/-- The cases follow the formats: the integer and floating-point majors, the other majors, the minors of each FN space. -/
theorem word_encode {i : Instr} {w : Nat} (hwf : i.wf = true) (he : encode i = some (.word w)) :
    (∃ op, IsWord op w) ∧ Decode.word w = .ok i := by
  cases i
  case add f | sub f | mul f | and f | or f | xor f | andn f | shl f =>
    exact word_of_encode rfl (r_fields (by decide) (by decide) f).1 rfl (by simp [int]) he
  case mulh f | mulhN f | shr f | shrA f | rot f | rotR f | min f | minN f | max f | maxN f =>
    exact word_of_encode rfl (r_fields (by decide) (by decide) f).1 rfl (by simp [intQ]) he
  case add64 f | sub64 f =>
    have hpairs : (f.b.even && f.a.even && f.d.even) = true := hwf
    simp at hpairs
    exact word_of_encode rfl (r_fields (by decide) (by decide) f).1 rfl (by simp [int64, hpairs]) he
  case fadd f | fsub f | fmul f | ffma f =>
    exact word_of_encode rfl (f_fields (by decide) (by decide) f).1 rfl (by simp [flt]) he
  case fmin f | fmax f | hadd2 f | hadd2Bf f | hmul2 f | hmul2Bf f | hfma2 f | hfma2Bf f | dp4 f | dp4E4 f =>
    exact word_of_encode rfl (f_fields (by decide) (by decide) f).1 rfl (by simp [fltD, fltQ]) he
  case fminD f | fmaxD f | dadd f | dsub f | dmul f | dfma f =>
    have hpairs : (f.b.even && f.a.even && f.d.even) = true := hwf
    simp at hpairs
    exact word_of_encode rfl (f_fields (by decide) (by decide) f).1 rfl (by simp [fltD, dblQ, dbl, hpairs]) he
  case addi f | andi f | ori f | xori f =>
    exact word_of_encode rfl (i_fields (by decide) f).1 rfl (by simp) he
  case shli f | shri f | shriA f =>
    exact word_of_encode rfl (s_fields (by decide) (by decide) f).1 rfl (by simp [shli, shri]) he
  case lil f | lih f => exact word_of_encode rfl (w_fields (by decide) f).1 rfl (by simp) he
  case br f | call f => exact word_of_encode rfl (j_fields (by decide) f).1 rfl (by simp) he
  case cmp f => exact word_of_encode (n := 24) rfl (by simp) rfl (by simp [Decode.cmp, reg, Decode.guard, sc]) he
  case cmpi f =>
    have himm : f.imm.toNat < 512 := f.imm.isLt
    exact word_of_encode (n := 25) rfl (by simp [himm]) rfl (by simp [cmpi, reg, Decode.guard, sc, himm]) he
  case fcmp f =>
    exact word_of_encode (n := 26) rfl (by simp [Bool.toNat_le]) rfl (by simp [fcmp, reg, bit, Decode.guard, sc, Bool.toNat_le]) he
  case fcmpD f =>
    have hpairs : (f.b.even && f.a.even) = true := hwf
    simp at hpairs
    exact word_of_encode (n := 26) rfl (by simp [Bool.toNat_le]) rfl
      (by simp [fcmp, reg, bit, Decode.guard, sc, Bool.toNat_le, hpairs]) he
  case cvt f =>
    have halign : (f.a.val % f.c.sourceAlign == 0 && f.d.val % f.c.destAlign == 0) = true := hwf
    simp at halign
    exact word_of_encode (n := 39) rfl (by simp [Bool.toNat_le]) rfl
      (by simp [cvt, reg, bit, Decode.guard, sc, Bool.toNat_le, halign]) he
  case ld f =>
    have himm : f.imm.toNat < 256 := f.imm.isLt
    have hgroup : (f.a.even && f.d.val % f.z.regs == 0) = true := hwf
    simp at hgroup
    exact word_of_encode rfl (m_fields (by decide) f).1 rfl (by simp [mf, reg, sc, hgroup]) he
  case st f | ldnf f =>
    have hgroup : (f.a.even && !f.z.signed && f.d.val % f.z.regs == 0) = true := hwf
    simp at hgroup
    exact word_of_encode rfl (m_fields (by decide) f).1 rfl (by simp [mf, reg, sc, hgroup]) he
  case atom f =>
    have hpairs : (f.a.even && !(f.w && f.op == .bfadd2) && (!f.w || (f.b.even && f.d.even))) = true := hwf
    simp at hpairs
    exact word_of_encode (n := 51) rfl (by simp [Bool.toNat_le]) rfl
      (by simp [atom, reg, bit, sc, Bool.toNat_le, hpairs]) he
  case red f =>
    have hpairs : (f.a.even && f.op.reducible && !(f.w && f.op == .bfadd2) && (!f.w || f.b.even)) = true := hwf
    simp at hpairs
    exact word_of_encode (n := 52) rfl (by simp [Bool.toNat_le]) rfl
      (by simp [red, reg, bit, sc, Bool.toNat_le, hpairs]) he
  case mma f =>
    have hscale : (f.sr.even && (f.fmt.gq4 || (f.sr.val == 0 && f.bsel.val == 0))) = true := hwf
    simp at hscale
    exact word_of_encode (n := 56) rfl (by simp) rfl (by simp [mma, reg, sc, hscale]) he
  case mov f | not f | neg f | abs f | clz f | popc f | brev f | bswap f | sxb f | sxh f | zxb f | zxh f | sel f =>
    exact word_of_encode rfl (x_fields (by decide) (by decide) f).1 rfl (by simp [ix]) he
  case mov64 f =>
    have hpairs : (f.a.even && f.d.even) = true := hwf
    simp at hpairs
    exact word_of_encode rfl (x_fields (by decide) (by decide) f).1 rfl (by simp [ix, hpairs]) he
  case fneg f | fabs f | fsqrt f | frcp f | frsq f | fex2 f | flg2 f | ffloor f | fceil f | ftrunc f | frint f | fclass f | fsat f =>
    exact word_of_encode rfl (xf_fields (by decide) (by decide) f).1 rfl (by simp [fx]) he
  case dneg f | dabs f | dsqrt f | drcp f | dfloor f | dceil f | dtrunc f | drint f | dmov f =>
    have hpairs : (f.a.even && f.d.even) = true := hwf
    simp at hpairs
    exact word_of_encode rfl (xf_fields (by decide) (by decide) f).1 rfl (by simp [dx, hpairs]) he
  case dclass f =>
    have hpair : f.a.val % 2 = 0 := Reg.even_iff.1 hwf
    exact word_of_encode rfl (xf_fields (by decide) (by decide) f).1 rfl (by simp [dx, hpair]) he
  case ppop f | pdup f | pswap f | pnot f | pand f | por f | pxor f | prot f =>
    exact word_of_encode rfl (g_fields (by decide) (by decide) f).1 rfl (by simp [prd]) he
  case psave f | pget f => exact word_of_encode rfl (dt_fields (by decide) (by decide) f).1 rfl (by simp [prd]) he
  case pload f | pset f => exact word_of_encode rfl (a_fields (by decide) (by decide) f).1 rfl (by simp [prd]) he
  case jr f | callr f => exact word_of_encode rfl (a_fields (by decide) (by decide) f).1 rfl (by simp [jr]) he
  case ret f => exact word_of_encode rfl (g_fields (by decide) (by decide) f).1 rfl (by simp [jr]) he
  case nop f | exit f | bkpt f | yield f | eret f =>
    exact word_of_encode rfl (g_fields (by decide) (by decide) f).1 rfl (by simp [ctl]) he
  case dly f | safe f | trap f | syscall f =>
    exact word_of_encode rfl (n_fields (by decide) (by decide) f).1 rfl (by simp [ctl]) he
  case xacq f | xrel f | gbar f => exact word_of_encode rfl (z_fields (by decide) (by decide) f).1 rfl (by simp [ctl]) he
  case spawn f =>
    have hpair : f.a.val % 2 = 0 := Reg.even_iff.1 hwf
    exact word_of_encode rfl (a_fields (by decide) (by decide) f).1 rfl (by simp [ctl, hpair]) he
  case srd f =>
    exact word_of_encode (n := 31) rfl (by simp [Bool.toNat_le]) rfl (by simp [ctl, reg, bit, Decode.guard, sc, Bool.toNat_le]) he
  case swr f =>
    have hwritable : f.i.writable = true := hwf
    exact word_of_encode (n := 31) rfl (by simp) rfl (by simp [ctl, reg, Decode.guard, sc, hwritable]) he
  case hrd f =>
    have hn : f.n.val < 64 := f.n.isLt.trans (by decide)
    exact word_of_encode (n := 31) rfl (by simp [Bool.toNat_le, hn]) rfl
      (by simp [ctl, reg, bit, Decode.guard, sc, Bool.toNat_le, hn]) he
  case hwr f =>
    have hn : f.n.val < 64 := f.n.isLt.trans (by decide)
    exact word_of_encode (n := 31) rfl (by simp [hn]) rfl (by simp [ctl, reg, Decode.guard, sc, hn]) he
  case fence f => exact word_of_encode (n := 53) rfl (by simp) rfl (by simp [mem, Decode.guard, sc]) he
  case afence f => exact word_of_encode rfl (g_fields (by decide) (by decide) f).1 rfl (by simp [mem]) he
  case bfence f => exact word_of_encode (n := 53) rfl (by simp) rfl (by simp [mem, Decode.guard, sc]) he
  case waitc f => exact word_of_encode (n := 53) rfl (by simp) rfl (by simp [mem, reg, Decode.guard, sc]) he
  case stn f | ldn f =>
    have hpair : f.a.val % 2 = 0 := Reg.even_iff.1 hwf
    exact word_of_encode rfl (ad_fields (by decide) (by decide) f).1 rfl (by simp [mem, hpair]) he
  case pref f =>
    have hl : f.l.val < 64 := f.l.isLt.trans (by decide)
    have hpair : f.a.val % 2 = 0 := Reg.even_iff.1 hwf
    exact word_of_encode (n := 53) rfl (by simp [hl]) rfl (by simp [mem, reg, Decode.guard, sc, hl, hpair, Fin.is_le f.l]) he
  case cpy f | cpystat f => exact word_of_encode rfl (ad_fields (by decide) (by decide) f).1 rfl (by simp [cpy]) he
  case rclaim f | rcommit f | rawait f | rclaimnf f | rawaitnf f =>
    exact word_of_encode rfl (ad_fields (by decide) (by decide) f).1 rfl (by simp [ring]) he
  case rretire f => exact word_of_encode rfl (a_fields (by decide) (by decide) f).1 rfl (by simp [ring]) he
  case sclaim f | aclaim f => exact word_of_encode rfl (d_fields (by decide) (by decide) f).1 rfl (by simp [tile]) he
  case srel f | arel f | azero f =>
    exact word_of_encode rfl (a_fields (by decide) (by decide) f).1 rfl (by simp [tile]) he
  case bmvGq4 f | bmvE4m3 f | bmvBf16 f =>
    exact word_of_encode rfl (a_fields (by decide) (by decide) f).1 rfl (by simp [bmv]) he
  case palloc f | padd f | patdef f | patarm f | pinfo f =>
    exact word_of_encode rfl (ad_fields (by decide) (by decide) f).1 rfl (by simp [port]) he
  case pfree f | patdel f => exact word_of_encode rfl (a_fields (by decide) (by decide) f).1 rfl (by simp [port]) he
  case send f | sendnf f | recv f | recvnf f =>
    have hgroup : f.d.val % 4 = 0 := Reg.four_iff.1 hwf
    exact word_of_encode rfl (ad_fields (by decide) (by decide) f).1 rfl (by simp [port, hgroup]) he
  case claimR f | claimW f =>
    have hpair : f.a.val % 2 = 0 := Reg.even_iff.1 hwf
    exact word_of_encode rfl (a_fields (by decide) (by decide) f).1 rfl (by simp [rsv, hpair]) he
  case admitItem f => exact word_of_encode rfl (g_fields (by decide) (by decide) f).1 rfl (by simp [rsv]) he
  case rsvinfo f => exact word_of_encode rfl (d_fields (by decide) (by decide) f).1 rfl (by simp [rsv]) he
  case shflIdx f | shflXor f | shflUp f | shflDown f | radd f | rfadd f | rmin f | rmax f | scan f =>
    exact word_of_encode rfl (xl_fields (by decide) f).1 rfl (by simp [Decode.xl]) he
  case ballot f =>
    have hpair : f.d.val % 2 = 0 := Reg.even_iff.1 hwf
    exact word_of_encode rfl (xl_fields (by decide) f).1 rfl (by simp [Decode.xl, hpair]) he
  case voteAll f | voteAny f => exact word_of_encode rfl (xla_fields (by decide) f).1 rfl (by simp [Decode.xl]) he
  case gsync f =>
    have hpair : f.a.val % 2 = 0 := Reg.even_iff.1 hwf
    exact word_of_encode rfl (xla_fields (by decide) f).1 rfl (by simp [Decode.xl, hpair]) he
  case elect f => exact word_of_encode rfl (xld_fields (by decide) f).1 rfl (by simp [Decode.xl]) he
  case cbar f => exact word_of_encode rfl (z_fields (by decide) (by decide) f).1 rfl (by simp [Decode.xl]) he
  case fitx f | fitgen f | refit f | fitstat f =>
    have hpair : f.a.val % 2 = 0 := Reg.even_iff.1 hwf
    exact word_of_encode rfl (ad_fields (by decide) (by decide) f).1 rfl (by simp [fit, hpair]) he
  case fitmake f =>
    have hpairs : (f.a.even && f.d.even) = true := hwf
    simp at hpairs
    exact word_of_encode rfl (ad_fields (by decide) (by decide) f).1 rfl (by simp [sys, hpairs]) he
  case fitdrop f =>
    have hpair : f.a.val % 2 = 0 := Reg.even_iff.1 hwf
    exact word_of_encode rfl (a_fields (by decide) (by decide) f).1 rfl (by simp [sys, hpair]) he
  case tlbinv f | fqpop f | layout f | nodekill f =>
    have hpair : f.a.val % 2 = 0 := Reg.even_iff.1 hwf
    exact word_of_encode rfl (ad_fields (by decide) (by decide) f).1 rfl (by simp [sys, hpair]) he
  case preempt f => exact word_of_encode rfl (ad_fields (by decide) (by decide) f).1 rfl (by simp [sys]) he
  case srdp f => exact word_of_encode (n := 63) rfl (by simp) rfl (by simp [sys, reg, Decode.guard, sc]) he
  case swrp f =>
    have hwritable : f.i.writable = true := hwf
    exact word_of_encode (n := 63) rfl (by simp) rfl (by simp [sys, reg, Decode.guard, sc, hwritable]) he
  all_goals cases he

/-! ## Encoding what was decoded -/

namespace Decode

@[simp] theorem reg_val (w lo : Nat) : (reg w lo).val = field w lo 6 := Nat.mod_eq_of_lt (Nat.mod_lt _ (by decide))

@[simp] theorem reg5_val (w lo : Nat) : (reg5 w lo).val = field w lo 5 := Nat.mod_eq_of_lt (Nat.mod_lt _ (by decide))

@[simp] theorem sc_val (w : Nat) : (sc w).val = field w 7 2 := Nat.mod_eq_of_lt (Nat.mod_lt _ (by decide))

@[simp] theorem guard_code (w : Nat) : (Decode.guard w).code = field w 9 2 := Guard.code_ofCode (Nat.mod_lt _ (by decide))

@[simp] theorem bit_toNat (w lo : Nat) : (bit w lo).toNat = field w lo 1 := by
  have hlt : field w lo 1 < 2 := Nat.mod_lt _ (by decide)
  obtain h | h : field w lo 1 = 0 ∨ field w lo 1 = 1 := by omega
  all_goals simp [bit, h]

end Decode

/-- The bits from `lo` on, cut at the end of a field. -/
theorem div_eq_of_field {w lo n v : Nat} (h : field w lo n = v) : w / 2 ^ lo = v + 2 ^ n * (w / 2 ^ (lo + n)) := by
  subst h
  rw [field, pow_add, ← Nat.div_div_eq_div_mul]
  exact (Nat.mod_add_div ..).symm

section Packed
variable {w op : Nat} (hw : IsWord op w)
include hw

open Encode in
theorem packR_of_fields {b a d t f q g s : Nat} (hb : field w 26 6 = b) (ha : field w 20 6 = a) (hd : field w 14 6 = d)
    (ht : field w 13 1 = t) (hf : field w 12 1 = f) (hq : field w 11 1 = q) (hg : field w 9 2 = g) (hs : field w 7 2 = s) :
    packR op b a d t f q g s = w := by
  obtain ⟨hodd, hlt, hop⟩ := hw
  have h0 := div_eq_of_field hop
  have h1 := div_eq_of_field hs
  have h2 := div_eq_of_field hg
  have h3 := div_eq_of_field hq
  have h4 := div_eq_of_field hf
  have h5 := div_eq_of_field ht
  have h6 := div_eq_of_field hd
  have h7 := div_eq_of_field ha
  have h8 := div_eq_of_field hb
  norm_num at *
  simp only [packR]
  omega

open Encode in
theorem packI_of_fields {i a d g s : Nat} (hi : field w 23 9 = i) (ha : field w 17 6 = a) (hd : field w 11 6 = d)
    (hg : field w 9 2 = g) (hs : field w 7 2 = s) : packI op i a d g s = w := by
  obtain ⟨hodd, hlt, hop⟩ := hw
  have h0 := div_eq_of_field hop
  have h1 := div_eq_of_field hs
  have h2 := div_eq_of_field hg
  have h3 := div_eq_of_field hd
  have h4 := div_eq_of_field ha
  have h5 := div_eq_of_field hi
  norm_num at *
  simp only [packI]
  omega

open Decode Encode

theorem r_rf {q : Nat} (hq : field w 11 1 = q) (hf : field w 12 1 = 0) :
    r op q (Decode.rf w) = w :=
  packR_of_fields hw (reg_val ..).symm (reg_val ..).symm (reg_val ..).symm (bit_toNat ..).symm hf hq (guard_code ..).symm
      (sc_val ..).symm

theorem f_ff {q : Nat} (hq : field w 11 1 = q) :
    f op q (Decode.ff w) = w :=
  packR_of_fields hw (reg_val ..).symm (reg_val ..).symm (reg_val ..).symm (bit_toNat ..).symm (bit_toNat ..).symm hq
      (guard_code ..).symm (sc_val ..).symm

theorem x_xf {fn : Nat} (hfn : field w 26 6 = fn) (hf : field w 12 1 = 0) (hq : field w 11 1 = 0) :
    x op fn (Decode.xf w) = w :=
  packR_of_fields hw hfn (reg_val ..).symm (reg_val ..).symm (bit_toNat ..).symm hf hq (guard_code ..).symm (sc_val ..).symm

theorem xf_xff {fn : Nat} (hfn : field w 26 6 = fn) (hq : field w 11 1 = 0) :
    xf op fn (Decode.xff w) = w :=
  packR_of_fields hw hfn (reg_val ..).symm (reg_val ..).symm (bit_toNat ..).symm (bit_toNat ..).symm hq (guard_code ..).symm
      (sc_val ..).symm

theorem g_gf {fn : Nat} (hfn : field w 26 6 = fn) (hf : field w 12 1 = 0) (hq : field w 11 1 = 0) (ht : field w 13 1 = 0)
    (ha : field w 20 6 = 0) (hd : field w 14 6 = 0) :
    g op fn (Decode.gf w) = w :=
  packR_of_fields hw hfn ha hd ht hf hq (guard_code ..).symm (sc_val ..).symm

theorem dt_dtf {fn : Nat} (hfn : field w 26 6 = fn) (hf : field w 12 1 = 0) (hq : field w 11 1 = 0) (ha : field w 20 6 = 0) :
    dt op fn (Decode.dtf w) = w :=
  packR_of_fields hw hfn ha (reg_val ..).symm (bit_toNat ..).symm hf hq (guard_code ..).symm (sc_val ..).symm

theorem d_df {fn : Nat} (hfn : field w 26 6 = fn) (hf : field w 12 1 = 0) (hq : field w 11 1 = 0) (ht : field w 13 1 = 0)
    (ha : field w 20 6 = 0) :
    d op fn (Decode.df w) = w :=
  packR_of_fields hw hfn ha (reg_val ..).symm ht hf hq (guard_code ..).symm (sc_val ..).symm

theorem a_af {fn : Nat} (hfn : field w 26 6 = fn) (hf : field w 12 1 = 0) (hq : field w 11 1 = 0) (ht : field w 13 1 = 0)
    (hd : field w 14 6 = 0) :
    a op fn (Decode.af w) = w :=
  packR_of_fields hw hfn (reg_val ..).symm hd ht hf hq (guard_code ..).symm (sc_val ..).symm

theorem n_nf {fn : Nat} (hfn : field w 26 6 = fn) (hf : field w 12 1 = 0) (hq : field w 11 1 = 0) (ht : field w 13 1 = 0)
    (hd : field w 14 6 = 0) :
    n op fn (Decode.nf w) = w :=
  packR_of_fields hw hfn (reg_val ..).symm hd ht hf hq (guard_code ..).symm (sc_val ..).symm

theorem ad_adf {fn : Nat} (hfn : field w 26 6 = fn) (hf : field w 12 1 = 0) (hq : field w 11 1 = 0) (ht : field w 13 1 = 0) :
    ad op fn (Decode.adf w) = w :=
  packR_of_fields hw hfn (reg_val ..).symm (reg_val ..).symm ht hf hq (guard_code ..).symm (sc_val ..).symm

theorem z_scf {fn : Nat} (hfn : field w 26 6 = fn) (hf : field w 12 1 = 0) (hq : field w 11 1 = 0) (ht : field w 13 1 = 0)
    (hg : field w 9 2 = 0) (ha : field w 20 6 = 0) (hd : field w 14 6 = 0) :
    z op fn (Decode.scf w) = w :=
  packR_of_fields hw hfn ha hd ht hf hq hg (sc_val ..).symm

theorem i_if : i op (if_ w) = w :=
  packI_of_fields hw (by simp [if_, Nat.mod_eq_of_lt, field, Nat.mod_lt]) (reg_val ..).symm (reg_val ..).symm (guard_code ..).symm
      (sc_val ..).symm

/-- The bits of the immediate that a shift leaves out are 0 but for the one that says whether it is arithmetic (R54). -/
theorem s_sf {ar : Nat} (hz : field w 28 2 = 0) (har : field w 30 1 = ar) (htop : field w 31 1 = 0) : s op ar (sf w) = w := by
  refine packI_of_fields hw ?_ (reg_val ..).symm (reg_val ..).symm (guard_code ..).symm (sc_val ..).symm
  have hlow : (sf w).n.val = field w 23 5 := Nat.mod_eq_of_lt (Nat.mod_lt _ (by decide))
  rw [hlow]
  simp only [field] at *
  omega

theorem packM_of_fields {i a d z s : Nat} (hi : field w 24 8 = i) (ha : field w 18 6 = a) (hd : field w 12 6 = d)
    (hz : field w 9 3 = z) (hs : field w 7 2 = s) : packM op i a d z s = w := by
  obtain ⟨hodd, hlt, hop⟩ := hw
  have h0 := div_eq_of_field hop
  have h1 := div_eq_of_field hs
  have h2 := div_eq_of_field hz
  have h3 := div_eq_of_field hd
  have h4 := div_eq_of_field ha
  have h5 := div_eq_of_field hi
  norm_num at *
  simp only [packM]
  omega

theorem packA_of_fields {b a d wide o s : Nat} (hb : field w 26 6 = b) (ha : field w 20 6 = a) (hd : field w 14 6 = d)
    (hwide : field w 13 1 = wide) (ho : field w 9 4 = o) (hs : field w 7 2 = s) : packA op b a d wide o s = w := by
  obtain ⟨hodd, hlt, hop⟩ := hw
  have h0 := div_eq_of_field hop
  have h1 := div_eq_of_field hs
  have h2 := div_eq_of_field ho
  have h3 := div_eq_of_field hwide
  have h4 := div_eq_of_field hd
  have h5 := div_eq_of_field ha
  have h6 := div_eq_of_field hb
  norm_num at *
  simp only [packA]
  omega

theorem packMX_of_fields {m a r k f s : Nat} (hm : field w 29 3 = m) (ha : field w 23 6 = a) (hr : field w 17 6 = r)
    (hk : field w 13 4 = k) (hf : field w 9 4 = f) (hs : field w 7 2 = s) : packMX op m a r k f s = w := by
  obtain ⟨hodd, hlt, hop⟩ := hw
  have h0 := div_eq_of_field hop
  have h1 := div_eq_of_field hs
  have h2 := div_eq_of_field hf
  have h3 := div_eq_of_field hk
  have h4 := div_eq_of_field hr
  have h5 := div_eq_of_field ha
  have h6 := div_eq_of_field hm
  norm_num at *
  simp only [packMX]
  omega

theorem w_wf : Encode.w op (Decode.wf w) = w := by
  obtain ⟨hodd, hlt, hop⟩ := hw
  simp only [Encode.w, packW, Decode.wf, BitVec.toNat_ofNat, reg_val, sc_val]
  simp only [field] at *
  omega

theorem j_jf : j op (jf w) = w := by
  obtain ⟨hodd, hlt, hop⟩ := hw
  simp only [j, packJ, jf, BitVec.toNat_ofNat, guard_code, sc_val]
  simp only [field] at *
  omega

end Packed

section Lane
open Decode Encode
variable {w fn : Nat} (hw : IsWord 61 w) (hfn : field w 26 6 = fn) (hg : field w 9 2 = 0)
  (ht : field w 13 1 = 0) (hf : field w 12 1 = 0) (hq : field w 11 1 = 0)
include hw hfn hg ht hf hq

theorem xl_xlf : Encode.xl fn (xlf w) = w := packR_of_fields hw hfn (reg_val ..).symm (reg_val ..).symm ht hf hq hg (sc_val ..).symm

theorem xla_xlaf (hd : field w 14 6 = 0) : xla fn (xlaf w) = w :=
  packR_of_fields hw hfn (reg_val ..).symm hd ht hf hq hg (sc_val ..).symm

theorem xld_xldf (ha : field w 20 6 = 0) : xld fn (xldf w) = w :=
  packR_of_fields hw hfn ha (reg_val ..).symm ht hf hq hg (sc_val ..).symm

end Lane

/-- A decoded word gives a well-formed instruction that the word encodes. -/
def Sound (w : Nat) (d : Except DecodeError Instr) : Prop :=
  ∀ i, d = .ok i → i.wf = true ∧ encode i = some (.word w)

namespace Sound
open Decode
variable {w : Nat}

theorem error (e : DecodeError) : Sound w (.error e) := fun _ h => nomatch h

/-- An instruction whose own word is `v` is sound where `v` is the word that was decoded. -/
theorem ok {i : Instr} {v : Nat} (hwf : i.wf = true) (hv : encode i = some (.word v)) (h : v = w) : Sound w (.ok i) := by
  intro j hj
  cases hj
  exact ⟨hwf, h ▸ hv⟩

variable {k : Except DecodeError Instr}

theorem chk {c : Bool} {e : DecodeError} (h : c = true → Sound w k) : Sound w (chk c e k) := fun i hi =>
  let ⟨hc, hk⟩ := chk_eq_ok.1 hi
  h hc i hk

theorem named {α : Type} {o : Option α} {e : DecodeError} {k : α → Except DecodeError Instr} (h : ∀ a, o = some a → Sound w (k a)) :
    Sound w (named o e k) := fun i hi =>
  let ⟨a, ha, hk⟩ := named_eq_ok.1 hi
  h a ha i hk

theorem noT {e : DecodeError} (h : field w 13 1 = 0 → Sound w k) : Sound w (Decode.chk (!bit w 13) e k) :=
  chk fun ht => h (by simpa using ht)

theorem noQ {e : DecodeError} (h : field w 11 1 = 0 → Sound w k) : Sound w (Decode.chk (!bit w 11) e k) :=
  chk fun hq => h (by simpa using hq)

theorem noFQ (h : field w 12 1 = 0 → field w 11 1 = 0 → Sound w k) : Sound w (noFQ w k) := fun i hi =>
  let ⟨hf, hq, hk⟩ := noFQ_eq_ok.1 hi
  h hf hq i hk

theorem noTFQ (h : field w 13 1 = 0 → field w 12 1 = 0 → field w 11 1 = 0 → Sound w k) : Sound w (noTFQ w k) := fun i hi =>
  let ⟨ht, hf, hq, hk⟩ := noTFQ_eq_ok.1 hi
  h ht hf hq i hk

theorem noA (h : field w 20 6 = 0 → Sound w k) : Sound w (noA w k) := fun i hi =>
  let ⟨ha, hk⟩ := noA_eq_ok.1 hi
  h ha i hk

theorem noD (h : field w 14 6 = 0 → Sound w k) : Sound w (noD w k) := fun i hi =>
  let ⟨hd, hk⟩ := noD_eq_ok.1 hi
  h hd i hk

theorem noG (h : field w 9 2 = 0 → Sound w k) : Sound w (noG w k) := fun i hi =>
  let ⟨hg, hk⟩ := noG_eq_ok.1 hi
  h hg i hk

/-- What the check of a pair says of the register read there. -/
theorem even {lo : Nat} (h : (reg w lo).even = true → Sound w k) : Sound w (even w lo k) := fun i hi =>
  let ⟨he, hk⟩ := even_eq_ok.1 hi
  h (by simpa using he) i hk

theorem four {lo : Nat} (h : (reg w lo).four = true → Sound w k) : Sound w (aligned w lo 4 k) := fun i hi =>
  let ⟨he, hk⟩ := aligned_eq_ok.1 hi
  h (by simpa using he) i hk

/-- The three pairs of a 64-bit major. -/
theorem pairs (h : ((reg w 26).even && (reg w 20).even && (reg w 14).even) = true → Sound w k) :
    Sound w (Decode.even w 26 (Decode.even w 20 (Decode.even w 14 k))) :=
  .even fun hb => .even fun ha => .even fun hd => h (by rw [hb, ha, hd]; rfl)

end Sound

section Minors
open Decode Encode
variable {w : Nat}

theorem sound_ix (hw : IsWord 15 w) : Sound w (ix w) := by
  refine .noFQ fun hf hq => ?_
  split
  case h_1 hfn | h_2 hfn | h_3 hfn | h_4 hfn | h_5 hfn | h_6 hfn | h_7 hfn | h_8 hfn | h_9 hfn | h_10 hfn | h_11 hfn | h_12 hfn |
      h_14 hfn =>
    exact .ok rfl rfl (x_xf hw hfn hf hq)
  case h_13 hfn => exact .even fun ha => .even fun hd => .ok (Bool.and_eq_true_iff.2 ⟨ha, hd⟩) rfl (x_xf hw hfn hf hq)
  exact .error _

theorem sound_prd (hw : IsWord 27 w) : Sound w (prd w) := by
  refine .noFQ fun hf hq => ?_
  split
  case h_1 hfn | h_2 hfn | h_3 hfn | h_4 hfn | h_5 hfn | h_6 hfn | h_7 hfn | h_8 hfn =>
    exact .noT fun ht => .noA fun ha => .noD fun hd => .ok rfl rfl (g_gf hw hfn hf hq ht ha hd)
  case h_9 hfn | h_12 hfn => exact .noA fun ha => .ok rfl rfl (dt_dtf hw hfn hf hq ha)
  case h_10 hfn | h_11 hfn => exact .noT fun ht => .noD fun hd => .ok rfl rfl (a_af hw hfn hf hq ht hd)
  exact .error _

theorem sound_jr (hw : IsWord 30 w) : Sound w (Decode.jr w) := by
  refine .noTFQ fun ht hf hq => ?_
  split
  case h_1 hfn | h_2 hfn => exact .noD fun hd => .ok rfl rfl (a_af hw hfn hf hq ht hd)
  case h_3 hfn => exact .noA fun ha => .noD fun hd => .ok rfl rfl (g_gf hw hfn hf hq ht ha hd)
  exact .error _

theorem sound_ctl (hw : IsWord 31 w) : Sound w (ctl w) := by
  refine .noFQ fun hf hq => ?_
  split
  case h_1 hfn | h_3 hfn | h_7 hfn | h_12 hfn | h_15 hfn =>
    exact .noT fun ht => .noA fun ha => .noD fun hd => .ok rfl rfl (g_gf hw hfn hf hq ht ha hd)
  case h_2 hfn | h_4 hfn | h_5 hfn | h_6 hfn =>
    exact .noT fun ht => .noD fun hd => .ok rfl rfl (n_nf hw hfn hf hq ht hd)
  case h_8 hfn =>
    exact .named fun i hi => .ok rfl rfl (packR_of_fields hw hfn (SReg.code_of_ofCode hi).symm (reg_val ..).symm
      (bit_toNat ..).symm hf hq (guard_code ..).symm (sc_val ..).symm)
  case h_9 hfn =>
    exact .noT fun ht => .named fun i hi => .chk fun hwritable => .ok hwritable rfl (packR_of_fields hw hfn
      (SReg.code_of_ofCode hi).symm (reg_val ..).symm ht hf hq (guard_code ..).symm (sc_val ..).symm)
  case h_10 hfn | h_11 hfn | h_14 hfn =>
    exact .noT fun ht => .noG fun hg => .noA fun ha => .noD fun hd => .ok rfl rfl (z_scf hw hfn hf hq ht hg ha hd)
  case h_13 hfn => exact .noT fun ht => .noD fun hd => .even fun ha => .ok ha rfl (a_af hw hfn hf hq ht hd)
  case h_16 hfn =>
    exact .chk fun hn => .ok rfl rfl (packR_of_fields hw hfn (Nat.mod_eq_of_lt (of_decide_eq_true hn)).symm (reg_val ..).symm
      (bit_toNat ..).symm hf hq (guard_code ..).symm (sc_val ..).symm)
  case h_17 hfn =>
    exact .noT fun ht => .chk fun hn => .ok rfl rfl (packR_of_fields hw hfn (Nat.mod_eq_of_lt (of_decide_eq_true hn)).symm
      (reg_val ..).symm ht hf hq (guard_code ..).symm (sc_val ..).symm)
  exact .error _

theorem sound_fx (hw : IsWord 38 w) : Sound w (fx w) := by
  refine .noQ fun hq => ?_
  split
  case h_14 => exact .error _
  all_goals exact .ok rfl rfl (xf_xff hw ‹_› hq)

theorem sound_dx (hw : IsWord 43 w) : Sound w (dx w) := by
  refine .noQ fun hq => ?_
  split
  case h_9 hfn => exact .even fun ha => .ok ha rfl (xf_xff hw hfn hq)
  case h_11 => exact .error _
  all_goals exact .even fun ha => .even fun hd => .ok (Bool.and_eq_true_iff.2 ⟨ha, hd⟩) rfl (xf_xff hw ‹_› hq)

theorem sound_cvt (hw : IsWord 39 w) : Sound w (cvt w) := by
  refine .noQ fun hq => .named fun c hc => .chk fun ha => .chk fun hd => .ok ?_ rfl (packR_of_fields hw
    (CvtCode.code_of_ofCode hc).symm (reg_val ..).symm (reg_val ..).symm (bit_toNat ..).symm (bit_toNat ..).symm hq
    (guard_code ..).symm (sc_val ..).symm)
  change ((reg w 20).val % c.sourceAlign == 0 && (reg w 14).val % c.destAlign == 0) = true
  rw [reg_val, reg_val, ha, hd]
  rfl

theorem sound_mem (hw : IsWord 53 w) : Sound w (Decode.mem w) := by
  refine .noTFQ fun ht hf hq => ?_
  split
  case h_1 hfn =>
    exact .named fun s hs => .named fun k hk => .ok rfl rfl (packR_of_fields hw hfn (Scope.code_of_ofCode hs).symm
      (FenceKind.code_of_ofCode hk).symm ht hf hq (guard_code ..).symm (sc_val ..).symm)
  case h_2 hfn => exact .noA fun ha => .noD fun hd => .ok rfl rfl (g_gf hw hfn hf hq ht ha hd)
  case h_3 hfn =>
    exact .noA fun ha => .named fun k hk => .ok rfl rfl (packR_of_fields hw hfn ha (BFenceKind.code_of_ofCode hk).symm ht hf hq
      (guard_code ..).symm (sc_val ..).symm)
  case h_4 hfn =>
    exact .named fun c hc => .ok rfl rfl (packR_of_fields hw hfn (CounterClass.code_of_ofCode hc).symm (reg_val ..).symm ht hf hq
      (guard_code ..).symm (sc_val ..).symm)
  case h_5 hfn | h_6 hfn => exact .even fun ha => .ok ha rfl (ad_adf hw hfn hf hq ht)
  case h_7 hfn =>
    exact .even fun ha => .chk fun hl => .ok ha rfl (packR_of_fields hw hfn (reg_val ..).symm
      (Nat.mod_eq_of_lt (of_decide_eq_true hl)).symm ht hf hq (guard_code ..).symm (sc_val ..).symm)
  exact .error _

theorem sound_cpy (hw : IsWord 54 w) : Sound w (cpy w) := by
  refine .noTFQ fun ht hf hq => ?_
  split
  case h_1 hfn | h_2 hfn => exact .ok rfl rfl (ad_adf hw hfn hf hq ht)
  exact .error _

theorem sound_ring (hw : IsWord 55 w) : Sound w (ring w) := by
  refine .noTFQ fun ht hf hq => ?_
  split
  case h_1 hfn | h_2 hfn | h_3 hfn | h_5 hfn | h_6 hfn => exact .ok rfl rfl (ad_adf hw hfn hf hq ht)
  case h_4 hfn => exact .noD fun hd => .ok rfl rfl (a_af hw hfn hf hq ht hd)
  exact .error _

theorem sound_tile (hw : IsWord 57 w) : Sound w (tile w) := by
  refine .noTFQ fun ht hf hq => ?_
  split
  case h_1 hfn | h_3 hfn => exact .noA fun ha => .ok rfl rfl (d_df hw hfn hf hq ht ha)
  case h_2 hfn | h_4 hfn | h_5 hfn => exact .noD fun hd => .ok rfl rfl (a_af hw hfn hf hq ht hd)
  exact .error _

theorem sound_bmv (hw : IsWord 58 w) : Sound w (bmv w) := by
  refine .noTFQ fun ht hf hq => ?_
  split
  case h_1 hfn | h_2 hfn | h_3 hfn => exact .noD fun hd => .ok rfl rfl (a_af hw hfn hf hq ht hd)
  exact .error _

theorem sound_port (hw : IsWord 59 w) : Sound w (port w) := by
  refine .noTFQ fun ht hf hq => ?_
  split
  case h_1 hfn | h_5 hfn | h_8 hfn | h_10 hfn | h_11 hfn => exact .ok rfl rfl (ad_adf hw hfn hf hq ht)
  case h_2 hfn | h_9 hfn => exact .noD fun hd => .ok rfl rfl (a_af hw hfn hf hq ht hd)
  case h_3 hfn | h_4 hfn | h_6 hfn | h_7 hfn => exact .four fun hd => .ok hd rfl (ad_adf hw hfn hf hq ht)
  exact .error _

theorem sound_rsv (hw : IsWord 60 w) : Sound w (rsv w) := by
  refine .noTFQ fun ht hf hq => ?_
  split
  case h_1 hfn | h_2 hfn => exact .noD fun hd => .even fun ha => .ok ha rfl (a_af hw hfn hf hq ht hd)
  case h_3 hfn => exact .noA fun ha => .noD fun hd => .ok rfl rfl (g_gf hw hfn hf hq ht ha hd)
  case h_4 hfn => exact .noA fun ha => .ok rfl rfl (d_df hw hfn hf hq ht ha)
  exact .error _

theorem sound_xl (hw : IsWord 61 w) : Sound w (Decode.xl w) := by
  refine .noG fun hg => .noTFQ fun ht hf hq => ?_
  split
  case h_1 hfn | h_2 hfn | h_3 hfn | h_4 hfn | h_8 hfn | h_9 hfn | h_10 hfn | h_11 hfn | h_12 hfn =>
    exact .ok rfl rfl (xl_xlf hw hfn hg ht hf hq)
  case h_5 hfn | h_6 hfn => exact .noD fun hd => .ok rfl rfl (xla_xlaf hw hfn hg ht hf hq hd)
  case h_7 hfn => exact .even fun hd => .ok hd rfl (xl_xlf hw hfn hg ht hf hq)
  case h_13 hfn => exact .noA fun ha => .ok rfl rfl (xld_xldf hw hfn hg ht hf hq ha)
  case h_14 hfn => exact .even fun ha => .noD fun hd => .ok ha rfl (xla_xlaf hw hfn hg ht hf hq hd)
  case h_15 hfn => exact .noA fun ha => .noD fun hd => .ok rfl rfl (z_scf hw hfn hf hq ht hg ha hd)
  exact .error _

theorem sound_fit (hw : IsWord 62 w) : Sound w (fit w) := by
  refine .noTFQ fun ht hf hq => ?_
  split
  case h_1 hfn | h_2 hfn | h_3 hfn | h_4 hfn => exact .even fun ha => .ok ha rfl (ad_adf hw hfn hf hq ht)
  exact .error _

theorem sound_sys (hw : IsWord 63 w) : Sound w (sys w) := by
  refine .noTFQ fun ht hf hq => ?_
  split
  case h_1 hfn =>
    exact .even fun ha => .even fun hd => .ok (Bool.and_eq_true_iff.2 ⟨ha, hd⟩) rfl (ad_adf hw hfn hf hq ht)
  case h_2 hfn => exact .even fun ha => .noD fun hd => .ok ha rfl (a_af hw hfn hf hq ht hd)
  case h_3 hfn | h_4 hfn | h_5 hfn | h_6 hfn => exact .even fun ha => .ok ha rfl (ad_adf hw hfn hf hq ht)
  case h_7 hfn => exact .ok rfl rfl (ad_adf hw hfn hf hq ht)
  case h_8 hfn =>
    exact .named fun i hi => .ok rfl rfl (packR_of_fields hw hfn (PReg.code_of_ofCode hi).symm (reg_val ..).symm ht hf hq
      (guard_code ..).symm (sc_val ..).symm)
  case h_9 hfn =>
    exact .named fun i hi => .chk fun hwritable => .ok hwritable rfl (packR_of_fields hw hfn (PReg.code_of_ofCode hi).symm
      (reg_val ..).symm ht hf hq (guard_code ..).symm (sc_val ..).symm)
  exact .error _

end Minors

section Majors
open Decode Encode
variable {w op : Nat} (hw : IsWord op w)
include hw

theorem sound_int {k : RF → Instr} (hwf : ∀ f, (k f).wf = true) (hk : ∀ f, encode (k f) = some (.word (r op 0 f))) :
    Sound w (int w k) :=
  .noFQ fun hf hq => .ok (hwf _) (hk _) (r_rf hw hq hf)

theorem sound_intQ {k0 k1 : RF → Instr} (hwf0 : ∀ f, (k0 f).wf = true) (hwf1 : ∀ f, (k1 f).wf = true)
    (hk0 : ∀ f, encode (k0 f) = some (.word (r op 0 f))) (hk1 : ∀ f, encode (k1 f) = some (.word (r op 1 f))) :
    Sound w (intQ w k0 k1) := by
  refine .chk fun hf => ?_
  have hf : field w 12 1 = 0 := by simpa using hf
  cases hq : bit w 11
  case false => exact .ok (hwf0 _) (hk0 _) (r_rf hw (bit_eq_false.1 hq) hf)
  case true => exact .ok (hwf1 _) (hk1 _) (r_rf hw (bit_eq_true.1 hq) hf)

theorem sound_int64 {k : RF → Instr} (hwf : ∀ f, (f.b.even && f.a.even && f.d.even) = true → (k f).wf = true)
    (hk : ∀ f, encode (k f) = some (.word (r op 0 f))) : Sound w (int64 w k) :=
  .noFQ fun hf hq => .pairs fun hpairs => .ok (hwf _ hpairs) (hk _) (r_rf hw hq hf)

theorem sound_flt {k : FF → Instr} (hwf : ∀ f, (k f).wf = true) (hk : ∀ f, encode (k f) = some (.word (Encode.f op 0 f))) :
    Sound w (flt w k) :=
  .noQ fun hq => .ok (hwf _) (hk _) (f_ff hw hq)

theorem sound_fltQ {k0 k1 : FF → Instr} (hwf0 : ∀ f, (k0 f).wf = true) (hwf1 : ∀ f, (k1 f).wf = true)
    (hk0 : ∀ f, encode (k0 f) = some (.word (Encode.f op 0 f))) (hk1 : ∀ f, encode (k1 f) = some (.word (Encode.f op 1 f))) :
    Sound w (fltQ w k0 k1) := by
  unfold fltQ
  cases hq : bit w 11
  case false => exact .ok (hwf0 _) (hk0 _) (f_ff hw (bit_eq_false.1 hq))
  case true => exact .ok (hwf1 _) (hk1 _) (f_ff hw (bit_eq_true.1 hq))

theorem sound_fltD {k0 k1 : FF → Instr} (hwf0 : ∀ f, (k0 f).wf = true)
    (hwf1 : ∀ f, (f.b.even && f.a.even && f.d.even) = true → (k1 f).wf = true)
    (hk0 : ∀ f, encode (k0 f) = some (.word (Encode.f op 0 f))) (hk1 : ∀ f, encode (k1 f) = some (.word (Encode.f op 1 f))) :
    Sound w (fltD w k0 k1) := by
  unfold fltD
  cases hq : bit w 11
  case false => exact .ok (hwf0 _) (hk0 _) (f_ff hw (bit_eq_false.1 hq))
  case true => exact .pairs fun hpairs => .ok (hwf1 _ hpairs) (hk1 _) (f_ff hw (bit_eq_true.1 hq))

theorem sound_dbl {k : FF → Instr} (hwf : ∀ f, (f.b.even && f.a.even && f.d.even) = true → (k f).wf = true)
    (hk : ∀ f, encode (k f) = some (.word (Encode.f op 0 f))) : Sound w (dbl w k) :=
  .noQ fun hq => .pairs fun hpairs => .ok (hwf _ hpairs) (hk _) (f_ff hw hq)

theorem sound_dblQ {k0 k1 : FF → Instr} (hwf0 : ∀ f, (f.b.even && f.a.even && f.d.even) = true → (k0 f).wf = true)
    (hwf1 : ∀ f, (f.b.even && f.a.even && f.d.even) = true → (k1 f).wf = true)
    (hk0 : ∀ f, encode (k0 f) = some (.word (Encode.f op 0 f))) (hk1 : ∀ f, encode (k1 f) = some (.word (Encode.f op 1 f))) :
    Sound w (dblQ w k0 k1) := by
  refine .pairs fun hpairs => ?_
  cases hq : bit w 11
  case false => exact .ok (hwf0 _ hpairs) (hk0 _) (f_ff hw (bit_eq_false.1 hq))
  case true => exact .ok (hwf1 _ hpairs) (hk1 _) (f_ff hw (bit_eq_true.1 hq))

theorem sound_mf {signedOk : Bool} {k : MF → Instr}
    (hwf : ∀ f, f.a.even = true → (signedOk || !f.z.signed) = true → (f.d.val % f.z.regs == 0) = true → (k f).wf = true)
    (hk : ∀ f, encode (k f) = some (.word (m op f))) : Sound w (mf w signedOk k) :=
  .named fun z hz => .even fun ha => .chk fun hs => .chk fun hd => .ok
    (hwf _ ha hs (by simpa using hd)) (hk _)
    (packM_of_fields hw (Nat.mod_eq_of_lt (Nat.mod_lt _ (by decide))).symm (reg_val ..).symm (reg_val ..).symm
      (Size.code_of_ofCode hz).symm (sc_val ..).symm)

end Majors

section Words
open Decode Encode
variable {w : Nat}

theorem sound_cmp (hw : IsWord 24 w) : Sound w (Decode.cmp w) :=
  .noTFQ fun ht hf hq => .named fun _ hc => .ok rfl rfl (packR_of_fields hw (reg_val ..).symm (reg_val ..).symm
    (Cond.code_of_ofCode hc).symm ht hf hq (guard_code ..).symm (sc_val ..).symm)

theorem sound_cmpi (hw : IsWord 25 w) : Sound w (cmpi w) :=
  .named fun _ hc => .ok rfl rfl (packI_of_fields hw (Nat.mod_eq_of_lt (Nat.mod_lt _ (by decide))).symm (reg_val ..).symm
    (Cond.code_of_ofCode hc).symm (guard_code ..).symm (sc_val ..).symm)

theorem sound_fcmp (hw : IsWord 26 w) : Sound w (fcmp w) := by
  refine .noT fun ht => .named fun c hc => ?_
  cases hq : bit w 11
  case false =>
    exact .ok rfl rfl (packR_of_fields hw (reg_val ..).symm (reg_val ..).symm (FCond.code_of_ofCode hc).symm ht
      (bit_toNat ..).symm (bit_eq_false.1 hq) (guard_code ..).symm (sc_val ..).symm)
  case true =>
    exact .even fun hb => .even fun ha => .ok (Bool.and_eq_true_iff.2 ⟨hb, ha⟩) rfl (packR_of_fields hw (reg_val ..).symm
      (reg_val ..).symm (FCond.code_of_ofCode hc).symm ht (bit_toNat ..).symm (bit_eq_true.1 hq) (guard_code ..).symm
      (sc_val ..).symm)

theorem sound_shli (hw : IsWord 20 w) : Sound w (shli w) := by
  refine .chk fun hz => ?_
  have hz : field w 28 4 = 0 := by simpa using hz
  obtain ⟨hlow, harith, htop⟩ : field w 28 2 = 0 ∧ field w 30 1 = 0 ∧ field w 31 1 = 0 := by simp only [field] at *; omega
  exact .ok rfl rfl (s_sf hw hlow harith htop)

theorem sound_shri (hw : IsWord 21 w) : Sound w (shri w) := by
  refine .chk fun hz => ?_
  obtain ⟨hlow, htop⟩ : field w 28 2 = 0 ∧ field w 31 1 = 0 := by simpa using hz
  cases harith : bit w 30
  case false => exact .ok rfl rfl (s_sf hw hlow (bit_eq_false.1 harith) htop)
  case true => exact .ok rfl rfl (s_sf hw hlow (bit_eq_true.1 harith) htop)

theorem sound_atom (hw : IsWord 51 w) : Sound w (atom w) := by
  refine .named fun o ho => .even fun ha => .chk fun hbf => .chk fun hpairs => .ok ?_ rfl (packA_of_fields hw (reg_val ..).symm
    (reg_val ..).symm (reg_val ..).symm (bit_toNat ..).symm (AtomOp.code_of_ofCode ho).symm (sc_val ..).symm)
  change ((reg w 20).even && !(bit w 13 && o == .bfadd2) && (!bit w 13 || ((reg w 26).even && (reg w 14).even))) = true
  rw [ha, hbf]
  simpa using hpairs

theorem sound_red (hw : IsWord 52 w) : Sound w (red w) := by
  refine .named fun o ho => .even fun ha => .noD fun hd => .chk fun hred => .chk fun hbf => .chk fun hpair => .ok ?_ rfl
    (packA_of_fields hw (reg_val ..).symm (reg_val ..).symm hd (bit_toNat ..).symm (AtomOp.code_of_ofCode ho).symm
      (sc_val ..).symm)
  change ((reg w 20).even && o.reducible && !(bit w 13 && o == .bfadd2) && (!bit w 13 || (reg w 26).even)) = true
  rw [ha, hred, hbf]
  simpa using hpair

theorem sound_mma (hw : IsWord 56 w) : Sound w (mma w) := by
  have hbsel : (Fin.ofNat 16 (field w 13 4)).val = field w 13 4 := Nat.mod_eq_of_lt (Nat.mod_lt _ (by decide))
  refine .named fun fm hfm => .named fun m hm => .even fun hsr => .chk fun hz => .ok ?_ rfl (packMX_of_fields hw
    (MmaMode.code_of_ofCode hm).symm (reg_val ..).symm (reg_val ..).symm hbsel.symm (MmaFmt.code_of_ofCode hfm).symm (sc_val ..).symm)
  change ((reg w 17).even && (fm.gq4 || ((reg w 17).val == 0 && (Fin.ofNat 16 (field w 13 4)).val == 0))) = true
  rw [hsr, reg_val, hbsel, hz]
  rfl

end Words

open Decode Encode in
/-- The majors in the order of R71. -/
theorem sound_word {w op : Nat} (hw : IsWord op w) : Sound w (word w) := by
  obtain ⟨hodd, hlt, -⟩ := hw
  delta word
  split
  case h_1 hop | h_2 hop | h_3 hop | h_5 hop | h_6 hop | h_7 hop | h_8 hop | h_9 hop =>
    exact sound_int ⟨hodd, hlt, hop⟩ (fun _ => rfl) fun _ => rfl
  case h_4 hop | h_10 hop | h_11 hop | h_12 hop | h_13 hop =>
    exact sound_intQ ⟨hodd, hlt, hop⟩ (fun _ => rfl) (fun _ => rfl) (fun _ => rfl) fun _ => rfl
  case h_14 hop | h_15 hop => exact sound_int64 ⟨hodd, hlt, hop⟩ (fun _ h => h) fun _ => rfl
  case h_16 hop => exact sound_ix ⟨hodd, hlt, hop⟩
  case h_17 hop | h_18 hop | h_19 hop | h_20 hop => exact .ok rfl rfl (i_if ⟨hodd, hlt, hop⟩)
  case h_21 hop => exact sound_shli ⟨hodd, hlt, hop⟩
  case h_22 hop => exact sound_shri ⟨hodd, hlt, hop⟩
  case h_23 hop | h_24 hop => exact .ok rfl rfl (w_wf ⟨hodd, hlt, hop⟩)
  case h_25 hop => exact sound_cmp ⟨hodd, hlt, hop⟩
  case h_26 hop => exact sound_cmpi ⟨hodd, hlt, hop⟩
  case h_27 hop => exact sound_fcmp ⟨hodd, hlt, hop⟩
  case h_28 hop => exact sound_prd ⟨hodd, hlt, hop⟩
  case h_29 hop | h_30 hop => exact .ok rfl rfl (j_jf ⟨hodd, hlt, hop⟩)
  case h_31 hop => exact sound_jr ⟨hodd, hlt, hop⟩
  case h_32 hop => exact sound_ctl ⟨hodd, hlt, hop⟩
  case h_33 hop | h_34 hop | h_35 hop | h_36 hop => exact sound_flt ⟨hodd, hlt, hop⟩ (fun _ => rfl) fun _ => rfl
  case h_37 hop | h_38 hop => exact sound_fltD ⟨hodd, hlt, hop⟩ (fun _ => rfl) (fun _ h => h) (fun _ => rfl) fun _ => rfl
  case h_39 hop => exact sound_fx ⟨hodd, hlt, hop⟩
  case h_40 hop => exact sound_cvt ⟨hodd, hlt, hop⟩
  case h_41 hop => exact sound_dblQ ⟨hodd, hlt, hop⟩ (fun _ h => h) (fun _ h => h) (fun _ => rfl) fun _ => rfl
  case h_42 hop | h_43 hop => exact sound_dbl ⟨hodd, hlt, hop⟩ (fun _ h => h) fun _ => rfl
  case h_44 hop => exact sound_dx ⟨hodd, hlt, hop⟩
  case h_45 hop | h_46 hop | h_47 hop | h_48 hop =>
    exact sound_fltQ ⟨hodd, hlt, hop⟩ (fun _ => rfl) (fun _ => rfl) (fun _ => rfl) fun _ => rfl
  case h_49 hop => exact sound_mf ⟨hodd, hlt, hop⟩ (fun _ ha _ hd => Bool.and_eq_true_iff.2 ⟨ha, hd⟩) fun _ => rfl
  case h_50 hop | h_51 hop =>
    exact sound_mf ⟨hodd, hlt, hop⟩ (fun _ ha hs hd => Bool.and_eq_true_iff.2 ⟨Bool.and_eq_true_iff.2 ⟨ha, hs⟩, hd⟩) fun _ => rfl
  case h_52 hop => exact sound_atom ⟨hodd, hlt, hop⟩
  case h_53 hop => exact sound_red ⟨hodd, hlt, hop⟩
  case h_54 hop => exact sound_mem ⟨hodd, hlt, hop⟩
  case h_55 hop => exact sound_cpy ⟨hodd, hlt, hop⟩
  case h_56 hop => exact sound_ring ⟨hodd, hlt, hop⟩
  case h_57 hop => exact sound_mma ⟨hodd, hlt, hop⟩
  case h_58 hop => exact sound_tile ⟨hodd, hlt, hop⟩
  case h_59 hop => exact sound_bmv ⟨hodd, hlt, hop⟩
  case h_60 hop => exact sound_port ⟨hodd, hlt, hop⟩
  case h_61 hop => exact sound_rsv ⟨hodd, hlt, hop⟩
  case h_62 hop => exact sound_xl ⟨hodd, hlt, hop⟩
  case h_63 hop => exact sound_fit ⟨hodd, hlt, hop⟩
  case h_64 =>
    have hop : field w 1 6 < 64 := Nat.mod_lt _ (by decide)
    simp only [imp_false] at *
    exact sound_sys ⟨hodd, hlt, by omega⟩

open Decode Encode in
/-- Every 16-bit form decodes, and its operation's code gives the halfword back (R50, R51). -/
theorem encode_half {h : Nat} (heven : h % 2 = 0) (hlt : h < 2 ^ 16) :
    (half h).wf = true ∧ encode (half h) = some (.half h) := by
  have hpack {op : Nat} (hop : field h 2 4 = op) : Encode.h op (Decode.h h) = h := by
    simp only [Encode.h, pack16, Decode.h, reg5_val, Fin.val_ofNat]
    simp only [field] at *
    omega
  delta half
  split
  case h_9 hop =>
    refine ⟨rfl, congrArg (some ∘ Code.half) ?_⟩
    simp only [pack16, hi, reg5_val, Fin.val_ofNat, BitVec.toNat_ofNat]
    simp only [field] at *
    omega
  case h_16 =>
    have hop : field h 2 4 < 16 := Nat.mod_lt _ (by decide)
    simp only [imp_false] at *
    exact ⟨rfl, congrArg (some ∘ Code.half) (hpack (by omega))⟩
  all_goals exact ⟨rfl, congrArg (some ∘ Code.half) (hpack ‹_›)⟩

/-! ## Bytes -/

/-- The bytes of the value of some bytes are those bytes. -/
theorem leBytes_leNat (bs : List Byte) : leBytes bs.length (leNat bs) = bs := by
  induction bs with
  | nil => rfl
  | cons b bs ih =>
    have hb : b.toNat < 256 := b.isLt
    have hlow : BitVec.ofNat 8 (b.toNat + 256 * leNat bs) = b := BitVec.eq_of_toNat_eq (by rw [BitVec.toNat_ofNat]; omega)
    have hrest : (b.toNat + 256 * leNat bs) / 256 = leNat bs := by omega
    rw [List.length_cons, leNat, leBytes, hlow, hrest, ih]

theorem leNat_lt (bs : List Byte) : leNat bs < 256 ^ bs.length := by
  induction bs with
  | nil => decide
  | cons b bs ih =>
    have hb : b.toNat < 256 := b.isLt
    rw [List.length_cons, leNat, pow_succ]
    omega

/-- Two bytes whose bit 0 is 0 are a 16-bit form (R49). -/
theorem decode_half {b0 b1 : Byte} {rest : List Byte} {h : Nat} (hh : leNat [b0, b1] = h) (heven : h % 2 = 0) :
    decode (b0 :: b1 :: rest) = .ok (Decode.half h, 2) := by
  have hval : b0.toNat + 256 * b1.toNat = h := by simpa [leNat] using hh
  simp only [decode, hval, heven, if_true]

/-- Four bytes whose bit 0 is 1 are a word (R49). -/
theorem decode_word {b0 b1 b2 b3 : Byte} {rest : List Byte} {w : Nat} (hw : leNat [b0, b1, b2, b3] = w) (hodd : w % 2 = 1) :
    decode (b0 :: b1 :: b2 :: b3 :: rest) = (Decode.word w).map (·, 4) := by
  have hval : b0.toNat + 256 * b1.toNat + 65536 * (b2.toNat + 256 * b3.toNat) = w := by simp only [leNat] at hw; omega
  have hlow : ¬(b0.toNat + 256 * b1.toNat) % 2 = 0 := by omega
  simp only [decode, hlow, if_false, hval]
  cases Decode.word w <;> rfl

/-- What bytes decode to: a 16-bit form of the first two, or a word of the first four. -/
theorem decode_eq_ok {bs : List Byte} {i : Instr} {n : Nat} (h : decode bs = .ok (i, n)) :
    (∃ b0 b1 rest, bs = b0 :: b1 :: rest ∧ leNat [b0, b1] % 2 = 0 ∧ i = Decode.half (leNat [b0, b1]) ∧ n = 2) ∨
    ∃ b0 b1 b2 b3 rest, bs = b0 :: b1 :: b2 :: b3 :: rest ∧ leNat [b0, b1, b2, b3] % 2 = 1 ∧
      Decode.word (leNat [b0, b1, b2, b3]) = .ok i ∧ n = 4 := by
  match bs with
  | [] | [_] => exact nomatch h
  | b0 :: b1 :: rest =>
    obtain heven | hodd : leNat [b0, b1] % 2 = 0 ∨ leNat [b0, b1] % 2 = 1 := by omega
    · rw [decode_half rfl heven] at h
      cases h
      exact .inl ⟨b0, b1, rest, rfl, heven, rfl, rfl⟩
    · match rest with
      | b2 :: b3 :: rest =>
        have hodd4 : leNat [b0, b1, b2, b3] % 2 = 1 := by simp only [leNat] at hodd ⊢; omega
        rw [decode_word rfl hodd4] at h
        cases hw : Decode.word (leNat [b0, b1, b2, b3]) with
        | error e => rw [hw] at h; exact nomatch h
        | ok j =>
          rw [hw] at h
          cases h
          exact .inr ⟨b0, b1, b2, b3, rest, rfl, hodd4, hw, rfl⟩
      | [] | [_] =>
        have hne : ¬(b0.toNat + 256 * b1.toNat) % 2 = 0 := by simp only [leNat] at hodd; omega
        simp [decode, hne] at h

/-! ## The round trip -/

theorem isWord_leNat {b0 b1 b2 b3 : Byte} (hodd : leNat [b0, b1, b2, b3] % 2 = 1) :
    IsWord (field (leNat [b0, b1, b2, b3]) 1 6) (leNat [b0, b1, b2, b3]) :=
  ⟨hodd, by simpa using leNat_lt [b0, b1, b2, b3], rfl⟩

/-- What bytes decode to is well-formed and encoded by the bytes that were read. -/
theorem encode_decode {bs : List Byte} {i : Instr} {n : Nat} (h : decode bs = .ok (i, n)) :
    i.wf = true ∧ ∃ c, encode i = some c ∧ c.bytes = bs.take n := by
  obtain ⟨b0, b1, rest, rfl, heven, rfl, rfl⟩ | ⟨b0, b1, b2, b3, rest, rfl, hodd, hword, rfl⟩ := decode_eq_ok h
  · obtain ⟨hwf, he⟩ := encode_half heven (by simpa using leNat_lt [b0, b1])
    refine ⟨hwf, _, he, ?_⟩
    rw [Code.bytes]
    exact leBytes_leNat [b0, b1]
  · obtain ⟨hwf, he⟩ := sound_word (isWord_leNat hodd) i hword
    refine ⟨hwf, _, he, ?_⟩
    rw [Code.bytes]
    exact leBytes_leNat [b0, b1, b2, b3]

theorem encode_isSome (i : Instr) : (encode i).isSome = !i.wordless := by
  cases i <;> rfl

theorem decode_encode {i : Instr} {c : Code} (rest : List Byte) (hwf : i.wf = true) (he : encode i = some c) :
    decode (c.bytes ++ rest) = .ok (i, c.bytes.length) := by
  cases c with
  | half h =>
    obtain ⟨heven, hlt, hi⟩ := half_encode he
    have hval : leNat (leBytes 2 h) = h := (leNat_leBytes 2 h).trans (Nat.mod_eq_of_lt hlt)
    exact (decode_half hval heven).trans (by rw [hi]; rfl)
  | word w =>
    obtain ⟨⟨op, hodd, hlt, -⟩, hi⟩ := word_encode hwf he
    have hval : leNat (leBytes 4 w) = w := (leNat_leBytes 4 w).trans (Nat.mod_eq_of_lt hlt)
    exact (decode_word hval hodd).trans (by rw [hi]; rfl)

/-- Settles O56, by the fields of a packed word read back, and by the sub-decoders each being sound. -/
theorem encodeDecodeRoundTrip : Obligations.EncodeDecodeRoundTrip := by
  refine ⟨fun i c rest hwf he => decode_encode rest hwf he, fun i => ⟨fun h => ?_, fun h => ?_⟩, fun bs i n h => encode_decode h⟩
  · exact Option.isSome_iff_exists.1 (by rw [encode_isSome, h]; rfl)
  · exact Option.isNone_iff_eq_none.1 (by rw [← Option.not_isSome, encode_isSome, h]; rfl)

end Sys2Proof
end

section
/-!
PROOF. O59: the privileged state as a projection, and the operations on threads, groups and memory that keep it.
-/
namespace Sys2Proof.Machine
open Sys2Proof

/-! ## The privileged state -/

/-- The state that only system software may change (R77, R317, R333): translation, the stacks in service, the frame tags, the
demoted pages, the module's place in the domain, its boot image, the units that are or go out of service, and which fitted regions
there are. -/
structure SystemPart where
  ptroot : DWord
  stackMask : BitVec 16
  tags : List (Nat × Nat)
  tlb : List TlbEntry
  tier : List TierPage
  moduleNo : Nat
  peers : List Peer
  boot : BootImage
  unitsOut : List HwUnit
  outAtReset : List HwUnit
  bases : List Nat

/-- The privileged state of the module. -/
def State.systemPart (s : State) : SystemPart :=
  ⟨s.ptroot, s.stackMask, s.tags, s.tlb, s.tier, s.moduleNo, s.peers, s.boot, s.unitsOut, s.outAtReset, s.regions.map (·.base)⟩

/-- An update of other fields leaves the privileged state alone. -/
@[simp] theorem State.systemPart_with (s : State) (threads groups waves launches matrixOps copies bmvs dies streams mem poison
    corrected isM recording image reports hostReads replay host outsiders history carried fences fenced relaxed nextId stamp free now
    cur packets passes sched) :
    State.systemPart ⟨threads, groups, waves, launches, matrixOps, copies, bmvs, s.regions, dies, streams, mem, poison, s.tags,
      s.tier, s.tlb, s.ptroot, s.stackMask, s.unitsOut, s.outAtReset, corrected, isM, s.moduleNo, s.peers, s.boot, recording,
      image, reports, hostReads, replay, host, outsiders, history, carried, fences, fenced, relaxed, nextId, stamp, free, now, cur,
      packets, passes, sched⟩ = s.systemPart := rfl

@[simp] theorem State.systemPart_ite {p : Prop} [Decidable p] (a b : State) :
    (if p then a else b).systemPart = if p then a.systemPart else b.systemPart := apply_ite ..

@[simp] theorem State.systemPart_foldl {α : Type} {f : State → α → State} (hf : ∀ s x, (f s x).systemPart = s.systemPart) (s : State)
    (xs : List α) : (xs.foldl f s).systemPart = s.systemPart := by
  induction xs generalizing s with
  | nil => rfl
  | cons x xs ih => exact (ih (f s x)).trans (hf s x)

@[simp] theorem State.systemPart_setThread (s : State) (t : Thread) : (s.setThread t).systemPart = s.systemPart := rfl
@[simp] theorem State.systemPart_mapThread (s : State) (id : ThreadId) (f : Thread → Thread) :
    (s.mapThread id f).systemPart = s.systemPart := rfl
@[simp] theorem State.systemPart_mapThreads (s : State) (p : Thread → Bool) (f : Thread → Thread) :
    (s.mapThreads p f).systemPart = s.systemPart := rfl
@[simp] theorem State.systemPart_mapGroup (s : State) (w i : Nat) (f : Group → Group) :
    (s.mapGroup w i f).systemPart = s.systemPart := rfl
@[simp] theorem State.systemPart_mapWave (s : State) (uid : Nat) (f : Wave → Wave) :
    (s.mapWave uid f).systemPart = s.systemPart := rfl
@[simp] theorem State.systemPart_mapLaunch (s : State) (l : Nat) (f : Launch → Launch) :
    (s.mapLaunch l f).systemPart = s.systemPart := rfl
@[simp] theorem State.systemPart_mapDie (s : State) (d : Nat) (f : Die → Die) : (s.mapDie d f).systemPart = s.systemPart := rfl

/-- A change of a region that keeps its base. -/
theorem State.systemPart_mapRegion (s : State) (id : Nat) {f : Region → Region} (hf : ∀ r, (f r).base = r.base) :
    (s.mapRegion id f).systemPart = s.systemPart := by
  have hbases : (updateIf (fun r => r.id == id) f s.regions).map (·.base) = s.regions.map (·.base) := by
    rw [updateIf, List.map_map]
    exact List.map_congr_left fun r _ => by simp only [Function.comp_apply]; split <;> simp [hf]
  simp only [State.systemPart, State.mapRegion, hbases]

@[simp] theorem State.systemPart_writeLoc (s : State) (loc : Loc) (bs : List Byte) :
    (s.writeLoc loc bs).systemPart = s.systemPart := by
  cases loc with
  | phys pa => simp [State.writeLoc]
  | spad w off => rfl
  | fitted id e =>
    refine s.systemPart_mapRegion id fun r => ?_
    simp only [Region.store]
    split
    · rfl
    · split <;> rfl

theorem State.systemPart_spread (s : State) (event : Nat) : (s.spread event).systemPart = s.systemPart := rfl

@[simp] theorem State.systemPart_settle (s : State) (test : Loc → Bool) : (s.settle test).systemPart = s.systemPart :=
  systemPart_foldl systemPart_spread s _

@[simp] theorem State.systemPart_settlePhys (s : State) (pa n : Nat) : (s.settlePhys pa n).systemPart = s.systemPart :=
  s.systemPart_settle _

@[simp] theorem State.systemPart_publish (s : State) (id : ThreadId) : (s.publish id).systemPart = s.systemPart := by
  simp [State.publish]

@[simp] theorem State.systemPart_learn (s : State) (id : ThreadId) (k : Know) : (s.learn id k).systemPart = s.systemPart := rfl

@[simp] theorem State.systemPart_numbered (s : State) (id : ThreadId) : (s.numbered id).systemPart = s.systemPart := by
  simp [State.numbered]

@[simp] theorem State.systemPart_putPast (s : State) (b : Loc) (es : List PastWrite) :
    (s.putPast b es).systemPart = s.systemPart := rfl

@[simp] theorem State.systemPart_writeByte (s : State) (v : Viewer) (x : Writing) (event : Nat) (ns : List Nat) (b : Loc)
    (val : Byte) :
    (s.writeByte v x event ns b val).systemPart = s.systemPart := by
  simp [State.writeByte]

@[simp] theorem State.systemPart_writeUnit (s : State) (v : Viewer) (x : Writing) (event : Nat) (bs : List (Loc × Byte)) :
    (s.writeUnit v x event bs).systemPart = s.systemPart := by
  simp [State.writeUnit]

@[simp] theorem State.systemPart_writeAs (s : State) (v : Viewer) (x : Writing) (event : Nat → Nat) (loc : Loc) (bs : List Byte) :
    (s.writeAs v x event loc bs).systemPart = s.systemPart := by
  unfold State.writeAs
  cases loc <;> simp

@[simp] theorem State.systemPart_update (s : State) (v : Viewer) (x : Writing) (event : Nat) (loc : Loc) (n : Nat)
    (f : List Byte → List Byte) : (s.update v x event loc n f).1.systemPart = s.systemPart := by
  simp [State.update]

@[simp] theorem State.systemPart_atomicAs (s : State) (v : Viewer) (x : Writing) (event : Nat) (loc : Loc) (op : AtomOp) (wide : Bool)
    (b d : DWord) : (s.atomicAs v x event loc op wide b d).1.systemPart = s.systemPart := by
  simp [State.atomicAs]

@[simp] theorem State.systemPart_applyStore (s : State) (id : ThreadId) (e : StoreEntry) :
    (s.applyStore id e).systemPart = s.systemPart := by
  unfold State.applyStore
  split
  · simp [State.post]
  · split <;> simp

@[simp] theorem State.systemPart_drain (s : State) (id : ThreadId) : (s.drain id).systemPart = s.systemPart := by
  unfold State.drain
  split <;> simp

@[simp] theorem State.systemPart_readBy (s : State) (id : ThreadId) (view peer : Bool) (loc : Loc) (n : Nat) :
    (s.readBy id view peer loc n).1.systemPart = s.systemPart := by
  unfold State.readBy
  split <;> simp

@[simp] theorem State.systemPart_sending (s : State) (id : ThreadId) : (s.sending id).systemPart = s.systemPart := by
  simp [State.sending]

end Sys2Proof.Machine
end

section
/-!
PROOF. O59: deliveries, the end of a launch, saving a thread, traps, and how a thread instruction ends keep the privileged state.
-/
namespace Sys2Proof.Machine
open Sys2Proof

/-! ## Ports and deliveries -/

@[simp] theorem State.systemPart_countError (s : State) (d : Nat) : (s.countError d).systemPart = s.systemPart := rfl
@[simp] theorem State.systemPart_mapPort (s : State) (h : Word) (f : PortKind → PortKind) :
    (s.mapPort h f).systemPart = s.systemPart := rfl
@[simp] theorem State.systemPart_mapCore (s : State) (c : CoreId) (f : Core → Core) :
    (s.mapCore c f).systemPart = s.systemPart := rfl
@[simp] theorem State.systemPart_mapCluster (s : State) (c : ClusterId) (f : Cluster → Cluster) :
    (s.mapCluster c f).systemPart = s.systemPart := rfl
@[simp] theorem State.systemPart_post (s : State) (d : Nat) (r : FaultRecord) (p : Poster) :
    (s.post d r p).systemPart = s.systemPart := rfl
@[simp] theorem State.systemPart_record (s : State) (d : Nat) (r : FaultRecord) : (s.record d r).systemPart = s.systemPart := rfl
@[simp] theorem State.systemPart_launchMessage (s : State) (d : Nat) (lo hi : DWord) (know : Know) :
    (s.launchMessage d lo hi know).systemPart = s.systemPart := by
  simp [State.launchMessage, State.enterLaunch]

theorem State.systemPart_deliver? {s t : State} {x : Delivery} (h : s.deliver? x = some t) : t.systemPart = s.systemPart := by
  unfold State.deliver? at h
  split at h
  · cases h; simp
  split at h
  · split at h
    · cases h; simp
    · cases h
  split at h
  · cases h; rfl
  split at h
  · split at h
    · cases h; simp
    · cases h
  · split at h
    · cases h; simp
    split at h
    · cases h; simp
    · cases h

@[simp] theorem State.systemPart_deliver (s : State) (x : Delivery) : (s.deliver x).systemPart = s.systemPart := by
  unfold State.deliver
  cases hx : s.deliver? x with
  | none => simp
  | some t => simp [State.systemPart_deliver? hx]

@[simp] theorem State.systemPart_notify (s : State) (die : Nat) (port : Word) (status : Nat) (tag : Word) (cls : Nat) (know : Know) :
    (s.notify die port status tag cls know).systemPart = s.systemPart := by
  simp [State.notify]

@[simp] theorem State.systemPart_reportNode (s : State) (die : Nat) (port : Word) (status detail : Nat) (node : DWord) (know : Know) :
    (s.reportNode die port status detail node know).systemPart = s.systemPart := by
  simp [State.reportNode]

/-! ## The end of a launch -/

@[simp] theorem State.systemPart_deal (s : State) (die prio : Nat) (r : QRec) : (s.deal die prio r).systemPart = s.systemPart := by
  unfold State.deal
  split <;> simp

@[simp] theorem State.systemPart_enqueueStep (s : State) (l : Launch) : (s.enqueueStep l).systemPart = s.systemPart := by
  simp [State.enqueueStep]

@[simp] theorem State.systemPart_stopThreads (s : State) (l : Nat) : (s.stopThreads l).systemPart = s.systemPart := by
  simp [State.stopThreads]

@[simp] theorem State.systemPart_dropWave (s : State) (uid : Nat) : (s.dropWave uid).systemPart = s.systemPart := rfl
@[simp] theorem State.systemPart_discardQueued (s : State) (l : Nat) : (s.discardQueued l).systemPart = s.systemPart := by
  exact State.systemPart_foldl (fun s (w : Wave) => s.systemPart_dropWave w.uid) _ _

@[simp] theorem State.systemPart_endHoldings (s : State) (l : Nat) : (s.endHoldings l).systemPart = s.systemPart := rfl
@[simp] theorem State.systemPart_unhold (s : State) (d : Nat) : (s.unhold d).systemPart = s.systemPart := by
  simp only [State.unhold]
  split
  · split <;> simp
  · rfl

@[simp] theorem State.systemPart_sweepLaunch (s : State) (l : Nat) : (s.sweepLaunch l).systemPart = s.systemPart := by
  simp [State.sweepLaunch]

@[simp] theorem State.systemPart_endOps (s : State) (l : Nat) : (s.endOps l).systemPart = s.systemPart := rfl
@[simp] theorem State.systemPart_endLaunch (s : State) (l : Launch) (status detail : Nat) :
    (s.endLaunch l status detail).systemPart = s.systemPart := by
  simp [State.endLaunch]

@[simp] theorem State.systemPart_endPending (s : State) (d : Nat) (looks : PendingLaunch → Bool)
    (names : PendingLaunch → NodeRec → Bool) (status detail : Nat) (ps : List PendingLaunch) :
    (s.endPending d looks names status detail ps).1.systemPart = s.systemPart := by
  induction ps generalizing s with
  | nil => rfl
  | cons p ps ih =>
    rw [State.endPending]
    dsimp only
    split
    · exact ih s
    split
    · split
      · exact (ih _).trans (State.systemPart_reportNode ..)
      · exact ih s
    · exact ih s
    · split
      · exact ih _
      · exact ih s

@[simp] theorem State.systemPart_endPendings (s : State) (looks : PendingLaunch → Bool) (names : PendingLaunch → NodeRec → Bool)
    (status detail : Nat) : (s.endPendings looks names status detail).1.systemPart = s.systemPart := by
  unfold State.endPendings
  generalize 0 = n
  induction s.dies generalizing s n with
  | nil => rfl
  | cons d ds ih => exact (ih _ _).trans (by simp)

@[simp] theorem State.systemPart_stopDomain (s : State) (domain : Word) (c : Cause) :
    (s.stopDomain domain c).systemPart = s.systemPart := by
  simp [State.stopDomain]

/-! ## Saving a thread, traps -/

theorem State.systemPart_storeArea {s t : State} {c : Ctx} {va n : Nat} {bs : List Byte} (h : s.storeArea c va n bs = .ok t) :
    t.systemPart = s.systemPart := by
  induction n generalizing s va bs with
  | zero => cases h; rfl
  | succ n ih =>
    rw [State.storeArea] at h
    split at h
    · split at h
      · cases h
      · exact (ih h).trans (by simp)
    · cases h
    · cases h

theorem State.systemPart_storePieces {s t : State} {c : Ctx} {base : Nat} {ps : List (Nat × List Byte)}
    (h : s.storePieces c base ps = .ok t) : t.systemPart = s.systemPart := by
  induction ps generalizing s with
  | nil => cases h; rfl
  | cons p ps ih =>
    rw [State.storePieces] at h
    split at h
    next u hu => exact (ih h).trans (State.systemPart_storeArea hu)
    next hu => exact absurd h (hu t)

theorem State.systemPart_hardSave {s t : State} {c : Ctx} {x : Thread} {resume : Word} (h : s.hardSave c x resume = .ok t) :
    t.systemPart = s.systemPart :=
  State.systemPart_storePieces (s := { s with free := s.free + 64 }) h

@[simp] theorem State.systemPart_recover (s : State) (c : Ctx) (t : Thread) : (s.recover c t).systemPart = s.systemPart := by
  unfold State.recover
  split
  · rfl
  dsimp only
  split
  next u hu => simpa using State.systemPart_hardSave hu
  next => simp
  next => simp

@[simp] theorem State.systemPart_trap (s : State) (c : Ctx) (cause : Cause) (ea : DWord) :
    (s.trap c cause ea).systemPart = s.systemPart := by
  simp [State.trap]

/-! ## How a thread instruction executes -/

@[simp] theorem State.systemPart_spent (s : State) (f : Form) : (s.spent f).systemPart = s.systemPart := rfl

@[simp] theorem Effect.state_done (s : State) : (Effect.done s).state = s := rfl
@[simp] theorem Effect.state_jump (s : State) (pc : Word) : (Effect.jump s pc).state = s := rfl
@[simp] theorem Effect.state_trap (s : State) (cause : Cause) (ea : DWord) : (Effect.trap s cause ea).state = s := rfl
@[simp] theorem Effect.state_wait (s : State) (w : Wait) : (Effect.wait s w).state = s := rfl
@[simp] theorem Effect.state_ended (s : State) : (Effect.ended s).state = s := rfl

/-- The end of an instruction's effect leaves the system's part of the state as the effect has. -/
@[simp] theorem systemPart_finish (c : Ctx) (f : Form) (e : Effect) : (finish c f e).systemPart = e.state.systemPart := by
  cases e with
  | trap s cause ea =>
    simp only [finish]
    split
    · exact State.systemPart_trap ..
    · rfl
  | _ => rfl

/-- An instruction that leaves the system's part of the state alone, whoever executes it. -/
def KeepsSystemPart (f : State → Host.Outcome State Fault Refusal) : Prop := ∀ s t, f s = .next t → t.systemPart = s.systemPart

/-- An instruction's own effect is all that matters: reading its operands, waiting, a false guard and the traps of R78 leave the
system's part alone. -/
theorem keepsSystemPart_runForm (f : Form) {body : Ctx → (Nat → Word) → State → Effect}
    (hb : ∀ c o s, (body c o s).state.systemPart = s.systemPart) : KeepsSystemPart (runForm f body) := by
  intro s t ht
  obtain ⟨-, hr⟩ | ⟨c, -, hr | hr | ⟨cause, ea, -, hr⟩ | ⟨-, hr⟩⟩ := runForm_cases f body s
  all_goals rw [hr] at ht; cases ht
  all_goals simp [hb]

@[simp] theorem Effect.systemPart_ite {p : Prop} [Decidable p] (a b : Effect) :
    (if p then a else b).state.systemPart = if p then a.state.systemPart else b.state.systemPart := by split <;> rfl

@[simp] theorem systemPart_checkStack (c : Ctx) (s : State) (ws : List (Reg × Word)) (k : Effect) :
    (checkStack c s ws k).state.systemPart = if c.t.belowLimit ws then s.systemPart else k.state.systemPart := by
  simp [checkStack]

end Sys2Proof.Machine
end

section
/-!
PROOF. O59: register writes, jumps, fences and collectives keep the privileged state.
-/
namespace Sys2Proof.Machine
open Sys2Proof

/-! ## Register writes, jumps -/

@[simp] theorem systemPart_on (c : Ctx) (s : State) (f : Thread → Thread) : (c.on s f).systemPart = s.systemPart := rfl

@[simp] theorem systemPart_writeFixed (c : Ctx) (s : State) (ws : List (Reg × Word)) (latency : Nat) (transient : Bool) :
    (writeFixed c s ws latency transient).state.systemPart = s.systemPart := by
  simp [writeFixed]

@[simp] theorem systemPart_writeFlagged (c : Ctx) (s : State) (ws : List (Reg × Word)) (latency : Nat) (transient quiet : Bool)
    (fl : FpFlags) : (writeFlagged c s ws latency transient quiet fl).state.systemPart = s.systemPart := by
  simp [writeFlagged]

@[simp] theorem systemPart_writeBoard (c : Ctx) (s : State) (ws : List (Reg × Word)) :
    (writeBoard c s ws).state.systemPart = s.systemPart := by
  simp [writeBoard]

@[simp] theorem systemPart_writeWith (c : Ctx) (s s' : State) (ws : List (Reg × Word)) :
    (writeWith c s s' ws).state.systemPart = if c.t.belowLimit ws then s.systemPart else s'.systemPart := by
  simp [writeWith]

@[simp] theorem systemPart_writeAfter (c : Ctx) (s : State) (ws : List (Reg × Word)) :
    (writeAfter c s ws).state.systemPart = s.systemPart := systemPart_writeBoard c s ws

@[simp] theorem systemPart_writePush (c : Ctx) (s : State) (ws : List (Reg × Word)) :
    (writePush c s ws).state.systemPart = s.systemPart := by
  simp [writePush]

@[simp] theorem systemPart_pushDone (c : Ctx) (s : State) (b : Bool) : (pushDone c s b).state.systemPart = s.systemPart := rfl

@[simp] theorem systemPart_jumpTo (c : Ctx) (s : State) (target : Word) (link : Bool) :
    (jumpTo c s target link).state.systemPart = s.systemPart := by
  simp [jumpTo]

@[simp] theorem systemPart_exitItem (c : Ctx) (s : State) : (exitItem c s).systemPart = s.systemPart := by
  simp [exitItem]

@[simp] theorem systemPart_eretEffect (c : Ctx) (s : State) : (eretEffect c s).state.systemPart = s.systemPart := by
  unfold eretEffect
  dsimp only
  split <;> simp

/-! ## Fences, collectives -/

@[simp] theorem State.systemPart_fullFence (s : State) (id : ThreadId) (sc : Scope) :
    (s.fullFence id sc).systemPart = s.systemPart := by
  simp [State.fullFence]

@[simp] theorem State.systemPart_fence (s : State) (id : ThreadId) (sc : Scope) (k : FenceKind) :
    (s.fence id sc k).systemPart = s.systemPart := by
  cases k <;> simp [State.fence]

@[simp] theorem State.systemPart_fenceFull (s : State) (id : ThreadId) (sc : Scope) :
    (s.fenceFull id sc).1.systemPart = s.systemPart := by
  unfold State.fenceFull
  dsimp only
  split <;> simp

@[simp] theorem State.systemPart_finishLane (s : State) (id : ThreadId) (i : Instr) (r : LaneResult) :
    (s.finishLane id i r).systemPart = s.systemPart := by
  unfold State.finishLane
  split <;> simp

@[simp] theorem State.systemPart_finishAll (s : State) (ps : List Thread) (i : Instr) :
    (s.finishAll ps i).systemPart = s.systemPart := by
  simp [State.finishAll]

@[simp] theorem State.systemPart_shareAll (s : State) (ps : List Thread) : (s.shareAll ps).systemPart = s.systemPart := rfl

@[simp] theorem State.systemPart_completeInstance (s : State) (w : Wave) (t : Thread) (x : Arrival) (ps : List Thread) :
    (s.completeInstance w t x ps).systemPart = s.systemPart := by
  unfold State.completeInstance
  split
  case h_6 =>
    refine State.systemPart_foldl (fun s u => ?_) s ps
    split <;> simp
  all_goals simp

@[simp] theorem State.systemPart_tryComplete (s : State) (id : ThreadId) : (s.tryComplete id).systemPart = s.systemPart := by
  unfold State.tryComplete
  split
  · rfl
  · split <;> simp

@[simp] theorem State.systemPart_trapMismatch (s : State) (w : Wave) (g : Nat) : (s.trapMismatch w g).systemPart = s.systemPart := by
  refine State.systemPart_foldl (fun s t => ?_) s _
  split <;> simp

@[simp] theorem State.systemPart_settleGroup (s : State) (w : Wave) (l : Launch) (g : Nat) :
    (s.settleGroup w l g).systemPart = s.systemPart := by
  simp [State.settleGroup]

@[simp] theorem State.systemPart_arrive (s : State) (c : Ctx) (x : Arrival) : (s.arrive c x).systemPart = s.systemPart := by
  simp [State.arrive]

/-- Arriving at a collective, and what completes at the arrival. -/
theorem keepsSystemPart_runArrival (i : Instr) (reads names : List Reg) (preds : Bool) (barrier : Option Scope)
    (check : Ctx → Option (Cause × DWord)) (vals : Ctx → (Nat → Word) → DWord × Word) :
    KeepsSystemPart (runArrival i reads names preds barrier check vals) := by
  intro s t ht
  unfold runArrival at ht
  split at ht
  · cases ht
  dsimp only at ht
  cases ht
  split
  · simp
  split
  · simp
  split
  · simp
  split
  · simp
  cases barrier with
  | none => simp
  | some sc => dsimp only; split <;> simp

end Sys2Proof.Machine
end

section
/-!
PROOF. O59: memory accesses keep the privileged state.
-/
namespace Sys2Proof.Machine
open Sys2Proof

/-! ## Memory accesses -/

@[simp] theorem State.systemPart_fst_ite {α : Type} {p : Prop} [Decidable p] (a b : State × α) :
    (if p then a else b).1.systemPart = if p then a.1.systemPart else b.1.systemPart := by split <;> rfl

@[simp] theorem State.systemPart_notePass (s : State) (loc : Loc) (n : Nat) (atomic : Bool) :
    (s.notePass loc n atomic).systemPart = s.systemPart := by
  unfold State.notePass
  split <;> rfl

@[simp] theorem systemPart_accept (c : Ctx) (s : State) (loc : Loc) (n : Nat) (atomic peer : Bool) :
    (accept c s loc n atomic peer).systemPart = s.systemPart := by
  simp [accept]

@[simp] theorem systemPart_acceptLoad (c : Ctx) (s : State) (loc : Loc) (n : Nat) (atomic peer : Bool) (vals : List (Reg × Word)) :
    (acceptLoad c s loc n atomic peer vals).systemPart = s.systemPart := by
  simp [acceptLoad]

@[simp] theorem systemPart_addLoad (c : Ctx) (s : State) (l : PendingLoad) : (addLoad c s l).state.systemPart = s.systemPart := rfl

@[simp] theorem State.systemPart_loadBytes (s : State) (t : Thread) (loc : Loc) (view peer : Bool) (n : Nat) :
    (s.loadBytes t loc view peer n).1.systemPart = s.systemPart := by
  simp [State.loadBytes]

@[simp] theorem State.systemPart_lanesBefore (s : State) (id : ThreadId) (loc : Loc) (n : Nat) :
    (s.lanesBefore id loc n).systemPart = s.systemPart :=
  State.systemPart_foldl State.systemPart_drain s _

@[simp] theorem State.systemPart_addStore (s : State) (c : Ctx) (loc : Loc) (view peer : Bool) (op : StoreOp) (ea : DWord) :
    (s.addStore c loc view peer op ea).systemPart = s.systemPart := by
  simp [State.addStore]

@[simp] theorem State.systemPart_addBytes (s : State) (c : Ctx) (loc : Loc) (view peer : Bool) (bs : List Byte) (ea : DWord) :
    (s.addBytes c loc view peer bs ea).systemPart = s.systemPart := by
  simp [State.addBytes]

@[simp] theorem State.systemPart_atomicBy (s : State) (id : ThreadId) (view peer : Bool) (loc : Loc) (op : AtomOp) (wide : Bool)
    (b d : DWord) : (s.atomicBy id view peer loc op wide b d).1.systemPart = s.systemPart := by
  simp [State.atomicBy]

theorem systemPart_withBytes {c : Ctx} {s : State} {loc : Loc} {view peer : Bool} {n : Nat} {go : State → List Byte → Effect}
    (hgo : ∀ s' bs, (go s' bs).state.systemPart = s'.systemPart) :
    (withBytes c s loc view peer n go).state.systemPart = s.systemPart := by
  unfold withBytes
  split
  · split <;> simp [hgo]
  · simp [hgo]

theorem systemPart_withAccess {c : Ctx} {s : State} {k : AccessKind} {ea : DWord} {go : Loc → Bool → Bool → Effect}
    (hgo : ∀ loc view peer, (go loc view peer).state.systemPart = s.systemPart) :
    (withAccess c s k ea go).state.systemPart = s.systemPart := by
  unfold withAccess
  split <;> simp [hgo]

@[simp] theorem systemPart_failLdnf (c : Ctx) (s : State) (ea : DWord) (n : Nat) (cause : Option Cause) (hold peer : Bool) :
    (failLdnf c s ea n cause hold peer).state.systemPart = s.systemPart := by
  unfold failLdnf
  cases cause with
  | none => rfl
  | some cause => dsimp only; split <;> simp

@[simp] theorem State.systemPart_addFenced (s : State) (k : FencedKind) (know : Know) :
    (s.addFenced k know).systemPart = s.systemPart := by
  simp [State.addFenced]

@[simp] theorem State.systemPart_joinViews (s : State) (id : ThreadId) : (s.joinViews id).systemPart = s.systemPart := by
  simp [State.joinViews]

@[simp] theorem State.systemPart_toBank (s : State) (id : ThreadId) : (s.toBank id).systemPart = s.systemPart := by
  simp [State.toBank]

@[simp] theorem State.systemPart_toLoad (s : State) (id : ThreadId) : (s.toLoad id).systemPart = s.systemPart := by
  simp [State.toLoad]

/-! ## Loads, stores, atomics, fences -/

theorem keepsSystemPart_ld (f : MF) : KeepsSystemPart (execLd f) :=
  keepsSystemPart_runForm _ fun _ _ _ => systemPart_withAccess fun _ _ _ => systemPart_withBytes fun _ _ => by simp

theorem keepsSystemPart_st (f : MF) : KeepsSystemPart (execSt f) :=
  keepsSystemPart_runForm _ fun _ _ _ => systemPart_withAccess fun _ _ _ => by simp

theorem keepsSystemPart_ldnf (f : MF) : KeepsSystemPart (execLdnf f) := by
  refine keepsSystemPart_runForm _ fun c o s => ?_
  dsimp only
  split
  · simp
  · simp
  · simp
  · simp
  · exact systemPart_withBytes fun _ _ => by simp

theorem keepsSystemPart_ldn (f : ADF) : KeepsSystemPart (execLdn f) :=
  keepsSystemPart_runForm _ fun _ _ _ => systemPart_withAccess fun _ _ _ => by simp

theorem keepsSystemPart_stn (f : ADF) : KeepsSystemPart (execStn f) :=
  keepsSystemPart_runForm _ fun _ _ _ => systemPart_withAccess fun _ _ _ => by simp

theorem keepsSystemPart_atom (f : AtomF) : KeepsSystemPart (execAtom f) :=
  keepsSystemPart_runForm _ fun _ _ _ => systemPart_withAccess fun _ _ _ => by simp

theorem keepsSystemPart_red (f : RedF) : KeepsSystemPart (execRed f) :=
  keepsSystemPart_runForm _ fun _ _ _ => systemPart_withAccess fun _ _ _ => by simp

theorem keepsSystemPart_fence (f : FenceF) : KeepsSystemPart (execFence f) := by
  refine keepsSystemPart_runForm _ fun c o s => ?_
  dsimp only
  split
  · split <;> simp
  · simp

theorem keepsSystemPart_afence (f : GF) : KeepsSystemPart (execAfence f) := by
  refine keepsSystemPart_runForm _ fun c o s => ?_
  dsimp only
  split <;> simp

theorem keepsSystemPart_bfence (f : BFenceF) : KeepsSystemPart (execBfence f) :=
  keepsSystemPart_runForm _ fun _ _ _ => by simp

theorem keepsSystemPart_waitc (f : WaitF) : KeepsSystemPart (execWaitc f) :=
  keepsSystemPart_runForm _ fun _ _ _ => by simp

end Sys2Proof.Machine
end

section
/-!
PROOF. O59: engines, rings, ports, reserving items, fitted regions and control keep the privileged state.
-/
namespace Sys2Proof.Machine
open Sys2Proof

/-! ## Parameter blocks, engines -/

theorem systemPart_withBlock {c : Ctx} {s : State} {o : Word} {n align : Nat} {go : State → List Byte → Effect}
    (hgo : ∀ s' blk, (go s' blk).state.systemPart = s'.systemPart) :
    (withBlock c s o n align go).state.systemPart = s.systemPart := by
  simp [withBlock, hgo]

theorem systemPart_withFields {s : State} {o : Word} {checks : List (Bool × Nat)} {go : Effect}
    (hgo : go.state.systemPart = s.systemPart) : (withFields s o checks go).state.systemPart = s.systemPart := by
  unfold withFields
  split
  · rfl
  · exact hgo

@[simp] theorem systemPart_claimName (c : Ctx) (s : State) (tile : Bool) (d : Reg) (sc : Nat) :
    (claimName c s tile d sc).state.systemPart = s.systemPart := by
  unfold claimName
  split
  · rfl
  split <;> simp

@[simp] theorem systemPart_releaseName (c : Ctx) (s : State) (tile : Bool) (n sc : Nat) :
    (releaseName c s tile n sc).state.systemPart = s.systemPart := by
  simp [releaseName]

@[simp] theorem systemPart_enterMatrix (c : Ctx) (s : State) (kind : MatrixKind) (port : Option Word) (tag : Word) :
    (enterMatrix c s kind port tag).systemPart = s.systemPart := by
  simp [enterMatrix]

@[simp] theorem systemPart_enterCopy (c : Ctx) (s : State) (x : CopyOp) (sc : Nat) :
    (enterCopy c s x sc).state.systemPart = s.systemPart := by
  simp [enterCopy]

theorem keepsSystemPart_mma (f : MmaF) : KeepsSystemPart (execMma f) := by
  refine keepsSystemPart_runForm _ fun c o s => ?_
  dsimp only
  split
  · rfl
  refine systemPart_withBlock fun s blk => ?_
  split
  · rfl
  · split <;> simp

theorem keepsSystemPart_azero (f : AF) : KeepsSystemPart (execAzero f) :=
  keepsSystemPart_runForm _ fun _ _ _ => by simp

theorem keepsSystemPart_bmv (form : BankForm) (f : AF) : KeepsSystemPart (runBmv form f) := by
  refine keepsSystemPart_runForm _ fun c o s => ?_
  dsimp only
  split
  · rfl
  · exact systemPart_withBlock fun _ _ => systemPart_withFields (by simp)

theorem keepsSystemPart_cpy (f : ADF) : KeepsSystemPart (execCpy f) := by
  refine keepsSystemPart_runForm _ fun c o s => ?_
  dsimp only
  split
  · simp
  split
  · rfl
  refine systemPart_withBlock fun s blk => systemPart_withFields ?_
  split <;> simp

/-! ## Rings -/

@[simp] theorem State.systemPart_descriptor (s : State) (pa : Nat) : (s.descriptor pa).1.systemPart = s.systemPart := by
  simp [State.descriptor]

@[simp] theorem State.systemPart_meetRing (s : State) (id : ThreadId) (r : Ring) : (s.meetRing id r).systemPart = s.systemPart := by
  simp [State.meetRing]

@[simp] theorem State.systemPart_putRing (s : State) (id : ThreadId) (pc : Word) (r : Ring) (releases : Bool) (off : Nat) (v : Word) :
    (s.putRing id pc r releases off v).systemPart = s.systemPart := by
  simp [State.putRing]

@[simp] theorem State.systemPart_ringAcquire (s : State) (id : ThreadId) : (s.ringAcquire id).systemPart = s.systemPart := by
  simp [State.ringAcquire]

@[simp] theorem State.systemPart_claimRing (s : State) (c : Ctx) (r : Ring) : (s.claimRing c r).systemPart = s.systemPart := by
  simp [State.claimRing]

@[simp] theorem State.systemPart_awaitRing (s : State) (c : Ctx) (r : Ring) : (s.awaitRing c r).systemPart = s.systemPart := by
  simp [State.awaitRing]

theorem systemPart_withRing {c : Ctx} {s : State} {o : Word} {writes : Bool} {go : Ring → State → Effect}
    (hgo : ∀ r s', (go r s').state.systemPart = s'.systemPart) : (withRing c s o writes go).state.systemPart = s.systemPart := by
  refine systemPart_withBlock fun s blk => ?_
  dsimp only
  split
  · rfl
  split
  · rfl
  refine systemPart_withAccess fun loc view _ => ?_
  split <;> simp [hgo]

theorem keepsSystemPart_rclaim (f : ADF) : KeepsSystemPart (execRclaim f) :=
  keepsSystemPart_runForm _ fun _ _ _ => systemPart_withRing fun _ _ => by simp

theorem keepsSystemPart_rclaimnf (f : ADF) : KeepsSystemPart (execRclaimnf f) :=
  keepsSystemPart_runForm _ fun _ _ _ => systemPart_withRing fun _ _ => by simp

theorem keepsSystemPart_rawait (f : ADF) : KeepsSystemPart (execRawait f) :=
  keepsSystemPart_runForm _ fun _ _ _ => systemPart_withRing fun _ _ => by simp

theorem keepsSystemPart_rawaitnf (f : ADF) : KeepsSystemPart (execRawaitnf f) :=
  keepsSystemPart_runForm _ fun _ _ _ => systemPart_withRing fun _ _ => by simp

theorem keepsSystemPart_rcommit (f : ADF) : KeepsSystemPart (execRcommit f) :=
  keepsSystemPart_runForm _ fun _ _ _ => systemPart_withRing fun _ _ => by simp

theorem keepsSystemPart_rretire (f : AF) : KeepsSystemPart (execRretire f) :=
  keepsSystemPart_runForm _ fun _ _ _ => systemPart_withRing fun _ _ => by simp

/-! ## Ports and patterns -/

theorem systemPart_withPort {s : State} {h : Word} {go : Die → Effect} (hgo : ∀ d, (go d).state.systemPart = s.systemPart) :
    (withPort s h go).state.systemPart = s.systemPart := by
  unfold withPort
  split
  · rfl
  · exact hgo _

@[simp] theorem State.systemPart_trapWaiting (s : State) (h : Word) (cause : Cause) :
    (s.trapWaiting h cause).systemPart = s.systemPart := by
  refine State.systemPart_foldl (fun s t => ?_) s _
  split <;> simp

@[simp] theorem State.systemPart_freePort (s : State) (h : Word) : (s.freePort h).systemPart = s.systemPart := by
  simp [State.freePort]

theorem systemPart_sent {c : Ctx} {s t : State} {h : Word} {msg : List Word} {k : Int} (ht : sent c s h msg k = some t) :
    t.systemPart = s.systemPart :=
  (State.systemPart_deliver? ht).trans (s.systemPart_sending _)

@[simp] theorem systemPart_sendOrTrap (c : Ctx) (s : State) (h : Word) (msg : List Word) (k : Int) :
    (sendOrTrap c s h msg k).state.systemPart = s.systemPart := by
  refine systemPart_withPort fun d => ?_
  cases ht : sent c s h msg k with
  | none => rfl
  | some t => exact systemPart_sent ht

@[simp] theorem systemPart_consumed (c : Ctx) (s : State) (h : Word) (k : PortKind) (know : Know) :
    (consumed c s h k know).systemPart = s.systemPart := by
  simp [consumed]

theorem systemPart_withConsumption {s : State} {h : Word} {go : Option (List Word × PortKind × Know) → Effect}
    (hgo : ∀ x, (go x).state.systemPart = s.systemPart) : (withConsumption s h go).state.systemPart = s.systemPart := by
  refine systemPart_withPort fun d => ?_
  split
  · rfl
  split
  · rfl
  · exact hgo _

@[simp] theorem State.systemPart_setArmed (s : State) (die idx : Nat) (b : Bool) :
    (s.setArmed die idx b).systemPart = s.systemPart := rfl

theorem keepsSystemPart_palloc (f : ADF) : KeepsSystemPart (execPalloc f) := by
  refine keepsSystemPart_runForm _ fun c o s => systemPart_withBlock fun s blk => systemPart_withFields ?_
  split <;> simp

theorem keepsSystemPart_pfree (f : AF) : KeepsSystemPart (execPfree f) :=
  keepsSystemPart_runForm _ fun _ _ _ => systemPart_withPort fun _ => by simp

theorem keepsSystemPart_sendnf (f : ADF) : KeepsSystemPart (execSendnf f) := by
  refine keepsSystemPart_runForm _ fun c o s => systemPart_withPort fun d => ?_
  cases ht : sent c s (o 0) [o 1, o 2, o 3, o 4] (o 1).toInt with
  | none => simp
  | some t => simp [systemPart_sent ht]

theorem keepsSystemPart_recv (f : ADF) : KeepsSystemPart (execRecv f) :=
  keepsSystemPart_runForm _ fun _ _ _ => systemPart_withConsumption fun x => by cases x <;> simp

theorem keepsSystemPart_recvnf (f : ADF) : KeepsSystemPart (execRecvnf f) :=
  keepsSystemPart_runForm _ fun _ _ _ => systemPart_withConsumption fun x => by cases x <;> simp

theorem keepsSystemPart_pinfo (f : ADF) : KeepsSystemPart (execPinfo f) :=
  keepsSystemPart_runForm _ fun _ _ _ => systemPart_withPort fun _ => systemPart_writeBoard ..

theorem keepsSystemPart_patdef (f : ADF) : KeepsSystemPart (execPatdef f) := by
  refine keepsSystemPart_runForm _ fun c o s => systemPart_withBlock fun s blk => ?_
  split
  · simp
  split
  · rfl
  split <;> simp

theorem keepsSystemPart_patdel (f : AF) : KeepsSystemPart (execPatdel f) := by
  refine keepsSystemPart_runForm _ fun c o s => ?_
  split <;> simp

theorem keepsSystemPart_patarm (f : ADF) : KeepsSystemPart (execPatarm f) := by
  refine keepsSystemPart_runForm _ fun c o s => ?_
  split
  · rfl
  split
  · rfl
  split
  · simp
  split
  · rfl
  split <;> simp

/-! ## Reserving items, fitted regions -/

theorem keepsSystemPart_claim (w : Bool) (f : AF) : KeepsSystemPart (runClaim w f) :=
  keepsSystemPart_runForm _ fun _ _ _ => by simp

theorem keepsSystemPart_admit (f : GF) : KeepsSystemPart (execAdmit f) := by
  refine keepsSystemPart_runForm _ fun c o s => ?_
  dsimp only
  split
  · rfl
  split <;> simp

theorem keepsSystemPart_runFit {f : ADF} {reads names : List Reg} {element release : Bool}
    {body : Ctx → (Nat → Word) → State → DWord → Region → Nat → Effect}
    (hb : ∀ c o s ea r k, (body c o s ea r k).state.systemPart = s.systemPart) :
    KeepsSystemPart (runFit f reads names element release body) := by
  refine keepsSystemPart_runForm _ fun c o s => ?_
  dsimp only
  split
  · rfl
  · rfl
  · simp [hb]

@[simp] theorem systemPart_markedZero (c : Ctx) (s : State) (d : Reg) (ea : DWord) :
    (markedZero c s d ea).state.systemPart = s.systemPart := by
  simp [markedZero]

@[simp] theorem State.systemPart_dropRefit (s : State) (c : Ctx) (ea : DWord) (r : Region) :
    (s.dropRefit c ea r).systemPart = s.systemPart := by
  simp [State.dropRefit]

@[simp] theorem State.systemPart_reportRefit (s : State) (q : RefitReq) (status : Nat) (gen : Word) :
    (s.reportRefit q status gen).systemPart = s.systemPart := by
  simp [State.reportRefit]

theorem keepsSystemPart_fitx (f : ADF) : KeepsSystemPart (execFitx f) :=
  keepsSystemPart_runFit fun _ _ _ _ _ _ => by simp

theorem keepsSystemPart_fitgen (f : ADF) : KeepsSystemPart (execFitgen f) :=
  keepsSystemPart_runFit fun _ _ _ _ _ _ => by simp

theorem keepsSystemPart_fitstat (f : ADF) : KeepsSystemPart (execFitstat f) :=
  keepsSystemPart_runFit fun _ _ _ _ _ _ => by simp

theorem keepsSystemPart_refit (f : ADF) : KeepsSystemPart (execRefit f) :=
  keepsSystemPart_runFit fun _ _ _ _ _ _ => by simp [State.systemPart_mapRegion]

/-! ## Control -/

theorem keepsSystemPart_exit (f : GF) : KeepsSystemPart (execExit f) :=
  keepsSystemPart_runForm _ fun _ _ _ => by simp

theorem keepsSystemPart_safe (f : NF) : KeepsSystemPart (execSafe f) := by
  refine keepsSystemPart_runForm _ fun c o s => ?_
  dsimp only
  split <;> simp

theorem keepsSystemPart_yield (f : GF) : KeepsSystemPart (execYield f) := by
  refine keepsSystemPart_runForm _ fun c o s => ?_
  split <;> simp

theorem keepsSystemPart_spawn (f : AF) : KeepsSystemPart (execSpawn f) :=
  keepsSystemPart_runForm _ fun _ _ _ => by simp [State.enterLaunch]

theorem keepsSystemPart_illegalEncoding (sys : Bool) : KeepsSystemPart (illegalEncoding sys) := by
  intro s t ht
  unfold illegalEncoding at ht
  split at ht
  · cases ht
  · cases ht
    split <;> simp

end Sys2Proof.Machine
end

section
/-!
PROOF. O59: every instruction of a user thread keeps the privileged state.
-/
namespace Sys2Proof.Machine
open Sys2Proof

/-! ## The instructions that write a register or a predicate -/

theorem keepsSystemPart_aluH (f : H) (op : Word → Word → Word) : KeepsSystemPart (aluH f op) :=
  keepsSystemPart_runForm _ fun c _ _ => systemPart_writeFixed c _ _ _ _

theorem keepsSystemPart_aluR (f : RF) (op : Word → Word → Word) : KeepsSystemPart (aluR f op) :=
  keepsSystemPart_runForm _ fun c _ _ => systemPart_writeFixed c _ _ _ _

theorem keepsSystemPart_aluR64 (f : RF) (op : DWord → DWord → DWord) : KeepsSystemPart (aluR64 f op) :=
  keepsSystemPart_runForm _ fun c _ _ => systemPart_writeFixed c _ _ _ _

theorem keepsSystemPart_aluX (f : XF) (op : Word → Word) : KeepsSystemPart (aluX f op) :=
  keepsSystemPart_runForm _ fun c _ _ => systemPart_writeFixed c _ _ _ _

theorem keepsSystemPart_aluI (f : IF) (op : Word → Word → Word) : KeepsSystemPart (aluI f op) :=
  keepsSystemPart_runForm _ fun c _ _ => systemPart_writeFixed c _ _ _ _

theorem keepsSystemPart_aluS (f : SF) (op : Word → Word → Word) : KeepsSystemPart (aluS f op) :=
  keepsSystemPart_runForm _ fun c _ _ => systemPart_writeFixed c _ _ _ _

theorem keepsSystemPart_fltH (f : H) (op : Rounding → Nat → Nat → Nat × FpFlags) : KeepsSystemPart (fltH f op) :=
  keepsSystemPart_runForm _ fun c _ _ => systemPart_writeFlagged c _ _ _ _ _ _

theorem keepsSystemPart_fltR (f : FF) (op : Rounding → Nat → Nat → Nat × FpFlags) : KeepsSystemPart (fltR f op) :=
  keepsSystemPart_runForm _ fun c _ _ => systemPart_writeFlagged c _ _ _ _ _ _

theorem keepsSystemPart_fltR3 (f : FF) (op : Rounding → Nat → Nat → Nat → Nat × FpFlags) : KeepsSystemPart (fltR3 f op) :=
  keepsSystemPart_runForm _ fun c _ _ => systemPart_writeFlagged c _ _ _ _ _ _

theorem keepsSystemPart_dblR (f : FF) (op : Rounding → Nat → Nat → Nat × FpFlags) : KeepsSystemPart (dblR f op) :=
  keepsSystemPart_runForm _ fun c _ _ => systemPart_writeFlagged c _ _ _ _ _ _

theorem keepsSystemPart_dblR3 (f : FF) (op : Rounding → Nat → Nat → Nat → Nat × FpFlags) : KeepsSystemPart (dblR3 f op) :=
  keepsSystemPart_runForm _ fun c _ _ => systemPart_writeFlagged c _ _ _ _ _ _

theorem keepsSystemPart_fltX (f : XFF) (latency : Nat) (op : Rounding → Nat → Nat × FpFlags) : KeepsSystemPart (fltX f latency op) :=
  keepsSystemPart_runForm _ fun c _ _ => systemPart_writeFlagged c _ _ _ _ _ _

theorem keepsSystemPart_dblX (f : XFF) (latency : Nat) (op : Rounding → Nat → Nat × FpFlags) : KeepsSystemPart (dblX f latency op) :=
  keepsSystemPart_runForm _ fun c _ _ => systemPart_writeFlagged c _ _ _ _ _ _

theorem keepsSystemPart_packed2 (f : FF) (op : Rounding → Nat → Nat → Nat × FpFlags) : KeepsSystemPart (packed2 f op) :=
  keepsSystemPart_runForm _ fun c _ _ => systemPart_writeFlagged c _ _ _ _ _ _

theorem keepsSystemPart_packed3 (f : FF) (op : Rounding → Nat → Nat → Nat → Nat × FpFlags) : KeepsSystemPart (packed3 f op) :=
  keepsSystemPart_runForm _ fun c _ _ => systemPart_writeFlagged c _ _ _ _ _ _

theorem keepsSystemPart_mov16 (f : H) : KeepsSystemPart (execMov16 f) :=
  keepsSystemPart_runForm _ fun c _ _ => systemPart_writeFixed c _ _ _ _

theorem keepsSystemPart_addi16 (f : HI) : KeepsSystemPart (execAddi16 f) :=
  keepsSystemPart_runForm _ fun c _ _ => systemPart_writeFixed c _ _ _ _

theorem keepsSystemPart_mov64 (f : XF) : KeepsSystemPart (execMov64 f) :=
  keepsSystemPart_runForm _ fun c _ _ => systemPart_writeFixed c _ _ _ _

theorem keepsSystemPart_sel (f : XF) : KeepsSystemPart (execSel f) :=
  keepsSystemPart_runForm _ fun c _ _ => systemPart_writeFixed c _ _ _ _

theorem keepsSystemPart_lil (f : WF) : KeepsSystemPart (execLil f) :=
  keepsSystemPart_runForm _ fun c _ _ => systemPart_writeFixed c _ _ _ _

theorem keepsSystemPart_lih (f : WF) : KeepsSystemPart (execLih f) :=
  keepsSystemPart_runForm _ fun c _ _ => systemPart_writeFixed c _ _ _ _

theorem keepsSystemPart_psave (f : DTF) : KeepsSystemPart (execPsave f) :=
  keepsSystemPart_runForm _ fun c _ _ => systemPart_writeFixed c _ _ _ _

theorem keepsSystemPart_pget (f : DTF) : KeepsSystemPart (execPget f) :=
  keepsSystemPart_runForm _ fun c _ _ => systemPart_writeFixed c _ _ _ _

theorem keepsSystemPart_dclass (f : XFF) : KeepsSystemPart (execDclass f) :=
  keepsSystemPart_runForm _ fun c _ _ => systemPart_writeFixed c _ _ _ _

theorem keepsSystemPart_dmov (f : XFF) : KeepsSystemPart (execDmov f) :=
  keepsSystemPart_runForm _ fun c _ _ => systemPart_writeFixed c _ _ _ _

theorem keepsSystemPart_dp4 (f : FF) : KeepsSystemPart (execDp4 f) :=
  keepsSystemPart_runForm _ fun c _ _ => systemPart_writeFixed c _ _ _ _

theorem keepsSystemPart_dp4E4 (f : FF) : KeepsSystemPart (execDp4E4 f) :=
  keepsSystemPart_runForm _ fun c _ _ => systemPart_writeFlagged c _ _ _ _ _ _

theorem keepsSystemPart_cvt (f : CvtF) : KeepsSystemPart (execCvt f) :=
  keepsSystemPart_runForm _ fun c _ _ => systemPart_writeFlagged c _ _ _ _ _ _

theorem keepsSystemPart_fmax16 (f : H) : KeepsSystemPart (execFmax16 f) := keepsSystemPart_fltH f _

theorem keepsSystemPart_fmin16 (f : H) : KeepsSystemPart (execFmin16 f) := keepsSystemPart_fltH f _

theorem keepsSystemPart_andn (f : RF) : KeepsSystemPart (execAndn f) := keepsSystemPart_aluR f _

theorem keepsSystemPart_fmin (f : FF) : KeepsSystemPart (execFmin f) := keepsSystemPart_fltR f _

theorem keepsSystemPart_fmax (f : FF) : KeepsSystemPart (execFmax f) := keepsSystemPart_fltR f _

theorem keepsSystemPart_fminD (f : FF) : KeepsSystemPart (execFminD f) := keepsSystemPart_dblR f _

theorem keepsSystemPart_fmaxD (f : FF) : KeepsSystemPart (execFmaxD f) := keepsSystemPart_dblR f _

theorem keepsSystemPart_fneg (f : XFF) : KeepsSystemPart (execFneg f) := keepsSystemPart_fltX f _ _

theorem keepsSystemPart_fabs (f : XFF) : KeepsSystemPart (execFabs f) := keepsSystemPart_fltX f _ _

theorem keepsSystemPart_ffloor (f : XFF) : KeepsSystemPart (execFfloor f) := keepsSystemPart_fltX f _ _

theorem keepsSystemPart_fceil (f : XFF) : KeepsSystemPart (execFceil f) := keepsSystemPart_fltX f _ _

theorem keepsSystemPart_ftrunc (f : XFF) : KeepsSystemPart (execFtrunc f) := keepsSystemPart_fltX f _ _

theorem keepsSystemPart_frint (f : XFF) : KeepsSystemPart (execFrint f) := keepsSystemPart_fltX f _ _

theorem keepsSystemPart_fclass (f : XFF) : KeepsSystemPart (execFclass f) := keepsSystemPart_fltX f _ _

theorem keepsSystemPart_fsat (f : XFF) : KeepsSystemPart (execFsat f) := keepsSystemPart_fltX f _ _

theorem keepsSystemPart_dneg (f : XFF) : KeepsSystemPart (execDneg f) := keepsSystemPart_dblX f _ _

theorem keepsSystemPart_dabs (f : XFF) : KeepsSystemPart (execDabs f) := keepsSystemPart_dblX f _ _

theorem keepsSystemPart_dfloor (f : XFF) : KeepsSystemPart (execDfloor f) := keepsSystemPart_dblX f _ _

theorem keepsSystemPart_dceil (f : XFF) : KeepsSystemPart (execDceil f) := keepsSystemPart_dblX f _ _

theorem keepsSystemPart_dtrunc (f : XFF) : KeepsSystemPart (execDtrunc f) := keepsSystemPart_dblX f _ _

theorem keepsSystemPart_drint (f : XFF) : KeepsSystemPart (execDrint f) := keepsSystemPart_dblX f _ _

theorem keepsSystemPart_predOp (f : GF) (op : Thread → Thread) : KeepsSystemPart (predOp f op) :=
  keepsSystemPart_runForm _ fun _ _ _ => rfl

theorem keepsSystemPart_cmpLt16 (f : H) : KeepsSystemPart (execCmpLt16 f) := keepsSystemPart_runForm _ fun _ _ _ => rfl

theorem keepsSystemPart_fcmpLt16 (f : H) : KeepsSystemPart (execFcmpLt16 f) := keepsSystemPart_runForm _ fun _ _ _ => rfl

theorem keepsSystemPart_cmp (f : CmpF) : KeepsSystemPart (execCmp f) := keepsSystemPart_runForm _ fun _ _ _ => rfl

theorem keepsSystemPart_cmpi (f : CmpIF) : KeepsSystemPart (execCmpi f) := keepsSystemPart_runForm _ fun _ _ _ => rfl

theorem keepsSystemPart_fcmp (f : FCmpF) : KeepsSystemPart (execFcmp f) := keepsSystemPart_runForm _ fun _ _ _ => rfl

theorem keepsSystemPart_fcmpD (f : FCmpF) : KeepsSystemPart (execFcmpD f) := keepsSystemPart_runForm _ fun _ _ _ => rfl

theorem keepsSystemPart_pload (f : AF) : KeepsSystemPart (execPload f) := keepsSystemPart_runForm _ fun _ _ _ => rfl

theorem keepsSystemPart_pset (f : AF) : KeepsSystemPart (execPset f) := keepsSystemPart_runForm _ fun _ _ _ => rfl

theorem keepsSystemPart_br (f : JF) : KeepsSystemPart (execBr f) := keepsSystemPart_runForm _ fun _ _ _ => rfl

theorem keepsSystemPart_call (f : JF) : KeepsSystemPart (execCall f) := keepsSystemPart_runForm _ fun _ _ _ => rfl

theorem keepsSystemPart_nop (f : GF) : KeepsSystemPart (execNop f) := keepsSystemPart_runForm _ fun _ _ _ => rfl

theorem keepsSystemPart_dly (f : NF) : KeepsSystemPart (execDly f) := keepsSystemPart_runForm _ fun _ _ _ => rfl

theorem keepsSystemPart_trap (f : NF) : KeepsSystemPart (execTrap f) := keepsSystemPart_runForm _ fun _ _ _ => rfl

theorem keepsSystemPart_syscall (f : NF) : KeepsSystemPart (execSyscall f) := keepsSystemPart_runForm _ fun _ _ _ => rfl

theorem keepsSystemPart_bkpt (f : GF) : KeepsSystemPart (execBkpt f) := keepsSystemPart_runForm _ fun _ _ _ => rfl

theorem keepsSystemPart_hwr (f : HwrF) : KeepsSystemPart (execHwr f) := keepsSystemPart_runForm _ fun _ _ _ => rfl

theorem keepsSystemPart_pref (f : PrefF) : KeepsSystemPart (execPref f) := keepsSystemPart_runForm _ fun _ _ _ => rfl

theorem keepsSystemPart_jr (f : AF) : KeepsSystemPart (execJr f) := keepsSystemPart_runForm _ fun _ _ _ => systemPart_jumpTo ..

theorem keepsSystemPart_callr (f : AF) : KeepsSystemPart (execCallr f) :=
  keepsSystemPart_runForm _ fun _ _ _ => systemPart_jumpTo ..

theorem keepsSystemPart_ret (f : GF) : KeepsSystemPart (execRet f) := keepsSystemPart_runForm _ fun _ _ _ => systemPart_jumpTo ..

theorem keepsSystemPart_srd (f : SrdF) : KeepsSystemPart (execSrd f) := keepsSystemPart_runForm _ fun _ _ _ => by simp

theorem keepsSystemPart_swr (f : SwrF) : KeepsSystemPart (execSwr f) := keepsSystemPart_runForm _ fun _ _ _ => by simp

theorem keepsSystemPart_hrd (f : HrdF) : KeepsSystemPart (execHrd f) := keepsSystemPart_runForm _ fun _ _ _ => by simp

theorem keepsSystemPart_eret (f : GF) : KeepsSystemPart (execEret f) :=
  keepsSystemPart_runForm _ fun _ _ _ => systemPart_eretEffect ..

theorem keepsSystemPart_cpystat (f : ADF) : KeepsSystemPart (execCpystat f) :=
  keepsSystemPart_runForm _ fun _ _ _ => systemPart_writeBoard ..

theorem keepsSystemPart_rsvinfo (f : DF) : KeepsSystemPart (execRsvinfo f) :=
  keepsSystemPart_runForm _ fun _ _ _ => systemPart_writeBoard ..

theorem keepsSystemPart_sclaim (f : DF) : KeepsSystemPart (execSclaim f) :=
  keepsSystemPart_runForm _ fun _ _ _ => systemPart_claimName ..

theorem keepsSystemPart_aclaim (f : DF) : KeepsSystemPart (execAclaim f) :=
  keepsSystemPart_runForm _ fun _ _ _ => systemPart_claimName ..

theorem keepsSystemPart_srel (f : AF) : KeepsSystemPart (execSrel f) :=
  keepsSystemPart_runForm _ fun _ _ _ => systemPart_releaseName ..

theorem keepsSystemPart_arel (f : AF) : KeepsSystemPart (execArel f) :=
  keepsSystemPart_runForm _ fun _ _ _ => systemPart_releaseName ..

theorem keepsSystemPart_send (f : ADF) : KeepsSystemPart (execSend f) :=
  keepsSystemPart_runForm _ fun _ _ _ => systemPart_sendOrTrap ..

theorem keepsSystemPart_padd (f : ADF) : KeepsSystemPart (execPadd f) :=
  keepsSystemPart_runForm _ fun _ _ _ => systemPart_sendOrTrap ..

/-! ## Collectives -/

theorem keepsSystemPart_xlOp (i : Instr) (f : XlF) (selector pair : Bool) : KeepsSystemPart (xlOp i f selector pair) :=
  keepsSystemPart_runArrival _ _ _ _ _ _ _

theorem keepsSystemPart_voteOp (i : Instr) (f : XlAF) : KeepsSystemPart (voteOp i f) := keepsSystemPart_runArrival _ _ _ _ _ _ _

theorem keepsSystemPart_elect (f : XlDF) : KeepsSystemPart (execElect f) := keepsSystemPart_runArrival _ _ _ _ _ _ _

theorem keepsSystemPart_gsync (f : XlAF) : KeepsSystemPart (execGsync f) := keepsSystemPart_runArrival _ _ _ _ _ _ _

theorem keepsSystemPart_cbar (f : ScF) : KeepsSystemPart (execCbar f) := keepsSystemPart_runArrival _ _ _ _ _ _ _

theorem keepsSystemPart_xacq (f : ScF) : KeepsSystemPart (execXacq f) := keepsSystemPart_runArrival _ _ _ _ _ _ _

theorem keepsSystemPart_xrel (f : ScF) : KeepsSystemPart (execXrel f) := keepsSystemPart_runArrival _ _ _ _ _ _ _

theorem keepsSystemPart_gbar (f : ScF) : KeepsSystemPart (execGbar f) := keepsSystemPart_runArrival _ _ _ _ _ _ _

/-! ## Every instruction of a user thread -/

/-- An instruction that leaves the system's part of the state alone when a thread outside system mode executes it. -/
def UserKeepsSystemPart (f : State → Host.Outcome State Fault Refusal) : Prop :=
  ∀ s t c, s.ctx s.cur = some c → c.l.system = false → f s = .next t → t.systemPart = s.systemPart

theorem KeepsSystemPart.user {f : State → Host.Outcome State Fault Refusal} (h : KeepsSystemPart f) : UserKeepsSystemPart f :=
  fun s t _ _ _ => h s t

/-- A SYS instruction of a thread outside system mode never comes to its effect. -/
theorem runSys_user {s : State} {c : Ctx} (hc : s.ctx s.cur = some c) (hu : c.l.system = false) (f : Form)
    (body : Ctx → (Nat → Word) → State → Effect) :
    runSys f body s = .next (finish c f (if c.t.completing then .wait s .interlock else .trap s .priv 0)) := by
  unfold runSys runForm
  rw [hc]
  by_cases hl : c.t.completing <;> simp [hu, hl]

theorem userKeepsSystemPart_runSys (f : Form) (body : Ctx → (Nat → Word) → State → Effect) :
    UserKeepsSystemPart (runSys f body) := by
  intro s t c hc hu ht
  rw [runSys_user hc hu] at ht
  cases ht
  simp

theorem userKeepsSystemPart_swrp (f : PrivF) : UserKeepsSystemPart (execSwrp f) := by
  unfold execSwrp
  split
  · exact (keepsSystemPart_illegalEncoding true).user
  · exact userKeepsSystemPart_runSys _ _

theorem userKeepsSystemPart_exec (i : Instr) (he : Instr.isEvent i = false) : UserKeepsSystemPart (exec i) := by
  cases i with
  | add16 f | sub16 f | and16 f | or16 f | xor16 f | shl16 f | shr16 f => exact (keepsSystemPart_aluH f _).user
  | fadd16 f | fsub16 f | fmul16 f => exact (keepsSystemPart_fltH f _).user
  | add f | sub f | mul f | mulh f | mulhN f | and f | or f | xor f | shl f | shr f | shrA f | rot f | rotR f
  | min f | minN f | max f | maxN f => exact (keepsSystemPart_aluR f _).user
  | add64 f | sub64 f => exact (keepsSystemPart_aluR64 f _).user
  | mov f | not f | neg f | abs f | clz f | popc f | brev f | bswap f | sxb f | sxh f | zxb f | zxh f =>
    exact (keepsSystemPart_aluX f _).user
  | addi f | andi f | ori f | xori f => exact (keepsSystemPart_aluI f _).user
  | shli f | shri f | shriA f => exact (keepsSystemPart_aluS f _).user
  | ppop f | pdup f | pswap f | pnot f | pand f | por f | pxor f | prot f => exact (keepsSystemPart_predOp f _).user
  | fadd f | fsub f | fmul f => exact (keepsSystemPart_fltR f _).user
  | ffma f => exact (keepsSystemPart_fltR3 f _).user
  | fsqrt f | frcp f | frsq f | fex2 f | flg2 f => exact (keepsSystemPart_fltX f _ _).user
  | dadd f | dsub f | dmul f => exact (keepsSystemPart_dblR f _).user
  | dfma f => exact (keepsSystemPart_dblR3 f _).user
  | dsqrt f | drcp f => exact (keepsSystemPart_dblX f _ _).user
  | hadd2 f | hadd2Bf f | hmul2 f | hmul2Bf f => exact (keepsSystemPart_packed2 f _).user
  | hfma2 f | hfma2Bf f => exact (keepsSystemPart_packed3 f _).user
  | bmvGq4 f | bmvE4m3 f | bmvBf16 f => exact (keepsSystemPart_bmv _ f).user
  | claimR f | claimW f => exact (keepsSystemPart_claim _ f).user
  | admitItem f => exact (keepsSystemPart_admit f).user
  | shflIdx f | shflXor f | shflUp f | shflDown f | ballot f | radd f | rfadd f | rmin f | rmax f | scan f =>
    exact (keepsSystemPart_xlOp _ f _ _).user
  | voteAll f | voteAny f => exact (keepsSystemPart_voteOp _ f).user
  | fmax16 f => exact (keepsSystemPart_fmax16 f).user
  | fmin16 f => exact (keepsSystemPart_fmin16 f).user
  | andn f => exact (keepsSystemPart_andn f).user
  | fmin f => exact (keepsSystemPart_fmin f).user
  | fmax f => exact (keepsSystemPart_fmax f).user
  | fminD f => exact (keepsSystemPart_fminD f).user
  | fmaxD f => exact (keepsSystemPart_fmaxD f).user
  | fneg f => exact (keepsSystemPart_fneg f).user
  | fabs f => exact (keepsSystemPart_fabs f).user
  | ffloor f => exact (keepsSystemPart_ffloor f).user
  | fceil f => exact (keepsSystemPart_fceil f).user
  | ftrunc f => exact (keepsSystemPart_ftrunc f).user
  | frint f => exact (keepsSystemPart_frint f).user
  | fclass f => exact (keepsSystemPart_fclass f).user
  | fsat f => exact (keepsSystemPart_fsat f).user
  | dneg f => exact (keepsSystemPart_dneg f).user
  | dabs f => exact (keepsSystemPart_dabs f).user
  | dfloor f => exact (keepsSystemPart_dfloor f).user
  | dceil f => exact (keepsSystemPart_dceil f).user
  | dtrunc f => exact (keepsSystemPart_dtrunc f).user
  | drint f => exact (keepsSystemPart_drint f).user
  | mov16 f => exact (keepsSystemPart_mov16 f).user
  | addi16 f => exact (keepsSystemPart_addi16 f).user
  | cmpLt16 f => exact (keepsSystemPart_cmpLt16 f).user
  | fcmpLt16 f => exact (keepsSystemPart_fcmpLt16 f).user
  | mov64 f => exact (keepsSystemPart_mov64 f).user
  | sel f => exact (keepsSystemPart_sel f).user
  | lil f => exact (keepsSystemPart_lil f).user
  | lih f => exact (keepsSystemPart_lih f).user
  | cmp f => exact (keepsSystemPart_cmp f).user
  | cmpi f => exact (keepsSystemPart_cmpi f).user
  | fcmp f => exact (keepsSystemPart_fcmp f).user
  | fcmpD f => exact (keepsSystemPart_fcmpD f).user
  | psave f => exact (keepsSystemPart_psave f).user
  | pload f => exact (keepsSystemPart_pload f).user
  | pset f => exact (keepsSystemPart_pset f).user
  | pget f => exact (keepsSystemPart_pget f).user
  | br f => exact (keepsSystemPart_br f).user
  | call f => exact (keepsSystemPart_call f).user
  | jr f => exact (keepsSystemPart_jr f).user
  | callr f => exact (keepsSystemPart_callr f).user
  | ret f => exact (keepsSystemPart_ret f).user
  | nop f => exact (keepsSystemPart_nop f).user
  | dly f => exact (keepsSystemPart_dly f).user
  | exit f => exact (keepsSystemPart_exit f).user
  | safe f => exact (keepsSystemPart_safe f).user
  | trap f => exact (keepsSystemPart_trap f).user
  | syscall f => exact (keepsSystemPart_syscall f).user
  | bkpt f => exact (keepsSystemPart_bkpt f).user
  | srd f => exact (keepsSystemPart_srd f).user
  | swr f => exact (keepsSystemPart_swr f).user
  | yield f => exact (keepsSystemPart_yield f).user
  | spawn f => exact (keepsSystemPart_spawn f).user
  | eret f => exact (keepsSystemPart_eret f).user
  | hrd f => exact (keepsSystemPart_hrd f).user
  | hwr f => exact (keepsSystemPart_hwr f).user
  | cvt f => exact (keepsSystemPart_cvt f).user
  | dclass f => exact (keepsSystemPart_dclass f).user
  | dmov f => exact (keepsSystemPart_dmov f).user
  | dp4 f => exact (keepsSystemPart_dp4 f).user
  | dp4E4 f => exact (keepsSystemPart_dp4E4 f).user
  | ld f => exact (keepsSystemPart_ld f).user
  | st f => exact (keepsSystemPart_st f).user
  | ldnf f => exact (keepsSystemPart_ldnf f).user
  | atom f => exact (keepsSystemPart_atom f).user
  | red f => exact (keepsSystemPart_red f).user
  | fence f => exact (keepsSystemPart_fence f).user
  | afence f => exact (keepsSystemPart_afence f).user
  | bfence f => exact (keepsSystemPart_bfence f).user
  | waitc f => exact (keepsSystemPart_waitc f).user
  | stn f => exact (keepsSystemPart_stn f).user
  | ldn f => exact (keepsSystemPart_ldn f).user
  | pref f => exact (keepsSystemPart_pref f).user
  | cpy f => exact (keepsSystemPart_cpy f).user
  | cpystat f => exact (keepsSystemPart_cpystat f).user
  | rclaim f => exact (keepsSystemPart_rclaim f).user
  | rcommit f => exact (keepsSystemPart_rcommit f).user
  | rawait f => exact (keepsSystemPart_rawait f).user
  | rretire f => exact (keepsSystemPart_rretire f).user
  | rclaimnf f => exact (keepsSystemPart_rclaimnf f).user
  | rawaitnf f => exact (keepsSystemPart_rawaitnf f).user
  | mma f => exact (keepsSystemPart_mma f).user
  | sclaim f => exact (keepsSystemPart_sclaim f).user
  | srel f => exact (keepsSystemPart_srel f).user
  | aclaim f => exact (keepsSystemPart_aclaim f).user
  | arel f => exact (keepsSystemPart_arel f).user
  | azero f => exact (keepsSystemPart_azero f).user
  | palloc f => exact (keepsSystemPart_palloc f).user
  | pfree f => exact (keepsSystemPart_pfree f).user
  | send f => exact (keepsSystemPart_send f).user
  | sendnf f => exact (keepsSystemPart_sendnf f).user
  | padd f => exact (keepsSystemPart_padd f).user
  | recv f => exact (keepsSystemPart_recv f).user
  | recvnf f => exact (keepsSystemPart_recvnf f).user
  | patdef f => exact (keepsSystemPart_patdef f).user
  | patdel f => exact (keepsSystemPart_patdel f).user
  | patarm f => exact (keepsSystemPart_patarm f).user
  | pinfo f => exact (keepsSystemPart_pinfo f).user
  | rsvinfo f => exact (keepsSystemPart_rsvinfo f).user
  | elect f => exact (keepsSystemPart_elect f).user
  | gsync f => exact (keepsSystemPart_gsync f).user
  | cbar f => exact (keepsSystemPart_cbar f).user
  | xacq f => exact (keepsSystemPart_xacq f).user
  | xrel f => exact (keepsSystemPart_xrel f).user
  | gbar f => exact (keepsSystemPart_gbar f).user
  | fitx f => exact (keepsSystemPart_fitx f).user
  | fitgen f => exact (keepsSystemPart_fitgen f).user
  | refit f => exact (keepsSystemPart_refit f).user
  | fitstat f => exact (keepsSystemPart_fitstat f).user
  | reservedOrIllegalEncoding w => exact (keepsSystemPart_illegalEncoding _).user
  | swrp f => exact userKeepsSystemPart_swrp f
  | fitmake f | fitdrop f | tlbinv f | fqpop f | layout f | nodekill f | preempt f | srdp f => exact userKeepsSystemPart_runSys _ _
  | launchMessage | nodeAdmission | stepBoundary | nodeCompletion | waveDispatch | footprintRelease | loadDataReturn
  | preemptionRequest | waveLeavesCore | waveRestore | extendedBlockGrant | matrixOpStart | matrixOpCompletion | copyChunkStart
  | copyCompletion | reductionApply | bankRowCompute | bmvCompletion | faultRecordPost | refitStart | refitSwap | patternFiring
  | itemAdmission | itemFinish | moduleReset | hostDoorbellStore | hostMemAccess | storeTakesEffect | fresRetry | fresFatal
  | streamExpectedUpdate | heldDeliveryRetry | stealAttempt | stealAcknowledge | cooperativePlacement | hardPreemptCycleLimit
  | hardPreemptInstrLimit | slotClaimGrant | slotReleaseComplete | refitAbandon | pageDemotion | pagePromotion | clusterReset
  | unitOutOfService | eccError | hostDoorbellRead | flitRetry | powerAdjust | replay | fabricCannotReachModule => cases he

/-- Settles O59: the privileged state is a projection of the state that every operation of a user thread keeps, instruction by
instruction; a SYS instruction of such a thread ends in PRIV before its effect. -/
theorem userModeLeavesPrivilegedState : Obligations.UserModeLeavesPrivilegedState := by
  intro i s t c he hc hu ht
  have h := userKeepsSystemPart_exec i he s t c hc hu ht
  simpa only [State.systemPart, SystemPart.mk.injEq] using h

end Sys2Proof.Machine
end

section
/-!
PROOF. A doubleword and its halves.
-/
namespace Sys2Proof

@[simp] theorem Word.lo_pair (lo hi : Word) : Word.lo (Word.pair lo hi) = lo := BitVec.extractLsb'_append_eq_right

@[simp] theorem Word.hi_pair (lo hi : Word) : Word.hi (Word.pair lo hi) = hi := BitVec.extractLsb'_append_eq_left

theorem Reg.pairWrites_pair (d : Reg) (lo hi : Word) : d.pairWrites (Word.pair lo hi) = [(d, lo), (d.succ 1, hi)] := by
  simp [Reg.pairWrites]

end Sys2Proof
end

section
/-!
PROOF. O15: floating-point instructions. What one that writes a register and adds flags does once it executes, by the shape of its
operands.
-/
namespace Sys2Proof.Machine
open Sys2Proof

/-! ## Results with flags -/

/-- What a floating-point result changes of its thread. -/
def Thread.putFlagged (ws : List (Reg × Word)) (n : Nat) (tr quiet : Bool) (fl : FpFlags) (t : Thread) : Thread :=
  { t.putFixeds ws n tr with fflags := addFlags t.fflags quiet fl }

theorem Holds.putFlagged (ws : List (Reg × Word)) (n : Nat) (tr quiet : Bool) (fl : FpFlags) :
    Holds (Thread.putFlagged ws n tr quiet fl) := by
  intro t v
  have h := Holds.putFixeds ws n tr t v
  simp only [Thread.putFlagged, h]

/-- Flags aside, a thread with a floating-point result has the control state that it had. -/
theorem SameControl.putFlagged (u : Thread) (ws : List (Reg × Word)) (n : Nat) (tr quiet : Bool) (fl : FpFlags) (len st now : Nat) :
    SameControl u { (Thread.putFlagged ws n tr quiet fl u).advance len st now with fflags := u.fflags } :=
  have h : SameControl u ((u.putFixeds ws n tr).advance len st now) := (SameControl.putFixeds u ws n tr).of_advance
  { h with fflags := rfl }

theorem Executes.doneFlagged {i : Instr} {s : State} {c : Ctx} {f : Form} {ws : List (Reg × Word)} {n : Nat} {tr quiet : Bool}
    {fl : FpFlags} (h : Executes s c f) (hd : c.t.belowLimit ws = false) {body : Ctx → (Nat → Word) → State → Effect}
    (hi : exec i s = runForm f body s)
    (hb : body c (c.reads s f) (s.spent f) = writeFlagged c (s.spent f) ws n tr quiet fl) :
    ∃ t, exec i s = .next t ∧ Advanced s t c f.len (f.sc + f.delay)
      ((Thread.putFlagged ws n tr quiet fl c.t).advance f.len (f.sc + f.delay) s.now) :=
  thread_done h (Thread.putFlagged ws n tr quiet fl) (fun t => t.putFixeds_id ws n tr) (Holds.putFlagged ws n tr quiet fl)
    (c.t.putFixeds_pc ws n tr) hi (hb.trans (writeFlagged_ok hd _ n tr quiet fl))

/-- One fixed-latency result with flags (R59, R65, R94). -/
theorem writesFlagged_of {i : Instr} {s : State} {c : Ctx} {f : Form} {d : Reg} {x : Word} {n : Nat} {tr quiet : Bool}
    {fl : FpFlags} (h : Executes s c f) (hd : c.t.belowLimit [(d, x)] = false) {body : Ctx → (Nat → Word) → State → Effect}
    (hi : exec i s = runForm f body s)
    (hb : body c (c.reads s f) (s.spent f) = writeFlagged c (s.spent f) [(d, x)] n tr quiet fl) :
    WritesFlagged i s c f.len (f.sc + f.delay) n d x tr quiet fl := by
  obtain ⟨t, ht, hadv⟩ := h.doneFlagged hd hi hb
  have hregs : SameRegs c.t ((c.t.putFixeds [(d, x)] n tr).advance f.len (f.sc + f.delay) s.now) [d] :=
    (SameRegs.putFixeds c.t [(d, x)] n tr).of_advance
  have hwrote : Wrote c.t ((c.t.putFixed d x n tr false).advance f.len (f.sc + f.delay) s.now) d x tr :=
    (Wrote.putFixed c.t d x n tr false).of_advance
  exact ⟨t, _, ht, hadv, SameControl.putFlagged .., rfl, hregs, ⟨hwrote.latest, hwrote.bank, hwrote.clean⟩,
    Opens.putFixed c.t d x n tr false f.len _ s.now⟩

theorem Wrote.putFixeds_pair (u : Thread) (d : Reg) (x : DWord) (n : Nat) (tr : Bool) :
    Wrote u (u.putFixeds (d.pairWrites x) n tr) d (Word.lo x) tr ∧
      Wrote u (u.putFixeds (d.pairWrites x) n tr) (d.succ 1) (Word.hi x) tr := by
  have hne := Reg.succ_ne d
  have hlo := Wrote.putFixed u d (Word.lo x) n tr true
  have hhi := Wrote.putFixed (u.putFixed d (Word.lo x) n tr true) (d.succ 1) (Word.hi x) n tr true
  refine ⟨⟨?_, ?_, ?_⟩, ⟨hhi.latest, hhi.bank.trans ?_, hhi.clean⟩⟩
  · exact (Thread.latest_putFixed_other _ hne.symm _ _ _ _).trans hlo.latest
  · refine Eq.trans ?_ hlo.bank
    refine (Thread.bank_putFixed _ (d.succ 1) d _ _ _ true).trans (if_neg fun h => hne h.1.symm)
  · exact (Thread.mark?_putFixed_other _ hne.symm _ _ _ _).trans hlo.clean
  · simp [Thread.bank_putFixed, hne]

theorem Opens.putFixeds_pair (u : Thread) (d : Reg) (x : DWord) (n : Nat) (tr : Bool) (len st now : Nat) :
    Opens ((u.putFixeds (d.pairWrites x) n tr).advance len st now) d n st ∧
      Opens ((u.putFixeds (d.pairWrites x) n tr).advance len st now) (d.succ 1) n st := by
  refine ⟨?_, Opens.putFixed (u.putFixed d (Word.lo x) n tr true) (d.succ 1) (Word.hi x) n tr true len st now⟩
  refine Eq.trans ?_ (Opens.putFixed u d (Word.lo x) n tr true len st now)
  rw [Thread.late_advance, Thread.late_advance]
  exact congrArg _ (find_flight_putFixed (u.putFixed d (Word.lo x) n tr true) (Reg.succ_ne d).symm (Word.hi x) n tr true)

/-- A pair with flags. -/
theorem writesPairFlagged_of {i : Instr} {s : State} {c : Ctx} {f : Form} {d : Reg} {x : DWord} {n : Nat} {tr quiet : Bool}
    {fl : FpFlags} (hlen : f.len = 4) (h : Executes s c f) (hd : c.t.belowLimit (d.pairWrites x) = false)
    {body : Ctx → (Nat → Word) → State → Effect} (hi : exec i s = runForm f body s)
    (hb : body c (c.reads s f) (s.spent f) = writeFlagged c (s.spent f) (d.pairWrites x) n tr quiet fl) :
    WritesPairFlagged i s c (f.sc + f.delay) n d x tr quiet fl := by
  obtain ⟨t, ht, hadv⟩ := h.doneFlagged hd hi hb
  rw [hlen] at hadv
  have hregs : SameRegs c.t ((c.t.putFixeds (d.pairWrites x) n tr).advance 4 (f.sc + f.delay) s.now) d.pair :=
    (SameRegs.putFixeds c.t (d.pairWrites x) n tr).of_advance
  obtain ⟨hlo, hhi⟩ := Wrote.putFixeds_pair c.t d x n tr
  have hlo : Wrote c.t ((c.t.putFixeds (d.pairWrites x) n tr).advance 4 (f.sc + f.delay) s.now) d (Word.lo x) tr := hlo.of_advance
  have hhi : Wrote c.t ((c.t.putFixeds (d.pairWrites x) n tr).advance 4 (f.sc + f.delay) s.now) (d.succ 1) (Word.hi x) tr :=
    hhi.of_advance
  obtain ⟨hopen, hopen'⟩ := Opens.putFixeds_pair c.t d x n tr 4 (f.sc + f.delay) s.now
  exact ⟨t, _, ht, hadv, SameControl.putFlagged .., rfl, hregs, ⟨hlo.latest, hlo.bank, hlo.clean⟩,
    ⟨hhi.latest, hhi.bank, hhi.clean⟩, hopen, hopen'⟩

end Sys2Proof.Machine
end

section
/-!
PROOF. O15: the floating-point instructions, each by its shape.
-/
namespace Sys2Proof.Machine
open Sys2Proof

/-! ## The shapes of floating-point instructions -/

section
variable (s : State) (c : Ctx)

theorem fltH_writes (k : H → Instr) (op : Rounding → Nat → Nat → Nat × FpFlags) (hk : ∀ f s, exec (k f) s = fltH f op s) (f : H)
    (h : Executes s c f.form) :
    let r := op (roundingOf c.t.fcr) (c.reads s f.form 0).toNat (c.reads s f.form 1).toNat
    c.t.belowLimit [(f.d.wide, BitVec.ofNat 32 r.1)] = false →
      WritesFlagged (k f) s c 2 f.sc 4 f.d.wide (BitVec.ofNat 32 r.1) false false r.2 :=
  fun hd => writesFlagged_of h hd (hk f s) rfl

theorem fltR_writes (k : FF → Instr) (op : Rounding → Nat → Nat → Nat × FpFlags) (hk : ∀ f s, exec (k f) s = fltR f op s) (f : FF)
    (h : Executes s c f.form) :
    let r := op (roundingOf c.t.fcr) (c.reads s f.form 0).toNat (c.reads s f.form 1).toNat
    c.t.belowLimit [(f.d, BitVec.ofNat 32 r.1)] = false →
      WritesFlagged (k f) s c 4 f.sc 4 f.d (BitVec.ofNat 32 r.1) f.t f.q r.2 :=
  fun hd => writesFlagged_of h hd (hk f s) rfl

theorem packed2_writes (k : FF → Instr) (op : Rounding → Nat → Nat → Nat × FpFlags)
    (hk : ∀ f s, exec (k f) s = packed2 f op s) (f : FF)
    (h : Executes s c f.form) :
    let r := half2 (op (roundingOf c.t.fcr)) (BitVec.ofNat 32 (c.reads s f.form 0).toNat)
      (BitVec.ofNat 32 (c.reads s f.form 1).toNat)
    c.t.belowLimit [(f.d, BitVec.ofNat 32 r.1)] = false →
      WritesFlagged (k f) s c 4 f.sc 4 f.d (BitVec.ofNat 32 r.1) f.t f.q r.2 := by
  rw [BitVec.ofNat_toNat, BitVec.setWidth_eq, BitVec.ofNat_toNat, BitVec.setWidth_eq]
  exact fun hd => writesFlagged_of h hd (hk f s) rfl

theorem fltR3_writes (k : FF → Instr) (op : Rounding → Nat → Nat → Nat → Nat × FpFlags)
    (hk : ∀ f s, exec (k f) s = fltR3 f op s)
    (f : FF) (h : Executes s c f.form3) :
    let r := op (roundingOf c.t.fcr) (c.reads s f.form3 0).toNat (c.reads s f.form3 1).toNat (c.reads s f.form3 2).toNat
    c.t.belowLimit [(f.d, BitVec.ofNat 32 r.1)] = false →
      WritesFlagged (k f) s c 4 f.sc 4 f.d (BitVec.ofNat 32 r.1) f.t f.q r.2 :=
  fun hd => writesFlagged_of h hd (hk f s) rfl

theorem packed3_writes (k : FF → Instr) (op : Rounding → Nat → Nat → Nat → Nat × FpFlags)
    (hk : ∀ f s, exec (k f) s = packed3 f op s)
    (f : FF) (h : Executes s c f.form3) :
    let r := half3 (op (roundingOf c.t.fcr)) (c.reads s f.form3 0) (c.reads s f.form3 1) (c.reads s f.form3 2)
    c.t.belowLimit [(f.d, BitVec.ofNat 32 r.1)] = false →
      WritesFlagged (k f) s c 4 f.sc 4 f.d (BitVec.ofNat 32 r.1) f.t f.q r.2 :=
  fun hd => writesFlagged_of h hd (hk f s) rfl

theorem dblR_writes (k : FF → Instr) (op : Rounding → Nat → Nat → Nat × FpFlags) (hk : ∀ f s, exec (k f) s = dblR f op s) (f : FF)
    (h : Executes s c f.form64) :
    let r := op (roundingOf c.t.fcr) (Word.pair (c.reads s f.form64 0) (c.reads s f.form64 1)).toNat
      (Word.pair (c.reads s f.form64 2) (c.reads s f.form64 3)).toNat
    c.t.belowLimit (f.d.pairWrites (BitVec.ofNat 64 r.1)) = false →
      WritesPairFlagged (k f) s c f.sc 8 f.d (BitVec.ofNat 64 r.1) f.t f.q r.2 :=
  fun hd => writesPairFlagged_of rfl h hd (hk f s) rfl

theorem fltX_writes (k : XFF → Instr) (n : Nat) (op : Rounding → Nat → Nat × FpFlags) (hk : ∀ f s, exec (k f) s = fltX f n op s)
    (f : XFF) (h : Executes s c f.form) :
    let r := op (roundingOf c.t.fcr) (c.reads s f.form 0).toNat
    c.t.belowLimit [(f.d, BitVec.ofNat 32 r.1)] = false →
      WritesFlagged (k f) s c 4 f.sc n f.d (BitVec.ofNat 32 r.1) f.t f.q r.2 :=
  fun hd => writesFlagged_of h hd (hk f s) rfl

theorem dblX_writes (k : XFF → Instr) (n : Nat) (op : Rounding → Nat → Nat × FpFlags) (hk : ∀ f s, exec (k f) s = dblX f n op s)
    (f : XFF) (h : Executes s c f.form64) :
    let r := op (roundingOf c.t.fcr) (Word.pair (c.reads s f.form64 0) (c.reads s f.form64 1)).toNat
    c.t.belowLimit (f.d.pairWrites (BitVec.ofNat 64 r.1)) = false →
      WritesPairFlagged (k f) s c f.sc n f.d (BitVec.ofNat 64 r.1) f.t f.q r.2 :=
  fun hd => writesPairFlagged_of rfl h hd (hk f s) rfl

end

/-! ## The instructions of no shared shape -/

theorem exec_dp4E4 (f : FF) (s : State) : exec (.dp4E4 f) s = runForm f.form3 (fun c o s =>
    writeFlagged c s (wordResult f.d (dp4E4Sum c.mode (o 0) (o 1) (o 2))) 4 f.t f.q (dp4E4Sum c.mode (o 0) (o 1) (o 2)).2) s := rfl

theorem exec_dp4 (f : FF) (s : State) :
    exec (.dp4 f) s = runForm f.form3 (fun c o s => writeFixed c s [(f.d, dp4Int (o 0) (o 1) (o 2))] 4 f.t) s := rfl

theorem exec_dfma (f : FF) (s : State) : exec (.dfma f) s = dblR3 f (Fp.fma Fp.fp64) s := rfl

theorem exec_dmov (f : XFF) (s : State) :
    exec (.dmov f) s = runForm f.form64 (fun c o s => writeFixed c s [(f.d, o 0), (f.d.succ 1, o 1)] 8 f.t) s := rfl

theorem exec_dclass (f : XFF) (s : State) : exec (.dclass f) s = runForm { g := f.g, sc := f.sc, reads := f.a.pair, names := [f.d] }
    (fun c o s => writeFixed c s [(f.d, Fp.classMask Fp.fp64 (pairNat o 0))] 8 f.t) s := rfl

theorem exec_cvt (f : CvtF) (s : State) : exec (.cvt f) s = runForm f.form (fun c o s =>
    writeFlagged c s (if Cvt.wide f.c then pairResult f.d (Cvt.result f.c c.mode o) else wordResult f.d (Cvt.result f.c c.mode o)) 4
      f.t f.q (Cvt.result f.c c.mode o).2) s := rfl

/-- A byte of a word as the packed operations take it. -/
theorem ofNat_element (x : Word) (i : Nat) : BitVec.ofNat 8 (element x 8 i) = x.extractLsb' (8 * i) 8 := by
  apply BitVec.eq_of_toNat_eq
  simp [element, field, BitVec.extractLsb'_toNat, Nat.shiftRight_eq_div_pow]

/-! ## All of them -/

/-- Settles O15, by the shape of each instruction's operands. -/
theorem floatInstructionsComplete : Obligations.FloatInstructionsComplete := by
  intro s c
  simp only [List.forall_mem_cons, List.not_mem_nil, false_implies, implies_true, and_true]
  refine ⟨⟨?_, ?_, ?_, ?_, ?_, ?_, ?_, ?_, ?_⟩, ⟨?_, ?_, ?_, ?_⟩, ?_, ⟨?_, ?_, ?_, ?_, ?_⟩, ?_,
    ⟨?_, ?_, ?_, ?_, ?_, ?_, ?_, ?_, ?_, ?_, ?_, ?_, ?_⟩, ⟨?_, ?_, ?_, ?_, ?_, ?_, ?_, ?_⟩, ?_, ?_, ?_, ?_, ?_, ?_, ?_, ?_⟩
  · exact fltR_writes s c .fadd (Fp.add Fp.fp32) fun _ _ => rfl
  · exact fltR_writes s c .fsub (Fp.sub Fp.fp32) fun _ _ => rfl
  · exact fltR_writes s c .fmul (Fp.times Fp.fp32) fun _ _ => rfl
  · exact fltR_writes s c .fmin (fun _ => Fp.minimum Fp.fp32) fun _ _ => rfl
  · exact fltR_writes s c .fmax (fun _ => Fp.maximum Fp.fp32) fun _ _ => rfl
  · exact packed2_writes s c .hadd2 (Fp.add Fp.fp16) fun _ _ => rfl
  · exact packed2_writes s c .hadd2Bf (Fp.add Fp.bf16) fun _ _ => rfl
  · exact packed2_writes s c .hmul2 (Fp.times Fp.fp16) fun _ _ => rfl
  · exact packed2_writes s c .hmul2Bf (Fp.times Fp.bf16) fun _ _ => rfl
  · exact fltR3_writes s c .ffma (Fp.fma Fp.fp32) fun _ _ => rfl
  · exact packed3_writes s c .hfma2 (Fp.fma Fp.fp16) fun _ _ => rfl
  · exact packed3_writes s c .hfma2Bf (Fp.fma Fp.bf16) fun _ _ => rfl
  · exact fun f h hd => writesFlagged_of h hd (exec_dp4E4 f s) rfl
  · exact fun f h hd => writesOne_of h hd (exec_dp4 f s) (by simp only [dp4Int, ofNat_element]; rfl)
  · exact dblR_writes s c .dadd (Fp.add Fp.fp64) fun _ _ => rfl
  · exact dblR_writes s c .dsub (Fp.sub Fp.fp64) fun _ _ => rfl
  · exact dblR_writes s c .dmul (Fp.times Fp.fp64) fun _ _ => rfl
  · exact dblR_writes s c .fminD (fun _ => Fp.minimum Fp.fp64) fun _ _ => rfl
  · exact dblR_writes s c .fmaxD (fun _ => Fp.maximum Fp.fp64) fun _ _ => rfl
  · exact fun f h hd => writesPairFlagged_of rfl h hd (exec_dfma f s) rfl
  · exact fltX_writes s c .fneg 4 (fun _ => Fp.negation Fp.fp32) fun _ _ => rfl
  · exact fltX_writes s c .fabs 4 (fun _ => Fp.absolute Fp.fp32) fun _ _ => rfl
  · exact fltX_writes s c .fsqrt 12 (Fp.sqrt Fp.fp32) fun _ _ => rfl
  · exact fltX_writes s c .frcp 12 (Fp.recip Fp.fp32) fun _ _ => rfl
  · exact fltX_writes s c .frsq 12 (Fp.rsqrt Fp.fp32) fun _ _ => rfl
  · exact fltX_writes s c .fex2 12 (Fp.exp2 Fp.fp32) fun _ _ => rfl
  · exact fltX_writes s c .flg2 12 (Fp.log2 Fp.fp32) fun _ _ => rfl
  · exact fltX_writes s c .ffloor 4 (fun _ => Fp.integral Fp.fp32 .rd false) fun _ _ => rfl
  · exact fltX_writes s c .fceil 4 (fun _ => Fp.integral Fp.fp32 .ru false) fun _ _ => rfl
  · exact fltX_writes s c .ftrunc 4 (fun _ => Fp.integral Fp.fp32 .rz false) fun _ _ => rfl
  · exact fltX_writes s c .frint 4 (fun m => Fp.integral Fp.fp32 m true) fun _ _ => rfl
  · exact fltX_writes s c .fclass 4 (fun _ x => ((Fp.classMask Fp.fp32 x).toNat, 0)) fun _ _ => rfl
  · exact fltX_writes s c .fsat 4 (fun _ => Fp.saturate Fp.fp32) fun _ _ => rfl
  · exact dblX_writes s c .dneg 8 (fun _ => Fp.negation Fp.fp64) fun _ _ => rfl
  · exact dblX_writes s c .dabs 8 (fun _ => Fp.absolute Fp.fp64) fun _ _ => rfl
  · exact dblX_writes s c .dsqrt 12 (Fp.sqrt Fp.fp64) fun _ _ => rfl
  · exact dblX_writes s c .drcp 12 (Fp.recip Fp.fp64) fun _ _ => rfl
  · exact dblX_writes s c .dfloor 8 (fun _ => Fp.integral Fp.fp64 .rd false) fun _ _ => rfl
  · exact dblX_writes s c .dceil 8 (fun _ => Fp.integral Fp.fp64 .ru false) fun _ _ => rfl
  · exact dblX_writes s c .dtrunc 8 (fun _ => Fp.integral Fp.fp64 .rz false) fun _ _ => rfl
  · exact dblX_writes s c .drint 8 (fun m => Fp.integral Fp.fp64 m true) fun _ _ => rfl
  · exact fun f h hd => writesPair_of rfl h hd (exec_dmov f s) (by rw [Reg.pairWrites_pair])
  · exact fun f h hd => writesOne_of h hd (exec_dclass f s) rfl
  · intro f h
    refine ⟨fun hw hd => writesFlagged_of h hd (exec_cvt f s) ?_, fun hw hd => writesPairFlagged_of rfl h hd (exec_cvt f s) ?_⟩
    · simp only [hw]; rfl
    · simp only [hw]; rfl
  · exact fltH_writes s c .fadd16 (Fp.add Fp.fp32) fun _ _ => rfl
  · exact fltH_writes s c .fsub16 (Fp.sub Fp.fp32) fun _ _ => rfl
  · exact fltH_writes s c .fmul16 (Fp.times Fp.fp32) fun _ _ => rfl
  · exact fltH_writes s c .fmax16 (fun _ => Fp.maximum Fp.fp32) fun _ _ => rfl
  · exact fltH_writes s c .fmin16 (fun _ => Fp.minimum Fp.fp32) fun _ _ => rfl

end Sys2Proof.Machine
end

section
/-!
PROOF. O55: words of the encoding tables.
-/
namespace Sys2Proof.Machine
open Sys2Proof

/-- Settles O55: the decoder evaluates each of the words. -/
theorem decodedWords : Obligations.DecodedWords := by
  refine ⟨rfl, rfl, rfl, rfl, rfl, rfl, rfl, rfl, rfl, rfl, rfl, rfl, rfl, rfl, rfl, rfl, rfl, rfl, rfl⟩

end Sys2Proof.Machine
end

section
/-!
PROOF. Bits of a word that must be zero.
-/
namespace Sys2Proof

/-- A word's bits from `lo` on are the number that they hold. -/
theorem toNat_extract_field (x : Word) (lo n : Nat) : (x.extractLsb' lo n).toNat = field x.toNat lo n := by
  simp [field, BitVec.extractLsb'_toNat, Nat.shiftRight_eq_div_pow]

/-- A word has none of the bits of a mask exactly when the field that the mask covers is 0. -/
theorem and_mask_eq_zero_iff {m : Word} {lo n : Nat} (hm : ∀ i < 32, m.getLsbD i = decide (lo ≤ i ∧ i < lo + n)) (x : Word) :
    x &&& m = 0 ↔ field x.toNat lo n = 0 := by
  have hbits : x.extractLsb' lo n = 0 ↔ ∀ i < n, x.getLsbD (lo + i) = false := by
    constructor
    · intro h i hi
      have := congrArg (fun v => v.getLsbD i) h
      simpa [hi] using this
    · intro h
      apply BitVec.eq_of_getLsbD_eq
      intro i hi
      simp [hi, h i hi]
  rw [← toNat_extract_field, show ((x.extractLsb' lo n).toNat = 0 ↔ _) from (BitVec.toNat_eq (y := 0)).symm, hbits]
  constructor
  · intro h i hi
    by_cases hl : lo + i < 32
    · have := congrArg (fun v => v.getLsbD (lo + i)) h
      simpa [hm _ hl, hi] using this
    · exact BitVec.getLsbD_of_ge _ _ (by omega)
  · intro h
    apply BitVec.eq_of_getLsbD_eq
    intro i hi
    by_cases hin : lo ≤ i ∧ i < lo + n
    · have := h (i - lo) (by omega)
      rw [Nat.add_sub_cancel' hin.1] at this
      simp [this]
    · simp [hm i hi, hin]

/-- A mask of every bit from `lo` on. -/
theorem and_highMask_eq_zero_iff {m : Word} {lo : Nat} (hlo : lo ≤ 32) (hm : ∀ i < 32, m.getLsbD i = decide (lo ≤ i)) (x : Word) :
    x &&& m = 0 ↔ x.toNat < 2 ^ lo := by
  have hfield := and_mask_eq_zero_iff (m := m) (lo := lo) (n := 32 - lo) (fun i hi => by rw [hm i hi]; congr 1; simp; omega) x
  have hlt : x.toNat / 2 ^ lo < 2 ^ (32 - lo) := by
    rw [Nat.div_lt_iff_lt_mul (by positivity), ← pow_add, Nat.sub_add_cancel hlo]
    exact x.isLt
  rw [hfield, field, Nat.mod_eq_of_lt hlt, Nat.div_eq_zero_iff]
  simp

end Sys2Proof
end

section
/-!
PROOF. Traps of an instruction: at its operands, and in its own effect.
-/
namespace Sys2Proof.Machine
open Sys2Proof

/-- A context whose thread holds these operand values. -/
def Ctx.holding (c : Ctx) (vs : List Word) : Ctx := { c with t := { c.t with held := vs } }

/-- The context of the executing thread once its operands are read. -/
theorem State.spent_ctx {s : State} {c : Ctx} (h : s.ctx s.cur = some c) (f : Form) :
    (s.spent f).ctx s.cur = some (c.holding (c.t.values f.reads s.free)) := by
  obtain ⟨-, hw, hl, hg⟩ := State.ctx_eq h
  have hw' : (s.spent f).wave? s.cur.wave = some c.w := hw
  have hl' : (s.spent f).launch? c.w.launch = some c.l := hl
  have hg' : (s.spent f).group? s.cur.wave (c.w.groupOf s.cur.idx) = some c.g := hg
  simp only [State.ctx, State.spent_thread? h, hw', hl', hg', Ctx.holding]

/-- Putting a thread's new value in place makes an earlier change of it void. -/
theorem State.setThread_mapThread (s : State) (t : Thread) {f : Thread → Thread} (hf : ∀ u, (f u).id = u.id) :
    (s.mapThread t.id f).setThread t = s.setThread t := by
  have hthreads : updateIf (fun u => u.id == t.id) (fun _ => t) (updateIf (fun u => u.id == t.id) f s.threads) =
      updateIf (fun u => u.id == t.id) (fun _ => t) s.threads := by
    unfold updateIf
    rw [List.map_map]
    refine List.map_congr_left fun u _ => ?_
    by_cases hu : u.id = t.id <;> simp [hu, hf]
  unfold State.setThread State.mapThread
  simp only [hthreads]

theorem finish_trap {s : State} {c d : Ctx} {f : Form} (hd : s.ctx c.t.id = some d) (cause : Cause) (ea : DWord) :
    finish c f (.trap s cause ea) = s.trap d cause ea := by
  simp only [finish, hd]

/-- A trap that an instruction takes before it reads its operands. -/
theorem traps_unread {i : Instr} {s : State} {c : Ctx} {f : Form} {cause : Cause} {ea : DWord} (hc : s.ctx s.cur = some c)
    (hh : c.handles) (hi : exec i s = .next (finish c f (.trap s cause ea))) : Traps i s c cause ea := by
  rw [finish_trap (d := c) (by rw [State.ctx_id hc, hc])] at hi
  exact traps_of (k := s.free) hc hh hi

/-- A trap that an instruction takes in its own effect, its operands read. -/
theorem Executes.traps {i : Instr} {s : State} {c : Ctx} {f : Form} {cause : Cause} {ea : DWord} (h : Executes s c f) (hh : c.handles)
    {body : Ctx → (Nat → Word) → State → Effect} (hi : exec i s = runForm f body s)
    (hb : body c (c.reads s f) (s.spent f) = .trap (s.spent f) cause ea) : Traps i s c cause ea := by
  have hid := State.ctx_id h.ctx
  have hctx : (s.spent f).ctx c.t.id = some (c.holding (c.t.values f.reads s.free)) := by rw [hid]; exact State.spent_ctx h.ctx f
  have hread : (s.spent f).trap (c.holding (c.t.values f.reads s.free)) cause ea =
      (s.spent f).setThread (handled c cause ea s.now) :=
    State.trap_handled (c := c.holding (c.t.values f.reads s.free)) hh cause ea
  have hvoid := State.setThread_mapThread { s with free := s.free + f.reads.length } (handled c cause ea s.now)
    (f := fun t => { t with held := t.values f.reads s.free }) fun _ => rfl
  rw [show (handled c cause ea s.now).id = s.cur from hid] at hvoid
  refine traps_of (k := s.free + f.reads.length) h.ctx hh (hi.trans ?_)
  rw [runForm_executes h, hb, finish_trap hctx, hread, State.trap_handled hh]
  exact congrArg Host.Outcome.next hvoid

end Sys2Proof.Machine
end

section
/-!
PROOF. O11: SRD and SWR.
-/
namespace Sys2Proof.Machine
open Sys2Proof

/-! ## What SRD reads -/

theorem lo_ofNat (n : Nat) : Word.lo (BitVec.ofNat 64 n) = BitVec.ofNat 32 n := by
  apply BitVec.eq_of_toNat_eq
  simp [Word.lo, BitVec.extractLsb'_toNat]

theorem hi_ofNat (n : Nat) : Word.hi (BitVec.ofNat 64 n) = BitVec.ofNat 32 (n / 2 ^ 32) := by
  apply BitVec.eq_of_toNat_eq
  simp [Word.hi, BitVec.extractLsb'_toNat, Nat.shiftRight_eq_div_pow]
  omega

/-- The address of a wave's scratchpad window as a number. -/
theorem Wave.spadAddress_eq (w : Wave) : w.spadAddress = BitVec.ofNat 64 (if w.spadBytes = 0 then 0 else
    0x01F0000000000000 + w.firstCore.die * 2 ^ 28 + w.firstCore.core * 2 ^ 22 + w.firstOff) := by
  unfold Wave.spadAddress
  split <;> rfl

/-- %xstat is three bits side by side. -/
theorem Ctx.xstat_eq (c : Ctx) : c.xstat = (BitVec.ofBool (c.isItem && c.item.phase == .executing) ++ BitVec.ofBool c.t.pending ++
    BitVec.ofBool c.g.ext).setWidth 32 := by
  unfold Ctx.xstat
  cases c.isItem && c.item.phase == .executing <;> cases c.t.pending <;> cases c.g.ext <;> rfl

/-- A special register reads the same once the operands are read. -/
theorem Ctx.special_spent (c : Ctx) (s : State) (f : Form) (i : SReg) : c.special (s.spent f) i = c.special s i := by
  cases i <;> rfl

/-! ## How SRD writes -/

/-- What SRD changes of its thread. -/
def Thread.readSpecial (f : SrdF) (v : Word) (clk : DWord) (t : Thread) : Thread :=
  let u := if f.t then t.putFixed f.d v 0 true else t.putBank f.d v
  if f.i = .clk then { u with clkh := Word.hi clk } else u

theorem exec_srd (f : SrdF) (s : State) : exec (.srd f) s = runForm { g := f.g, sc := f.sc, names := [f.d] } (fun c _ s =>
    checkStack c s [(f.d, c.special s f.i)] (.done (c.on s (Thread.readSpecial f (c.special s f.i) (c.clock s))))) s := rfl

theorem Holds.readSpecial (f : SrdF) (v : Word) (clk : DWord) : Holds (Thread.readSpecial f v clk) := by
  intro t w
  unfold Thread.readSpecial
  cases f.t <;> by_cases hi : f.i = .clk <;> simp only [hi] <;> rfl

theorem SameControl.putFixed (u : Thread) (d : Reg) (x : Word) (n : Nat) (tr pd : Bool) : SameControl u (u.putFixed d x n tr pd) := by
  cases tr <;> constructor <;> rfl

theorem SameControl.putBank (u : Thread) (d : Reg) (x : Word) : SameControl u (u.putBank d x) := by
  constructor <;> rfl

theorem SameRegs.putBank (u : Thread) (d : Reg) (x : Word) : SameRegs u (u.putBank d x) [d] := by
  intro r hr
  have hne : r ≠ d := by simpa using hr
  have hv : d.val ≠ r.val := fun e => hne (Fin.ext e.symm)
  refine ⟨Thread.latest_putBank_other u hne x, ?_, congrArg (Option.map _) (forget_mark_other u.marks hne)⟩
  simp [Thread.putBank, Thread.bank, Thread.forget, hv]

theorem Wrote.putBank (u : Thread) (d : Reg) (x : Word) : Wrote u (u.putBank d x) d x false where
  latest := Thread.latest_putBank_self u d x
  bank := by simp [Thread.putBank, Thread.bank, Thread.forget]
  clean := by simp [Thread.putBank, Thread.mark?, Thread.forget]

theorem readSpecial_board {f : SrdF} (hi : f.i ≠ .clk) (ht : f.t = false) (v : Word) (clk : DWord) :
    Thread.readSpecial f v clk = fun t => t.putBank f.d v := by
  funext t
  simp [Thread.readSpecial, hi, ht]

theorem readSpecial_window {f : SrdF} (hi : f.i ≠ .clk) (ht : f.t = true) (v : Word) (clk : DWord) :
    Thread.readSpecial f v clk = fun t => t.putFixed f.d v 0 true := by
  funext t
  simp [Thread.readSpecial, hi, ht]

/-- SRD of %clk: the register has received the value, and the high half of the counter is captured. -/
theorem readSpecial_clk {f : SrdF} (hi : f.i = .clk) (v : Word) (clk : DWord) (t : Thread) :
    (t.readSpecial f v clk).clkh = Word.hi clk ∧ SameControl t { t.readSpecial f v clk with clkh := t.clkh } ∧
      SameRegs t (t.readSpecial f v clk) [f.d] ∧ Wrote t (t.readSpecial f v clk) f.d v f.t := by
  unfold Thread.readSpecial
  simp only [hi, if_true]
  cases ht : f.t with
  | false =>
    have hw := Wrote.putBank t f.d v
    exact ⟨trivial, { SameControl.putBank t f.d v with clkh := rfl }, SameRegs.putBank t f.d v, ⟨hw.latest, hw.bank, hw.clean⟩⟩
  | true =>
    have hw := Wrote.putFixed t f.d v 0 true false
    exact ⟨trivial, { SameControl.putFixed t f.d v 0 true false with clkh := rfl }, SameRegs.putFixeds t [(f.d, v)] 0 true,
      ⟨hw.latest, hw.bank, hw.clean⟩⟩

@[simp] theorem Thread.readSpecial_id (f : SrdF) (v : Word) (clk : DWord) (t : Thread) : (t.readSpecial f v clk).id = t.id := by
  unfold Thread.readSpecial
  cases f.t <;> by_cases hi : f.i = .clk <;> simp [hi]

@[simp] theorem Thread.readSpecial_pc (f : SrdF) (v : Word) (clk : DWord) (t : Thread) : (t.readSpecial f v clk).pc = t.pc := by
  unfold Thread.readSpecial
  cases f.t <;> by_cases hi : f.i = .clk <;> simp [hi]

/-! ## SWR -/

theorem exec_swr (f : SwrF) (s : State) : exec (.swr f) s = runForm { g := f.g, sc := f.sc, reads := [f.d] } (fun c o s =>
    if o 0 &&& sregMustBeZero f.i ≠ 0 then .trap s .ri 0 else .done (c.on s fun t => t.setSpecial f.i (o 0))) s := rfl

/-- The values that set no must-be-zero bit of a special register. -/
def sregLimit : SReg → Nat
  | .fflags => 2 ^ 5
  | .fcr => 2 ^ 2
  | .ctl => 2
  | _ => 2 ^ 32

theorem sregMustBeZero_iff (i : SReg) (x : Word) : x &&& sregMustBeZero i = 0 ↔ x.toNat < sregLimit i := by
  cases i with
  | fflags => exact and_highMask_eq_zero_iff (lo := 5) (by decide) (by decide) x
  | fcr => exact and_highMask_eq_zero_iff (lo := 2) (by decide) (by decide) x
  | ctl => exact and_highMask_eq_zero_iff (lo := 1) (by decide) (by decide) x
  | _ => exact and_highMask_eq_zero_iff (lo := 32) (by decide) (by decide) x

theorem Holds.setSpecial (i : SReg) (x : Word) : Holds fun t => t.setSpecial i x := by
  intro t v
  cases i <;> rfl

@[simp] theorem Thread.setSpecial_id (t : Thread) (i : SReg) (x : Word) : (t.setSpecial i x).id = t.id := by cases i <;> rfl

@[simp] theorem Thread.setSpecial_pc (t : Thread) (i : SReg) (x : Word) : (t.setSpecial i x).pc = t.pc := by cases i <;> rfl

theorem SameRegs.setSpecial (t : Thread) (i : SReg) (x : Word) : SameRegs t (t.setSpecial i x) [] := by
  intro r _
  cases i <;> exact ⟨rfl, rfl, rfl⟩

/-- SWR writes the register that it names and nothing else of its thread. -/
theorem Thread.setSpecial_fields (t : Thread) {i : SReg} (hi : i ∈ [SReg.fflags, .fcr, .ctl, .slim, .slimh, .fport]) (x : Word) :
    let v := t.setSpecial i x
    v.fflags = (if i = .fflags then x else t.fflags) ∧ v.fcr = (if i = .fcr then x else t.fcr) ∧
      v.ctl = (if i = .ctl then x else t.ctl) ∧ v.fport = (if i = .fport then x else t.fport) ∧
      Word.lo v.slim = (if i = .slim then x else Word.lo t.slim) ∧ Word.hi v.slim = (if i = .slimh then x else Word.hi t.slim) ∧
      SameControl t { v with fflags := t.fflags, fcr := t.fcr, ctl := t.ctl, fport := t.fport, slim := t.slim } := by
  have hsame : ∀ v : Thread, { v with fflags := t.fflags, fcr := t.fcr, ctl := t.ctl, fport := t.fport, slim := t.slim } = t →
      SameControl t { v with fflags := t.fflags, fcr := t.fcr, ctl := t.ctl, fport := t.fport, slim := t.slim } := by
    intro v hv
    rw [hv]
    constructor <;> rfl
  simp only [List.mem_cons, List.not_mem_nil, or_false] at hi
  rcases hi with rfl | rfl | rfl | rfl | rfl | rfl <;>
    exact ⟨rfl, rfl, rfl, rfl, by simp [Thread.setSpecial], by simp [Thread.setSpecial], hsame _ rfl⟩

/-- Settles O11: each special register by its own equation; the must-be-zero bits of SWR as a bound on the value. -/
theorem specialRegisters : Obligations.SpecialRegisters := by
  refine ⟨?_, ?_⟩
  · intro f s c h idx clk window n x hd
    have hx : c.special s f.i = x := by
      simp only [x]
      generalize f.i = i
      cases i with
      | spad => exact (congrArg Word.lo c.w.spadAddress_eq).trans (lo_ofNat window)
      | spadh => exact (congrArg Word.hi c.w.spadAddress_eq).trans (hi_ofNat window)
      | xstat => exact c.xstat_eq
      | _ => rfl
    refine ⟨fun hi ht => ?_, fun hi ht => ?_, fun hi => ?_⟩
    · refine writesBoard_of rfl rfl h hd (exec_srd f s) ?_
      rw [Ctx.special_spent, hx, readSpecial_board hi ht]
      rfl
    · refine writesOne_of h hd (exec_srd f s) ?_
      rw [Ctx.special_spent, hx, readSpecial_window hi ht]
      rfl
    · obtain ⟨t, ht, hadv⟩ := thread_done h (Thread.readSpecial f x clk) (Thread.readSpecial_id f x clk)
        (Holds.readSpecial f x clk) (Thread.readSpecial_pc f x clk c.t) (exec_srd f s) (by
          rw [Ctx.special_spent, hx, checkStack_ok hd]
          rfl)
      obtain ⟨hclk, hcontrol, hregs, hwrote⟩ := readSpecial_clk hi x clk c.t
      exact ⟨t, _, ht, hadv, hclk, hcontrol.of_advance, hregs.of_advance, hwrote.of_advance⟩
  · intro f s c form x limit old h hi
    have hlimit : x &&& sregMustBeZero f.i = 0 ↔ x.toNat < limit := sregMustBeZero_iff f.i x
    refine ⟨fun hx => ?_, fun hx hh => ?_⟩
    · obtain ⟨t, ht, hadv⟩ := thread_done h (fun t => t.setSpecial f.i x) (by simp) (Holds.setSpecial f.i x) (by simp) (exec_swr f s)
        (if_neg (not_not.mpr (hlimit.mpr hx)))
      obtain ⟨hfl, hfcr, hctl, hfport, hlo, hhi, hsame⟩ := old.setSpecial_fields hi x
      exact ⟨t, _, ht, hadv, (SameRegs.setSpecial old f.i x).of_advance, hfl, hfcr, hctl, hfport, hlo, hhi, hsame.of_advance⟩
    · exact h.traps hh (exec_swr f s) (if_pos fun hz => absurd (hlimit.mp hz) (by omega))

end Sys2Proof.Machine
end

section
/-!
PROOF. O4: STACK, REGABS and POISON.
-/
namespace Sys2Proof.Machine
open Sys2Proof

/-- An instruction runs as one of a thread, with this form. -/
def RunsForm (i : Instr) (s : State) (f : Form) : Prop := ∃ body, exec i s = runForm f body s

/-- An instruction whose thread waits for nothing and whose guard passes takes the first trap of its operands (R78). -/
theorem traps_of_operandTrap {i : Instr} {s : State} {c : Ctx} {f : Form} {cause : Cause} {ea : DWord} (hc : s.ctx s.cur = some c)
    (hh : c.handles) (hl : c.t.completing = false) (hp : c.t.pendingPush = false) (hg : c.t.passes f.g = true)
    (hfree : interlocked c.t f = false) (htrap : operandTrap c f = some (cause, ea))
    (hi : RunsForm i s f) : Traps i s c cause ea := by
  obtain ⟨body, hi⟩ := hi
  refine traps_unread (f := f) hc hh (hi.trans ?_)
  simp [runForm, hc, hl, hp, hg, hfree, htrap]

/-- A result below the stack limit (R69). -/
theorem Executes.traps_stack {i : Instr} {s : State} {c : Ctx} {f : Form} {ws : List (Reg × Word)} {n : Nat} {tr : Bool}
    (h : Executes s c f) (hh : c.handles) (hd : c.t.belowLimit ws = true) {body : Ctx → (Nat → Word) → State → Effect}
    (hi : exec i s = runForm f body s) (hb : body c (c.reads s f) (s.spent f) = writeFixed c (s.spent f) ws n tr) :
    Traps i s c .stack (c.t.stackAfter ws) :=
  h.traps hh hi (hb.trans (checkStack_trap hd _ _))

/-- A register of the extended block that the group does not hold comes first (R38, R78). -/
theorem operandTrap_regabs {c : Ctx} {f : Form} (hext : c.g.ext = false) {r : Reg} (hr : r ∈ f.reads ++ f.names) (hx : 32 ≤ r.val) :
    operandTrap c f = some (.regabs, 0) := by
  have hany : (f.reads ++ f.names).any Reg.extended = true := List.any_eq_true.mpr ⟨r, hr, by simpa [Reg.extended] using hx⟩
  simp [operandTrap, hany, hext]

/-- Operands that name no absent register and are in time and in their window trap with the address of their mark (R193). -/
theorem operandTrap_poison {c : Ctx} {f : Form} {ea : DWord}
    (hext : c.g.ext = true ∨ ∀ r ∈ f.reads ++ f.names, r.val < 32)
    (htime : c.t.checking = true → ∀ r ∈ f.reads, c.t.late r = false ∧ c.t.stale r = false)
    (hmark : ∃ r ∈ f.reads, c.t.mark? r = some ea) (hmarks : ∀ r ∈ f.reads, c.t.mark? r = none ∨ c.t.mark? r = some ea) :
    operandTrap c f = some (.poison, ea) := by
  have hregs : ((f.reads ++ f.names).any Reg.extended && !c.g.ext) = false := by
    rcases hext with hx | hx
    · simp [hx]
    · have : (f.reads ++ f.names).any Reg.extended = false := by
        rw [List.any_eq_false]
        exact fun r hr => by simpa [Reg.extended] using hx r hr
      simp [this]
  have hlate : (c.t.checking && f.reads.any c.t.late) = false := by
    by_cases hc : c.t.checking = true
    · have : f.reads.any c.t.late = false := List.any_eq_false.mpr fun r hr => by simp [(htime hc r hr).1]
      simp [this]
    · simp [hc]
  have hstale : (c.t.checking && f.reads.any c.t.stale) = false := by
    by_cases hc : c.t.checking = true
    · have : f.reads.any c.t.stale = false := List.any_eq_false.mpr fun r hr => by simp [(htime hc r hr).2]
      simp [this]
    · simp [hc]
  have hfirst : f.reads.findSome? c.t.mark? = some ea := by
    obtain ⟨r, hr, hmr⟩ := hmark
    obtain ⟨e, he⟩ : ∃ e, f.reads.findSome? c.t.mark? = some e :=
      Option.isSome_iff_exists.mp (List.findSome?_isSome_iff.mpr ⟨r, hr, by simp [hmr]⟩)
    obtain ⟨q, hq, hmq⟩ := List.exists_of_findSome?_eq_some he
    rcases hmarks q hq with hn | hs
    · rw [hn] at hmq; cases hmq
    · rw [he, ← hmq, hs]
  unfold operandTrap
  rw [hregs, hlate, hstale, hfirst]
  rfl

theorem exec_add (f : RF) (s : State) :
    exec (.add f) s = runForm f.form (fun c o s => writeFixed c s [(f.d, o 0 + o 1)] intLatency f.t) s := rfl

theorem exec_add64 (f : RF) (s : State) : exec (.add64 f) s = runForm f.form64 (fun c o s =>
    writeFixed c s (f.d.pairWrites (Word.pair (o 0) (o 1) + Word.pair (o 2) (o 3))) intLatency f.t) s := rfl

theorem exec_addi (f : IF) (s : State) : exec (.addi f) s = runForm f.form (fun c o s =>
    writeFixed c s [(f.d, o 0 + f.imm.signExtend 32)] intLatency false) s := rfl

theorem exec_lil (f : WF) (s : State) : exec (.lil f) s = runForm { sc := f.sc, names := [f.d] } (fun c _ s =>
    writeFixed c s [(f.d, f.imm.signExtend 32)] intLatency false) s := rfl

theorem exec_mov (f : XF) (s : State) :
    exec (.mov f) s = runForm f.form (fun c o s => writeFixed c s [(f.d, o 0)] intLatency f.t) s := rfl

/-- Settles O4: the STACK check from the results' own rule, REGABS and POISON from the order of the operand checks. -/
theorem operandTraps : Obligations.OperandTraps := by
  refine ⟨⟨?_, ?_, ?_, ?_⟩, ?_, ?_⟩
  · exact fun f s c h hh hd => h.traps_stack hh hd (exec_addi f s) rfl
  · exact fun f s c h hh hd => h.traps_stack hh hd (exec_add64 f s) rfl
  · exact fun f s c h hh hd => h.traps_stack hh hd (exec_lil f s) rfl
  · exact fun f s c h hh hd => h.traps_stack hh hd (exec_mov f s) rfl
  · intro f s c hc hh hl hp hg hfree hext habsent
    obtain ⟨r, hr, hx⟩ : ∃ r ∈ f.form.reads ++ f.form.names, 32 ≤ r.val := by simpa [RF.form] using habsent
    exact traps_of_operandTrap hc hh hl hp hg hfree (operandTrap_regabs hext hr hx) ⟨_, exec_add f s⟩
  · intro f q m s c ea hc hh hl hp p hmem hg hfree hext htime hmark hmarks
    refine traps_of_operandTrap hc hh hl hp hg hfree (operandTrap_poison hext htime hmark hmarks) ?_
    simp only [List.mem_cons, List.not_mem_nil, or_false] at hmem
    rcases hmem with rfl | rfl | rfl | rfl
    · exact ⟨_, exec_add f s⟩
    · exact ⟨_, (rfl : execCmp q s = _)⟩
    · exact ⟨_, (rfl : execLd m s = _)⟩
    · exact ⟨_, (rfl : execSt m s = _)⟩

end Sys2Proof.Machine
end

section
/-!
PROOF. O5: what operands read, and a guard that is false.
-/
namespace Sys2Proof.Machine
open Sys2Proof

/-! ## Operands -/

theorem Thread.operand_inTime {t : Thread} {r : Reg} (hl : t.late r = false) (hs : t.stale r = false) (n k : Nat) :
    t.operand n k r = t.latest r := by
  simp [Thread.operand, hl, hs]

/-- The operand values of an instruction that reads a register. -/
theorem Thread.values_ne_nil {t : Thread} {reads : List Reg} {k : Nat} {r : Reg} (hr : reads[k]? = some r) (free : Nat) :
    t.values reads free ≠ [] := by
  unfold Thread.values
  split
  · have : 0 < reads.length := Nat.zero_lt_of_lt (List.getElem?_eq_some_iff.mp hr).1
    simp only [ne_eq, List.map_eq_nil_iff, List.range_eq_nil]
    omega
  next hh => simpa using hh

/-- What is read once is what the thread goes on with. -/
theorem Ctx.reads_holding {c d : Ctx} {s : State} {form : Form} {k : Nat} {r : Reg} (hr : form.reads[k]? = some r)
    (hd : d.t = { c.t with held := c.t.values form.reads s.free }) (u : State) : d.reads u form k = c.reads s form k := by
  have hne : d.t.held ≠ [] := by rw [hd]; exact Thread.values_ne_nil hr s.free
  rw [Ctx.reads_held hne, hd]
  rfl

theorem operandTrap_stall {c : Ctx} {f : Form} (hext : c.g.ext = true) (hc : c.t.checking = true) (hl : f.reads.any c.t.late = true) :
    operandTrap c f = some (.stall, 0) := by
  unfold operandTrap
  rw [hext, hc, hl, Bool.not_true, Bool.and_false]
  rfl

theorem operandTrap_stale {c : Ctx} {f : Form} (hext : c.g.ext = true) (hc : c.t.checking = true) (hl : f.reads.any c.t.late = false)
    (hs : f.reads.any c.t.stale = true) : operandTrap c f = some (.stale, 0) := by
  unfold operandTrap
  rw [hext, hc, hl, hs, Bool.not_true, Bool.and_false]
  rfl

/-! ## A guard that is false -/

/-- It goes past the instruction and changes nothing else (R57). -/
theorem goesOn_of {i : Instr} {s : State} {c : Ctx} {f : Form} (hi : RunsForm i s f) (hc : s.ctx s.cur = some c)
    (hl : c.t.completing = false) (hp : c.t.pendingPush = false) (hg : c.t.passes f.g = false) (hlen : f.len = 4 := by rfl)
    (hdelay : f.delay = 0 := by rfl) : GoesOn i s c f.sc := by
  obtain ⟨body, hi⟩ := hi
  rw [runForm_guarded hc hl (by simp [hp]) hg, hlen, hdelay] at hi
  have hid : s.thread? s.cur = some c.t := (State.ctx_eq hc).1
  refine ⟨_, c.t.advance 4 f.sc s.now, hi, ⟨OnlyThread.of_mapThread s s.free _ (by simp), ?_, rfl, rfl⟩, ?_, ?_⟩
  · rw [State.thread?_mapThread_self _ _ _ (by simp), hid]
    rfl
  · exact SameControl.of_advance (by constructor <;> rfl)
  · exact SameRegs.of_advance fun _ _ => ⟨rfl, rfl, rfl⟩

theorem aluR_runs (k : RF → Instr) (op : Word → Word → Word) (hk : ∀ f s, exec (k f) s = aluR f op s) (f : RF) (s : State) :
    RunsForm (k f) s f.form ∨ RunsForm (k f) s f.form64 := .inl ⟨_, hk f s⟩

theorem aluR64_runs (k : RF → Instr) (op : DWord → DWord → DWord) (hk : ∀ f s, exec (k f) s = aluR64 f op s) (f : RF) (s : State) :
    RunsForm (k f) s f.form ∨ RunsForm (k f) s f.form64 := .inr ⟨_, hk f s⟩

/-- The integer operations on registers: single or double. -/
theorem integerR_runs : ∀ k ∈ ([.add, .sub, .mul, .mulh, .mulhN, .and, .or, .xor, .andn, .shl, .shr, .shrA, .rot, .rotR, .min, .minN,
      .max, .maxN, .add64, .sub64] : List (RF → Instr)),
    ∀ (f : RF) (s : State), RunsForm (k f) s f.form ∨ RunsForm (k f) s f.form64 := by
  simp only [List.forall_mem_cons, List.not_mem_nil, false_implies, implies_true, and_true]
  exact ⟨aluR_runs .add _ fun _ _ => rfl, aluR_runs .sub _ fun _ _ => rfl, aluR_runs .mul _ fun _ _ => rfl,
    aluR_runs .mulh _ fun _ _ => rfl, aluR_runs .mulhN _ fun _ _ => rfl, aluR_runs .and _ fun _ _ => rfl,
    aluR_runs .or _ fun _ _ => rfl, aluR_runs .xor _ fun _ _ => rfl, aluR_runs .andn (fun a b => a &&& ~~~b) fun _ _ => rfl,
    aluR_runs .shl _ fun _ _ => rfl, aluR_runs .shr _ fun _ _ => rfl, aluR_runs .shrA _ fun _ _ => rfl,
    aluR_runs .rot _ fun _ _ => rfl, aluR_runs .rotR _ fun _ _ => rfl, aluR_runs .min _ fun _ _ => rfl,
    aluR_runs .minN _ fun _ _ => rfl, aluR_runs .max _ fun _ _ => rfl, aluR_runs .maxN _ fun _ _ => rfl,
    aluR64_runs .add64 _ fun _ _ => rfl, aluR64_runs .sub64 _ fun _ _ => rfl⟩

theorem cmp_runs (f : CmpF) (s : State) : RunsForm (.cmp f) s { g := f.g, sc := f.sc, reads := [f.a, f.b], preds := true } :=
  ⟨_, (rfl : execCmp f s = _)⟩

theorem pload_runs (f : AF) (s : State) : RunsForm (.pload f) s { g := f.g, sc := f.sc, reads := [f.a], preds := true } :=
  ⟨_, (rfl : execPload f s = _)⟩

theorem br_runs (f : JF) (s : State) : RunsForm (.br f) s { g := f.g, sc := f.sc } :=
  ⟨_, (rfl : execBr f s = _)⟩

theorem jr_runs (f : AF) (s : State) : RunsForm (.jr f) s { g := f.g, sc := f.sc, reads := [f.a] } :=
  ⟨_, (rfl : execJr f s = _)⟩

theorem trap_runs (f : NF) (s : State) : RunsForm (.trap f) s { g := f.g, sc := f.sc } :=
  ⟨_, (rfl : execTrap f s = _)⟩

/-- Settles O5: operands by the rules of reading, the traps by the order of the operand checks, a false guard by each instruction's
form. -/
theorem guardsAndOperands : Obligations.GuardsAndOperands := by
  refine ⟨⟨fun t n k r hl hs => Thread.operand_inTime hl hs n k, ?_, ?_⟩, ?_, ?_⟩
  · intro s c form k r hc hr
    have hk : k < form.reads.length := (List.getElem?_eq_some_iff.mp hr).1
    refine ⟨fun hh hl hs => ?_, fun hh => Ctx.reads_held hh s form k, _, State.spent_thread? hc form, fun d hd =>
      Ctx.reads_holding hr hd _⟩
    have hget : form.reads.getD k 0 = r := by simp [List.getD, hr]
    rw [Ctx.reads_fresh hh s hk, Thread.readAt, hget, Thread.operand_inTime hl hs]
  · intro f s c hc hh hl hp hg hfree hext hcheck
    refine ⟨fun hlate => ?_, fun hlate hstale => ?_⟩
    · exact traps_of_operandTrap hc hh hl hp hg hfree (operandTrap_stall hext hcheck (by simpa [RF.form] using hlate)) ⟨_, exec_add f s⟩
    · exact traps_of_operandTrap hc hh hl hp hg hfree
        (operandTrap_stale hext hcheck (by simpa [RF.form] using hlate) (by simpa [RF.form] using hstale)) ⟨_, exec_add f s⟩
  · intro k hk f s c hc hl hp hg
    obtain h | h := integerR_runs k hk f s
    · exact goesOn_of h hc hl hp hg
    · exact goesOn_of h hc hl hp hg
  · intro s c g hc hl hp hg
    refine ⟨?_, ?_, ?_, ?_, ?_, ?_⟩
    · rintro f rfl
      exact goesOn_of (cmp_runs f s) hc hl hp hg
    · rintro f rfl
      exact goesOn_of (pload_runs f s) hc hl hp hg
    · rintro f rfl
      exact goesOn_of (br_runs f s) hc hl hp hg
    · rintro f rfl
      exact goesOn_of (jr_runs f s) hc hl hp hg
    · rintro f rfl
      exact goesOn_of (trap_runs f s) hc hl hp hg
    · rintro f rfl
      exact goesOn_of ⟨_, exec_swr f s⟩ hc hl hp hg

end Sys2Proof.Machine
end

section
/-!
PROOF. Instructions that change more than their thread: what a thread's stores taking effect leave of it, and how such an instruction
answers.
-/
namespace Sys2Proof.Machine
open Sys2Proof

/-! ## What an effect on the machine leaves of the threads -/

/-- A thread's name, place and registers. -/
def Thread.regsPart (t : Thread) : ThreadId × Word × Vector Word 64 × List Transient × List Mark := (t.id, t.pc, t.regs, t.trans, t.marks)

/-- The clock, the executing thread, and every thread's name, place and registers. -/
def State.issuePart (s : State) : Nat × ThreadId × List (ThreadId × Word × Vector Word 64 × List Transient × List Mark) :=
  (s.now, s.cur, s.threads.map Thread.regsPart)

theorem State.issuePart_mapThread (s : State) (id : ThreadId) {f : Thread → Thread} (hf : ∀ t, (f t).regsPart = t.regsPart) :
    (s.mapThread id f).issuePart = s.issuePart := by
  have hthreads : (updateIf (fun t => t.id == id) f s.threads).map Thread.regsPart = s.threads.map Thread.regsPart := by
    rw [updateIf, List.map_map]
    exact List.map_congr_left fun t _ => by simp only [Function.comp_apply]; split <;> simp [hf]
  simp only [State.issuePart, State.mapThread, hthreads]

theorem State.issuePart_foldl {α : Type} {f : State → α → State} (hf : ∀ s x, (f s x).issuePart = s.issuePart) (s : State)
    (xs : List α) : (xs.foldl f s).issuePart = s.issuePart := by
  induction xs generalizing s with
  | nil => rfl
  | cons x xs ih => exact (ih (f s x)).trans (hf s x)

theorem State.issuePart_writeLoc (s : State) (loc : Loc) (bs : List Byte) : (s.writeLoc loc bs).issuePart = s.issuePart := by
  cases loc with
  | phys pa => simp only [State.writeLoc]; split <;> rfl
  | spad w off => rfl
  | fitted id e => rfl

theorem State.issuePart_writeByte (s : State) (v : Viewer) (x : Writing) (event : Nat) (ns : List Nat) (b : Loc) (val : Byte) :
    (s.writeByte v x event ns b val).issuePart = s.issuePart := by
  simp only [State.writeByte]
  split
  · exact State.issuePart_writeLoc _ b [val]
  · rfl

theorem State.issuePart_writeAs (s : State) (v : Viewer) (x : Writing) (event : Nat → Nat) (loc : Loc) (bs : List Byte) :
    (s.writeAs v x event loc bs).issuePart = s.issuePart := by
  have hparts : ∀ parts : List (Nat × Loc × Byte), (((parts.map (·.1)).dedup).foldl (fun s n =>
      s.writeUnit v x n ((parts.filter fun p => p.1 == n).map (·.2))) s).issuePart = s.issuePart := fun parts =>
    State.issuePart_foldl (fun s _ => State.issuePart_foldl (fun s _ => State.issuePart_writeByte s ..) s _) s _
  unfold State.writeAs
  split
  · exact State.issuePart_writeLoc s loc bs
  · cases loc with
    | fitted id e => exact State.issuePart_writeLoc s (.fitted id e) bs
    | phys pa => exact hparts _
    | spad w off => exact hparts _

theorem State.issuePart_update (s : State) (v : Viewer) (x : Writing) (event : Nat) (loc : Loc) (n : Nat) (f : List Byte → List Byte) :
    (s.update v x event loc n f).1.issuePart = s.issuePart := by
  simp only [State.update, State.issuePart_writeAs]

theorem State.issuePart_atomicAs (s : State) (v : Viewer) (x : Writing) (event : Nat) (loc : Loc) (op : AtomOp) (wide : Bool)
    (b d : DWord) : (s.atomicAs v x event loc op wide b d).1.issuePart = s.issuePart := by
  simp only [State.atomicAs, State.issuePart_update]

theorem State.issuePart_applyStore (s : State) (id : ThreadId) (e : StoreEntry) : (s.applyStore id e).issuePart = s.issuePart := by
  unfold State.applyStore
  split
  · exact State.issuePart_mapThread _ id fun _ => rfl
  · split
    · exact State.issuePart_writeAs s _ _ _ _ _
    · exact State.issuePart_update s _ _ _ _ _ _
    · exact State.issuePart_atomicAs s _ _ _ _ _ _ _ _

theorem State.issuePart_drain (s : State) (id : ThreadId) : (s.drain id).issuePart = s.issuePart := by
  unfold State.drain
  split
  · rfl
  next t _ =>
    have hclear : ∀ x : Thread, ({ x with stores := [] } : Thread).regsPart = x.regsPart := fun _ => rfl
    rw [State.issuePart_mapThread _ id hclear]
    exact State.issuePart_foldl (fun s e => s.issuePart_applyStore id e) s t.stores

theorem State.issuePart_publish (s : State) (id : ThreadId) : (s.publish id).issuePart = s.issuePart := by
  unfold State.publish
  split
  · exact State.issuePart_mapThread _ id fun _ => rfl
  · rfl

theorem State.issuePart_sending (s : State) (id : ThreadId) : (s.sending id).issuePart = s.issuePart :=
  (State.issuePart_publish _ id).trans (s.issuePart_drain id)

theorem State.issuePart_spent (s : State) (f : Form) : (s.spent f).issuePart = s.issuePart :=
  State.issuePart_mapThread _ s.cur fun _ => rfl

/-- The threads stand in the same order: the thread of a name is found as before, with its place and registers. -/
theorem State.thread?_of_issuePart {s u : State} (h : u.issuePart = s.issuePart) {id : ThreadId} {t : Thread}
    (ht : s.thread? id = some t) : ∃ w, u.thread? id = some w ∧ w.regsPart = t.regsPart := by
  have hthreads : u.threads.map Thread.regsPart = s.threads.map Thread.regsPart := congrArg (·.2.2) h
  have hfind : ∀ v : State, (v.thread? id).map Thread.regsPart =
      (v.threads.map Thread.regsPart).find? fun x => x.1 == id := fun v => by
    rw [List.find?_map]
    rfl
  have hmap : (u.thread? id).map Thread.regsPart = some t.regsPart := by
    rw [hfind, hthreads, ← hfind, ht]
    rfl
  simpa using hmap

theorem SameRegs.of_regsPart {u v : Thread} (h : v.regsPart = u.regsPart) : SameRegs u v [] := by
  simp only [Thread.regsPart, Prod.mk.injEq] at h
  obtain ⟨-, -, hregs, htrans, hmarks⟩ := h
  intro r _
  refine ⟨?_, ?_, ?_⟩
  · simp only [Thread.latest, Thread.transient?, Thread.bank, hregs, htrans]
  · simp only [Thread.bank, hregs]
  · simp only [Thread.mark?, hmarks]

/-! ## Answers -/

/-- An instruction with an effect on the machine and no register result. -/
theorem answers_of {i : Instr} {s u : State} {c : Ctx} {f : Form} {body : Ctx → (Nat → Word) → State → Effect} (h : Executes s c f)
    (hi : exec i s = runForm f body s) (hb : body c (c.reads s f) (s.spent f) = .done u) (hu : u.issuePart = s.issuePart)
    (hlen : f.len = 4 := by rfl) (hdelay : f.delay = 0 := by rfl) : Answers i s c f.sc u [] := by
  have hid := State.ctx_id h.ctx
  obtain ⟨w, hw, hpart⟩ := State.thread?_of_issuePart hu (State.ctx_eq h.ctx).1
  have hnow : u.now = s.now := congrArg (·.1) hu
  have hpc : w.pc = c.t.pc := congrArg (·.2.1) hpart
  rw [runForm_executes h, hb] at hi
  simp only [finish, hid, hlen, hdelay, hnow] at hi
  refine ⟨_, w.advance 4 f.sc s.now, w, hi, rfl, fun id hne => ?_, hw, ?_, ?_, rfl, ?_, ?_, by simp⟩
  · exact State.thread?_mapThread_other u _ (by simp) hne
  · rw [State.thread?_mapThread_self u _ _ (by simp), hw]
    rfl
  · simp [Thread.advance, hpc]
  · exact SameControl.of_advance (by constructor <;> rfl)
  · exact (SameRegs.of_regsPart hpart).of_advance

/-- One whose condition does not hold yet. -/
theorem polls_of {i : Instr} {s u : State} {c : Ctx} {f : Form} {body : Ctx → (Nat → Word) → State → Effect} {w : Wait}
    (h : Executes s c f) (hi : exec i s = runForm f body s) (hb : body c (c.reads s f) (s.spent f) = .wait u w)
    (hu : u.issuePart = s.issuePart) : Polls i s c u w := by
  have hnow : u.now = s.now := congrArg (·.1) hu
  rw [runForm_executes h, hb] at hi
  exact hi.trans (by simp only [finish, hnow])

end Sys2Proof.Machine
end

section
/-!
PROOF. O44: verdicts of stalled chunks and rows.
-/
namespace Sys2Proof.Machine
open Sys2Proof

/-! ## Dies after a change -/

theorem State.die?_mapDie {s : State} {d : Nat} {e : Die} (he : s.die? d = some e) {f : Die → Die} (hf : ∀ x, (f x).idx = x.idx) :
    (s.mapDie d f).die? d = some (f e) := by
  have h := find?_updateIf_hit (p := fun x : Die => x.idx == d) (f := f) (fun x hx => by rwa [hf]) s.dies
  exact h.trans (congrArg (Option.map f) he)

theorem State.die?_idx {s : State} {d : Nat} {e : Die} (he : s.die? d = some e) : e.idx = d := by
  simpa using List.find?_some he

/-! ## A token freed, a verdict given -/

/-- A die whose slots of a token are free. -/
def Die.freed (token : Nat) (d : Die) : Die :=
  { d with stallSlots := updateIf (fun y => [token].contains (tokenOf y.idx y.count)) (fun y => { y with what := none }) d.stallSlots }

theorem Die.stalledAt?_freed (d : Die) (token : Nat) : (d.freed token).stalledAt? token = none := by
  unfold Die.stalledAt?
  cases hf : (d.freed token).stallSlots.find? fun x => x.idx == token % 4096 && tokenOf x.idx x.count == token with
  | none => rfl
  | some x =>
    have htoken := List.find?_some hf
    obtain ⟨y, -, hy⟩ := List.mem_map.mp (List.mem_of_find?_eq_some hf)
    simp only [Bool.and_eq_true, beq_iff_eq] at htoken
    subst hy
    by_cases hc : [token].contains (tokenOf y.idx y.count) = true
    · simp only [hc, if_true]
    · simp only [hc, Bool.false_eq_true, if_false] at htoken
      exact absurd (by simp [htoken.2]) hc

/-- The verdict of a poster is kept with its die. -/
def Die.judged (who : Poster) (fatal : Bool) (d : Die) : Die := { d with verdicts := d.verdicts ++ [(who, fatal)] }

/-- What a verdict makes of the operation of a stalled chunk. -/
def CopyOp.judged (ch : Chunk) (fatal : Bool) (x : CopyOp) : CopyOp :=
  if x.stalled.any fun y => y.1 == ch then
    if fatal then { x with stalled := x.stalled.filter fun y => !(y.1 == ch), fatal := true }
    else { x with stalled := x.stalled.filter fun y => !(y.1 == ch), retry := x.retry ++ [ch] }
  else x

/-- What the writer of a verdict knows is lent to a chunk that is done again. -/
def CopyOp.lentTo (ch : Chunk) (know : Know) (x : CopyOp) : CopyOp := { x with lent := x.lent ++ [(ch, know)] }

theorem CopyOp.judged_id (ch : Chunk) (fatal : Bool) (x : CopyOp) : (x.judged ch fatal).id = x.id := by
  unfold CopyOp.judged
  split
  · cases fatal <;> rfl
  · rfl

/-- What a verdict makes of the operation of a stalled row. -/
def BmvOp.judged (row : Nat) (fatal : Bool) (x : BmvOp) : BmvOp :=
  if fatal then
    if x.stalled.any fun y => y.1 == row then
      { x with stalled := x.stalled.filter fun y => !(y.1 == row), done := x.done ++ [row], fatal := true }
    else x
  else { x with stalled := x.stalled.filter fun y => !(y.1 == row) }

/-- What the writer of a verdict knows is lent to a row that is done again. -/
def BmvOp.lentTo (row : Nat) (know : Know) (x : BmvOp) : BmvOp := { x with lent := x.lent ++ [(row, know)] }

theorem BmvOp.judged_id (row : Nat) (fatal : Bool) (x : BmvOp) : (x.judged row fatal).id = x.id := by
  unfold BmvOp.judged
  cases fatal with
  | true => simp only [if_true]; split <;> rfl
  | false => rfl

/-- The operation of a number after a change of it. -/
theorem find?_updateIf_id {α : Type} {num : α → Nat} {op : Nat} {f : α → α} (hf : ∀ x, num (f x) = num x) {xs : List α} {x : α}
    (hx : xs.find? (fun y => num y == op) = some x) :
    (updateIf (fun y => num y == op) f xs).find? (fun y => num y == op) = some (f x) :=
  (find?_updateIf_hit (p := fun y => num y == op) (fun x hx => by rwa [hf]) xs).trans (congrArg (Option.map f) hx)

section
variable {s : State} {die : Nat} {e : Die} {v : Word} {who : Poster} (know : Know)

theorem State.giveVerdict_unknown (he : s.die? die = some e) (hw : e.stalledAt? (v.toNat % 65536) = none) :
    s.giveVerdict die know v = s.countError die := by
  simp only [State.giveVerdict, he, Option.bind_some, hw]

/-- A verdict changes copies and BMVs, and of the dies the token's slots and the verdicts. -/
theorem State.giveVerdict_frame (he : s.die? die = some e) (hw : e.stalledAt? (v.toNat % 65536) = some who) :
    s.giveVerdict die know v =
      { s with copies := (s.giveVerdict die know v).copies
               bmvs := (s.giveVerdict die know v).bmvs
               dies := ((s.mapDie die (Die.freed (v.toNat % 65536))).mapDie die (Die.judged who (v.getLsbD 31))).dies } := by
  simp only [State.giveVerdict, he, Option.bind_some, hw]
  cases who <;> cases v.getLsbD 31 <;> rfl

theorem State.giveVerdict_die (he : s.die? die = some e) (hw : e.stalledAt? (v.toNat % 65536) = some who) :
    (s.giveVerdict die know v).die? die = some ((e.freed (v.toNat % 65536)).judged who (v.getLsbD 31)) := by
  rw [State.giveVerdict_frame know he hw]
  have hfreed := State.die?_mapDie he (f := Die.freed (v.toNat % 65536)) fun _ => rfl
  exact State.die?_mapDie hfreed (f := Die.judged who (v.getLsbD 31)) fun _ => rfl

theorem State.giveVerdict_copies {op : Nat} {ch : Chunk} (he : s.die? die = some e)
    (hw : e.stalledAt? (v.toNat % 65536) = some (.chunk op ch)) : (s.giveVerdict die know v).copies =
      if v.getLsbD 31 then updateIf (fun y => y.id == op) (CopyOp.judged ch true) s.copies
      else updateIf (fun y => y.id == op) (CopyOp.lentTo ch know) (updateIf (fun y => y.id == op) (CopyOp.judged ch false) s.copies) := by
  simp only [State.giveVerdict, he, Option.bind_some, hw]
  cases v.getLsbD 31 <;> rfl

/-- The chunk no longer stalls: fatal, or to be done again with what the writer knows. -/
theorem State.giveVerdict_chunk {op : Nat} {ch : Chunk} {x : CopyOp} (he : s.die? die = some e)
    (hw : e.stalledAt? (v.toNat % 65536) = some (.chunk op ch)) (hx : s.copies.find? (fun y => y.id == op) = some x)
    (hstalled : ∃ k, (ch, k) ∈ x.stalled) :
    ∃ y, (s.giveVerdict die know v).copies.find? (fun y => y.id == op) = some y ∧ (∀ z ∈ y.stalled, z.1 ≠ ch) ∧
      y.fatal = (x.fatal || v.getLsbD 31) ∧ y.retry = (if v.getLsbD 31 then x.retry else x.retry ++ [ch]) ∧
      y.lent = if v.getLsbD 31 then x.lent else x.lent ++ [(ch, know)] := by
  obtain ⟨k, hk⟩ := hstalled
  have hany : (x.stalled.any fun y => y.1 == ch) = true := List.any_eq_true.mpr ⟨(ch, k), hk, beq_self_eq_true ch⟩
  have hgone : ∀ z ∈ x.stalled.filter (fun y => !(y.1 == ch)), z.1 ≠ ch := fun z hz => by
    simpa using (List.mem_filter.mp hz).2
  have hjudged (fatal : Bool) := find?_updateIf_id (num := CopyOp.id) (f := CopyOp.judged ch fatal) (CopyOp.judged_id ch fatal) hx
  rw [State.giveVerdict_copies know he hw]
  cases v.getLsbD 31 with
  | true =>
    refine ⟨_, hjudged true, ?_⟩
    simp only [CopyOp.judged, hany, if_true]
    exact ⟨hgone, by simp, trivial, trivial⟩
  | false =>
    refine ⟨_, find?_updateIf_id (num := CopyOp.id) (f := CopyOp.lentTo ch know) (fun _ => rfl) (hjudged false), ?_⟩
    simp only [CopyOp.lentTo, CopyOp.judged, hany, if_true, Bool.false_eq_true, if_false]
    exact ⟨hgone, by simp, trivial, trivial⟩

theorem State.giveVerdict_bmvs {op row : Nat} (he : s.die? die = some e)
    (hw : e.stalledAt? (v.toNat % 65536) = some (.row op row)) : (s.giveVerdict die know v).bmvs =
      if v.getLsbD 31 then updateIf (fun y => y.id == op) (BmvOp.judged row true) s.bmvs
      else updateIf (fun y => y.id == op) (BmvOp.lentTo row know) (updateIf (fun y => y.id == op) (BmvOp.judged row false) s.bmvs) := by
  simp only [State.giveVerdict, he, Option.bind_some, hw]
  cases v.getLsbD 31 <;> rfl

/-- The row no longer stalls: fatal and done, or to be done again with what the writer knows. -/
theorem State.giveVerdict_row {op row : Nat} {x : BmvOp} (he : s.die? die = some e)
    (hw : e.stalledAt? (v.toNat % 65536) = some (.row op row)) (hx : s.bmvs.find? (fun y => y.id == op) = some x)
    (hstalled : ∃ k, (row, k) ∈ x.stalled) :
    ∃ y, (s.giveVerdict die know v).bmvs.find? (fun y => y.id == op) = some y ∧ (∀ z ∈ y.stalled, z.1 ≠ row) ∧
      y.fatal = (x.fatal || v.getLsbD 31) ∧ y.done = (if v.getLsbD 31 then x.done ++ [row] else x.done) ∧
      y.lent = if v.getLsbD 31 then x.lent else x.lent ++ [(row, know)] := by
  obtain ⟨k, hk⟩ := hstalled
  have hany : (x.stalled.any fun y => y.1 == row) = true := List.any_eq_true.mpr ⟨(row, k), hk, beq_self_eq_true row⟩
  have hgone : ∀ z ∈ x.stalled.filter (fun y => !(y.1 == row)), z.1 ≠ row := fun z hz => by
    simpa using (List.mem_filter.mp hz).2
  have hjudged (fatal : Bool) := find?_updateIf_id (num := BmvOp.id) (f := BmvOp.judged row fatal) (BmvOp.judged_id row fatal) hx
  rw [State.giveVerdict_bmvs know he hw]
  cases v.getLsbD 31 with
  | true =>
    refine ⟨_, hjudged true, ?_⟩
    simp only [BmvOp.judged, hany, if_true]
    exact ⟨hgone, by simp, trivial, trivial⟩
  | false =>
    refine ⟨_, find?_updateIf_id (num := BmvOp.id) (f := BmvOp.lentTo row know) (fun _ => rfl) (hjudged false), ?_⟩
    simp only [BmvOp.lentTo, BmvOp.judged, hany, if_true, Bool.false_eq_true, if_false]
    exact ⟨hgone, by simp, trivial, trivial⟩

end

end Sys2Proof.Machine
end

section
/-!
PROOF. O44: SYS instructions outside and in system mode; the privileged registers.
-/
namespace Sys2Proof.Machine
open Sys2Proof

/-! ## Outside system mode, and encodings that are no instruction -/

/-- A SYS instruction outside system mode (R77, R78). -/
theorem traps_priv {i : Instr} {s : State} {c : Ctx} (hc : s.ctx s.cur = some c) (hl : c.t.completing = false) (hh : c.handles)
    (hu : c.l.system = false) (hi : ∃ f body, exec i s = runSys f body s) : Traps i s c .priv 0 := by
  obtain ⟨f, body, hi⟩ := hi
  refine traps_unread (f := f) hc hh (hi.trans ?_)
  rw [runSys_user hc hu, hl]
  rfl

/-- A word that is no instruction (R76 to R78). -/
theorem traps_illegal {i : Instr} {s : State} {c : Ctx} {sys : Bool} (hc : s.ctx s.cur = some c) (hl : c.t.completing = false)
    (hh : c.handles) (hi : exec i s = illegalEncoding sys s) : Traps i s c (if sys && !c.l.system then .priv else .ri) 0 := by
  refine traps_unread (f := { sc := 0 }) hc hh (hi.trans ?_)
  simp [illegalEncoding, hc, hl]

/-- In system mode a SYS instruction runs as any other. -/
theorem runSys_system {s : State} {c : Ctx} (hc : s.ctx s.cur = some c) (hs : c.l.system = true) (f : Form)
    (body : Ctx → (Nat → Word) → State → Effect) : runSys f body s = runForm f body s := by
  simp [runSys, hc, hs]

theorem exec_swrp_readOnly {f : PrivF} (hw : f.i.writable = false) (s : State) : exec (.swrp f) s = illegalEncoding true s := by
  show execSwrp f s = _
  simp [execSwrp, hw]

/-- What SWRP does once its value is allowed and its die is there. -/
def swrpEffect (c : Ctx) (i : PReg) (v : Word) (d : Die) (s : State) : Effect :=
  let s := if i = .fres then s.sending c.t.id else s
  if i = .fres && s.unposted c.t.id then .wait s .poll else .done (s.setPrivileged d (s.knows c.t.id) i v)

/-- SWRP of a writable register. -/
def swrpBody (i : PReg) (c : Ctx) (o : Nat → Word) (s : State) : Effect :=
  if privilegedInvalid i (o 0) then .trap s .ri 0
  else
    match s.die? c.w.die with
    | none => .done s
    | some d => swrpEffect c i (o 0) d s

theorem exec_swrp_writable {f : PrivF} (hw : f.i.writable = true) (s : State) :
    exec (.swrp f) s = runSys { g := f.g, sc := f.sc, reads := [f.d] } (swrpBody f.i) s := by
  show execSwrp f s = _
  unfold execSwrp
  rw [hw]
  rfl

theorem traps_priv_swrp {s : State} {c : Ctx} (hc : s.ctx s.cur = some c) (hl : c.t.completing = false) (hh : c.handles)
    (hu : c.l.system = false) (f : PrivF) : Traps (.swrp f) s c .priv 0 := by
  cases hw : f.i.writable with
  | false => simpa [hu] using traps_illegal hc hl hh (exec_swrp_readOnly hw s)
  | true => exact traps_priv hc hl hh hu ⟨_, _, exec_swrp_writable hw s⟩

/-! ## SRDP -/

theorem sum_map_ite (p : Nat → Bool) (xs : List Nat) (n : Nat) :
    xs.foldl (fun n i => if p i then n + 2 ^ i else n) n = n + (xs.map fun i => if p i then 2 ^ i else 0).sum := by
  induction xs generalizing n with
  | nil => rfl
  | cons x xs ih =>
    rw [List.foldl_cons, ih, List.map_cons, List.sum_cons]
    split <;> omega

theorem ofNat_toNat_low (x : BitVec 56) : BitVec.ofNat 32 x.toNat = x.extractLsb' 0 32 := by
  apply BitVec.eq_of_toNat_eq
  simp [BitVec.extractLsb'_toNat]

theorem ofNat_toNat_high (x : BitVec 56) : BitVec.ofNat 32 (x.toNat / 2 ^ 32) = (x.extractLsb' 32 24).setWidth 32 := by
  apply BitVec.eq_of_toNat_eq
  have hx : x.toNat / 2 ^ 32 < 2 ^ 24 := by have := x.isLt; omega
  simp [BitVec.extractLsb'_toNat, Nat.shiftRight_eq_div_pow]
  omega

theorem exec_srdp {s : State} {c : Ctx} (hc : s.ctx s.cur = some c) (hs : c.l.system = true) (f : PrivF) :
    exec (.srdp f) s = runForm { g := f.g, sc := f.sc, names := [f.d] } (fun c _ s =>
      writeBoard c s [(f.d, ((s.die? c.w.die).map fun d => s.privileged d f.i).getD 0)]) s :=
  runSys_system hc hs _ _

/-! ## SWRP -/

end Sys2Proof.Machine
end

section
/-!
PROOF. O44: the privileged registers that SWRP writes.
-/
namespace Sys2Proof.Machine
open Sys2Proof

/-! ## What SRDP reads -/

/-- A privileged register of the executing die or of the module, as R339's table gives it. -/
theorem privileged_eq (s : State) (d : Die) (i : PReg) : s.privileged d i =
    match i with
    | .ptroot => s.ptroot.extractLsb' 0 32
    | .ptrooth => s.ptroot.extractLsb' 32 32
    | .fqcount => BitVec.ofNat 32 d.faultQ.length
    | .fres => 0
    | .coremask => BitVec.ofNat 32 d.coreMask.toNat
    | .coremaskh => BitVec.ofNat 32 (d.coreMask.toNat / 2 ^ 32)
    | .unitmask => BitVec.ofNat 32 (((List.range 8).map fun i => if s.dieInService i then 2 ^ i else 0).sum + 2 ^ 8 * s.stackMask.toNat)
    | .streamsel => d.streamsel
    | .streamexp => ((s.stream d.streamsel.toNat).written).getD (s.stream d.streamsel.toNat).expected
    | .errcnt => d.errcnt
    | .coresel => d.coresel
    | .conflicts => ((d.cores.find? fun k => k.idx == d.coresel.toNat).map (·.conflicts)).getD 0 := by
  cases i with
  | coremask => exact (ofNat_toNat_low d.coreMask).symm
  | coremaskh => exact (ofNat_toNat_high d.coreMask).symm
  | unitmask => simp only [State.privileged, sum_map_ite, Nat.zero_add]
  | _ => rfl

/-! ## Values that SWRP refuses -/

/-- A value that sets a must-be-zero bit, in numbers. -/
theorem privilegedInvalid_iff (i : PReg) (v : Word) : privilegedInvalid i v = true ↔
    match i with
    | .ptroot => v.toNat % 2 ^ 12 ≠ 0
    | .ptrooth => 2 ^ 20 ≤ v.toNat
    | .fres => v.toNat / 2 ^ 16 % 2 ^ 15 ≠ 0
    | .streamsel => 4096 ≤ v.toNat
    | .coresel => 56 ≤ v.toNat
    | _ => False := by
  cases i with
  | ptroot =>
    have h := and_mask_eq_zero_iff (m := 0xFFF) (lo := 0) (n := 12) (by decide) v
    simpa [privilegedInvalid, field] using not_congr h
  | ptrooth =>
    have h := and_highMask_eq_zero_iff (m := 0xFFF00000) (lo := 20) (by omega) (by decide) v
    simpa [privilegedInvalid] using not_congr h
  | fres =>
    have h := and_mask_eq_zero_iff (m := 0x7FFF0000) (lo := 16) (n := 15) (by decide) v
    simpa [privilegedInvalid, field] using not_congr h
  | streamsel =>
    have h := and_highMask_eq_zero_iff (m := 0xFFFFF000) (lo := 12) (by omega) (by decide) v
    simpa [privilegedInvalid] using not_congr h
  | coresel => simp [privilegedInvalid]
  | _ => simp [privilegedInvalid]

/-- Only a writable register refuses values. -/
theorem privilegedInvalid_writable {i : PReg} {v : Word} (h : privilegedInvalid i v = true) : i.writable = true := by
  cases i with
  | fqcount | coremask | coremaskh | unitmask => cases h
  | _ => rfl

/-! ## SWRP in system mode -/

section
variable {s : State} {c : Ctx} {f : PrivF} {d : Die}

theorem exec_swrp (hc : s.ctx s.cur = some c) (hs : c.l.system = true) (hw : f.i.writable = true) :
    exec (.swrp f) s = runForm { g := f.g, sc := f.sc, reads := [f.d] } (swrpBody f.i) s :=
  (exec_swrp_writable hw s).trans (runSys_system hc hs _ _)

theorem swrpBody_invalid {i : PReg} {o : Nat → Word} (hv : privilegedInvalid i (o 0) = true) : swrpBody i c o s = .trap s .ri 0 := by
  simp only [swrpBody, hv, if_true]

theorem swrpBody_valid {i : PReg} {o : Nat → Word} (hv : privilegedInvalid i (o 0) = false) (hd : s.die? c.w.die = some d) :
    swrpBody i c o s = swrpEffect c i (o 0) d s := by
  simp only [swrpBody, hv, hd, Bool.false_eq_true, if_false]

theorem swrpEffect_other {i : PReg} (hi : i ≠ .fres) (v : Word) :
    swrpEffect c i v d s = .done (s.setPrivileged d (s.knows c.t.id) i v) := by
  simp only [swrpEffect, hi, if_false, decide_false, Bool.false_and, Bool.false_eq_true]

theorem swrpEffect_fres (v : Word) : swrpEffect c .fres v d s =
    let u := s.sending c.t.id
    if u.unposted c.t.id then .wait u .poll else .done (u.giveVerdict d.idx (u.knows c.t.id) v) := by
  simp only [swrpEffect, if_true, decide_true, Bool.true_and]
  rfl

end

/-! ## What a write of a register leaves of the threads -/

theorem State.issuePart_giveVerdict (s : State) (die : Nat) (know : Know) (v : Word) :
    (s.giveVerdict die know v).issuePart = s.issuePart := by
  cases he : s.die? die with
  | none => simp only [State.giveVerdict, he, Option.bind_none]; rfl
  | some e =>
    cases hw : e.stalledAt? (v.toNat % 65536) with
    | none => rw [State.giveVerdict_unknown know he hw]; rfl
    | some who => rw [State.giveVerdict_frame know he hw]; rfl

theorem State.issuePart_setPrivileged (s : State) (d : Die) (know : Know) (i : PReg) (v : Word) :
    (s.setPrivileged d know i v).issuePart = s.issuePart := by
  cases i with
  | fres => exact State.issuePart_giveVerdict s d.idx know v
  | _ => rfl

/-! ## Streams -/

theorem State.stream_setStream_same (s : State) {x : Stream} {k : Nat} (hk : x.id = k) : (s.setStream x).stream k = x := by
  simp [State.stream, State.setStream, hk]

theorem State.stream_setStream_other (s : State) (x : Stream) {k : Nat} (hk : k ≠ x.id) : (s.setStream x).stream k = s.stream k := by
  have hne : (x.id == k) = false := by simpa using Ne.symm hk
  have hfind : (s.streams.filter fun y => !(y.id == x.id)).find? (fun y => y.id == k) = s.streams.find? fun y => y.id == k := by
    rw [List.find?_filter]
    refine congrArg (List.find? · s.streams) (funext fun y => ?_)
    by_cases hy : y.id = k <;> simp [hy, hk]
  simp only [State.stream, State.setStream, List.find?_cons, hne, hfind]

theorem State.stream_id (s : State) (k : Nat) : (s.stream k).id = k := by
  unfold State.stream
  cases h : s.streams.find? fun x => x.id == k with
  | none => rfl
  | some x => simpa using List.find?_some h

end Sys2Proof.Machine
end

section
/-!
PROOF. O44 settled.
-/
namespace Sys2Proof.Machine
open Sys2Proof

/-! ## The traps -/

/-- Every SYS instruction outside system mode. -/
theorem sys_traps_priv {s : State} {c : Ctx} (hc : s.ctx s.cur = some c) (hl : c.t.completing = false) (hh : c.handles)
    (hu : c.l.system = false) (a : AF) (d : ADF) (p : PrivF) : ∀ i ∈ [Instr.fitmake d, .fitdrop a, .tlbinv d, .fqpop d, .layout d,
      .nodekill d, .preempt d, .srdp p, .swrp p], Traps i s c .priv 0 := by
  simp only [List.forall_mem_cons, List.not_mem_nil, false_implies, implies_true, and_true]
  exact ⟨traps_priv hc hl hh hu ⟨_, _, (rfl : execFitmake d s = _)⟩, traps_priv hc hl hh hu ⟨_, _, (rfl : execFitdrop a s = _)⟩,
    traps_priv hc hl hh hu ⟨_, _, (rfl : execTlbinv d s = _)⟩, traps_priv hc hl hh hu ⟨_, _, (rfl : execFqpop d s = _)⟩,
    traps_priv hc hl hh hu ⟨_, _, (rfl : execLayout d s = _)⟩, traps_priv hc hl hh hu ⟨_, _, (rfl : execNodekill d s = _)⟩,
    traps_priv hc hl hh hu ⟨_, _, (rfl : execPreempt d s = _)⟩, traps_priv hc hl hh hu ⟨_, _, (rfl : execSrdp p s = _)⟩,
    traps_priv_swrp hc hl hh hu p⟩

/-- A write of a read-only register in system mode. -/
theorem traps_readOnly {s : State} {c : Ctx} (hc : s.ctx s.cur = some c) (hl : c.t.completing = false) (hh : c.handles)
    (hs : c.l.system = true) {f : PrivF} (hw : f.i.writable = false) : Traps (.swrp f) s c .ri 0 := by
  simpa [hs] using traps_illegal hc hl hh (exec_swrp_readOnly hw s)

/-- A reserved encoding, of SYS or of another major. -/
theorem traps_reserved {s : State} {c : Ctx} (hc : s.ctx s.cur = some c) (hl : c.t.completing = false) (hh : c.handles) (w : Word) :
    Traps (.reservedOrIllegalEncoding w) s c (if w.toNat / 2 % 64 = 0x3F ∧ c.l.system = false then .priv else .ri) 0 := by
  have h := traps_illegal (i := .reservedOrIllegalEncoding w) (sys := field w.toNat 1 6 == sysMajor) hc hl hh rfl
  simpa [field, sysMajor] using h

/-- A reserved encoding is executed to the next state, whatever the thread stands in. -/
theorem reserved_next {s : State} {c : Ctx} (hc : s.ctx s.cur = some c) (w : Word) :
    ∃ t, exec (.reservedOrIllegalEncoding w) s = .next t := by
  show ∃ t, execReservedOrIllegalEncoding w s = .next t
  simp only [execReservedOrIllegalEncoding, illegalEncoding, hc]
  exact ⟨_, rfl⟩

/-! ## The writes -/

/-- How SWRP reads its value. -/
def swrpForm (f : PrivF) : Form := { g := f.g, sc := f.sc, reads := [f.d] }

section
variable {s : State} {c : Ctx} {f : PrivF} {d : Die} (hs : c.l.system = true) (h : Executes s c (swrpForm f))
include hs h

/-- A value that sets a bit that must be zero. -/
theorem swrp_traps (hh : c.handles) (hv : privilegedInvalid f.i (c.reads s (swrpForm f) 0) = true) : Traps (.swrp f) s c .ri 0 :=
  h.traps hh (exec_swrp h.ctx hs (privilegedInvalid_writable hv)) (swrpBody_invalid hv)

variable (hd : (s.spent (swrpForm f)).die? c.w.die = some d) (hv : privilegedInvalid f.i (c.reads s (swrpForm f) 0) = false)
include hd hv

/-- A register other than %fres is written at once. -/
theorem swrp_answers {i : PReg} (hi : f.i = i) (hne : i ≠ .fres) (hw : i.writable = true) :
    Answers (.swrp f) s c f.sc
      ((s.spent (swrpForm f)).setPrivileged d ((s.spent (swrpForm f)).knows c.t.id) i (c.reads s (swrpForm f) 0)) [] := by
  subst hi
  exact answers_of h (exec_swrp h.ctx hs hw) ((swrpBody_valid hv hd).trans (swrpEffect_other hne _))
    ((State.issuePart_setPrivileged _ d _ f.i _).trans (s.issuePart_spent _))

/-- A write of %fres waits for the records of the thread's dropped stores. -/
theorem swrp_fres_polls (hi : f.i = .fres) (hu : ((s.spent (swrpForm f)).sending s.cur).unposted s.cur = true) :
    Polls (.swrp f) s c ((s.spent (swrpForm f)).sending s.cur) .poll := by
  refine polls_of h (exec_swrp h.ctx hs (by rw [hi]; rfl)) ((swrpBody_valid hv hd).trans ?_)
    ((State.issuePart_sending _ s.cur).trans (s.issuePart_spent _))
  rw [hi, swrpEffect_fres, State.ctx_id h.ctx]
  simp only [hu, if_true]

/-- Then it gives its verdict. -/
theorem swrp_fres_answers (hi : f.i = .fres) (hu : ((s.spent (swrpForm f)).sending s.cur).unposted s.cur = false) :
    let u := (s.spent (swrpForm f)).sending s.cur
    Answers (.swrp f) s c f.sc (u.giveVerdict c.w.die (u.knows s.cur) (c.reads s (swrpForm f) 0)) [] := by
  refine answers_of h (exec_swrp h.ctx hs (by rw [hi]; rfl)) ((swrpBody_valid hv hd).trans ?_)
    ((State.issuePart_giveVerdict _ c.w.die _ _).trans ((State.issuePart_sending _ s.cur).trans (s.issuePart_spent _)))
  rw [hi, swrpEffect_fres, State.ctx_id h.ctx, State.die?_idx hd]
  simp only [hu, Bool.false_eq_true, if_false]

end

/-- The counter of one core of a die. -/
theorem State.mapCore_conflicts (s : State) (die core : Nat) (v : Word) :
    s.mapCore ⟨die, core⟩ (fun x => { x with conflicts := v }) = s.mapDie die fun x => { x with cores := x.cores.map fun k =>
      if k.idx = core then { k with conflicts := v } else k } := by
  simp only [State.mapCore, updateIf, beq_iff_eq]

/-- What a verdict on a token of something leaves and changes. -/
theorem giveVerdict_known {u : State} {die : Nat} {e : Die} {who : Poster} {v : Word} (know : Know) (he : u.die? die = some e)
    (hwho : e.stalledAt? (v.toNat % 65536) = some who) : ∃ e', (u.giveVerdict die know v).die? die = some e' ∧
      e'.verdicts = e.verdicts ++ [(who, v.getLsbD 31)] ∧ e'.stalledAt? (v.toNat % 65536) = none ∧ e'.errcnt = e.errcnt ∧
      (u.giveVerdict die know v).mem = u.mem ∧ (u.giveVerdict die know v).waves = u.waves ∧
      (u.giveVerdict die know v).launches = u.launches := by
  have hframe := State.giveVerdict_frame know he hwho
  refine ⟨_, State.giveVerdict_die know he hwho, rfl, Die.stalledAt?_freed e _, rfl, ?_, ?_, ?_⟩
  · exact (congrArg State.mem hframe).trans rfl
  · exact (congrArg State.waves hframe).trans rfl
  · exact (congrArg State.launches hframe).trans rfl

section
variable {s : State} {c : Ctx} {f : PrivF} {d : Die} (hs : c.l.system = true) (h : Executes s c (swrpForm f))
  (hd : (s.spent (swrpForm f)).die? c.w.die = some d) (hv : privilegedInvalid f.i (c.reads s (swrpForm f) 0) = false)
include hs h hd hv

/-- A verdict on a token of nothing is counted, one on a stalled chunk's or row's gives it its verdict. -/
theorem swrp_fres_verdict (hi : f.i = .fres) (hu : ((s.spent (swrpForm f)).sending s.cur).unposted s.cur = false) {e : Die}
    (he : ((s.spent (swrpForm f)).sending s.cur).die? c.w.die = some e) :
    let v := c.reads s (swrpForm f) 0
    let u := (s.spent (swrpForm f)).sending s.cur
    (e.stalledAt? (v.toNat % 65536) = none → Answers (.swrp f) s c f.sc (u.countError c.w.die) []) ∧
    ∀ who, e.stalledAt? (v.toNat % 65536) = some who → ∃ t e', Answers (.swrp f) s c f.sc t [] ∧ t.die? c.w.die = some e' ∧
      e'.verdicts = e.verdicts ++ [(who, v.getLsbD 31)] ∧ e'.stalledAt? (v.toNat % 65536) = none ∧ e'.errcnt = e.errcnt ∧
      t.mem = u.mem ∧ t.waves = u.waves ∧ t.launches = u.launches ∧
      (∀ op ch x, who = .chunk op ch → u.copies.find? (fun y => y.id == op) = some x → (∃ k, (ch, k) ∈ x.stalled) →
        ∃ y, t.copies.find? (fun y => y.id == op) = some y ∧ (∀ z ∈ y.stalled, z.1 ≠ ch) ∧
          y.fatal = (x.fatal || v.getLsbD 31) ∧ y.retry = (if v.getLsbD 31 then x.retry else x.retry ++ [ch]) ∧
          y.lent = if v.getLsbD 31 then x.lent else x.lent ++ [(ch, u.knows s.cur)]) ∧
      ∀ op row x, who = .row op row → u.bmvs.find? (fun y => y.id == op) = some x → (∃ k, (row, k) ∈ x.stalled) →
        ∃ y, t.bmvs.find? (fun y => y.id == op) = some y ∧ (∀ z ∈ y.stalled, z.1 ≠ row) ∧
          y.fatal = (x.fatal || v.getLsbD 31) ∧ y.done = (if v.getLsbD 31 then x.done ++ [row] else x.done) ∧
          y.lent = if v.getLsbD 31 then x.lent else x.lent ++ [(row, u.knows s.cur)] := by
  intro v u
  have hans : Answers (.swrp f) s c f.sc (u.giveVerdict c.w.die (u.knows s.cur) v) [] := swrp_fres_answers hs h hd hv hi hu
  refine ⟨fun htoken => State.giveVerdict_unknown (u.knows s.cur) he htoken ▸ hans, fun who hwho => ?_⟩
  obtain ⟨e', hdie, hverdicts, hfree, herrcnt, hmem, hwaves, hlaunches⟩ := giveVerdict_known (u.knows s.cur) he hwho
  exact ⟨_, e', hans, hdie, hverdicts, hfree, herrcnt, hmem, hwaves, hlaunches,
    fun op ch x hw hx hstalled => State.giveVerdict_chunk _ he (hw ▸ hwho) hx hstalled,
    fun op row x hw hx hstalled => State.giveVerdict_row _ he (hw ▸ hwho) hx hstalled⟩

/-- %streamexp takes the value as the one written to the selected stream. -/
theorem swrp_streamexp (hi : f.i = .streamexp) : ∃ t, Answers (.swrp f) s c f.sc t [] ∧
    t = { s.spent (swrpForm f) with streams := t.streams } ∧
    (t.stream d.streamsel.toNat).written = some (c.reads s (swrpForm f) 0) ∧
    (t.stream d.streamsel.toNat).expected = (s.stream d.streamsel.toNat).expected ∧
    ∀ k, k ≠ d.streamsel.toNat → t.stream k = s.stream k := by
  have hid := State.stream_id (s.spent (swrpForm f)) d.streamsel.toNat
  have hsame := State.stream_setStream_same (s.spent (swrpForm f)) (k := d.streamsel.toNat)
    (x := { (s.spent (swrpForm f)).stream d.streamsel.toNat with written := some (c.reads s (swrpForm f) 0) }) hid
  refine ⟨_, swrp_answers hs h hd hv hi (by decide) rfl, rfl, congrArg Stream.written hsame,
    (congrArg Stream.expected hsame).trans rfl, fun k hk => State.stream_setStream_other _ _ ?_⟩
  exact hk.trans_eq hid.symm

end

/-- Settles O44: the traps outside system mode and of reserved encodings, SRDP's values register by register, and what SWRP writes. -/
theorem systemModeAndRegisters : Obligations.SystemModeAndRegisters := by
  unfold Obligations.SystemModeAndRegisters
  refine ⟨fun s c hc hl hh => ⟨fun hu a d p => sys_traps_priv hc hl hh hu a d p, fun f hs hi => ?_, traps_reserved hc hl hh⟩,
    fun s c w hc => reserved_next hc w, ?_⟩
  · refine traps_readOnly hc hl hh hs ?_
    simp only [List.mem_cons, List.not_mem_nil, or_false] at hi
    rcases hi with hi | hi | hi | hi <;> rw [hi] <;> rfl
  intro s c f d hs hd
  refine ⟨?_, ?_⟩
  · intro form x h hlim
    refine writesBoard_of rfl rfl h hlim (exec_srdp h.ctx hs f) ?_
    have hdie : (s.spent form).die? c.w.die = some d := hd
    have hx : (s.spent form).privileged d f.i = x := (privileged_eq (s.spent form) d f.i).trans rfl
    simp only [hdie, Option.map_some, Option.getD_some, hx]
  · intro form v u invalid die h
    have hinvalid : invalid ↔ privilegedInvalid f.i v = true := (privilegedInvalid_iff f.i v).symm
    refine ⟨fun hv hh => swrp_traps hs h hh (hinvalid.mp hv), fun hv => ?_⟩
    have hvalid : privilegedInvalid f.i v = false := by simpa [hinvalid] using hv
    have hidx : d.idx = c.w.die := State.die?_idx hd
    have hwrite {i : PReg} (hi : f.i = i) (hne : i ≠ .fres) (hw : i.writable = true) :
        Answers (.swrp f) s c f.sc (u.setPrivileged d (u.knows c.t.id) i v) [] := swrp_answers hs h hd hvalid hi hne hw
    have hmap {i : PReg} {g : Die → Die} (hi : f.i = i) (hne : i ≠ .fres) (hw : i.writable = true)
        (hset : u.setPrivileged d (u.knows c.t.id) i v = u.mapDie d.idx g) : Answers (.swrp f) s c f.sc (die g) [] := by
      have := hwrite hi hne hw
      rwa [hset, hidx] at this
    refine ⟨fun hi => hwrite hi (by decide) rfl, fun hi => hwrite hi (by decide) rfl, fun hi => ?_,
      fun hi => hmap hi (by decide) rfl rfl, fun hi => hmap hi (by decide) rfl rfl, fun hi => hmap hi (by decide) rfl rfl,
      fun hi => hmap hi (by decide) rfl (State.mapCore_conflicts u d.idx _ v), fun hi => ?_⟩
    · exact ⟨swrp_fres_polls hs h hd hvalid hi, fun hu e he => swrp_fres_verdict hs h hd hvalid hi hu he⟩
    · exact swrp_streamexp hs h hd hvalid hi

end Sys2Proof.Machine
end

section
/-!
PROOF. O54: a step runs what the bytes at the PC decode to, or the scheduled event.
-/
namespace Sys2Proof.Machine
open Sys2Proof

/-! ## Fetching bytes that stand -/

/-- A load that its thread's own stores do not meet reads memory as it stands. -/
theorem State.loadBytes_plain {s : State} {t : Thread} {loc : Loc} {view : Bool} {n : Nat} (h : s.plainRead t loc view n)
    (peer : Bool) : s.loadBytes t loc view peer n = (s, s.readLoc loc n) := by
  obtain ⟨hapart, hlate⟩ := h
  unfold State.loadBytes
  extract_lets mine
  have hnone : mine = [] := by
    refine List.filter_eq_nil_iff.mpr fun e he => ?_
    by_cases hv : e.view = view
    · obtain ⟨hoverlaps, hregion⟩ := hapart e he hv
      cases loc with
      | phys pa => simp [hoverlaps]
      | spad w off => simp [hoverlaps]
      | fitted r i =>
        have hout : e.loc.inRegion r = false := by
          cases hl : e.loc with
          | fitted q j =>
            have hne : q ≠ r := fun hq => hregion r i j rfl (hq ▸ hl)
            simp [Loc.inRegion, hne]
          | _ => rfl
        simp [hout]
    · simp [hv]
  rw [if_pos (by simp [hnone])]
  exact State.readBy_now hlate t.id view peer loc n

section
variable {s : State} {c : Ctx} {off : Word}

theorem State.fetchHalf_plain {pa : Nat} {view : Bool} (hp : s.fetchPlace c (c.codeAddress off) = .ok (pa, view))
    (hread : s.plainRead c.t (.phys pa) view 2) : s.fetchHalf c off = .ok (s, s.readLoc (.phys pa) 2) := by
  simp only [State.fetchHalf, hp, State.loadBytes_plain hread]

theorem State.fetchHalf_trap {cause : Cause} {va : Nat} (hp : s.fetchPlace c (c.codeAddress off) = .trap cause va) :
    s.fetchHalf c off = .trap cause va := by
  simp only [State.fetchHalf, hp]

theorem State.fetchHalf_wait {va : Nat} (hp : s.fetchPlace c (c.codeAddress off) = .wait va) : s.fetchHalf c off = .wait va := by
  simp only [State.fetchHalf, hp]

end

theorem instrOf_ok {bs : List Byte} {i : Instr} {n : Nat} (h : decode bs = .ok (i, n)) : instrOf bs = i := by
  simp only [instrOf, h]

theorem instrOf_error {bs : List Byte} {e : DecodeError} (h : decode bs = .error e) :
    instrOf bs = .reservedOrIllegalEncoding (BitVec.ofNat 32 (leNat bs)) := by
  simp only [instrOf, h]

section
variable {s : State} {c : Ctx} {lo hi : List Byte}

theorem State.fetch_short (hlo : s.fetchHalf c c.t.pc = .ok (s, lo)) (heven : leNat lo % 2 = 0) : s.fetch c = .ok (s, instrOf lo) := by
  simp only [State.fetch, hlo, heven, if_true]

theorem State.fetch_long (hlo : s.fetchHalf c c.t.pc = .ok (s, lo)) (hodd : leNat lo % 2 = 1)
    (hhi : s.fetchHalf c (c.t.pc + 2) = .ok (s, hi)) : s.fetch c = .ok (s, instrOf (lo ++ hi)) := by
  simp only [State.fetch, hlo, hodd, hhi, Nat.one_ne_zero, if_false]

theorem State.fetch_long_trap {cause : Cause} {va : Nat} (hlo : s.fetchHalf c c.t.pc = .ok (s, lo)) (hodd : leNat lo % 2 = 1)
    (hhi : s.fetchHalf c (c.t.pc + 2) = .trap cause va) : s.fetch c = .trap cause va := by
  simp only [State.fetch, hlo, hodd, hhi, Nat.one_ne_zero, if_false]

theorem State.fetch_trap {cause : Cause} {va : Nat} (hlo : s.fetchHalf c c.t.pc = .trap cause va) : s.fetch c = .trap cause va := by
  simp only [State.fetch, hlo]

theorem State.fetch_wait {va : Nat} (hlo : s.fetchHalf c c.t.pc = .wait va) : s.fetch c = .wait va := by
  simp only [State.fetch, hlo]

end

/-! ## The executing thread's step -/

section
variable {s : State} {c : Ctx} (hc : s.ctx s.cur = some c) (hl : c.t.completing = false)
include hc hl

theorem threadStep_ok {i : Instr} (hf : s.fetch c = .ok (s, i)) : threadStep s = exec i s := by
  simp only [threadStep, hc, hl, hf, Bool.false_eq_true, if_false]

/-- Bytes that decode run as their instruction, others as a reserved encoding. -/
theorem runs_decoded {s' : State} {bs : List Byte} (hstep : step s' = threadStep s) (hf : s.fetch c = .ok (s, instrOf bs)) :
    (∀ i n, decode bs = .ok (i, n) → step s' = exec i s) ∧
    (∀ e, decode bs = .error e → step s' = exec (.reservedOrIllegalEncoding (BitVec.ofNat 32 (leNat bs))) s) := by
  have hexec := hstep.trans (threadStep_ok hc hl hf)
  exact ⟨fun i n h => instrOf_ok h ▸ hexec, fun e h => instrOf_error h ▸ hexec⟩

theorem threadStep_trap {cause : Cause} {va : Nat} (hf : s.fetch c = .trap cause va) :
    threadStep s = .next (s.trap c cause (BitVec.ofNat 64 va)) := by
  simp only [threadStep, hc, hl, hf, Bool.false_eq_true, if_false]

theorem threadStep_wait {va : Nat} (hf : s.fetch c = .wait va) :
    threadStep s = .next (s.mapThread s.cur fun t => t.stalled (.retranslate (BitVec.ofNat 64 va)) s.now) := by
  simp only [threadStep, hc, hl, hf, Bool.false_eq_true, if_false]

end

/-! ## The packet's next member -/

/-- The state in which a packet's next member runs. -/
def State.turn (s : State) (p : Packet) (id : ThreadId) (rest : List ThreadId) (more : List Packet) : State :=
  { s with cur := id, packets := { p with members := rest, started := true, last := some id } :: more }

theorem State.runMember_off {s : State} {t : Thread} (ht : s.thread? s.cur = some t) (hoff : s.onCore t = false) :
    s.runMember = .next s := by
  simp only [State.runMember, ht, hoff, Bool.false_and, Bool.false_eq_true, if_false]

theorem State.runMember_on {s : State} {t : Thread} (ht : s.thread? s.cur = some t) (hon : s.onCore t = true)
    (hgoes : t.fresh = true ∨ t.wait.polled = true) : s.runMember = threadStep s := by
  have hor : (t.fresh || t.wait.polled) = true := by simpa using hgoes
  simp only [State.runMember, ht, hon, hor, Bool.and_self, if_true]

theorem State.heldBack_first {s : State} {p : Packet} (hp : p.last = none) (id : ThreadId) : s.heldBack p id = false := by
  simp only [State.heldBack, hp, Option.bind_none, Option.any_none]

section
variable {s : State} {p : Packet} {id : ThreadId} {rest : List ThreadId} {more : List Packet} (hs : s.packets = p :: more)
  (hp : p.members = id :: rest)
include hs hp

theorem step_heldBack (hh : s.heldBack p id = true) : step s = .next (s.holdBack p more) := by
  simp only [step, runStep, hs, hp, hh, if_true]

theorem step_member (hgo : p.started = true ∨ rest = []) (hh : s.heldBack p id = false) :
    step s = (s.turn p id rest more).runMember := by
  have hor : (p.started || rest.isEmpty) = true := by simpa using hgo
  simp only [step, runStep, hs, hp, hh, hor, Bool.false_eq_true, if_false, if_true]
  rfl

end

/-- A member that is held back waits at its instruction with the others. -/
theorem State.holdBack_thread? {s : State} {p : Packet} {more : List Packet} {m : ThreadId} (hm : m ∈ p.members) {x : Thread}
    (hx : s.thread? m = some x) (hon : s.onCore x = true) :
    (s.holdBack p more).thread? m = some (x.stalled (.lanes (p.last.toList ++ p.members)) s.now) := by
  have hid := State.thread?_id hx
  have hable : (p.members.contains x.id && s.onCore x) = true := by simp [hid, hm, hon]
  have hfind := find?_updateIf (fun t : Thread => t.id == m) (fun t => p.members.contains t.id && s.onCore t)
    (fun t => t.stalled (.lanes (p.last.toList ++ p.members)) s.now) (fun _ => rfl) s.threads
  rw [show s.threads.find? (fun t => t.id == m) = some x from hx, Option.map_some, if_pos hable] at hfind
  exact hfind

theorem step_event {s : State} {i : Instr} {rest : List Action} (hp : s.packets = []) (hs : s.sched = .event i :: rest)
    (hi : Instr.isEvent i = true) : step s = exec i { s with sched := rest } := by
  simp only [step, runStep, hp, hs, State.act, hi, if_true]

/-- Settles O54: the fetch as the bytes stand, each of its outcomes, and the member's turn in the packet. -/
theorem stepRunsDecoded : Obligations.StepRunsDecoded := by
  unfold Obligations.StepRunsDecoded
  refine ⟨?_, fun s i rest hp hs hi => step_event hp hs hi⟩
  intro s p id rest more hs hp hgo u
  refine ⟨fun hlast => State.heldBack_first hlast id, fun hh => ⟨_, step_heldBack hs hp hh, rfl, fun m hm x hx hon =>
    ⟨_, State.holdBack_thread? hm hx hon, rfl, by constructor <;> rfl, rfl⟩⟩, fun hh => ?_⟩
  have hturn : step s = u.runMember := step_member hs hp hgo hh
  refine ⟨fun t ht hoff => hturn.trans (State.runMember_off ht hoff), fun c hc hon hgoes hl => ?_⟩
  have hstep : step s = threadStep u := hturn.trans (State.runMember_on (State.ctx_eq hc).1 hon hgoes)
  refine ⟨fun pa view hplace hread => ?_, fun cause va hplace => ?_, fun va hplace => ?_⟩
  · have hlo := State.fetchHalf_plain hplace hread
    refine ⟨fun heven => ?_, fun hodd => ⟨fun qa view' hplace' hread' => ?_, fun cause va hplace' => ?_⟩⟩
    · exact runs_decoded hc hl hstep (State.fetch_short hlo heven)
    · exact runs_decoded hc hl hstep (State.fetch_long hlo hodd (State.fetchHalf_plain hplace' hread'))
    · exact hstep.trans (threadStep_trap hc hl (State.fetch_long_trap hlo hodd (State.fetchHalf_trap hplace')))
  · exact hstep.trans (threadStep_trap hc hl (State.fetch_trap (State.fetchHalf_trap hplace)))
  · exact hstep.trans (threadStep_wait hc hl (State.fetch_wait (State.fetchHalf_wait hplace)))

end Sys2Proof.Machine
end

section
/-!
PROOF. O17: rounding to a neighbour (R92). A rounding mode with a sign treats magnitudes in one of three directions; the magnitudes of a
format's codes rise with the code, and the rounded code is the one that the direction selects among them.
-/
namespace Sys2Proof.Machine
open Sys2Proof

/-! ## Selecting between neighbours -/

/-- What a rounding mode does to a magnitude, its sign given (R92). -/
inductive Fp.Direction where
  | nearest | toward | away

/-- The direction in which a mode rounds the magnitude of a value with a sign. -/
def Fp.direction (mode : Rounding) (neg : Bool) : Fp.Direction :=
  match mode with
  | .rne => .nearest
  | .rz => .toward
  | .ru => if neg then .toward else .away
  | .rd => if neg then .away else .toward

/-- A magnitude x from lo up to hi, the neighbours number k and k + 1, rounds to hi; on a tie to the even number. -/
def Fp.Raises (d : Fp.Direction) (lo hi x : ℝ) (k : Nat) : Prop :=
  match d with
  | .nearest => hi - x < x - lo ∨ (hi - x = x - lo ∧ k % 2 = 1)
  | .toward => False
  | .away => lo < x

/-- A direction selects number c among rising magnitudes g 0, g 1, … for x. -/
def Fp.Selects (d : Fp.Direction) (g : Nat → ℝ) (x : ℝ) (c : Nat) : Prop :=
  ∃ k, g k ≤ x ∧ x < g (k + 1) ∧ (Fp.Raises d (g k) (g (k + 1)) x k → c = k + 1) ∧ (¬ Fp.Raises d (g k) (g (k + 1)) x k → c = k)

theorem Fp.Selects.toward_spec {g : Nat → ℝ} {x : ℝ} {c : Nat} (h : Fp.Selects .toward g x c) : g c ≤ x ∧ x < g (c + 1) := by
  obtain ⟨k, hlo, hhi, -, hstay⟩ := h
  obtain rfl := hstay id
  exact ⟨hlo, hhi⟩

section
variable {g : Nat → ℝ} (hg : StrictMono g) {x : ℝ} {c : Nat}
include hg

theorem Fp.Selects.away_spec (h : Fp.Selects .away g x c) : x ≤ g c ∧ ∀ j, j < c → g j < x := by
  obtain ⟨k, hlo, hhi, hraise, hstay⟩ := h
  by_cases hk : g k < x
  · obtain rfl := hraise hk
    exact ⟨hhi.le, fun j hj => (hg.monotone (Nat.lt_succ_iff.mp hj)).trans_lt hk⟩
  · obtain rfl := hstay hk
    exact ⟨not_lt.mp hk, fun j hj => (hg hj).trans_le hlo⟩

/-- The nearest lies between the midpoints towards its own neighbours; on a midpoint it is even. -/
theorem Fp.Selects.nearest_spec (h : Fp.Selects .nearest g x c) :
    (x - g c ≤ g (c + 1) - x ∧ (x - g c = g (c + 1) - x → c % 2 = 0)) ∧
      ∀ j, j < c → g c - x ≤ x - g j ∧ (g c - x = x - g j → c % 2 = 0) := by
  obtain ⟨k, hlo, hhi, hraise, hstay⟩ := h
  by_cases hk : Fp.Raises .nearest (g k) (g (k + 1)) x k
  · obtain rfl := hraise hk
    have hnext := hg (Nat.lt_succ_self (k + 1))
    refine ⟨⟨by linarith, fun _ => by linarith⟩, fun j hj => ?_⟩
    have hj' := hg.monotone (Nat.lt_succ_iff.mp hj)
    rcases hk with hk | ⟨hk, hodd⟩
    · exact ⟨by linarith, fun _ => by linarith⟩
    · exact ⟨by linarith, fun _ => by omega⟩
  · obtain rfl := hstay hk
    simp only [Fp.Raises, not_or, not_lt, not_and] at hk
    exact ⟨⟨by linarith [hk.1], fun he => by have := hk.2 he.symm; omega⟩, fun j hj =>
      have := hg hj
      ⟨by linarith, fun _ => by linarith⟩⟩

theorem Fp.Selects.toward_gt_iff (h : Fp.Selects .toward g x c) (M : Nat) : M < c ↔ g (M + 1) ≤ x := by
  obtain ⟨hlo, hhi⟩ := h.toward_spec
  exact ⟨fun hM => (hg.monotone hM).trans hlo, fun hM => by simpa using hg.lt_iff_lt.mp (hM.trans_lt hhi)⟩

theorem Fp.Selects.away_gt_iff (h : Fp.Selects .away g x c) (M : Nat) : M < c ↔ g M < x := by
  obtain ⟨hle, hlt⟩ := h.away_spec hg
  exact ⟨hlt M, fun hM => hg.lt_iff_lt.mp (hM.trans_le hle)⟩

theorem Fp.Selects.nearest_gt_iff (h : Fp.Selects .nearest g x c) (M : Nat) :
    M < c ↔ if M % 2 = 1 then g (M + 1) - x ≤ x - g M else g (M + 1) - x < x - g M := by
  obtain ⟨⟨hup, hupEven⟩, hdown⟩ := h.nearest_spec hg
  rcases lt_trichotomy M c with hM | rfl | hM
  · obtain ⟨hle, heven⟩ := hdown M hM
    have hmono := hg.monotone (Nat.succ_le_of_lt hM)
    rcases eq_or_lt_of_le hmono with heq | hlt
    · have hc : c = M + 1 := (hg.injective heq).symm
      split
      · simp only [hM, true_iff]; linarith
      · rw [← heq] at hle heven
        simp only [hM, true_iff]
        exact lt_of_le_of_ne hle fun he => by have := heven he; omega
    · simp only [hM, true_iff]
      split <;> linarith
  · simp only [lt_irrefl, false_iff]
    split
    · exact fun hle => by have := hupEven (le_antisymm hup hle); omega
    · linarith
  · have h1 : g (c + 1) ≤ g M := hg.monotone hM
    have h2 : g M < g (M + 1) := hg (Nat.lt_succ_self M)
    have h3 : g c < g (c + 1) := hg (Nat.lt_succ_self c)
    simp only [hM.not_gt, false_iff]
    split <;> linarith

theorem Fp.Selects.toward_greatest (h : Fp.Selects .toward g x c) : g c ≤ x ∧ ∀ j, g j ≤ x → g j ≤ g c := by
  obtain ⟨hlo, hhi⟩ := h.toward_spec
  exact ⟨hlo, fun j hj => hg.monotone (Nat.lt_succ_iff.mp (hg.lt_iff_lt.mp (hj.trans_lt hhi)))⟩

theorem Fp.Selects.away_least (h : Fp.Selects .away g x c) : x ≤ g c ∧ ∀ j, x ≤ g j → g c ≤ g j := by
  obtain ⟨hle, hlt⟩ := h.away_spec hg
  exact ⟨hle, fun j hj => hg.monotone (not_lt.mp fun hjc => absurd (hlt j hjc) (not_lt.mpr hj))⟩

theorem Fp.Selects.nearest_closest (h : Fp.Selects .nearest g x c) (j : Nat) :
    |x - g c| ≤ |x - g j| ∧ (|x - g c| = |x - g j| → g j ≠ g c → c % 2 = 0) := by
  obtain ⟨⟨hup, hupEven⟩, hdown⟩ := h.nearest_spec hg
  rcases lt_trichotomy j c with hj | rfl | hj
  · obtain ⟨hle, heven⟩ := hdown j hj
    have hlt := hg hj
    have hxj : |x - g j| = x - g j := abs_of_nonneg (by linarith)
    rw [hxj]
    refine ⟨abs_le.mpr ⟨by linarith, by linarith⟩, fun he _ => ?_⟩
    rcases abs_cases (x - g c) with ⟨ha, -⟩ | ⟨ha, -⟩
    · linarith
    · exact heven (by linarith)
  · exact ⟨le_rfl, fun _ hne => absurd rfl hne⟩
  · have hmono := hg.monotone (Nat.succ_le_of_lt hj)
    have hlt := hg hj
    have hxj : |x - g j| = g j - x := by rw [abs_of_nonpos (by linarith [hg (Nat.lt_succ_self c)])]; ring
    have hlow : x - g j ≤ x - g c := by linarith
    have hmid : g c - x ≤ g j - x := by linarith
    rw [hxj]
    refine ⟨abs_le.mpr ⟨by linarith, by linarith⟩, fun he _ => ?_⟩
    rcases abs_cases (x - g c) with ⟨ha, -⟩ | ⟨ha, -⟩
    · exact hupEven (by linarith)
    · linarith

end

/-- The same magnitudes under numbers shifted by an even one. -/
theorem Fp.Selects.shift {d : Fp.Direction} {g h : Nat → ℝ} {x : ℝ} {c b k : Nat} (hsel : Fp.Selects d h x c) (hh : StrictMono h)
    (hk : h k ≤ x) (hk' : x < h (k + 1)) (hb : b % 2 = 0) (h0 : g (b + k) = h k) (h1 : g (b + k + 1) = h (k + 1)) :
    Fp.Selects d g x (b + c) := by
  obtain ⟨i, hi, hi', hraise, hstay⟩ := hsel
  obtain rfl : i = k := by
    have := hh.lt_iff_lt.mp (hi.trans_lt hk')
    have := hh.lt_iff_lt.mp (hk.trans_lt hi')
    omega
  have hodd : (b + i) % 2 = i % 2 := by omega
  have hsame : Fp.Raises d (g (b + i)) (g (b + i + 1)) x (b + i) ↔ Fp.Raises d (h i) (h (i + 1)) x i := by
    rw [h0, h1]
    cases d <;> simp only [Fp.Raises, hodd]
  exact ⟨b + i, by rwa [h0], by rwa [h1], fun hr => by rw [hraise (hsame.mp hr)]; rfl, fun hr => by rw [hstay fun h => hr (hsame.mpr h)]⟩

/-! ## Rounding to a multiple of a power of two -/

/-- The real magnitude that m · 2^e and the mark stand for: m · 2^e itself, or strictly more by less than 2^e. -/
def Fp.Marks (m : Nat) (e : Int) (above : Bool) (x : ℝ) : Prop :=
  if above then m * (2 : ℝ) ^ e < x ∧ x < (m + 1) * (2 : ℝ) ^ e else x = m * (2 : ℝ) ^ e

theorem Fp.Marks.le {m : Nat} {e : Int} {above : Bool} {x : ℝ} (h : Fp.Marks m e above x) : m * (2 : ℝ) ^ e ≤ x := by
  cases above
  · exact h.ge
  · exact h.1.le

theorem Fp.Marks.lt {m : Nat} {e : Int} {above : Bool} {x : ℝ} (h : Fp.Marks m e above x) : x < (m + 1) * (2 : ℝ) ^ e := by
  cases above
  · rw [show x = m * (2 : ℝ) ^ e from h, add_one_mul]
    linarith [zpow_pos (two_pos : (0 : ℝ) < 2) e]
  · exact h.2

/-- The multiples of 2^q. -/
noncomputable def Fp.grid (q : Int) (n : Nat) : ℝ := n * (2 : ℝ) ^ q

theorem Fp.grid_strictMono (q : Int) : StrictMono (Fp.grid q) := fun a b h => by
  have : (a : ℝ) < b := by exact_mod_cast h
  exact mul_lt_mul_of_pos_right this (zpow_pos two_pos q)

/-- Between two multiples of 2^q it is the fraction t of the unit that decides. -/
theorem Fp.raises_grid (d : Fp.Direction) (q : Int) (k : Nat) (t : ℝ) :
    Fp.Raises d (Fp.grid q k) (Fp.grid q (k + 1)) ((k + t) * (2 : ℝ) ^ q) k ↔
      match d with
      | .nearest => 1 / 2 < t ∨ t = 1 / 2 ∧ k % 2 = 1
      | .toward => False
      | .away => 0 < t := by
  have hu : (0 : ℝ) < 2 ^ q := zpow_pos two_pos q
  have hlo : (k + t) * (2 : ℝ) ^ q - Fp.grid q k = t * 2 ^ q := by unfold Fp.grid; ring
  have hhi : Fp.grid q (k + 1) - (k + t) * (2 : ℝ) ^ q = (1 - t) * 2 ^ q := by unfold Fp.grid; push_cast; ring
  cases d with
  | nearest =>
    simp only [Fp.Raises, hlo, hhi, mul_lt_mul_iff_left₀ hu, mul_left_inj' hu.ne']
    constructor
    · rintro (h | ⟨h, ho⟩)
      · exact .inl (by linarith)
      · exact .inr ⟨by linarith, ho⟩
    · rintro (h | ⟨h, ho⟩)
      · exact .inl (by linarith)
      · exact .inr ⟨by linarith, ho⟩
  | toward => rfl
  | away =>
    simp only [Fp.Raises, ← sub_pos (b := Fp.grid q k), hlo]
    exact mul_pos_iff_of_pos_right hu

/-- The whole multiples of 2^q in m · 2^e. -/
def Fp.wholeUnits (m : Nat) (e q : Int) : Nat := m * 2 ^ (e - q).toNat / 2 ^ (q - e).toNat

/-- What is left of m · 2^e beside them, in units of 2^min(e, q). -/
def Fp.restUnits (m : Nat) (e q : Int) : Nat := m * 2 ^ (e - q).toNat % 2 ^ (q - e).toNat

/-- `roundUnits` gives the whole units or one more. -/
theorem Fp.roundUnits_eq (mode : Rounding) (neg : Bool) (m : Nat) (e : Int) (above : Bool) (q : Int) :
    Fp.roundUnits mode neg m e above q =
      (if (match mode with
          | .rne => decide (2 ^ (q - e).toNat < 2 * Fp.restUnits m e q) ||
              (2 * Fp.restUnits m e q == 2 ^ (q - e).toNat && (above || Fp.wholeUnits m e q % 2 == 1))
          | .rz => false
          | .ru => !neg && (Fp.restUnits m e q != 0 || above)
          | .rd => neg && (Fp.restUnits m e q != 0 || above)) = true then Fp.wholeUnits m e q + 1 else Fp.wholeUnits m e q,
        Fp.restUnits m e q != 0 || above) := by
  cases mode <;> rfl

theorem Fp.whole_add_rest (m : Nat) (e q : Int) : (m : ℝ) * 2 ^ e * 2 ^ (q - e).toNat =
    (Fp.wholeUnits m e q * 2 ^ (q - e).toNat + Fp.restUnits m e q) * 2 ^ q := by
  have hscale : (2 : ℝ) ^ (e - q).toNat * 2 ^ q = 2 ^ e * 2 ^ (q - e).toNat := by
    rw [← zpow_natCast, ← zpow_natCast, ← zpow_add₀ two_ne_zero, ← zpow_add₀ two_ne_zero]
    congr 1; omega
  have hdiv : ((Fp.wholeUnits m e q * 2 ^ (q - e).toNat + Fp.restUnits m e q : Nat) : ℝ) = (m * 2 ^ (e - q).toNat : Nat) :=
    congrArg Nat.cast (Nat.div_add_mod' _ _)
  push_cast at hdiv
  rw [hdiv, mul_assoc, mul_assoc, hscale]

/-- The magnitude in units of 2^q: the whole ones, and a fraction s in units of 2^min(e, q). -/
theorem Fp.Marks.fraction {m : Nat} {e q : Int} {above : Bool} {x : ℝ} (hx : Fp.Marks m e above x) (hq : above = true → e < q) :
    ∃ s : ℝ, x = (Fp.wholeUnits m e q + s / 2 ^ (q - e).toNat) * 2 ^ q ∧
      if above then Fp.restUnits m e q < s ∧ s < Fp.restUnits m e q + 1 else s = Fp.restUnits m e q := by
  have hu : (0 : ℝ) < 2 ^ q := zpow_pos two_pos q
  have hK : (0 : ℝ) < 2 ^ (q - e).toNat := by positivity
  have hm := Fp.whole_add_rest m e q
  obtain ⟨s, hs⟩ : ∃ s : ℝ, x * 2 ^ (q - e).toNat = (Fp.wholeUnits m e q * 2 ^ (q - e).toNat + s) * 2 ^ q :=
    ⟨x * 2 ^ (q - e).toNat / 2 ^ q - Fp.wholeUnits m e q * 2 ^ (q - e).toNat, by field_simp; ring⟩
  refine ⟨s, by field_simp; linarith, ?_⟩
  cases above with
  | false =>
    rw [show x = m * (2 : ℝ) ^ e from hx, hm] at hs
    have := mul_right_cancel₀ hu.ne' hs
    simp only [Bool.false_eq_true, if_false]
    linarith
  | true =>
    have hek : (2 : ℝ) ^ e * 2 ^ (q - e).toNat = 2 ^ q := by
      rw [← zpow_natCast, ← zpow_add₀ two_ne_zero]
      congr 1; have := hq rfl; omega
    have hlo := mul_lt_mul_of_pos_right hx.1 hK
    have hhi := mul_lt_mul_of_pos_right hx.2 hK
    rw [hs, hm] at hlo
    rw [hs, show ((m : ℝ) + 1) * 2 ^ e * 2 ^ (q - e).toNat = m * 2 ^ e * 2 ^ (q - e).toNat + 2 ^ e * 2 ^ (q - e).toNat by ring, hm, hek,
      ← add_one_mul] at hhi
    exact ⟨by linarith [lt_of_mul_lt_mul_right hlo hu.le], by linarith [lt_of_mul_lt_mul_right hhi hu.le]⟩

/-- What the rest and the mark say of the fraction t of a unit: that there is one, and on which side of the half it lies. -/
theorem Fp.Marks.units {m : Nat} {e q : Int} {above : Bool} {x : ℝ} (hx : Fp.Marks m e above x) (hq : above = true → e < q) :
    ∃ t : ℝ, x = (Fp.wholeUnits m e q + t) * 2 ^ q ∧ 0 ≤ t ∧ t < 1 ∧ ((Fp.restUnits m e q != 0 || above) = true ↔ 0 < t) ∧
      (2 ^ (q - e).toNat < 2 * Fp.restUnits m e q ∨ 2 * Fp.restUnits m e q = 2 ^ (q - e).toNat ∧ above = true ↔ 1 / 2 < t) ∧
      (2 * Fp.restUnits m e q = 2 ^ (q - e).toNat ∧ above = false ↔ t = 1 / 2) := by
  obtain ⟨s, hxs, hs⟩ := hx.fraction hq
  have hrest : Fp.restUnits m e q < 2 ^ (q - e).toNat := Nat.mod_lt _ (by positivity)
  generalize Fp.restUnits m e q = rest at *
  have hpow : 1 ≤ (q - e).toNat → 2 ^ (q - e).toNat % 2 = 0 := fun h => by
    obtain ⟨j, hj⟩ := Nat.exists_eq_add_of_le h
    rw [hj, pow_add]; omega
  have hK : (0 : ℝ) < 2 ^ (q - e).toNat := by positivity
  have hcast : ((2 ^ (q - e).toNat : Nat) : ℝ) = 2 ^ (q - e).toNat := by push_cast; rfl
  rw [← hcast] at hxs hK
  generalize 2 ^ (q - e).toNat = K at *
  have hrest' : (rest : ℝ) + 1 ≤ K := by exact_mod_cast hrest
  have h0 : (0 : ℝ) ≤ rest := by positivity
  refine ⟨s / K, hxs, ?_⟩
  rw [div_lt_one hK, div_pos_iff_of_pos_right hK, lt_div_iff₀ hK, div_eq_iff hK.ne', le_div_iff₀ hK, zero_mul]
  cases above with
  | false =>
    obtain rfl : s = rest := hs
    have hover : K < 2 * rest ↔ 1 / 2 * (K : ℝ) < rest := by
      rw [← Nat.cast_lt (α := ℝ)]; push_cast
      constructor <;> intro h <;> linarith
    have htie : 2 * rest = K ↔ (rest : ℝ) = 1 / 2 * K := by
      rw [← Nat.cast_inj (R := ℝ)]; push_cast
      constructor <;> intro h <;> linarith
    simp [hover, htie, h0, hrest, Nat.pos_iff_ne_zero]
  | true =>
    obtain ⟨hlo, hhi⟩ : rest < s ∧ s < rest + 1 := hs
    have hk : 1 ≤ (q - e).toNat := by have := hq rfl; omega
    have heven := hpow hk
    -- the half is a whole number of rests, so the mark lies on no tie
    have hhalf : K ≤ 2 * rest ∧ (K : ℝ) ≤ 2 * rest ∨ 2 * rest + 2 ≤ K ∧ 2 * (rest : ℝ) + 2 ≤ K := by
      rcases Nat.lt_or_ge (2 * rest) K with h | h
      · have h : 2 * rest + 2 ≤ K := by omega
        exact .inr ⟨h, by exact_mod_cast h⟩
      · exact .inl ⟨h, by exact_mod_cast h⟩
    refine ⟨by linarith, by linarith, by simp only [Bool.or_true, true_iff]; linarith, ?_, ?_⟩
    · rcases hhalf with ⟨h, h'⟩ | ⟨h, h'⟩
      · exact iff_of_true (by simp only [and_true]; omega) (by linarith)
      · exact iff_of_false (by omega) (by linarith)
    · simp only [Bool.true_eq_false, and_false, false_iff]
      rcases hhalf with ⟨h, h'⟩ | ⟨h, h'⟩ <;> intro he <;> linarith

/-- `roundUnits` selects among the multiples of 2^q; it is inexact where the result differs (R92). -/
theorem Fp.roundUnits_selects {mode : Rounding} {neg : Bool} {m : Nat} {e q : Int} {above : Bool} {x : ℝ}
    (hx : Fp.Marks m e above x) (hq : above = true → e < q) :
    Fp.Selects (Fp.direction mode neg) (Fp.grid q) x (Fp.roundUnits mode neg m e above q).1 ∧
      ((Fp.roundUnits mode neg m e above q).2 = true ↔ x ≠ Fp.grid q (Fp.roundUnits mode neg m e above q).1) := by
  obtain ⟨t, rfl, h0, h1, hinexact, hover, htie⟩ := hx.units hq
  have hu : (0 : ℝ) < 2 ^ q := zpow_pos two_pos q
  -- the result is raised exactly as the direction says
  have hup : ∃ up : Bool, Fp.roundUnits mode neg m e above q =
      (if up then Fp.wholeUnits m e q + 1 else Fp.wholeUnits m e q, Fp.restUnits m e q != 0 || above) ∧
      (up = true ↔ Fp.Raises (Fp.direction mode neg) (Fp.grid q (Fp.wholeUnits m e q)) (Fp.grid q (Fp.wholeUnits m e q + 1))
        ((Fp.wholeUnits m e q + t) * 2 ^ q) (Fp.wholeUnits m e q)) := by
    refine ⟨_, Fp.roundUnits_eq mode neg m e above q, ?_⟩
    rw [Fp.raises_grid]
    cases mode with
    | rne =>
      simp only [Fp.direction, ← hover, ← htie, Bool.or_eq_true, Bool.and_eq_true, decide_eq_true_eq, beq_iff_eq]
      cases above <;> simp
    | rz => simp [Fp.direction]
    | ru => cases neg <;> simp [Fp.direction, ← hinexact]
    | rd => cases neg <;> simp [Fp.direction, ← hinexact]
  generalize Fp.wholeUnits m e q = fl at *
  obtain ⟨up, hr, hup⟩ := hup
  rw [hr]
  refine ⟨⟨fl, ?_, ?_, fun h => ?_, fun h => ?_⟩, ?_⟩
  · exact mul_le_mul_of_nonneg_right (by linarith) hu.le
  · exact mul_lt_mul_of_pos_right (by push_cast; linarith) hu
  · rw [if_pos (hup.mpr h)]
  · rw [if_neg fun h' => h (hup.mp h')]
  · rw [hinexact, ne_eq, Fp.grid, mul_left_inj' hu.ne']
    cases up
    · simp [h0.lt_iff_ne']
    · have : 0 < t := by
        have hraised := hup.mp rfl
        rw [Fp.raises_grid] at hraised
        revert hraised
        cases Fp.direction mode neg with
        | nearest => rintro (h | ⟨h, -⟩) <;> linarith
        | toward => exact False.elim
        | away => exact id
      simp only [this, if_true, true_iff]
      push_cast
      intro h
      linarith

end Sys2Proof.Machine
end

section
/-!
PROOF. O17: the magnitudes of a format's codes (R82, R83), and `roundTo` as a selection among them (R92).
-/
namespace Sys2Proof.Machine
open Sys2Proof

/-! ## The magnitudes of codes -/

/-- The exponent of the spacing above code c: the codes of one exponent field are that far apart, and those of the lowest two fields
alike (R83). -/
def Fp.Format.spacing (f : Fp.Format) (c : Nat) : Int := f.emin - f.fbits + (c / 2 ^ f.fbits - 1 : Nat)

/-- The significand of magnitude code c, in units of its spacing (R83). -/
def Fp.Format.significand (f : Fp.Format) (c : Nat) : Nat := c - (c / 2 ^ f.fbits - 1) * 2 ^ f.fbits

/-- The magnitude of code c, as if no code were special. -/
noncomputable def Fp.Format.magnitude (f : Fp.Format) (c : Nat) : ℝ := f.significand c * (2 : ℝ) ^ f.spacing c

/-- The codes of a block of equal spacing: with offset b, they count up to the next power of two. -/
theorem Fp.Format.magnitude_block (f : Fp.Format) {b r : Nat} (hb : b = 0 ∨ 2 ^ f.fbits ≤ r) (hr : r ≤ 2 ^ (f.fbits + 1)) :
    f.magnitude (b * 2 ^ f.fbits + r) = r * (2 : ℝ) ^ (f.emin - f.fbits + b) := by
  have hp : 0 < 2 ^ f.fbits := by positivity
  rw [pow_succ] at hr
  have hdiv : (b * 2 ^ f.fbits + r) / 2 ^ f.fbits = b + r / 2 ^ f.fbits := by rw [add_comm, Nat.add_mul_div_right _ _ hp, add_comm]
  rcases hr.lt_or_eq with hlt | rfl
  · have hfield : (b * 2 ^ f.fbits + r) / 2 ^ f.fbits - 1 = b := by
      rw [hdiv]
      rcases Nat.lt_or_ge r (2 ^ f.fbits) with h | h
      · have := Nat.div_eq_of_lt h; omega
      · have : r / 2 ^ f.fbits = 1 := Nat.div_eq_of_lt_le (by omega) (by omega)
        omega
    simp only [Fp.Format.magnitude, Fp.Format.significand, Fp.Format.spacing, hfield]
    simp
  · have hfield : (b * 2 ^ f.fbits + 2 ^ f.fbits * 2) / 2 ^ f.fbits - 1 = b + 1 := by rw [hdiv, Nat.mul_div_cancel_left _ hp]; omega
    have hsig : b * 2 ^ f.fbits + 2 ^ f.fbits * 2 - (b + 1) * 2 ^ f.fbits = 2 ^ f.fbits := by rw [add_one_mul]; omega
    simp only [Fp.Format.magnitude, Fp.Format.significand, Fp.Format.spacing, hfield, hsig]
    push_cast
    rw [← add_assoc, zpow_add_one₀ two_ne_zero]
    ring

/-- Every code lies in a block, before the block's last. -/
theorem Fp.Format.code_eq (f : Fp.Format) (c : Nat) : c = (c / 2 ^ f.fbits - 1) * 2 ^ f.fbits + f.significand c ∧
    (c / 2 ^ f.fbits - 1 = 0 ∨ 2 ^ f.fbits ≤ f.significand c) ∧ f.significand c < 2 ^ (f.fbits + 1) := by
  have hmod := Nat.div_add_mod' c (2 ^ f.fbits)
  have hlt := Nat.mod_lt c (Nat.two_pow_pos f.fbits)
  rw [pow_succ]
  unfold Fp.Format.significand
  rcases Nat.eq_zero_or_pos (c / 2 ^ f.fbits) with h | h
  · rw [h, zero_mul] at hmod
    simp [h]; omega
  · obtain ⟨b, hb⟩ : ∃ b, c / 2 ^ f.fbits = b + 1 := Nat.exists_eq_succ_of_ne_zero h.ne'
    rw [hb, add_one_mul] at hmod
    rw [hb, Nat.add_sub_cancel]
    omega

theorem Fp.Format.magnitude_succ (f : Fp.Format) (c : Nat) : f.magnitude (c + 1) = f.magnitude c + 2 ^ f.spacing c := by
  obtain ⟨hc, hb, hr⟩ := f.code_eq c
  have hnext := f.magnitude_block (b := c / 2 ^ f.fbits - 1) (r := f.significand c + 1) (hb.imp_right Nat.le_succ_of_le) hr
  rw [← add_assoc, ← hc] at hnext
  rw [hnext, Fp.Format.magnitude, Fp.Format.spacing]
  push_cast
  ring

theorem Fp.Format.magnitude_strictMono (f : Fp.Format) : StrictMono f.magnitude :=
  strictMono_nat_of_lt_succ fun c => by
    rw [f.magnitude_succ]
    linarith [zpow_pos (two_pos : (0 : ℝ) < 2) (f.spacing c)]

theorem Fp.Format.magnitude_nonneg (f : Fp.Format) (c : Nat) : 0 ≤ f.magnitude c := by unfold Fp.Format.magnitude; positivity

/-- Below the first normal code the magnitudes are the multiples of the least one. -/
theorem Fp.Format.magnitude_subnormal (f : Fp.Format) {c : Nat} (hc : c ≤ 2 ^ (f.fbits + 1)) :
    f.magnitude c = Fp.grid (f.emin - f.fbits) c := by
  simpa [Fp.grid] using f.magnitude_block (b := 0) (.inl rfl) hc

/-! ## Selecting among them -/

section
variable {f : Fp.Format} {d : Fp.Direction} {q : Int} {x : ℝ} {n : Nat}

/-- Where x needs all bits of a significand, the multiple of 2^q below it has them. -/
theorem Fp.grid_full_range {f : Fp.Format} {q : Int} {x : ℝ} {k : Nat} (hk : Fp.grid q k ≤ x) (hk' : x < Fp.grid q (k + 1))
    (hlo : (2 : ℝ) ^ (q + f.fbits) ≤ x) (hhi : x < 2 ^ (q + f.fbits + 1)) : 2 ^ f.fbits ≤ k ∧ k < 2 ^ (f.fbits + 1) := by
  have hpow (j : Nat) : (2 : ℝ) ^ (q + j) = Fp.grid q (2 ^ j) := by
    rw [Fp.grid, zpow_add₀ two_ne_zero, mul_comm]; push_cast; rw [zpow_natCast]
  rw [hpow] at hlo
  rw [show q + f.fbits + 1 = q + (f.fbits + 1 : Nat) by push_cast; ring, hpow] at hhi
  exact ⟨Nat.lt_succ_iff.mp ((Fp.grid_strictMono q).lt_iff_lt.mp (hlo.trans_lt hk')),
    (Fp.grid_strictMono q).lt_iff_lt.mp (hk.trans_lt hhi)⟩

theorem Fp.Selects.full_range (h : Fp.Selects d (Fp.grid q) x n) (hlo : (2 : ℝ) ^ (q + f.fbits) ≤ x)
    (hhi : x < 2 ^ (q + f.fbits + 1)) : 2 ^ f.fbits ≤ n ∧ n ≤ 2 ^ (f.fbits + 1) := by
  obtain ⟨k, hk, hk', hraise, hstay⟩ := h
  obtain ⟨hmin, hmax⟩ := Fp.grid_full_range hk hk' hlo hhi
  by_cases hr : Fp.Raises d (Fp.grid q k) (Fp.grid q (k + 1)) x k
  · rw [hraise hr]; omega
  · rw [hstay hr]; omega

/-- From the multiples of 2^q, where x needs all bits of a significand, to the codes with that spacing. -/
theorem Fp.Selects.normal (hf : 1 ≤ f.fbits) (h : Fp.Selects d (Fp.grid q) x n) (hlo : (2 : ℝ) ^ (q + f.fbits) ≤ x)
    (hhi : x < 2 ^ (q + f.fbits + 1)) (hq : f.emin - f.fbits ≤ q) :
    Fp.Selects d f.magnitude x ((q - (f.emin - f.fbits)).toNat * 2 ^ f.fbits + n) := by
  obtain ⟨k, hk, hk', hrest⟩ := id h
  obtain ⟨hmin, hmax⟩ := Fp.grid_full_range hk hk' hlo hhi
  have hspace : f.emin - f.fbits + ((q - (f.emin - f.fbits)).toNat : Int) = q := by omega
  refine h.shift (Fp.grid_strictMono q) hk hk' ?_ ?_ ?_
  · obtain ⟨j, hj⟩ := Nat.exists_eq_add_of_le hf
    rw [hj, pow_add, pow_one, mul_left_comm]
    exact Nat.mul_mod_right 2 _
  · rw [f.magnitude_block (.inr hmin) hmax.le, hspace, Fp.grid]
  · rw [add_assoc, f.magnitude_block (.inr (by omega)) hmax, hspace, Fp.grid]

/-- From the multiples of the least magnitude, below the first normal code, to the codes. -/
theorem Fp.Selects.subnormal (h : Fp.Selects d (Fp.grid (f.emin - f.fbits)) x n) (hhi : x < 2 ^ f.emin) :
    Fp.Selects d f.magnitude x n ∧ n ≤ 2 ^ f.fbits := by
  obtain ⟨k, hk, hk', hraise, hstay⟩ := id h
  have hmax : k < 2 ^ f.fbits := by
    rw [show f.emin = f.emin - f.fbits + f.fbits by ring, zpow_add₀ two_ne_zero, mul_comm, zpow_natCast] at hhi
    refine (Fp.grid_strictMono (f.emin - f.fbits)).lt_iff_lt.mp (hk.trans_lt (hhi.trans_eq ?_))
    simp [Fp.grid]
  have hle : k + 1 ≤ 2 ^ (f.fbits + 1) := by rw [pow_succ]; omega
  refine ⟨?_, ?_⟩
  · have := h.shift (g := f.magnitude) (b := 0) (Fp.grid_strictMono _) hk hk' rfl
      (by rw [zero_add, f.magnitude_subnormal (by omega)]) (by rw [zero_add, f.magnitude_subnormal hle])
    rwa [zero_add] at this
  · by_cases hr : Fp.Raises d (Fp.grid (f.emin - f.fbits) k) (Fp.grid (f.emin - f.fbits) (k + 1)) x k
    · rw [hraise hr]; omega
    · rw [hstay hr]; omega

/-- What rounds up between near neighbours does so between a farther lower one and the same upper one. -/
theorem Fp.Raises.lower {lo lo' hi : ℝ} {k k' : Nat} (h : Fp.Raises d lo hi x k) (hlo : lo' < lo) : Fp.Raises d lo' hi x k' := by
  cases d with
  | nearest => exact .inl (by rcases h with h | ⟨h, -⟩ <;> linarith)
  | toward => exact h
  | away => exact hlo.trans h

/-- Rounding with a full significand just below the least normal value, up to that value: the code selected is the first normal one. -/
theorem Fp.Selects.leastNormal (h : Fp.Selects d (Fp.grid q) x (2 ^ (f.fbits + 1))) (hhi : x < 2 ^ (q + f.fbits + 1))
    (hq : q + 1 = f.emin - f.fbits) : Fp.Selects d f.magnitude x (2 ^ f.fbits) := by
  obtain ⟨k, hk, hk', hraise, hstay⟩ := h
  have hp : 0 < 2 ^ f.fbits := by positivity
  have htop : (2 : ℝ) ^ (q + f.fbits + 1) = Fp.grid q (2 ^ (f.fbits + 1)) := by
    rw [Fp.grid, add_assoc, zpow_add₀ two_ne_zero, mul_comm]; push_cast; norm_cast
  have hmax : k < 2 ^ (f.fbits + 1) := (Fp.grid_strictMono q).lt_iff_lt.mp (hk.trans_lt (hhi.trans_eq htop))
  have hr : Fp.Raises d (Fp.grid q k) (Fp.grid q (k + 1)) x k := by
    by_contra hr
    exact hmax.ne (hstay hr).symm
  have hk1 : k + 1 = 2 ^ (f.fbits + 1) := (hraise hr).symm
  have hgrid (j : Nat) : Fp.grid (f.emin - f.fbits) j = Fp.grid q (2 * j) := by
    rw [Fp.grid, Fp.grid, ← hq, zpow_add_one₀ two_ne_zero]; push_cast; ring
  have hlower : f.magnitude (2 ^ f.fbits - 1) < Fp.grid q k := by
    rw [f.magnitude_subnormal (by rw [pow_succ]; omega), hgrid]
    exact Fp.grid_strictMono q (by rw [pow_succ] at hk1; omega)
  have hupper : f.magnitude (2 ^ f.fbits - 1 + 1) = Fp.grid q (k + 1) := by
    rw [Nat.sub_add_cancel hp, f.magnitude_subnormal (by rw [pow_succ]; omega), hgrid, hk1, pow_succ, mul_comm]
  rw [← hupper] at hr hk'
  exact ⟨2 ^ f.fbits - 1, hlower.le.trans hk, hk', fun _ => (Nat.sub_add_cancel hp).symm, fun h => absurd (hr.lower hlower) h⟩

end

/-! ## Tininess -/

/-- The magnitude that a direction chooses in an unbounded exponent range is below the least normal one (R92). -/
def Fp.Tiny (f : Fp.Format) (d : Fp.Direction) (x : ℝ) : Prop :=
  match d with
  | .nearest => x < 2 ^ f.emin - 2 ^ (f.emin - f.fbits - 1) / 2
  | .toward => x < 2 ^ f.emin
  | .away => x ≤ 2 ^ f.emin - 2 ^ (f.emin - f.fbits - 1)

theorem Fp.Tiny.lt {f : Fp.Format} {d : Fp.Direction} {x : ℝ} (h : Fp.Tiny f d x) : x < 2 ^ f.emin := by
  have := zpow_pos (two_pos : (0 : ℝ) < 2) (f.emin - f.fbits - 1)
  cases d <;> simp only [Fp.Tiny] at h <;> linarith

/-- Below half the least normal value everything is tiny. -/
theorem Fp.tiny_of_lt {f : Fp.Format} (d : Fp.Direction) {x : ℝ} (h : x < 2 ^ (f.emin - 1)) : Fp.Tiny f d x := by
  have hhalf : (2 : ℝ) ^ f.emin = 2 * 2 ^ (f.emin - 1) := by rw [zpow_sub_one₀ two_ne_zero]; ring
  have hgap : (2 : ℝ) ^ (f.emin - f.fbits - 1) ≤ 2 ^ (f.emin - 1) := zpow_le_zpow_right₀ one_le_two (by omega)
  have := zpow_pos (two_pos : (0 : ℝ) < 2) (f.emin - f.fbits - 1)
  cases d <;> simp only [Fp.Tiny] <;> linarith

/-- Just below the least normal value it is decided by whether a full significand rounds up to the next power of two. -/
theorem Fp.Selects.tiny_iff {f : Fp.Format} {d : Fp.Direction} {q : Int} {x : ℝ} {n : Nat} (h : Fp.Selects d (Fp.grid q) x n)
    (hq : q + 1 = f.emin - f.fbits) : Fp.Tiny f d x ↔ n < 2 ^ (f.fbits + 1) := by
  have hp : 0 < 2 ^ (f.fbits + 1) := by positivity
  have hodd : (2 ^ (f.fbits + 1) - 1) % 2 = 1 := by rw [pow_succ] at *; omega
  have hgap : f.emin - f.fbits - 1 = q := by omega
  have htop : Fp.grid q (2 ^ (f.fbits + 1) - 1 + 1) = 2 ^ f.emin := by
    rw [Nat.sub_add_cancel hp, Fp.grid, show f.emin = (f.fbits + 1 : Nat) + q by push_cast; omega, zpow_add₀ two_ne_zero, zpow_natCast]
    push_cast; rfl
  have hlast : Fp.grid q (2 ^ (f.fbits + 1) - 1) = 2 ^ f.emin - 2 ^ q := by
    rw [← htop, Fp.grid, Fp.grid]; push_cast; ring
  rw [← not_le, show 2 ^ (f.fbits + 1) ≤ n ↔ 2 ^ (f.fbits + 1) - 1 < n by omega]
  have hmono := Fp.grid_strictMono q
  cases d with
  | nearest =>
    rw [h.nearest_gt_iff hmono, if_pos hodd, htop, hlast, not_le, Fp.Tiny, hgap]
    constructor <;> intro h <;> linarith
  | toward => rw [h.toward_gt_iff hmono, htop, not_le, Fp.Tiny]
  | away => rw [h.away_gt_iff hmono, hlast, not_lt, Fp.Tiny, hgap]

/-! ## `roundTo` -/

/-- `roundTo` chooses with a full significand at first; the units are then those of 2^q (R92). -/
def Fp.Format.fullUnits (f : Fp.Format) (m : Nat) (e : Int) : Int := e + (Nat.log2 m : Int) - f.fbits

theorem Fp.Marks.full (f : Fp.Format) {m : Nat} {e : Int} {above : Bool} {x : ℝ} (hx : Fp.Marks m e above x) (hm : m ≠ 0) :
    (2 : ℝ) ^ (f.fullUnits m e + f.fbits) ≤ x ∧ x < 2 ^ (f.fullUnits m e + f.fbits + 1) := by
  have he : (0 : ℝ) < 2 ^ e := zpow_pos two_pos e
  have hlo : (2 : ℝ) ^ Nat.log2 m ≤ m := by exact_mod_cast Nat.log2_self_le hm
  have hhi : (m : ℝ) + 1 ≤ 2 ^ (Nat.log2 m + 1) := by exact_mod_cast Nat.lt_log2_self
  unfold Fp.Format.fullUnits
  rw [show e + (Nat.log2 m : Int) - f.fbits + f.fbits = (Nat.log2 m : Int) + e by ring, add_right_comm, zpow_add₀ two_ne_zero,
    zpow_add₀ two_ne_zero, zpow_natCast]
  exact ⟨(mul_le_mul_of_nonneg_right hlo he.le).trans hx.le, hx.lt.trans_le (mul_le_mul_of_nonneg_right (by exact_mod_cast hhi) he.le)⟩

/-- The result of rounding to code c, as R92 gives it: beyond the largest code the overflow result, else the code; the flags. -/
structure Fp.RoundedTo (f : Fp.Format) (mode : Rounding) (neg : Bool) (x : ℝ) (r : Nat × FpFlags) (c : Nat) : Prop where
  selects : Fp.Selects (Fp.direction mode neg) f.magnitude x c
  beyond : f.maxCode < c → r = (f.signBit neg + Fp.overflowCode f mode neg, 20)
  code : c ≤ f.maxCode → r.1 = f.signBit neg + c
  quiet : c ≤ f.maxCode → x = f.magnitude c → r.2 = 0
  tiny : c ≤ f.maxCode → x ≠ f.magnitude c → Fp.Tiny f (Fp.direction mode neg) x → r.2 = 24
  inexact : c ≤ f.maxCode → x ≠ f.magnitude c → ¬ Fp.Tiny f (Fp.direction mode neg) x → r.2 = 16

/-- A full significand and its exponent, where rounding up has come to the next power of two. -/
def Fp.renormalized (f : Fp.Format) (q : Int) (n : Nat) : Int × Nat :=
  if n = 2 ^ (f.fbits + 1) then (q + 1, 2 ^ f.fbits) else (q, n)

/-- Renormalizing keeps the code of a normal value. -/
theorem Fp.renormalized_code (f : Fp.Format) {q : Int} {n : Nat} (hq : f.emin - f.fbits ≤ q) :
    f.emin - f.fbits ≤ (Fp.renormalized f q n).1 ∧
    ((Fp.renormalized f q n).1 - (f.emin - f.fbits)).toNat * 2 ^ f.fbits + (Fp.renormalized f q n).2 =
      (q - (f.emin - f.fbits)).toNat * 2 ^ f.fbits + n := by
  unfold Fp.renormalized
  split
  · next hn =>
    have hstep : (q + 1 - (f.emin - f.fbits)).toNat = (q - (f.emin - f.fbits)).toNat + 1 := by omega
    exact ⟨by omega, by rw [hn, hstep]; ring⟩
  · exact ⟨hq, rfl⟩

/-- The branches of `roundTo`, with `full` the rounding to a full significand. -/
theorem Fp.roundTo_eq (f : Fp.Format) (mode : Rounding) (neg : Bool) {m : Nat} (e : Int) (above : Bool) (hm : m ≠ 0) :
    let full := Fp.roundUnits mode neg m e above (f.fullUnits m e)
    let z := Fp.renormalized f (f.fullUnits m e) full.1
    let low := Fp.roundUnits mode neg m e above (f.emin - f.fbits)
    let code := (z.1 - (f.emin - f.fbits)).toNat * 2 ^ f.fbits + z.2
    Fp.roundTo f mode neg m e above =
      if z.1 < f.emin - f.fbits then (f.signBit neg + low.1, FpFlags.when low.2 (.underflow ||| .inexact))
      else if f.maxCode < code then (f.signBit neg + Fp.overflowCode f mode neg, .overflow ||| .inexact)
      else (f.signBit neg + code, FpFlags.when full.2 .inexact) := by
  simp only [Fp.roundTo, hm, decide_false, Bool.false_and, Bool.false_eq_true, if_false, Fp.renormalized, Fp.Format.fullUnits]
  split <;> rename_i h <;> simp only [h, if_true, if_false]

section
variable {f : Fp.Format} {mode : Rounding} {neg : Bool} {x : ℝ}

/-- A tiny magnitude rounded to the units of the least one. -/
theorem Fp.RoundedTo.ofLow {low : Nat × Bool} (hsel : Fp.Selects (Fp.direction mode neg) (Fp.grid (f.emin - f.fbits)) x low.1)
    (hinexact : low.2 = true ↔ x ≠ Fp.grid (f.emin - f.fbits) low.1) (hmax : 2 ^ f.fbits ≤ f.maxCode)
    (ht : Fp.Tiny f (Fp.direction mode neg) x) :
    Fp.RoundedTo f mode neg x (f.signBit neg + low.1, FpFlags.when low.2 (.underflow ||| .inexact)) low.1 := by
  obtain ⟨hcode, hle⟩ := hsel.subnormal ht.lt
  rw [← f.magnitude_subnormal (by rw [pow_succ]; omega)] at hinexact
  refine ⟨hcode, fun h => by omega, fun _ => rfl, fun _ h => ?_, fun _ h _ => ?_, fun _ _ h => absurd ht h⟩
  · simp [FpFlags.when, mt hinexact.mp (not_not.mpr h)]
  · simp [FpFlags.when, hinexact.mpr h, FpFlags.underflow, FpFlags.inexact]

/-- A magnitude that is not tiny, rounded to a full significand that code c stands for. -/
theorem Fp.RoundedTo.ofFull {full : Nat × Bool} {q : Int} {c : Nat} (hc : Fp.Selects (Fp.direction mode neg) f.magnitude x c)
    (hmag : f.magnitude c = Fp.grid q full.1) (hinexact : full.2 = true ↔ x ≠ Fp.grid q full.1)
    (ht : ¬ Fp.Tiny f (Fp.direction mode neg) x) :
    Fp.RoundedTo f mode neg x (if f.maxCode < c then (f.signBit neg + Fp.overflowCode f mode neg, .overflow ||| .inexact)
      else (f.signBit neg + c, FpFlags.when full.2 .inexact)) c := by
  rw [← hmag] at hinexact
  refine ⟨hc, fun h => by rw [if_pos h]; rfl, fun h => by rw [if_neg h.not_gt], fun h hne => ?_, fun _ _ h => absurd h ht,
    fun h hne _ => ?_⟩
  · simp [h.not_gt, FpFlags.when, mt hinexact.mp (not_not.mpr hne)]
  · simp [h.not_gt, FpFlags.when, hinexact.mpr hne, FpFlags.inexact]

/-- `roundTo` rounds the magnitude to one of the format's codes (R92). -/
theorem Fp.roundTo_roundedTo (hf : 1 ≤ f.fbits) (hmax : 2 ^ f.fbits ≤ f.maxCode) {m : Nat} {e : Int} {above : Bool} (hm : m ≠ 0)
    (hx : Fp.Marks m e above x) (hbits : above = true → f.fbits < Nat.log2 m) :
    ∃ c, Fp.RoundedTo f mode neg x (Fp.roundTo f mode neg m e above) c := by
  obtain ⟨hlo, hhi⟩ := hx.full f hm
  have hq : above = true → e < f.fullUnits m e := fun h => by have := hbits h; unfold Fp.Format.fullUnits; omega
  obtain ⟨hsel, hinexact⟩ := Fp.roundUnits_selects (mode := mode) (neg := neg) hx hq
  have hlow (h : f.fullUnits m e < f.emin - f.fbits) :=
    Fp.roundUnits_selects (mode := mode) (neg := neg) hx fun ha => (hq ha).trans h
  rw [Fp.roundTo_eq f mode neg e above hm]
  generalize f.fullUnits m e = q at *
  generalize Fp.roundUnits mode neg m e above q = full at *
  generalize Fp.roundUnits mode neg m e above (f.emin - f.fbits) = low at *
  have hpow : 2 ^ (f.fbits + 1) = 2 ^ f.fbits + 2 ^ f.fbits := by rw [pow_succ]; ring
  have hn := hsel.full_range hlo hhi
  rcases lt_trichotomy (q + 1) (f.emin - f.fbits) with hqE | hqE | hqE
  · -- more than a binade below the least normal value
    have hz : (Fp.renormalized f q full.1).1 < f.emin - f.fbits := by unfold Fp.renormalized; split <;> simp only <;> omega
    have ht : Fp.Tiny f (Fp.direction mode neg) x :=
      Fp.tiny_of_lt _ (hhi.trans_le (zpow_le_zpow_right₀ one_le_two (by omega)))
    obtain ⟨hselLow, hinexactLow⟩ := hlow (by omega)
    exact ⟨low.1, by rw [if_pos hz]; exact .ofLow hselLow hinexactLow hmax ht⟩
  · -- in the binade below it: tiny unless rounded up to it
    rcases hn.2.lt_or_eq with hlt | heq
    · have hz : (Fp.renormalized f q full.1).1 < f.emin - f.fbits := by rw [Fp.renormalized, if_neg hlt.ne]; simp only; omega
      obtain ⟨hselLow, hinexactLow⟩ := hlow (by omega)
      exact ⟨low.1, by rw [if_pos hz]; exact .ofLow hselLow hinexactLow hmax ((hsel.tiny_iff hqE).mpr hlt)⟩
    · have ht : ¬ Fp.Tiny f (Fp.direction mode neg) x := fun h => by have := (hsel.tiny_iff hqE).mp h; omega
      have hmag : f.magnitude (2 ^ f.fbits) = Fp.grid q full.1 := by
        rw [f.magnitude_subnormal (by omega), heq, Fp.grid, Fp.grid, ← hqE, zpow_add_one₀ two_ne_zero, pow_succ]
        push_cast; ring
      have hc := (heq ▸ hsel : Fp.Selects _ (Fp.grid q) x (2 ^ (f.fbits + 1))).leastNormal hhi hqE
      refine ⟨2 ^ f.fbits, ?_⟩
      simpa [Fp.renormalized, heq, hqE] using Fp.RoundedTo.ofFull hc hmag hinexact ht
  · -- a normal value
    have hqE : f.emin - f.fbits ≤ q := by omega
    have hspace : f.emin - f.fbits + ((q - (f.emin - f.fbits)).toNat : Int) = q := by omega
    have ht : ¬ Fp.Tiny f (Fp.direction mode neg) x := fun h =>
      absurd h.lt (not_lt.mpr ((zpow_le_zpow_right₀ one_le_two (by omega)).trans hlo))
    have hmag : f.magnitude ((q - (f.emin - f.fbits)).toNat * 2 ^ f.fbits + full.1) = Fp.grid q full.1 := by
      rw [f.magnitude_block (.inr hn.1) hn.2, hspace, Fp.grid]
    obtain ⟨hz, hcode⟩ := Fp.renormalized_code f (n := full.1) hqE
    simp only [hz.not_gt, if_false, hcode]
    exact ⟨_, .ofFull (hsel.normal hf hlo hhi hqE) hmag hinexact ht⟩

end

end Sys2Proof.Machine
end

section
/-!
PROOF. O17: what encodings stand for (R82, R83), and the rounding to a code as R92 states it of encodings.
-/
namespace Sys2Proof.Machine
open Sys2Proof

/-! ## Encodings -/

/-- A format has at least two exponent bits and a fraction bit. -/
structure Fp.Format.Regular (f : Fp.Format) : Prop where
  ebits : 2 ≤ f.ebits
  fbits : 1 ≤ f.fbits

theorem Fp.regular_of_mem {f : Fp.Format} (h : f ∈ Fp.allFormats) : f.Regular := by
  have : ∀ f ∈ Fp.allFormats, 2 ≤ f.ebits ∧ 1 ≤ f.fbits := by decide
  exact ⟨(this f h).1, (this f h).2⟩

/-- The magnitude code of an encoding. -/
def Fp.Format.magCode (f : Fp.Format) (w : Nat) : Nat := w % 2 ^ (f.ebits + f.fbits)

/-- The sign of an encoding. -/
def Fp.Format.negCode (f : Fp.Format) (w : Nat) : Bool := w / 2 ^ (f.ebits + f.fbits) % 2 == 1

/-- The exponent field and the fraction are those of the magnitude code. -/
theorem Fp.Format.exponent_eq (f : Fp.Format) (w : Nat) : w / 2 ^ f.fbits % 2 ^ f.ebits = f.magCode w / 2 ^ f.fbits := by
  rw [Fp.Format.magCode, add_comm f.ebits, pow_add, Nat.mod_mul_right_div_self]

theorem Fp.Format.fraction_eq (f : Fp.Format) (w : Nat) : w % 2 ^ f.fbits = f.magCode w % 2 ^ f.fbits := by
  rw [Fp.Format.magCode, pow_add, Nat.mod_mod_of_dvd _ (Dvd.intro_left _ rfl)]

section
variable {f : Fp.Format}

theorem Fp.Format.magCode_of_lt {c : Nat} (hc : c < 2 ^ (f.ebits + f.fbits)) (neg : Bool) : f.magCode (f.signBit neg + c) = c := by
  cases neg <;> simp [Fp.Format.magCode, Fp.Format.signBit, Nat.mod_eq_of_lt hc]

theorem Fp.Format.negCode_of_lt {c : Nat} (hc : c < 2 ^ (f.ebits + f.fbits)) (neg : Bool) : f.negCode (f.signBit neg + c) = neg := by
  cases neg <;> simp [Fp.Format.negCode, Fp.Format.signBit, Nat.div_eq_of_lt hc]

theorem Fp.Format.signBit_add_lt {c : Nat} (hc : c < 2 ^ (f.ebits + f.fbits)) (neg : Bool) : f.signBit neg + c < 2 ^ f.width := by
  have : 2 ^ f.width = 2 * 2 ^ (f.ebits + f.fbits) := by rw [Fp.Format.width, add_assoc, pow_add, pow_one]
  cases neg <;> simp [Fp.Format.signBit] <;> omega

namespace Fp.Format.Regular
variable (hf : f.Regular)
include hf

theorem two_pow_ebits : ∃ k, 2 ^ f.ebits = k + 4 := by
  obtain ⟨j, hj⟩ := Nat.exists_eq_add_of_le hf.ebits
  have : 1 ≤ 2 ^ j := Nat.one_le_two_pow
  exact ⟨4 * 2 ^ j - 4, by rw [hj, pow_add]; omega⟩

theorem two_pow_fbits : 2 ≤ 2 ^ f.fbits := by
  obtain ⟨j, hj⟩ := Nat.exists_eq_add_of_le hf.fbits
  have : 1 ≤ 2 ^ j := Nat.one_le_two_pow
  rw [hj, pow_add]; omega

/-- The largest finite code is a normal one and below the sign bit. -/
theorem maxCode_bounds : 2 ^ f.fbits ≤ f.maxCode ∧ f.maxCode < 2 ^ (f.ebits + f.fbits) := by
  obtain ⟨k, hk⟩ := hf.two_pow_ebits
  have hp := hf.two_pow_fbits
  have h1 : (k + 3) * 2 ^ f.fbits = k * 2 ^ f.fbits + 3 * 2 ^ f.fbits := by ring
  have h2 : (k + 4) * 2 ^ f.fbits = k * 2 ^ f.fbits + 4 * 2 ^ f.fbits := by ring
  unfold Fp.Format.maxCode Fp.Format.infCode
  rw [pow_add, hk, show k + 4 - 1 = k + 3 from rfl, h1, h2]
  split <;> omega

theorem infCode_eq (h : f.specials = .ieee) : f.infCode = f.maxCode + 1 := by
  obtain ⟨k, hk⟩ := hf.two_pow_ebits
  have hp := hf.two_pow_fbits
  have h1 : (k + 3) * 2 ^ f.fbits = k * 2 ^ f.fbits + 3 * 2 ^ f.fbits := by ring
  simp only [Fp.Format.maxCode, h, Fp.Format.infCode, hk, show k + 4 - 1 = k + 3 from rfl, h1]
  omega

theorem signBit_even (neg : Bool) : f.signBit neg % 2 = 0 := by
  obtain ⟨j, hj⟩ := Nat.exists_eq_add_of_le hf.fbits
  cases neg
  · rfl
  · rw [Fp.Format.signBit, if_pos rfl, hj, ← add_assoc, add_right_comm, pow_succ]; exact Nat.mul_mod_left _ 2

/-- Which encodings a special value has. -/
theorem special_iff (w : Nat) : f.maxCode < f.magCode w ↔
    f.specials = .ieee ∧ f.magCode w / 2 ^ f.fbits = 2 ^ f.ebits - 1 ∨
      f.specials = .e4m3 ∧ f.magCode w = 2 ^ (f.ebits + f.fbits) - 1 := by
  have hlt : f.magCode w < 2 ^ (f.ebits + f.fbits) := Nat.mod_lt _ (by positivity)
  cases hs : f.specials with
  | ieee =>
    have hp := hf.two_pow_fbits
    have hE : 1 ≤ 2 ^ f.ebits := Nat.one_le_two_pow
    have hdiv : f.magCode w / 2 ^ f.fbits < 2 ^ f.ebits := by rw [Nat.div_lt_iff_lt_mul (by omega), ← pow_add]; exact hlt
    have hle := Nat.le_div_iff_mul_le (x := 2 ^ f.ebits - 1) (y := f.magCode w) (by omega : 0 < 2 ^ f.fbits)
    have hinf := hf.infCode_eq hs
    rw [Fp.Format.infCode] at hinf
    rw [hinf] at hle
    simp only [reduceCtorEq, true_and, false_and, or_false]
    omega
  | e4m3 =>
    have := hf.two_pow_fbits
    have : 2 ^ f.fbits ≤ 2 ^ (f.ebits + f.fbits) := Nat.pow_le_pow_right two_pos (by omega)
    simp only [reduceCtorEq, true_and, false_and, false_or, Fp.Format.maxCode, hs]
    omega
  | none =>
    simp only [reduceCtorEq, false_and, or_false, iff_false, not_lt, Fp.Format.maxCode, hs]
    exact Nat.le_sub_one_of_lt hlt

/-- An encoding up to the largest finite one: its sign, and the significand and spacing of its magnitude code (R83). -/
theorem decode_fin {w : Nat} (h : f.magCode w ≤ f.maxCode) :
    Fp.decode f w = .fin (f.negCode w) (f.significand (f.magCode w)) (f.spacing (f.magCode w)) := by
  have hspecial := (hf.special_iff w).not.mp h.not_gt
  simp only [not_or, not_and] at hspecial
  have hex := f.exponent_eq w
  have hfr := f.fraction_eq w
  unfold Fp.decode
  simp only [hex, hfr, ← Fp.Format.magCode.eq_def, ← Fp.Format.negCode.eq_def]
  rw [if_neg (by simpa using hspecial.1), if_neg (by simpa using hspecial.2)]
  have hmod := Nat.div_add_mod' (f.magCode w) (2 ^ f.fbits)
  rcases Nat.eq_zero_or_pos (f.magCode w / 2 ^ f.fbits) with hz | hpos
  · rw [hz, zero_mul, zero_add] at hmod
    simp [hz, hmod, Fp.Format.significand, Fp.Format.spacing]
  · obtain ⟨b, hb⟩ : ∃ b, f.magCode w / 2 ^ f.fbits = b + 1 := Nat.exists_eq_succ_of_ne_zero hpos.ne'
    rw [hb, add_one_mul] at hmod
    have hsig : f.significand (f.magCode w) = 2 ^ f.fbits + f.magCode w % 2 ^ f.fbits := by
      rw [Fp.Format.significand, hb, Nat.add_sub_cancel]; omega
    rw [hb, if_neg (by simp), hsig, Fp.Format.spacing, hb, Fp.Format.emin]
    congr 1
    rw [Nat.add_sub_cancel]
    push_cast
    ring

theorem decode_signBit_add {c : Nat} (hc : c ≤ f.maxCode) (neg : Bool) :
    Fp.decode f (f.signBit neg + c) = .fin neg (f.significand c) (f.spacing c) := by
  have hlt := hc.trans_lt hf.maxCode_bounds.2
  have hcode := f.magCode_of_lt hlt neg
  rw [hf.decode_fin (hcode.trans_le hc), hcode, f.negCode_of_lt hlt neg]

/-- An encoding beyond the largest finite one is special. -/
theorem decode_special {w : Nat} (h : f.maxCode < f.magCode w) : (Fp.decode f w).finite = false := by
  have hex := f.exponent_eq w
  unfold Fp.decode
  simp only [hex, ← Fp.Format.magCode.eq_def]
  rcases (hf.special_iff w).mp h with ⟨hs, hc⟩ | ⟨hs, hc⟩
  · simp only [hs, hc, beq_self_eq_true, Bool.and_self, if_true]
    split <;> rfl
  · simp [hs, hc, Fp.Val.finite]

theorem finite_iff (w : Nat) : (Fp.decode f w).finite = true ↔ f.magCode w ≤ f.maxCode := by
  constructor
  · intro h
    by_contra hc
    simp [hf.decode_special (not_le.mp hc)] at h
  · intro h
    rw [hf.decode_fin h]
    rfl

end Fp.Format.Regular

end

/-- The real value of a finite value. -/
theorem Fp.Val.rat_fin (neg : Bool) (m : Nat) (e : Int) :
    ((Fp.Val.fin neg m e).rat : ℝ) = (if neg then -1 else 1) * (m * (2 : ℝ) ^ e) := by
  cases neg <;> simp [Fp.Val.rat]

/-- A finite encoding's value is its magnitude under its sign. -/
theorem Fp.Format.Regular.decode_rat {f : Fp.Format} (hf : f.Regular) {w : Nat} (h : f.magCode w ≤ f.maxCode) :
    ((Fp.decode f w).rat : ℝ) = (if f.negCode w then -1 else 1) * f.magnitude (f.magCode w) := by
  rw [hf.decode_fin h, Fp.Val.rat_fin, Fp.Format.magnitude]

/-! ## R92, stated of encodings -/

theorem Fp.direction_nearest_iff (mode : Rounding) (neg : Bool) : mode = .rne ↔ Fp.direction mode neg = .nearest := by
  cases mode <;> cases neg <;> simp [Fp.direction]

theorem Fp.direction_toward_iff {x : ℝ} (hx : x ≠ 0) (mode : Rounding) :
    (mode = .rz ∨ (mode = .ru ∧ x < 0) ∨ (mode = .rd ∧ 0 < x)) ↔ Fp.direction mode (decide (x < 0)) = .toward := by
  rcases hx.lt_or_gt with h | h <;> cases mode <;> simp [Fp.direction, h, h.not_gt]

theorem Fp.direction_away_iff {x : ℝ} (hx : x ≠ 0) (mode : Rounding) :
    ((mode = .ru ∧ 0 < x) ∨ (mode = .rd ∧ x < 0)) ↔ Fp.direction mode (decide (x < 0)) = .away := by
  rcases hx.lt_or_gt with h | h <;> cases mode <;> simp [Fp.direction, h, h.not_gt]

/-- What R92 asks of the neighbour v selected for x, beside another finite value y. -/
def Fp.Neighbour (mode : Rounding) (x v y : ℝ) (even : Prop) : Prop :=
  match mode with
  | .rne => |x - v| ≤ |x - y| ∧ (|x - v| = |x - y| → y ≠ v → even)
  | .rz => |v| ≤ |x| ∧ (|y| ≤ |x| → |y| ≤ |v|)
  | .ru => x ≤ v ∧ (x ≤ y → v ≤ y)
  | .rd => v ≤ x ∧ (y ≤ x → y ≤ v)

/-- The mode that does to a negative value what a mode does to the positive one. -/
def Fp.mirrored : Rounding → Rounding
  | .rne => .rne
  | .rz => .rz
  | .ru => .rd
  | .rd => .ru

theorem Fp.direction_mirrored (mode : Rounding) : Fp.direction mode true = Fp.direction (Fp.mirrored mode) false := by
  cases mode <;> rfl

theorem Fp.Neighbour.neg {mode : Rounding} {x v y : ℝ} {even : Prop} (h : Fp.Neighbour (Fp.mirrored mode) x v y even) :
    Fp.Neighbour mode (-x) (-v) (-y) even := by
  have habs (a b : ℝ) : |(-a) - (-b)| = |a - b| := by rw [neg_sub_neg, abs_sub_comm]
  cases mode <;> simpa only [Fp.Neighbour, Fp.mirrored, habs, abs_neg, neg_le_neg_iff, neg_inj, ne_eq] using h

section
variable {g : Nat → ℝ} (hg : StrictMono g) (hpos : ∀ j, 0 ≤ g j) {mode : Rounding} {x y : ℝ} {c j : Nat}
include hg hpos

theorem Fp.Selects.neighbour_of_pos (hx : 0 < x) (h : Fp.Selects (Fp.direction mode false) g x c) (hy : y = g j ∨ y = -g j) :
    Fp.Neighbour mode x (g c) y (c % 2 = 0) := by
  have hj := hpos j
  cases mode with
  | rne =>
    obtain ⟨hle, htie⟩ := h.nearest_closest hg j
    rcases hy with rfl | rfl
    · exact ⟨hle, htie⟩
    · have hyx : |x - -g j| = x + g j := by rw [sub_neg_eq_add, abs_of_nonneg (by linarith)]
      have hxj : |x - g j| ≤ x + g j := abs_le.mpr ⟨by linarith, by linarith⟩
      rw [Fp.Neighbour, hyx]
      refine ⟨hle.trans hxj, fun he hne => htie (le_antisymm hle (he ▸ hxj)) fun hjc => hne ?_⟩
      -- only a zero is as far as its negative
      have : |x - g j| = x + g j := by rw [hjc, he, ← hjc]
      rcases abs_cases (x - g j) with ⟨ha, -⟩ | ⟨ha, -⟩ <;> linarith
  | rz =>
    obtain ⟨hle, hall⟩ := h.toward_greatest hg
    have hyabs : |y| = g j := by rcases hy with rfl | rfl <;> simp [abs_of_nonneg hj]
    rw [Fp.Neighbour, abs_of_nonneg (hpos c), abs_of_pos hx, hyabs]
    exact ⟨hle, hall j⟩
  | ru =>
    obtain ⟨hle, hall⟩ := h.away_least hg
    refine ⟨hle, fun hxy => ?_⟩
    rcases hy with rfl | rfl
    · exact hall j hxy
    · linarith
  | rd =>
    obtain ⟨hle, hall⟩ := h.toward_greatest hg
    refine ⟨hle, fun hxy => ?_⟩
    rcases hy with rfl | rfl
    · exact hall j hxy
    · linarith [hpos c]

/-- A magnitude selected by the direction of a mode is, under the sign, the neighbour that the mode names. -/
theorem Fp.Selects.neighbour (hx : x ≠ 0) (h : Fp.Selects (Fp.direction mode (decide (x < 0))) g |x| c) (hy : y = g j ∨ y = -g j) :
    Fp.Neighbour mode x ((if x < 0 then -1 else 1) * g c) y (c % 2 = 0) := by
  rcases hx.lt_or_gt with hneg | hneg
  · rw [decide_eq_true hneg, Fp.direction_mirrored, abs_of_neg hneg] at h
    have := (h.neighbour_of_pos hg hpos (by linarith) (y := -y) (j := j) (by rcases hy with rfl | rfl <;> simp)).neg
    simpa [hneg] using this
  · rw [decide_eq_false hneg.not_gt, abs_of_pos hneg] at h
    simpa [hneg.not_gt] using h.neighbour_of_pos hg hpos hneg hy

end

section
variable {f : Fp.Format} {d : Fp.Direction} {x : ℝ} {c : Nat}

/-- A code is beyond the largest finite one exactly when R92 says that the magnitude overflows. -/
theorem Fp.Selects.beyond_iff (h : Fp.Selects d f.magnitude x c) (M : Nat) :
    ((d = .nearest → if M % 2 = 1 then f.magnitude M + 2 ^ f.spacing M / 2 ≤ x else f.magnitude M + 2 ^ f.spacing M / 2 < x) ∧
      (d = .toward → f.magnitude M + 2 ^ f.spacing M ≤ x) ∧ (d = .away → f.magnitude M < x)) ↔ M < c := by
  have hg := f.magnitude_strictMono
  cases d with
  | nearest =>
    rw [h.nearest_gt_iff hg, f.magnitude_succ]
    simp only [forall_const, reduceCtorEq, false_imp_iff, and_true]
    split <;> constructor <;> intro h <;> linarith
  | toward => simp [h.toward_gt_iff hg, f.magnitude_succ]
  | away => simp [h.away_gt_iff hg]

/-- The three clauses of R92's tininess are those of the three directions. -/
theorem Fp.tiny_iff_clauses : ((d = .nearest → x < 2 ^ f.emin - 2 ^ (f.emin - f.fbits - 1) / 2) ∧ (d = .toward → x < 2 ^ f.emin) ∧
    (d = .away → x ≤ 2 ^ f.emin - 2 ^ (f.emin - f.fbits - 1))) ↔ Fp.Tiny f d x := by
  cases d <;> simp [Fp.Tiny]

end

/-- The overflow result by direction (R92 items 1 and 2). -/
theorem Fp.overflowCode_eq (f : Fp.Format) (mode : Rounding) (neg : Bool) :
    (f.specials = .ieee → (Fp.direction mode neg = .toward → Fp.overflowCode f mode neg = f.maxCode) ∧
      (Fp.direction mode neg ≠ .toward → Fp.overflowCode f mode neg = f.infCode)) ∧
    (f.specials ≠ .ieee → Fp.overflowCode f mode neg = f.maxCode) := by
  refine ⟨fun h => ?_, fun h => ?_⟩
  · cases mode <;> cases neg <;> simp [Fp.direction, Fp.overflowCode, h]
  · unfold Fp.overflowCode
    split
    · exact absurd ‹_› h
    · rfl

/-- Rounding to a code is R92's rounding of a real to an encoding. -/
theorem Fp.RoundedTo.correctlyRounded {f : Fp.Format} (hf : f.Regular) {mode : Rounding} {x : ℝ} {r : Nat × FpFlags} {c : Nat}
    (hx : x ≠ 0) (h : Fp.RoundedTo f mode (decide (x < 0)) |x| r c) : Fp.CorrectlyRounded f mode x r := by
  obtain ⟨hnormal, hmaxlt⟩ := hf.maxCode_bounds
  have hmaxcode : f.magCode f.maxCode = f.maxCode := Nat.mod_eq_of_lt hmaxlt
  have hmaxneg : f.negCode f.maxCode = false := by simp [Fp.Format.negCode, Nat.div_eq_of_lt hmaxlt]
  have htop : ((Fp.decode f f.maxCode).rat : ℝ) = f.magnitude f.maxCode := by
    rw [hf.decode_rat hmaxcode.le, hmaxneg, hmaxcode]; simp
  have hulp : Fp.expOf (Fp.decode f f.maxCode) = f.spacing f.maxCode := by rw [hf.decode_fin hmaxcode.le, hmaxcode]; rfl
  have hsign : (if x < 0 then 2 ^ (f.ebits + f.fbits) else 0) = f.signBit (decide (x < 0)) := by simp [Fp.Format.signBit]
  unfold Fp.CorrectlyRounded
  simp only [htop, hulp, hsign, Fp.direction_nearest_iff mode (decide (x < 0)), Fp.direction_toward_iff hx, Fp.direction_away_iff hx,
    h.selects.beyond_iff, Fp.tiny_iff_clauses]
  obtain ⟨hieee, hother⟩ := Fp.overflowCode_eq f mode (decide (x < 0))
  refine ⟨fun hc => ?_, fun hc => ?_⟩
  · rw [h.beyond hc]
    exact ⟨fun hs => ⟨fun hd => by rw [(hieee hs).1 hd], fun hd => by rw [(hieee hs).2 hd]⟩, fun hs => by rw [hother hs], rfl⟩
  · have hc := not_lt.mp hc
    have hclt := hc.trans_lt hmaxlt
    rw [h.code hc]
    refine ⟨f.signBit_add_lt hclt _, _, _, _, hf.decode_signBit_add hc _, by simp, ?_⟩
    have hv : ((Fp.Val.fin (decide (x < 0)) (f.significand c) (f.spacing c)).rat : ℝ) = (if x < 0 then -1 else 1) * f.magnitude c := by
      rw [Fp.Val.rat_fin]; simp [Fp.Format.magnitude]
    have heq : (if x < 0 then -1 else 1) * f.magnitude c = x ↔ |x| = f.magnitude c := by
      rcases hx.lt_or_gt with h | h
      · rw [if_pos h, abs_of_neg h]; constructor <;> intro _ <;> linarith
      · rw [if_neg h.not_gt, abs_of_pos h]; constructor <;> intro _ <;> linarith
    have heven : (f.signBit (decide (x < 0)) + c) % 2 = c % 2 := by
      have : f.signBit (decide (x < 0)) % 2 = 0 := hf.signBit_even _
      omega
    rw [hv, ne_eq, heq]
    refine ⟨h.quiet hc, h.tiny hc, h.inexact hc, fun w _ hw => ?_⟩
    rw [hf.decode_rat ((hf.finite_iff w).mp hw), heven]
    exact h.selects.neighbour f.magnitude_strictMono f.magnitude_nonneg hx
      (j := f.magCode w) (by cases f.negCode w <;> simp)

/-- `roundTo` is R92's rounding of the real that its arguments stand for, with the mark too where the significand is long enough. -/
theorem Fp.roundTo_correctlyRounded {f : Fp.Format} (hf : f.Regular) (mode : Rounding) {m : Nat} {e : Int} {above : Bool} {x : ℝ}
    (hm : m ≠ 0) (hx : x ≠ 0) (habs : Fp.Marks m e above |x|) (hbits : above = true → f.fbits < Nat.log2 m) :
    Fp.CorrectlyRounded f mode x (Fp.roundTo f mode (decide (x < 0)) m e above) := by
  obtain ⟨c, hc⟩ := Fp.roundTo_roundedTo (f := f) (mode := mode) (neg := decide (x < 0)) hf.fbits hf.maxCode_bounds.1 hm habs hbits
  exact hc.correctlyRounded hf hx

/-- An exact non-zero value rounds as R92 says. -/
theorem Fp.roundTo_exact_correctlyRounded {f : Fp.Format} (hf : f.Regular) (mode : Rounding) (neg : Bool) {m : Nat} (e : Int) (hm : m ≠ 0) :
    Fp.CorrectlyRounded f mode ((Fp.Val.fin neg m e).rat : ℝ) (Fp.roundTo f mode neg m e false) := by
  have hpos : (0 : ℝ) < m * 2 ^ e := mul_pos (by exact_mod_cast Nat.pos_of_ne_zero hm) (zpow_pos two_pos e)
  rw [Fp.Val.rat_fin]
  have hneg : decide ((if neg = true then -1 else 1) * (m * (2 : ℝ) ^ e) < 0) = neg := by
    cases neg <;> simp <;> linarith
  have := Fp.roundTo_correctlyRounded hf mode (e := e) (above := false) (x := (if neg = true then -1 else 1) * (m * (2 : ℝ) ^ e)) hm
    (by cases neg <;> simp [hpos.ne']) (by cases neg <;> simp [Fp.Marks, abs_of_pos hpos]) (fun h => by cases h)
  rwa [hneg] at this

/-- Settles O17: every direction selects one of the two neighbouring codes, first with a full significand, which judges tininess, and
below the least normal value in units of the least one. -/
theorem roundingSelectsNeighbour : Obligations.RoundingSelectsNeighbour := by
  unfold Obligations.RoundingSelectsNeighbour
  intro f hf mode neg m e hm
  exact Fp.roundTo_exact_correctlyRounded (Fp.regular_of_mem hf) mode neg e hm

end Sys2Proof.Machine
end

section
/-!
PROOF. O16: exact sums and products (R96), and the arithmetic instructions as their roundings (R140, R147, R148).
-/
namespace Sys2Proof.Machine
open Sys2Proof

/-! ## Kinds of values -/

section
variable {x : Fp.Val}

theorem Fp.Val.finite_iff : x.finite = true ↔ ∃ neg m e, x = .fin neg m e := by cases x <;> simp [Fp.Val.finite]
theorem Fp.Val.isInf_iff : x.isInf = true ↔ ∃ n, x = .inf n := by cases x <;> simp [Fp.Val.isInf]

/-- A value that is no NaN is an infinity or finite. -/
theorem Fp.Val.inf_or_finite (h : x.isNan = false) : (∃ n, x = .inf n) ∨ x.finite = true := by
  cases x <;> simp_all [Fp.Val.isNan, Fp.Val.finite]

theorem Fp.Val.ne_inf_of_finite (h : x.finite = true) (n : Bool) : x ≠ .inf n := by rintro rfl; cases h
theorem Fp.Val.ne_inf_of_nan (h : x.isNan = true) (n : Bool) : x ≠ .inf n := by rintro rfl; cases h
theorem Fp.Val.not_nan_of_finite (h : x.finite = true) : x.isNan = false := by cases x <;> simp_all [Fp.Val.isNan, Fp.Val.finite]
theorem Fp.Val.quiet_of_not_nan (h : x.isNan = false) : x.signalling = false := by
  cases x <;> simp_all [Fp.Val.isNan, Fp.Val.signalling]

@[simp] theorem Fp.Val.negate_isNan : x.negate.isNan = x.isNan := by cases x <;> rfl
@[simp] theorem Fp.Val.negate_signalling : x.negate.signalling = x.signalling := by cases x <;> rfl
@[simp] theorem Fp.Val.negate_isZero : x.negate.isZero = x.isZero := by cases x <;> rfl
@[simp] theorem Fp.Val.negate_finite : x.negate.finite = x.finite := by cases x <;> rfl
@[simp] theorem Fp.Val.negate_rat : x.negate.rat = -x.rat := by
  cases x with
  | fin neg m e => cases neg <;> simp [Fp.Val.negate, Fp.Val.rat]
  | nan s => simp [Fp.Val.negate, Fp.Val.rat]
  | inf n => simp [Fp.Val.negate, Fp.Val.rat]

/-- A finite value is zero exactly when its real value is. -/
theorem Fp.Val.rat_eq_zero_iff (h : x.finite = true) : x.rat = 0 ↔ x.isZero = true := by
  obtain ⟨neg, m, e, rfl⟩ := Fp.Val.finite_iff.mp h
  have : (2 : ℚ) ^ e ≠ 0 := zpow_ne_zero e two_ne_zero
  cases neg <;> simp [Fp.Val.rat, Fp.Val.isZero, this]

/-- An exact value is its integer in units of 2^q, for q at most its exponent. -/
theorem Fp.units_mul_zpow {q : Int} (h : x.finite = true) (hq : q ≤ Fp.expOf x) : (Fp.units q x : ℚ) * 2 ^ q = x.rat := by
  obtain ⟨neg, m, e, rfl⟩ := Fp.Val.finite_iff.mp h
  have hpow : (2 : ℚ) ^ (e - q).toNat * 2 ^ q = 2 ^ e := by
    rw [← zpow_natCast, ← zpow_add₀ two_ne_zero]
    congr 1
    simp only [Fp.expOf] at hq
    omega
  cases neg <;> simp [Fp.units, Fp.Val.rat, mul_assoc, hpow]

end

/-! ## Exact sums (R96) -/

theorem Fp.foldl_min_le (ts : List Fp.Val) (q : Int) :
    ts.foldl (fun q t => min q (Fp.expOf t)) q ≤ q ∧ ∀ t ∈ ts, ts.foldl (fun q t => min q (Fp.expOf t)) q ≤ Fp.expOf t := by
  induction ts generalizing q with
  | nil => simp
  | cons t ts ih =>
    obtain ⟨hq, ht⟩ := ih (min q (Fp.expOf t))
    simp only [List.foldl_cons, List.mem_cons, forall_eq_or_imp]
    exact ⟨hq.trans (min_le_left _ _), hq.trans (min_le_right _ _), ht⟩

theorem Fp.foldl_units (ts : List Fp.Val) (q n : Int) :
    ts.foldl (fun n t => n + Fp.units q t) n = n + (ts.map (Fp.units q)).sum := by
  induction ts generalizing n with
  | nil => simp
  | cons t ts ih => rw [List.foldl_cons, ih, List.map_cons, List.sum_cons, add_assoc]

theorem Fp.sum_units_mul_zpow {ts : List Fp.Val} {q : Int} (h : ∀ t ∈ ts, t.finite = true) (hq : ∀ t ∈ ts, q ≤ Fp.expOf t) :
    ((ts.map (Fp.units q)).sum : ℚ) * 2 ^ q = (ts.map Fp.Val.rat).sum := by
  induction ts with
  | nil => simp
  | cons t ts ih =>
    simp only [List.mem_cons, forall_eq_or_imp] at h hq
    rw [List.map_cons, List.sum_cons, List.map_cons, List.sum_cons, Int.cast_add, add_mul, Fp.units_mul_zpow h.1 hq.1, ih h.2 hq.2]

/-- Some term is an infinity of a sign. -/
theorem Fp.any_inf_iff (ts : List Fp.Val) :
    (ts.any (fun t => t.isInf && !t.neg) = true ↔ .inf false ∈ ts) ∧ (ts.any (fun t => t.isInf && t.neg) = true ↔ .inf true ∈ ts) := by
  have hiff (n : Bool) (t : Fp.Val) : t.isInf = true ∧ t.neg = n ↔ t = .inf n := by
    cases t <;> simp [Fp.Val.isInf, Fp.Val.neg]
  constructor
  · simp [List.any_eq_true, Bool.and_eq_true, hiff]
  · simp [List.any_eq_true, Bool.and_eq_true, hiff]

section
variable {m : Rounding} {ts : List Fp.Val}

theorem Fp.sum_opposite (hp : .inf false ∈ ts) (hn : .inf true ∈ ts) : Fp.sum m ts = (.nan false, 1) := by
  simp only [Fp.sum, (Fp.any_inf_iff ts).1.mpr hp, (Fp.any_inf_iff ts).2.mpr hn, Bool.and_self, if_true]
  rfl

theorem Fp.sum_nan (h : ∃ t ∈ ts, t.isNan = true) {n : Bool} (hn : .inf n ∉ ts) : Fp.sum m ts = (.nan false, 0) := by
  have hany : ts.any Fp.Val.isNan = true := List.any_eq_true.mpr h
  have hboth : (ts.any (fun t => t.isInf && !t.neg) && ts.any (fun t => t.isInf && t.neg)) = false := by
    cases n
    · rw [Bool.eq_false_iff.mpr (mt (Fp.any_inf_iff ts).1.mp hn), Bool.false_and]
    · rw [Bool.eq_false_iff.mpr (mt (Fp.any_inf_iff ts).2.mp hn), Bool.and_false]
  simp only [Fp.sum, hboth, hany, Bool.false_eq_true, if_false, if_true]

theorem Fp.any_isNan_eq_false (h : ∀ t ∈ ts, t.isNan = false) : ts.any Fp.Val.isNan = false := by
  rw [List.any_eq_false]
  exact fun t ht => by simp [h t ht]

theorem Fp.sum_inf (h : ∀ t ∈ ts, t.isNan = false) {n : Bool} (hn : .inf n ∈ ts) (hn' : .inf (!n) ∉ ts) :
    Fp.sum m ts = (.inf n, 0) := by
  obtain ⟨hpos, hneg⟩ := Fp.any_inf_iff ts
  cases n
  · simp only [Fp.sum, hpos.mpr hn, Bool.eq_false_iff.mpr (mt hneg.mp hn'), Fp.any_isNan_eq_false h, Bool.and_false,
      Bool.false_eq_true, if_false, if_true]
  · simp only [Fp.sum, hneg.mpr hn, Bool.eq_false_iff.mpr (mt hpos.mp hn'), Fp.any_isNan_eq_false h, Bool.false_and,
      Bool.false_eq_true, if_false, if_true]

theorem Fp.sum_finite (h : ∀ t ∈ ts, t.finite = true) : ∃ neg k e, Fp.sum m ts = (.fin neg k e, 0) ∧
    (Fp.Val.fin neg k e).rat = (ts.map Fp.Val.rat).sum ∧
    ((Fp.Val.fin neg k e).rat = 0 → (neg = true ↔ (∀ t ∈ ts, t.isZero = true ∧ t.neg = true) ∨ m = .rd)) := by
  obtain ⟨hpos, hneg⟩ := Fp.any_inf_iff ts
  have hno (n : Bool) : .inf n ∉ ts := fun hn => Fp.Val.ne_inf_of_finite (h _ hn) n rfl
  have hnan := Fp.any_isNan_eq_false fun t ht => Fp.Val.not_nan_of_finite (h t ht)
  simp only [Fp.sum, Bool.eq_false_iff.mpr (mt hpos.mp (hno _)), Bool.eq_false_iff.mpr (mt hneg.mp (hno _)), hnan, Bool.and_false,
    Bool.false_eq_true, if_false]
  have hq := (Fp.foldl_min_le ts 0).2
  generalize ts.foldl (fun q t => min q (Fp.expOf t)) 0 = q at *
  have hsum := Fp.sum_units_mul_zpow h hq
  rw [Fp.foldl_units, zero_add]
  generalize (ts.map (Fp.units q)).sum = n at *
  have hpow : (2 : ℚ) ^ q ≠ 0 := zpow_ne_zero q two_ne_zero
  by_cases hn : n = 0
  · refine ⟨_, _, _, if_pos hn, ?_, fun _ => ?_⟩
    · rw [← hsum, hn]; simp [Fp.Val.rat]
    · simp
  · refine ⟨_, _, _, if_neg hn, ?_, fun h0 => ?_⟩
    · rw [← hsum]
      rcases lt_or_ge n 0 with hlt | hge
      · have : ((n.natAbs : Nat) : ℚ) = -n := by rw [← Int.cast_natCast, Int.ofNat_natAbs_of_nonpos hlt.le, Int.cast_neg]
        simp [Fp.Val.rat, hlt, this]
      · have : ((n.natAbs : Nat) : ℚ) = n := by rw [← Int.cast_natCast, Int.natAbs_of_nonneg hge]
        simp [Fp.Val.rat, hge.not_gt, this]
    · rw [Fp.Val.rat_eq_zero_iff rfl] at h0
      simp [Fp.Val.isZero, hn] at h0

end

/-! ## Exact products (R96) -/

section
variable {x y : Fp.Val}

theorem Fp.mul_nan (h : x.isNan = true ∨ y.isNan = true) : Fp.mul x y = (.nan false, 0) := by
  cases x <;> cases y <;> simp_all [Fp.Val.isNan, Fp.mul]

theorem Fp.mul_invalid (h : x.isZero = true ∧ y.isInf = true ∨ x.isInf = true ∧ y.isZero = true) : Fp.mul x y = (.nan false, 1) := by
  rcases h with ⟨hz, hi⟩ | ⟨hi, hz⟩
  · obtain ⟨n, rfl⟩ := Fp.Val.isInf_iff.mp hi
    cases x <;> simp_all [Fp.Val.isZero, Fp.mul, FpFlags.invalid]
  · obtain ⟨n, rfl⟩ := Fp.Val.isInf_iff.mp hi
    cases y <;> simp_all [Fp.Val.isZero, Fp.mul, FpFlags.invalid]

theorem Fp.mul_finite (hx : x.finite = true) (hy : y.finite = true) : ∃ m e, Fp.mul x y = (.fin (x.neg ^^ y.neg) m e, 0) ∧
    (Fp.Val.fin (x.neg ^^ y.neg) m e).rat = x.rat * y.rat := by
  obtain ⟨a, m, e, rfl⟩ := Fp.Val.finite_iff.mp hx
  obtain ⟨b, n, d, rfl⟩ := Fp.Val.finite_iff.mp hy
  refine ⟨m * n, e + d, rfl, ?_⟩
  cases a <;> cases b <;> simp [Fp.Val.neg, Fp.Val.rat, zpow_add₀] <;> ring

theorem Fp.mul_inf (hx : x.isNan = false) (hy : y.isNan = false) (hx0 : x.isZero = false) (hy0 : y.isZero = false)
    (h : x.isInf = true ∨ y.isInf = true) : Fp.mul x y = (.inf (x.neg ^^ y.neg), 0) := by
  cases x <;> cases y <;> simp_all [Fp.Val.isNan, Fp.Val.isInf, Fp.mul, Fp.Val.neg]

/-- A product raises no flag and is no infinity where no factor is one. -/
theorem Fp.mul_no_inf (hx : x.isInf = false) (hy : y.isInf = false) : (Fp.mul x y).2 = 0 ∧ (Fp.mul x y).1.isInf = false := by
  cases x <;> cases y <;> simp_all [Fp.Val.isInf, Fp.mul]

theorem Fp.mul_quiet : (Fp.mul x y).1.signalling = false := by
  cases x <;> cases y <;> simp only [Fp.mul] <;> (repeat' split) <;> rfl

end

end Sys2Proof.Machine
end

section
/-!
PROOF. O16: the arithmetic instructions as roundings of exact sums and products (R140, R147, R148).
-/
namespace Sys2Proof.Machine
open Sys2Proof

/-! ## Rounding an exact value -/

/-- A result is an exact value rounded once under R92, or a zero of a sign. -/
def Fp.Gives (f : Fp.Format) (m : Rounding) (v : ℚ) (neg : Bool) (r : Nat × FpFlags) : Prop :=
  (v ≠ 0 → Fp.CorrectlyRounded f m (v : ℝ) r) ∧ (v = 0 → r = (f.signBit neg, 0))

@[simp] theorem Fp.Val.isNan_inf (n : Bool) : (Fp.Val.inf n).isNan = false := rfl

theorem Fp.flags_or_zero (fl : FpFlags) : fl ||| 0 = fl := BitVec.or_zero

theorem Fp.flags_zero_or (fl : FpFlags) : 0 ||| fl = fl := BitVec.zero_or

/-- The value is a zero with its sign bit set. -/
def Fp.Val.negZero (v : Fp.Val) : Bool := v.isZero && v.neg

section
variable {f : Fp.Format} {m : Rounding}

theorem Fp.roundVal_gives (hf : f.Regular) (neg : Bool) (k : Nat) (e : Int) :
    Fp.Gives f m (Fp.Val.fin neg k e).rat neg (Fp.roundVal f m (.fin neg k e)) := by
  have hzero := Fp.Val.rat_eq_zero_iff (x := .fin neg k e) rfl
  simp only [Fp.Val.isZero, beq_iff_eq] at hzero
  refine ⟨fun h => Fp.roundTo_exact_correctlyRounded hf m neg e (mt hzero.mpr h), fun h => ?_⟩
  rw [hzero.mp h]
  rfl

theorem Fp.roundVal_nan (s : Bool) : Fp.roundVal f m (.nan s) = (f.nan, 0) := rfl

theorem Fp.roundVal_inf (hs : f.specials = .ieee) (n : Bool) : Fp.roundVal f m (.inf n) = (f.signBit n + f.infCode, 0) := by
  rw [Fp.roundVal, if_pos hs]

/-! ## Sums, rounded -/

section
variable {ts : List Fp.Val} {fl : FpFlags}

theorem Fp.sumRound_nan (h : ∃ t ∈ ts, t.isNan = true) {n : Bool} (hn : .inf n ∉ ts) : Fp.sumRound f m ts fl = (f.nan, fl) := by
  simp [Fp.sumRound, Fp.sum_nan h hn, Fp.roundVal_nan]

theorem Fp.sumRound_opposite (hp : .inf false ∈ ts) (hn : .inf true ∈ ts) : Fp.sumRound f m ts fl = (f.nan, fl ||| 1) := by
  simp [Fp.sumRound, Fp.sum_opposite hp hn, Fp.roundVal_nan]

theorem Fp.sumRound_inf (hs : f.specials = .ieee) (h : ∀ t ∈ ts, t.isNan = false) {n : Bool} (hn : .inf n ∈ ts)
    (hn' : .inf (!n) ∉ ts) : Fp.sumRound f m ts fl = (f.signBit n + f.infCode, fl) := by
  simp [Fp.sumRound, Fp.sum_inf h hn hn', Fp.roundVal_inf hs]

theorem Fp.sumRound_finite (hf : f.Regular) (h : ∀ t ∈ ts, t.finite = true) :
    Fp.Gives f m (ts.map Fp.Val.rat).sum (ts.all Fp.Val.negZero || m == .rd) (Fp.sumRound f m ts 0) := by
  obtain ⟨neg, k, e, hsum, hrat, hneg⟩ := Fp.sum_finite (m := m) h
  obtain ⟨hround, hzero⟩ := Fp.roundVal_gives (m := m) hf neg k e
  have hr : Fp.sumRound f m ts 0 = Fp.roundVal f m (.fin neg k e) := by simp [Fp.sumRound, hsum]
  rw [← hrat, hr]
  refine ⟨hround, fun h0 => ?_⟩
  rw [hzero h0]
  congr 2
  rw [Bool.eq_iff_iff, hneg h0]
  simp [Fp.Val.negZero]

end

/-! ## Sums of two -/

section
variable {x y z : Fp.Val}

theorem Fp.sigFlag_pair : Fp.sigFlag [x, y] = if (!x.signalling && !y.signalling) then 0 else 1 := by
  cases hx : x.signalling <;> cases hy : y.signalling <;> simp [Fp.sigFlag, FpFlags.when, hx, hy, FpFlags.invalid]

theorem Fp.sigFlag_triple : Fp.sigFlag [x, y, z] = if (!x.signalling && !y.signalling && !z.signalling) then 0 else 1 := by
  cases hx : x.signalling <;> cases hy : y.signalling <;> cases hz : z.signalling <;>
    simp [Fp.sigFlag, FpFlags.when, hx, hy, hz, FpFlags.invalid]

theorem Fp.sigFlag_eq_zero {ts : List Fp.Val} (h : ∀ t ∈ ts, t.isNan = false) : Fp.sigFlag ts = 0 := by
  have : ts.any Fp.Val.signalling = false := List.any_eq_false.mpr fun t ht => by simp [Fp.Val.quiet_of_not_nan (h t ht)]
  simp [Fp.sigFlag, FpFlags.when, this]

/-- The rounded sum of two values, with invalid for a signalling one. -/
def Fp.pairSum (f : Fp.Format) (m : Rounding) (x y : Fp.Val) : Nat × FpFlags := Fp.sumRound f m [x, y] (Fp.sigFlag [x, y])

theorem Fp.add_eq_pairSum (i j : Nat) : Fp.add f m i j = Fp.pairSum f m (Fp.decode f i) (Fp.decode f j) := rfl

theorem Fp.sub_eq_pairSum (i j : Nat) : Fp.sub f m i j = Fp.pairSum f m (Fp.decode f i) (Fp.decode f j).negate := by
  simp only [Fp.sub, Fp.pairSum, Fp.sigFlag_pair, Fp.Val.negate_signalling]

theorem Fp.pairSum_finite (hf : f.Regular) (hx : x.finite = true) (hy : y.finite = true) :
    Fp.Gives f m (x.rat + y.rat) (x.negZero && y.negZero || m == .rd) (Fp.pairSum f m x y) := by
  have hall : ∀ t ∈ [x, y], t.finite = true := by simp [hx, hy]
  rw [Fp.pairSum, Fp.sigFlag_eq_zero fun t ht => Fp.Val.not_nan_of_finite (hall t ht)]
  simpa using Fp.sumRound_finite (m := m) hf hall

theorem Fp.pairSum_nan (h : x.isNan = true ∨ y.isNan = true) :
    Fp.pairSum f m x y = (f.nan, if (!x.signalling && !y.signalling) then 0 else 1) := by
  rw [Fp.pairSum, Fp.sigFlag_pair]
  -- the other term is at most one infinity
  rcases h with h | h
  · refine Fp.sumRound_nan ⟨x, by simp, h⟩ (n := !y.neg) ?_
    cases y <;> simp [(Fp.Val.ne_inf_of_nan h _).symm, Fp.Val.neg]
  · refine Fp.sumRound_nan ⟨y, by simp, h⟩ (n := !x.neg) ?_
    cases x <;> simp [(Fp.Val.ne_inf_of_nan h _).symm, Fp.Val.neg]

theorem Fp.pairSum_inf_inf (hs : f.specials = .ieee) (a b : Bool) :
    Fp.pairSum f m (.inf a) (.inf b) = if a = b then (f.signBit a + f.infCode, 0) else (f.nan, 1) := by
  rw [Fp.pairSum, Fp.sigFlag_eq_zero (by simp)]
  by_cases hab : a = b
  · subst hab
    rw [if_pos rfl]
    exact Fp.sumRound_inf hs (by simp) (by simp) (by simp)
  · rw [if_neg hab]
    exact Fp.sumRound_opposite (by cases a <;> cases b <;> simp_all) (by cases a <;> cases b <;> simp_all)

theorem Fp.pairSum_inf_left (hs : f.specials = .ieee) (a : Bool) (hy : y.finite = true) :
    Fp.pairSum f m (.inf a) y = (f.signBit a + f.infCode, 0) := by
  have hnan : ∀ t ∈ [Fp.Val.inf a, y], t.isNan = false := by simpa using Fp.Val.not_nan_of_finite hy
  rw [Fp.pairSum, Fp.sigFlag_eq_zero hnan]
  exact Fp.sumRound_inf hs hnan (by simp) (by simp [(Fp.Val.ne_inf_of_finite hy _).symm])

theorem Fp.pairSum_inf_right (hs : f.specials = .ieee) (a : Bool) (hx : x.finite = true) :
    Fp.pairSum f m x (.inf a) = (f.signBit a + f.infCode, 0) := by
  have hnan : ∀ t ∈ [x, Fp.Val.inf a], t.isNan = false := by simpa using Fp.Val.not_nan_of_finite hx
  rw [Fp.pairSum, Fp.sigFlag_eq_zero hnan]
  exact Fp.sumRound_inf hs hnan (by simp) (by simp [(Fp.Val.ne_inf_of_finite hx _).symm])

end

/-! ## Products, and sums with them -/

section
variable {i j k : Nat}

theorem Fp.times_nan (h : (Fp.decode f i).isNan = true ∨ (Fp.decode f j).isNan = true) :
    Fp.times f m i j = (f.nan, if (!(Fp.decode f i).signalling && !(Fp.decode f j).signalling) then 0 else 1) := by
  simp [Fp.times, Fp.mul_nan h, Fp.roundVal_nan, Fp.sigFlag_pair]

/-- A product of no NaN raises only its own flag. -/
theorem Fp.times_of_not_nan (hx : (Fp.decode f i).isNan = false) (hy : (Fp.decode f j).isNan = false) {v : Fp.Val} {fl : FpFlags}
    (hp : Fp.mul (Fp.decode f i) (Fp.decode f j) = (v, fl)) :
    Fp.times f m i j = ((Fp.roundVal f m v).1, fl ||| (Fp.roundVal f m v).2) := by
  simp [Fp.times, hp, Fp.sigFlag_eq_zero (ts := [Fp.decode f i, Fp.decode f j]) (by simp [hx, hy])]

theorem Fp.fma_nan (h : (Fp.decode f i).isNan = true ∨ (Fp.decode f j).isNan = true) :
    Fp.fma f m i j k = (f.nan,
      if (!(Fp.decode f i).signalling && !(Fp.decode f j).signalling && !(Fp.decode f k).signalling) then 0 else 1) := by
  simp only [Fp.fma, Fp.mul_nan h, Fp.sigFlag_triple, Fp.flags_or_zero]
  refine Fp.sumRound_nan ⟨.nan false, List.mem_cons_self, rfl⟩ (n := !(Fp.decode f k).neg) ?_
  cases Fp.decode f k <;> simp [Fp.Val.neg]

theorem Fp.fma_invalid (hp : Fp.mul (Fp.decode f i) (Fp.decode f j) = (.nan false, 1)) :
    Fp.fma f m i j k = (f.nan, 1) := by
  have hflag : Fp.sigFlag [Fp.decode f i, Fp.decode f j, Fp.decode f k] ||| (1 : FpFlags) = 1 := by
    rw [Fp.sigFlag_triple]; split <;> rfl
  simp only [Fp.fma, hp, hflag]
  refine Fp.sumRound_nan ⟨.nan false, List.mem_cons_self, rfl⟩ (n := !(Fp.decode f k).neg) ?_
  cases Fp.decode f k <;> simp [Fp.Val.neg]

/-- A multiply-add of a valid product is the sum with it. -/
theorem Fp.fma_eq_pairSum (hx : (Fp.decode f i).isNan = false) (hy : (Fp.decode f j).isNan = false) {v : Fp.Val}
    (hp : Fp.mul (Fp.decode f i) (Fp.decode f j) = (v, 0)) : Fp.fma f m i j k = Fp.pairSum f m v (Fp.decode f k) := by
  have hv : v.signalling = false := by rw [← show (Fp.mul _ _).1 = v by rw [hp]]; exact Fp.mul_quiet
  simp only [Fp.fma, Fp.pairSum, hp, Fp.sigFlag_pair, Fp.sigFlag_triple, Fp.Val.quiet_of_not_nan hx, Fp.Val.quiet_of_not_nan hy, hv,
    Bool.not_false, Bool.true_and, Fp.flags_or_zero]

end

end

end Sys2Proof.Machine
end

section
/-!
PROOF. O16: what each arithmetic instruction gives for each kind of operands (R140), halves (R147), DP4.e4 (R148).
-/
namespace Sys2Proof.Machine
open Sys2Proof

/-! ## Addition, subtraction, multiplication, fused multiply-add -/

section
variable {f : Fp.Format} {m : Rounding} {i j k : Nat}

theorem Fp.add_sub_finite (hf : f.Regular) (hx : (Fp.decode f i).finite = true) (hy : (Fp.decode f j).finite = true) :
    Fp.Gives f m ((Fp.decode f i).rat + (Fp.decode f j).rat) ((Fp.decode f i).negZero && (Fp.decode f j).negZero || m == .rd)
      (Fp.add f m i j) ∧
    Fp.Gives f m ((Fp.decode f i).rat - (Fp.decode f j).rat)
      ((Fp.decode f i).negZero && ((Fp.decode f j).isZero && !(Fp.decode f j).neg) || m == .rd) (Fp.sub f m i j) := by
  have hneg : (Fp.decode f j).negate.negZero = ((Fp.decode f j).isZero && !(Fp.decode f j).neg) := by
    obtain ⟨neg, n, e, h⟩ := Fp.Val.finite_iff.mp hy
    rw [h]; rfl
  refine ⟨Fp.pairSum_finite hf hx hy, ?_⟩
  rw [Fp.sub_eq_pairSum, sub_eq_add_neg, ← Fp.Val.negate_rat, ← hneg]
  exact Fp.pairSum_finite hf hx (Fp.Val.negate_finite.trans hy)

/-- A finite product is a zero exactly when a factor is one. -/
theorem Fp.mul_finite_negZero {x y : Fp.Val} (hx : x.finite = true) (hy : y.finite = true) : ∃ v, Fp.mul x y = (v, 0) ∧ v.finite = true ∧
    v.rat = x.rat * y.rat ∧ v.negZero = ((x.isZero || y.isZero) && (x.neg ^^ y.neg)) := by
  obtain ⟨n, e, hp, hrat⟩ := Fp.mul_finite hx hy
  refine ⟨_, hp, rfl, hrat, ?_⟩
  have hzero : (Fp.Val.fin (x.neg ^^ y.neg) n e).isZero = (x.isZero || y.isZero) := by
    rw [Bool.eq_iff_iff, ← Fp.Val.rat_eq_zero_iff rfl, hrat, mul_eq_zero, Fp.Val.rat_eq_zero_iff hx, Fp.Val.rat_eq_zero_iff hy,
      Bool.or_eq_true]
  rw [Fp.Val.negZero, hzero]
  rfl

theorem Fp.times_finite (hf : f.Regular) (hx : (Fp.decode f i).finite = true) (hy : (Fp.decode f j).finite = true) :
    Fp.Gives f m ((Fp.decode f i).rat * (Fp.decode f j).rat) ((Fp.decode f i).neg ^^ (Fp.decode f j).neg) (Fp.times f m i j) := by
  obtain ⟨n, e, hp, hrat⟩ := Fp.mul_finite hx hy
  rw [Fp.times_of_not_nan (Fp.Val.not_nan_of_finite hx) (Fp.Val.not_nan_of_finite hy) hp, Fp.flags_zero_or, ← hrat]
  exact Fp.roundVal_gives hf _ n e

theorem Fp.fma_finite (hf : f.Regular) (hx : (Fp.decode f i).finite = true) (hy : (Fp.decode f j).finite = true)
    (hz : (Fp.decode f k).finite = true) :
    Fp.Gives f m ((Fp.decode f i).rat * (Fp.decode f j).rat + (Fp.decode f k).rat)
      (((Fp.decode f i).isZero || (Fp.decode f j).isZero) && ((Fp.decode f i).neg ^^ (Fp.decode f j).neg) && (Fp.decode f k).negZero ||
        m == .rd) (Fp.fma f m i j k) := by
  obtain ⟨v, hp, hv, hrat, hneg⟩ := Fp.mul_finite_negZero hx hy
  rw [Fp.fma_eq_pairSum (Fp.Val.not_nan_of_finite hx) (Fp.Val.not_nan_of_finite hy) hp, ← hrat, ← hneg]
  exact Fp.pairSum_finite hf hv hz

theorem Fp.add_sub_nan (h : (Fp.decode f i).isNan = true ∨ (Fp.decode f j).isNan = true) :
    Fp.add f m i j = (f.nan, if (!(Fp.decode f i).signalling && !(Fp.decode f j).signalling) then 0 else 1) ∧
    Fp.sub f m i j = (f.nan, if (!(Fp.decode f i).signalling && !(Fp.decode f j).signalling) then 0 else 1) := by
  refine ⟨Fp.pairSum_nan h, ?_⟩
  rw [Fp.sub_eq_pairSum, Fp.pairSum_nan (by simpa using h), Fp.Val.negate_signalling]

theorem Fp.times_fma_invalid (hx : (Fp.decode f i).isNan = false) (hy : (Fp.decode f j).isNan = false)
    (h : (Fp.decode f i).isZero = true ∧ (Fp.decode f j).isInf = true ∨ (Fp.decode f i).isInf = true ∧ (Fp.decode f j).isZero = true) :
    Fp.times f m i j = (f.nan, 1) ∧ Fp.fma f m i j k = (f.nan, 1) :=
  ⟨(Fp.times_of_not_nan hx hy (Fp.mul_invalid h)).trans (by rw [Fp.roundVal_nan, Fp.flags_or_zero]), Fp.fma_invalid (Fp.mul_invalid h)⟩

/-- A multiply-add of a finite product and a special addend. -/
theorem Fp.fma_finite_special (hs : f.specials = .ieee) (hx : (Fp.decode f i).finite = true) (hy : (Fp.decode f j).finite = true) :
    ((Fp.decode f k).isNan = true → Fp.fma f m i j k = (f.nan, if (!(Fp.decode f k).signalling) then 0 else 1)) ∧
    ∀ a, Fp.decode f k = .inf a → Fp.fma f m i j k = (f.signBit a + f.infCode, 0) := by
  obtain ⟨v, hp, hv, -, -⟩ := Fp.mul_finite_negZero hx hy
  rw [Fp.fma_eq_pairSum (Fp.Val.not_nan_of_finite hx) (Fp.Val.not_nan_of_finite hy) hp]
  refine ⟨fun hz => ?_, fun a ha => ?_⟩
  · rw [Fp.pairSum_nan (.inr hz), Fp.Val.quiet_of_not_nan (Fp.Val.not_nan_of_finite hv)]; rfl
  · rw [ha, Fp.pairSum_inf_right hs a hv]

section
variable (hs : f.specials = .ieee)
include hs

theorem Fp.add_sub_inf_inf {a b : Bool} (hx : Fp.decode f i = .inf a) (hy : Fp.decode f j = .inf b) :
    Fp.add f m i j = (if a = b then (f.signBit a + f.infCode, 0) else (f.nan, 1)) ∧
    Fp.sub f m i j = if a = b then (f.nan, 1) else (f.signBit a + f.infCode, 0) := by
  rw [Fp.add_eq_pairSum, Fp.sub_eq_pairSum, hx, hy, Fp.Val.negate, Fp.pairSum_inf_inf hs, Fp.pairSum_inf_inf hs]
  cases a <;> cases b <;> simp

theorem Fp.add_sub_inf_finite {a : Bool} (hx : Fp.decode f i = .inf a) (hy : (Fp.decode f j).finite = true) :
    Fp.add f m i j = (f.signBit a + f.infCode, 0) ∧ Fp.sub f m i j = (f.signBit a + f.infCode, 0) := by
  rw [Fp.add_eq_pairSum, Fp.sub_eq_pairSum, hx, Fp.pairSum_inf_left hs a hy,
    Fp.pairSum_inf_left hs a (Fp.Val.negate_finite.trans hy)]
  exact ⟨rfl, rfl⟩

theorem Fp.add_sub_finite_inf {a : Bool} (hy : Fp.decode f j = .inf a) (hx : (Fp.decode f i).finite = true) :
    Fp.add f m i j = (f.signBit a + f.infCode, 0) ∧ Fp.sub f m i j = (f.signBit (!a) + f.infCode, 0) := by
  rw [Fp.add_eq_pairSum, Fp.sub_eq_pairSum, hy, Fp.Val.negate, Fp.pairSum_inf_right hs _ hx, Fp.pairSum_inf_right hs _ hx]
  exact ⟨rfl, rfl⟩

/-- Products with an infinity, and their sums. -/
theorem Fp.times_fma_inf (h : (Fp.decode f i).isInf = true ∨ (Fp.decode f j).isInf = true) (hx : (Fp.decode f i).isNan = false)
    (hy : (Fp.decode f j).isNan = false) (hx0 : (Fp.decode f i).isZero = false) (hy0 : (Fp.decode f j).isZero = false) :
    let neg := (Fp.decode f i).neg ^^ (Fp.decode f j).neg
    Fp.times f m i j = (f.signBit neg + f.infCode, 0) ∧
    ((Fp.decode f k).finite = true ∨ Fp.decode f k = .inf neg → Fp.fma f m i j k = (f.signBit neg + f.infCode, 0)) ∧
    (Fp.decode f k = .inf (!neg) → Fp.fma f m i j k = (f.nan, 1)) ∧
    ((Fp.decode f k).isNan = true → Fp.fma f m i j k = (f.nan, if (!(Fp.decode f k).signalling) then 0 else 1)) := by
  intro neg
  have hp : Fp.mul (Fp.decode f i) (Fp.decode f j) = (.inf neg, 0) := Fp.mul_inf hx hy hx0 hy0 h
  rw [Fp.times_of_not_nan hx hy hp, Fp.fma_eq_pairSum hx hy hp, Fp.roundVal_inf hs]
  refine ⟨by rw [Fp.flags_or_zero], ?_, fun hz => ?_, fun hz => ?_⟩
  · rintro (hz | hz)
    · exact Fp.pairSum_inf_left hs neg hz
    · rw [hz, Fp.pairSum_inf_inf hs, if_pos rfl]
  · rw [hz, Fp.pairSum_inf_inf hs, if_neg (by simp)]
  · rw [Fp.pairSum_nan (.inr hz)]; rfl

end

end

/-! ## Halves -/

theorem Fp.element_low (w : Word) : element w 16 0 = w.toNat % 2 ^ 16 := by simp [element, field]

theorem Fp.element_high (w : Word) : element w 16 1 = w.toNat / 2 ^ 16 := by
  have := w.isLt
  simp only [element, field]
  omega

/-! ## DP4.e4 -/

/-- E4M3 has no infinity. -/
theorem Fp.decode_e4m3_isInf (w : Nat) : (Fp.decode Fp.e4m3 w).isInf = false := by
  simp only [Fp.decode]
  rw [if_neg (by simp [Fp.e4m3])]
  split
  · rfl
  · split <;> rfl

/-- The encoding of an infinity is its sign with the code of infinity. -/
theorem Fp.Format.Regular.eq_of_decode_inf {f : Fp.Format} (hf : f.Regular) (hs : f.specials = .ieee) {w : Nat} (hw : w < 2 ^ f.width)
    {n : Bool} (h : Fp.decode f w = .inf n) : w = f.signBit n + f.infCode := by
  have hbig : f.maxCode < f.magCode w := by
    by_contra hc
    rw [hf.decode_fin (not_lt.mp hc)] at h
    cases h
  obtain ⟨-, hfield⟩ : f.specials = .ieee ∧ f.magCode w / 2 ^ f.fbits = 2 ^ f.ebits - 1 := by
    rcases (hf.special_iff w).mp hbig with h | ⟨h, -⟩
    · exact h
    · rw [hs] at h; cases h
  have hdec : Fp.decode f w = if f.magCode w % 2 ^ f.fbits = 0 then .inf (f.negCode w)
      else .nan (decide (f.fbits ≠ 2) && decide (f.magCode w % 2 ^ f.fbits < 2 ^ (f.fbits - 1))) := by
    have hex := f.exponent_eq w
    have hfr := f.fraction_eq w
    simp [Fp.decode, hs, hex, hfr, hfield, Fp.Format.negCode]
  rw [hdec] at h
  split at h
  · next hfr0 =>
    injection h with hn
    have hmag : f.magCode w = f.infCode := by
      have := Nat.div_add_mod' (f.magCode w) (2 ^ f.fbits)
      rw [hfield, hfr0] at this
      exact this.symm
    have hsplit := Nat.div_add_mod' w (2 ^ (f.ebits + f.fbits))
    have htop : w / 2 ^ (f.ebits + f.fbits) < 2 := by
      rw [Nat.div_lt_iff_lt_mul (by positivity), ← pow_succ', show f.ebits + f.fbits + 1 = f.width by unfold Fp.Format.width; ring]
      exact hw
    rw [← hmag, ← hn]
    rw [Fp.Format.negCode, Fp.Format.signBit, Fp.Format.magCode]
    interval_cases w / 2 ^ (f.ebits + f.fbits) <;> simp at hsplit ⊢ <;> omega
  · cases h

end Sys2Proof.Machine
end

section
/-!
PROOF. O16, settled: DP4.e4's sum (R148), and the clauses together.
-/
namespace Sys2Proof.Machine
open Sys2Proof

/-! ## DP4.e4 -/

/-- Product i of DP4.e4. -/
def Fp.dp4Product (a b : Word) (i : Nat) : Fp.Val :=
  (Fp.mul (Fp.decode Fp.e4m3 (element a 8 i)) (Fp.decode Fp.e4m3 (element b 8 i))).1

/-- The terms that DP4.e4 adds: d and the four products. -/
def Fp.dp4Terms (a b d : Word) : List Fp.Val := Fp.decode Fp.fp32 d.toNat :: (List.range 4).map (Fp.dp4Product a b)

/-- The products raise no flag. -/
theorem Fp.dp4E4Sum_eq (m : Rounding) (a b d : Word) :
    dp4E4Sum m a b d = Fp.sumRound Fp.fp32 m (Fp.dp4Terms a b d) (Fp.sigFlag [Fp.decode Fp.fp32 d.toNat]) := by
  have hflag (i : Nat) : (Fp.mul (Fp.decode Fp.e4m3 (element a 8 i)) (Fp.decode Fp.e4m3 (element b 8 i))).2 = 0 :=
    (Fp.mul_no_inf (Fp.decode_e4m3_isInf _) (Fp.decode_e4m3_isInf _)).1
  simp only [dp4E4Sum, Fp.dp4Terms, List.foldl_map, hflag, Fp.flags_or_zero, List.foldl_fixed, List.map_map]
  rfl

section
variable {m : Rounding} {a b d : Word}

theorem Fp.inf_not_mem_dp4Products (n : Bool) : .inf n ∉ (List.range 4).map (Fp.dp4Product a b) := by
  intro h
  obtain ⟨i, -, hi⟩ := List.mem_map.mp h
  have := (Fp.mul_no_inf (Fp.decode_e4m3_isInf (element a 8 i)) (Fp.decode_e4m3_isInf (element b 8 i))).2
  rw [show (Fp.mul _ _).1 = Fp.Val.inf n from hi] at this
  cases this

theorem Fp.dp4_nan (h : (∃ i < 4, (Fp.decode Fp.e4m3 (element a 8 i)).isNan = true ∨ (Fp.decode Fp.e4m3 (element b 8 i)).isNan = true) ∨
    (Fp.decode Fp.fp32 d.toNat).isNan = true) :
    dp4E4Sum m a b d = (0x7FC00000, if (Fp.decode Fp.fp32 d.toNat).signalling then 1 else 0) := by
  have hflag : Fp.sigFlag [Fp.decode Fp.fp32 d.toNat] = if (Fp.decode Fp.fp32 d.toNat).signalling then 1 else 0 := by
    simp [Fp.sigFlag, FpFlags.when, FpFlags.invalid]
  have hnan : ∃ t ∈ Fp.dp4Terms a b d, t.isNan = true := by
    rcases h with ⟨i, hi, h⟩ | h
    · exact ⟨Fp.dp4Product a b i, List.mem_cons_of_mem _ (List.mem_map.mpr ⟨i, List.mem_range.mpr hi, rfl⟩),
        by rw [Fp.dp4Product, Fp.mul_nan h]; rfl⟩
    · exact ⟨_, List.mem_cons_self, h⟩
  rw [Fp.dp4E4Sum_eq, hflag]
  refine Fp.sumRound_nan hnan (n := !(Fp.decode Fp.fp32 d.toNat).neg) ?_
  rw [Fp.dp4Terms, List.mem_cons, not_or]
  exact ⟨by cases Fp.decode Fp.fp32 d.toNat <;> simp [Fp.Val.neg], Fp.inf_not_mem_dp4Products _⟩

section
variable (h : ∀ i < 4, (Fp.decode Fp.e4m3 (element a 8 i)).isNan = false ∧ (Fp.decode Fp.e4m3 (element b 8 i)).isNan = false)
include h

/-- The products of no NaN are finite, and negative zeros where a factor is zero and the signs differ. -/
theorem Fp.dp4Product_finite {i : Nat} (hi : i < 4) : (Fp.dp4Product a b i).finite = true ∧
    (Fp.dp4Product a b i).rat = (Fp.decode Fp.e4m3 (element a 8 i)).rat * (Fp.decode Fp.e4m3 (element b 8 i)).rat ∧
    (Fp.dp4Product a b i).negZero = (((Fp.decode Fp.e4m3 (element a 8 i)).isZero || (Fp.decode Fp.e4m3 (element b 8 i)).isZero) &&
      ((Fp.decode Fp.e4m3 (element a 8 i)).neg ^^ (Fp.decode Fp.e4m3 (element b 8 i)).neg)) := by
  have hfin (w : Nat) (hw : (Fp.decode Fp.e4m3 w).isNan = false) : (Fp.decode Fp.e4m3 w).finite = true := by
    rcases Fp.Val.inf_or_finite hw with ⟨n, hn⟩ | hf
    · have := Fp.decode_e4m3_isInf w
      rw [hn] at this
      cases this
    · exact hf
  obtain ⟨ha, hb⟩ := h i hi
  obtain ⟨v, hp, hv⟩ := Fp.mul_finite_negZero (hfin _ ha) (hfin _ hb)
  rw [Fp.dp4Product, hp]
  exact hv

theorem Fp.dp4_inf {n : Bool} (hz : Fp.decode Fp.fp32 d.toNat = .inf n) : dp4E4Sum m a b d = (d.toNat, 0) := by
  have hd : d.toNat = Fp.fp32.signBit n + Fp.fp32.infCode :=
    (Fp.regular_of_mem (by decide : Fp.fp32 ∈ Fp.allFormats)).eq_of_decode_inf rfl d.isLt hz
  have hnan : ∀ t ∈ Fp.dp4Terms a b d, t.isNan = false := by
    intro t ht
    rcases List.mem_cons.mp ht with rfl | ht
    · rw [hz]; rfl
    · obtain ⟨i, hi, rfl⟩ := List.mem_map.mp ht
      exact Fp.Val.not_nan_of_finite (Fp.dp4Product_finite h (List.mem_range.mp hi)).1
  rw [Fp.dp4E4Sum_eq, Fp.sigFlag_eq_zero (by simp [hz]), hd]
  refine Fp.sumRound_inf rfl hnan (by rw [Fp.dp4Terms, hz]; exact List.mem_cons_self) ?_
  rw [Fp.dp4Terms, hz, List.mem_cons, not_or]
  exact ⟨by simp, Fp.inf_not_mem_dp4Products _⟩

theorem Fp.dp4_finite (hz : (Fp.decode Fp.fp32 d.toNat).finite = true) :
    Fp.Gives Fp.fp32 m ((Fp.decode Fp.fp32 d.toNat).rat +
        (Fp.decode Fp.e4m3 (element a 8 0)).rat * (Fp.decode Fp.e4m3 (element b 8 0)).rat +
        (Fp.decode Fp.e4m3 (element a 8 1)).rat * (Fp.decode Fp.e4m3 (element b 8 1)).rat +
        (Fp.decode Fp.e4m3 (element a 8 2)).rat * (Fp.decode Fp.e4m3 (element b 8 2)).rat +
        (Fp.decode Fp.e4m3 (element a 8 3)).rat * (Fp.decode Fp.e4m3 (element b 8 3)).rat)
      ((Fp.dp4Terms a b d).all Fp.Val.negZero || m == .rd) (dp4E4Sum m a b d) ∧
    ((Fp.dp4Terms a b d).all Fp.Val.negZero = true ↔
      (∀ i < 4, ((Fp.decode Fp.e4m3 (element a 8 i)).isZero || (Fp.decode Fp.e4m3 (element b 8 i)).isZero) = true ∧
        ((Fp.decode Fp.e4m3 (element a 8 i)).neg ^^ (Fp.decode Fp.e4m3 (element b 8 i)).neg) = true) ∧
      (Fp.decode Fp.fp32 d.toNat).isZero = true ∧ (Fp.decode Fp.fp32 d.toNat).neg = true) := by
  have hfin : ∀ t ∈ Fp.dp4Terms a b d, t.finite = true := by
    intro t ht
    rcases List.mem_cons.mp ht with rfl | ht
    · exact hz
    · obtain ⟨i, hi, rfl⟩ := List.mem_map.mp ht
      exact (Fp.dp4Product_finite h (List.mem_range.mp hi)).1
  have hrat (i : Nat) (hi : i < 4) := (Fp.dp4Product_finite h hi).2.1
  constructor
  · rw [Fp.dp4E4Sum_eq, Fp.sigFlag_eq_zero (by simpa using Fp.Val.not_nan_of_finite hz), ← hrat 0 (by decide), ← hrat 1 (by decide),
      ← hrat 2 (by decide), ← hrat 3 (by decide)]
    convert Fp.sumRound_finite (m := m) (Fp.regular_of_mem (by decide : Fp.fp32 ∈ Fp.allFormats)) hfin using 1
    simp [Fp.dp4Terms, List.range_succ]
    ring
  · rw [Fp.dp4Terms, List.all_cons, Bool.and_eq_true, and_comm, List.all_map, List.all_eq_true]
    refine and_congr (forall_congr' fun i => ?_) (by simp [Fp.Val.negZero])
    rw [List.mem_range]
    refine forall_congr' fun hi => ?_
    rw [Function.comp_apply, (Fp.dp4Product_finite h hi).2.2, Bool.and_eq_true]

end

end

/-! ## The obligation -/

/-- R96's clauses about exact sums, from what the sum is for each kind of terms. -/
theorem Fp.sum_clauses (m : Rounding) (ts : List Fp.Val) :
    ((∃ t ∈ ts, t.isNan = true) → (Fp.sum m ts).1.isNan = true) ∧
    (∀ n, (∃ t ∈ ts, t.isNan = true) → .inf n ∉ ts → (Fp.sum m ts).2 = 0) ∧
    (.inf false ∈ ts → .inf true ∈ ts → (Fp.sum m ts).1.isNan = true ∧ (Fp.sum m ts).2 = 1) ∧
    (∀ n, (∀ t ∈ ts, t.isNan = false) → .inf n ∈ ts → .inf (!n) ∉ ts → Fp.sum m ts = (.inf n, 0)) ∧
    ((∀ t ∈ ts, t.finite = true) → (Fp.sum m ts).2 = 0 ∧ (Fp.sum m ts).1.finite = true ∧
      (Fp.sum m ts).1.rat = (ts.map Fp.Val.rat).sum ∧
      ((Fp.sum m ts).1.rat = 0 → ((Fp.sum m ts).1.neg = true ↔ (∀ t ∈ ts, t.isZero = true ∧ t.neg = true) ∨ m = .rd))) := by
  refine ⟨fun h => ?_, fun n h hn => by rw [Fp.sum_nan h hn], fun hp hn => by rw [Fp.sum_opposite hp hn]; exact ⟨rfl, rfl⟩,
    fun n hnan => Fp.sum_inf hnan, fun h => ?_⟩
  · by_cases hp : .inf false ∈ ts
    · by_cases hn : .inf true ∈ ts
      · rw [Fp.sum_opposite hp hn]; rfl
      · rw [Fp.sum_nan h hn]; rfl
    · rw [Fp.sum_nan h hp]; rfl
  · obtain ⟨neg, k, e, hsum, hrat, hzero⟩ := Fp.sum_finite (m := m) h
    rw [hsum]
    exact ⟨rfl, rfl, hrat, hzero⟩

/-- R96's clauses about exact products. -/
theorem Fp.mul_clauses (x y : Fp.Val) :
    ((x.isNan = true ∨ y.isNan = true) → (Fp.mul x y).1.isNan = true ∧ (Fp.mul x y).2 = 0) ∧
    ((x.isZero = true ∧ y.isInf = true ∨ x.isInf = true ∧ y.isZero = true) → (Fp.mul x y).1.isNan = true ∧ (Fp.mul x y).2 = 1) ∧
    (x.finite = true → y.finite = true → (Fp.mul x y).1.finite = true ∧ (Fp.mul x y).2 = 0 ∧
      (Fp.mul x y).1.rat = x.rat * y.rat ∧ (Fp.mul x y).1.neg = (x.neg ^^ y.neg)) ∧
    (x.isNan = false → y.isNan = false → x.isZero = false → y.isZero = false → (x.isInf = true ∨ y.isInf = true) →
      Fp.mul x y = (.inf (x.neg ^^ y.neg), 0)) := by
  refine ⟨fun h => by rw [Fp.mul_nan h]; exact ⟨rfl, rfl⟩, fun h => by rw [Fp.mul_invalid h]; exact ⟨rfl, rfl⟩, fun hx hy => ?_,
    Fp.mul_inf⟩
  obtain ⟨m, e, hp, hrat⟩ := Fp.mul_finite hx hy
  rw [hp]
  exact ⟨rfl, rfl, hrat, rfl⟩

/-- Of the formats of the arithmetic instructions: the codes of their infinities and canonical NaNs. -/
theorem Fp.arithmetic_formats : ∀ p ∈ [(Fp.fp64, 0x7FF0000000000000, 0x7FF8000000000000), (Fp.fp32, 0x7F800000, 0x7FC00000),
    (Fp.fp16, 0x7C00, 0x7E00), (Fp.bf16, 0x7F80, 0x7FC0)],
    p.1 ∈ Fp.allFormats ∧ p.1.specials = .ieee ∧ p.1.infCode = p.2.1 ∧ p.1.nan = p.2.2 := by decide +kernel

/-- Settles O16: sums and products by the kind of their terms, each instruction by the kind of its operands. -/
theorem exactSumsAndProducts : Obligations.ExactSumsAndProducts := by
  unfold Obligations.ExactSumsAndProducts
  refine ⟨⟨fun m ts _ => Fp.sum_clauses m ts, Fp.mul_clauses⟩, ?_, ?_, ?_⟩
  · rintro ⟨f, inf, nan⟩ hp m i j k
    obtain ⟨hmem, hs, hinf, hnan⟩ := Fp.arithmetic_formats _ hp
    have hf := Fp.regular_of_mem hmem
    have hwidth : f.width - 1 = f.ebits + f.fbits := by unfold Fp.Format.width; omega
    dsimp only at hs hinf hnan
    subst hinf hnan
    simp only [hwidth]
    exact ⟨fun hx hy => ⟨(Fp.add_sub_finite hf hx hy).1, (Fp.add_sub_finite hf hx hy).2, Fp.times_finite hf hx hy, Fp.fma_finite hf hx hy⟩,
      fun h => ⟨(Fp.add_sub_nan h).1, (Fp.add_sub_nan h).2, Fp.times_nan h, Fp.fma_nan h⟩, Fp.times_fma_invalid,
      fun a b => Fp.add_sub_inf_inf hs, fun a => Fp.add_sub_inf_finite hs, fun a => Fp.add_sub_finite_inf hs, Fp.times_fma_inf hs,
      Fp.fma_finite_special hs⟩
  · intro op op3 x y z
    simp only [half2, half3, packHalves, Fp.element_low, Fp.element_high]
    exact ⟨rfl, rfl⟩
  · intro m a b d
    refine ⟨Fp.dp4_nan, fun h => ⟨fun n => Fp.dp4_inf h, fun hz hv => (Fp.dp4_finite h hz).1.1 hv, fun hz hv => ?_⟩⟩
    obtain ⟨⟨-, hzero⟩, hneg⟩ := Fp.dp4_finite (m := m) h hz
    rw [show dp4E4Sum m a b d = _ from hzero hv]
    refine ⟨rfl, ?_⟩
    simp only [Fp.Format.signBit, Bool.or_eq_true, hneg, beq_iff_eq]
    rfl

end Sys2Proof.Machine
end

section
/-!
PROOF. O34: long runs of bytes (read and written in one pass), packed elements, lists of blocks of one length.
-/
namespace Sys2Proof.Machine
open Sys2Proof

/-! ## Runs -/

theorem Memory.getElem?_bytes (m : Memory) (a : Nat) {n j : Nat} (h : j < n) : (m.bytes a n)[j]? = some (m.get (a + j)) := by
  induction n generalizing a j with
  | zero => omega
  | succ n ih =>
    cases j with
    | zero => rfl
    | succ j => rw [Memory.bytes, List.getElem?_cons_succ, ih (a + 1) (by omega), Nat.add_assoc, Nat.add_comm 1 j]

/-- The bytes of two memories that agree on a range. -/
theorem Memory.bytes_congr {m m' : Memory} {a a' n : Nat} (h : ∀ j < n, m.get (a + j) = m'.get (a' + j)) :
    m.bytes a n = m'.bytes a' n := by
  induction n generalizing a a' with
  | zero => rfl
  | succ n ih =>
    have hrest : m.bytes (a + 1) n = m'.bytes (a' + 1) n := ih fun j hj => by
      have := h (j + 1) (by omega)
      rwa [Nat.add_comm j 1, ← Nat.add_assoc, ← Nat.add_assoc] at this
    rw [Memory.bytes, Memory.bytes, hrest, show m.get a = m'.get a' from h 0 (by omega)]

/-- One pass over a canonical listing from a on reads its bytes. -/
theorem Memory.fill_eq_bytes {m : Memory} {a : Nat} (w : m.wfFrom a = true) (n : Nat) : Memory.fill a n m = m.bytes a n := by
  induction n generalizing a m with
  | zero => cases m <;> rfl
  | succ n ih =>
    cases m with
    | nil => rw [Memory.fill, Memory.bytes, ih rfl]; rfl
    | cons c m =>
      obtain ⟨x, b⟩ := c
      obtain ⟨hx, hb, hm⟩ := (Memory.wfFrom_cons a x b m).mp w
      by_cases hxa : x = a
      · subst hxa
        have hrest : Memory.bytes ((x, b) :: m) (x + 1) n = Memory.bytes m (x + 1) n := Memory.bytes_congr fun j _ => by
          rw [Memory.get, if_neg (by omega)]
        rw [Memory.fill, if_pos rfl, Memory.bytes, hrest, ih hm, Memory.get, if_pos rfl]
      · have hw : Memory.wfFrom (a + 1) ((x, b) :: m) = true := (Memory.wfFrom_cons _ x b m).mpr ⟨by omega, hb, hm⟩
        rw [Memory.fill, if_neg hxa, Memory.bytes, ih hw, Memory.get_below hw (by omega)]
        rfl

/-- A long run is its bytes. -/
theorem Memory.run_eq_bytes {m : Memory} (w : m.wf = true) (a n : Nat) : m.run a n = m.bytes a n := by
  have hw : Memory.wfFrom a (m.filter fun c => decide (a ≤ c.1) && decide (c.1 < a + n)) = true := by
    have := Memory.filter_wfFrom (fun c => decide (c.1 < a + n)) (Memory.filter_ge_wfFrom w a)
    rw [List.filter_filter] at this
    simpa [Bool.and_comm] using this
  rw [Memory.run, Memory.fill_eq_bytes hw]
  exact Memory.bytes_congr fun j hj => Memory.get_filter_of_pos m fun _ => by simp [hj]

theorem Memory.get_append_of_pos {m : Memory} {x : Nat} (h : ∀ c ∈ m, c.1 ≠ x) (n : Memory) : Memory.get (m ++ n) x = n.get x := by
  induction m with
  | nil => rfl
  | cons c m ih =>
    rw [List.cons_append, Memory.get, if_neg (h c List.mem_cons_self), ih fun d hd => h d (List.mem_cons_of_mem _ hd)]

theorem Memory.get_append_of_neg {n : Memory} {x : Nat} (h : ∀ c ∈ n, c.1 ≠ x) (m : Memory) : Memory.get (m ++ n) x = m.get x := by
  induction m with
  | nil =>
    rw [List.nil_append]
    have := Memory.get_append_of_pos h []
    rwa [List.append_nil] at this
  | cons c m ih => rw [List.cons_append, Memory.get, Memory.get, ih]

theorem Memory.get_listFrom (a : Nat) (bs : List Byte) (x : Nat) :
    (Memory.listFrom a bs).get x = if a ≤ x ∧ x < a + bs.length then bs.getD (x - a) 0 else 0 := by
  induction bs generalizing a with
  | nil => simp [Memory.listFrom, Memory.get]
  | cons b bs ih =>
    -- a zero byte is not listed, and reads as 0
    have hstep : (Memory.listFrom a (b :: bs)).get x = if a = x then b else (Memory.listFrom (a + 1) bs).get x := by
      by_cases hb : b = 0
      · rw [Memory.listFrom, if_pos hb]
        split
        · next hax => rw [ih, if_neg (by omega), hb]
        · rfl
      · rw [Memory.listFrom, if_neg hb, Memory.get]
    rw [hstep, ih, List.length_cons]
    by_cases hax : a = x
    · subst hax; simp
    · by_cases hin : a + 1 ≤ x ∧ x < a + 1 + bs.length
      · rw [if_neg hax, if_pos hin, if_pos (by omega), show x - a = x - (a + 1) + 1 by omega, List.getD_cons_succ]
      · rw [if_neg hax, if_neg hin, if_neg (by omega)]

/-- A long run written is read back, and nothing else changes. -/
theorem Memory.get_splice (m : Memory) (a : Nat) (bs : List Byte) (x : Nat) :
    (m.splice a bs).get x = if a ≤ x ∧ x < a + bs.length then bs.getD (x - a) 0 else m.get x := by
  have hlow : a ≤ x → ∀ c ∈ m.filter fun c => decide (c.1 < a), c.1 ≠ x := fun h c hc => by
    have := (List.mem_filter.mp hc).2
    simp only [decide_eq_true_eq] at this
    omega
  have hhigh : x < a + bs.length → ∀ c ∈ m.filter fun c => decide (a + bs.length ≤ c.1), c.1 ≠ x := fun h c hc => by
    have := (List.mem_filter.mp hc).2
    simp only [decide_eq_true_eq] at this
    omega
  have hlist : a + bs.length ≤ x → ∀ c ∈ Memory.listFrom a bs, c.1 ≠ x := fun h c hc => by
    have := Memory.listFrom_lt c hc
    omega
  unfold Memory.splice
  rcases Nat.lt_or_ge x a with hxa | hxa
  · have hlist' : ∀ c ∈ Memory.listFrom a bs, c.1 ≠ x := fun c hc => by
      have := Memory.le_of_wfFrom (Memory.listFrom_wfFrom a bs) c hc
      omega
    rw [if_neg (by omega), Memory.get_append_of_neg (hhigh (by omega)), Memory.get_append_of_neg hlist']
    exact Memory.get_filter_of_pos m fun _ => by simpa using hxa
  · rcases Nat.lt_or_ge x (a + bs.length) with hxb | hxb
    · rw [if_pos ⟨hxa, hxb⟩, Memory.get_append_of_neg (hhigh hxb), Memory.get_append_of_pos (hlow hxa), Memory.get_listFrom,
        if_pos ⟨hxa, hxb⟩]
    · rw [if_neg (by omega), List.append_assoc, Memory.get_append_of_pos (hlow hxa), Memory.get_append_of_pos (hlist hxb)]
      exact Memory.get_filter_of_pos m fun _ => by simpa using hxb

/-! ## Blocks of one length -/

/-- In a list put together of blocks of k entries, entry j of block i. -/
theorem getElem?_flatMap_block {α β : Type} {f : α → List β} {k : Nat} {l : List α} (hf : ∀ x ∈ l, (f x).length = k) {i j : Nat}
    (hj : j < k) : (l.flatMap f)[k * i + j]? = l[i]?.bind fun x => (f x)[j]? := by
  induction l generalizing i with
  | nil => simp
  | cons x xs ih =>
    have hx := hf x List.mem_cons_self
    rw [List.flatMap_cons]
    cases i with
    | zero => rw [Nat.mul_zero, Nat.zero_add, List.getElem?_append_left (by omega)]; rfl
    | succ i =>
      rw [List.getElem?_append_right (by rw [hx, Nat.mul_succ]; omega), hx, Nat.mul_succ, List.getElem?_cons_succ,
        ← ih fun y hy => hf y (List.mem_cons_of_mem _ hy)]
      congr 1
      omega

theorem length_flatMap_block {α β : Type} {f : α → List β} {k : Nat} {l : List α} (hf : ∀ x ∈ l, (f x).length = k) :
    (l.flatMap f).length = k * l.length := by
  rw [List.length_flatMap, List.map_congr_left hf, List.map_const', List.sum_replicate, smul_eq_mul, Nat.mul_comm]

/-! ## Packed elements -/

/-- An element of whole bytes, from the bytes at its place. -/
theorem packedElem_bytes {bs : List Byte} {b i : Nat} (hb : b ≠ 4) {m : Memory} {a : Nat}
    (h : ∀ j < b / 8, bs[i * (b / 8) + j]? = some (m.get (a + j))) : packedElem bs.toArray b i = m.nat a (b / 8) := by
  rw [packedElem, if_neg hb, Memory.nat]
  congr 1
  refine List.ext_getElem? fun j => ?_
  rcases Nat.lt_or_ge j (b / 8) with hj | hj
  · rw [Memory.getElem?_bytes m a hj, List.getElem?_map, List.getElem?_range hj, Option.map_some, Array.getD_eq_getD_getElem?,
      List.getElem?_toArray, h j hj, Option.getD_some]
  · rw [List.getElem?_eq_none (by simpa using hj), List.getElem?_eq_none (by rw [Memory.bytes_length]; exact hj)]

/-- An element of four bits (R86). -/
theorem packedElem_nibble {bs : List Byte} {i : Nat} {x : Byte} (h : bs[i / 2]? = some x) :
    packedElem bs.toArray 4 i = x.toNat / 16 ^ (i % 2) % 16 := by
  rw [packedElem, if_pos rfl, Array.getD_eq_getD_getElem?, List.getElem?_toArray, h, Option.getD_some, field, Nat.pow_mul]
  norm_num

end Sys2Proof.Machine
end

section
/-!
PROOF. O34: the elements of the operands (R215), and the sums of the matrix engine as R97 to R100 form them.
-/
namespace Sys2Proof.Machine
open Sys2Proof

/-! ## Elements of the operands (R215) -/

/-- An operand's element p as the bytes of its slot give it (R86, R215). -/
def slotElem (m : Memory) (slot off : Nat) (e : Elem) (p : Nat) : Fp.Val :=
  e.value (if e.bits = 4 then (m.get (16384 * slot + off + p / 2)).toNat / 16 ^ (p % 2) % 16
    else m.nat (16384 * slot + off + p * (e.bits / 8)) (e.bits / 8))

theorem operandElems_getD {m : Memory} (w : m.wf = true) (slot off k : Nat) {e : Elem} (he : e.bits = 4 ∨ 8 ∣ e.bits) {p : Nat}
    (hp : p < 64 * k) : (operandElems m slot off k e).getD p (.nan false) = slotElem m slot off e p := by
  rw [operandElems, Memory.run_eq_bytes w, Array.getD_eq_getD_getElem?, List.getElem?_toArray, List.getElem?_map,
    List.getElem?_range hp, Option.map_some, Option.getD_some, slotElem, Nat.mul_comm 16384 slot]
  congr 1
  rcases he with h4 | h8
  · rw [if_pos h4, h4]
    refine packedElem_nibble (Memory.getElem?_bytes m _ ?_)
    rw [operandBytes, h4]
    omega
  · obtain ⟨b, hb⟩ := h8
    have h4 : e.bits ≠ 4 := by omega
    rw [if_neg h4]
    refine packedElem_bytes h4 fun j hj => ?_
    rw [Nat.add_assoc (slot * 16384 + off)]
    refine Memory.getElem?_bytes m _ ?_
    have hb8 : e.bits / 8 = b := by omega
    rw [hb8] at hj ⊢
    have hsize : operandBytes e k = 64 * k * b := by
      rw [operandBytes, hb, show 64 * k * (8 * b) = 64 * k * b * 8 by ring, Nat.mul_div_cancel _ (by decide)]
    rw [hsize]
    calc p * b + j < (p + 1) * b := by rw [Nat.add_mul]; omega
      _ ≤ 64 * k * b := Nat.mul_le_mul_right b hp

/-- The element sizes are those of R215. -/
theorem elem_bits (fmt : MmaFmt) : (aElem fmt).bits = (mmaShape fmt).1 ∧ (bElem fmt).bits = (mmaShape fmt).2.1 ∧
    ((aElem fmt).bits = 4 ∨ 8 ∣ (aElem fmt).bits) ∧ ((bElem fmt).bits = 4 ∨ 8 ∣ (bElem fmt).bits) := by
  cases fmt <;> decide

section
variable {m : Memory} (w : m.wf = true) (slot off : Nat) {k i j : Nat} {e : Elem} (he : e.bits = 4 ∨ 8 ∣ e.bits) (hi : i < 64) (hj : j < k)
  (col : Bool)
include w he hi hj

theorem rowOfA_getElem? : (rowOfA (operandElems m slot off k e) col k i)[j]? =
    some (slotElem m slot off e (if col then 64 * j + i else k * i + j)) := by
  rw [rowOfA, List.getElem?_map, List.getElem?_range hj, Option.map_some, Nat.mul_comm j 64, Nat.mul_comm i k]
  refine congrArg some (operandElems_getD w slot off k he ?_)
  have : k * i + k ≤ k * 64 := by rw [← Nat.mul_succ]; exact Nat.mul_le_mul_left k hi
  split <;> omega

theorem colOfB_getElem? : (colOfB (operandElems m slot off k e) col k i)[j]? =
    some (slotElem m slot off e (if col then k * i + j else 64 * j + i)) := by
  rw [colOfB, List.getElem?_map, List.getElem?_range hj, Option.map_some, Nat.mul_comm j 64, Nat.mul_comm i k]
  refine congrArg some (operandElems_getD w slot off k he ?_)
  have : k * i + k ≤ k * 64 := by rw [← Nat.mul_succ]; exact Nat.mul_le_mul_left k hi
  split <;> omega

end

/-! ## Sums of products -/

/-- The products of two lists, by number. -/
theorem zipWith_eq_map_range {α β γ : Type} (f : α → β → γ) {xs : List α} {ys : List β} (h : xs.length = ys.length) (a : α) (b : β) :
    List.zipWith f xs ys = (List.range xs.length).map fun k => f (xs.getD k a) (ys.getD k b) := by
  induction xs generalizing ys with
  | nil => simp
  | cons x xs ih =>
    cases ys with
    | nil => simp at h
    | cons y ys =>
      rw [List.zipWith_cons_cons, ih (by simpa using h), List.length_cons, List.range_succ_eq_map, List.map_cons, List.map_map]
      rfl

/-- The exact sum of the products number lo to hi - 1 is that of the part of the lists. -/
theorem exactDot_eq_products {xs ys : List Fp.Val} (h : xs.length = ys.length) (lo n : Nat) :
    (exactDot ((xs.drop lo).take n) ((ys.drop lo).take n)).1 =
      Fp.products (fun i => xs.getD i (.nan false)) (fun i => ys.getD i (.nan false)) lo (min xs.length (lo + n)) := by
  have hlen : ((xs.drop lo).take n).length = min xs.length (lo + n) - lo := by
    rw [List.length_take, List.length_drop]; omega
  have hlen' : ((xs.drop lo).take n).length = ((ys.drop lo).take n).length := by
    rw [List.length_take, List.length_drop, List.length_take, List.length_drop, h]
  have hget (zs : List Fp.Val) (k : Nat) (hk : k < n) : ((zs.drop lo).take n).getD k (.nan false) = zs.getD (lo + k) (.nan false) := by
    rw [List.getD_eq_getElem?_getD, List.getD_eq_getElem?_getD, List.getElem?_take_of_lt hk, List.getElem?_drop]
  have hmap : (List.zipWith Fp.mul ((xs.drop lo).take n) ((ys.drop lo).take n)).map (·.1) =
      (List.range (min xs.length (lo + n) - lo)).map fun k =>
        (Fp.mul (xs.getD (lo + k) (.nan false)) (ys.getD (lo + k) (.nan false))).1 := by
    rw [zipWith_eq_map_range Fp.mul hlen' (.nan false) (.nan false), List.map_map, hlen]
    refine List.map_congr_left fun k hk => ?_
    have hk := List.mem_range.mp hk
    rw [Function.comp_apply, hget xs k (by omega), hget ys k (by omega)]
  rw [exactDot, Fp.products, hmap]

theorem accumulate_fst (acc : Option Nat) (v : Fp.Val) : (accumulate acc v).1 = Fp.accumulated acc v := by cases acc <;> rfl

/-- A sum in aligned groups, from group g on (R97). -/
theorem groupedSum_fst {G : Nat} (hG : 0 < G) {xs ys : List Fp.Val} (h : xs.length = ys.length) (fuel g : Nat) (acc : Option Nat)
    (fl : FpFlags) (hfuel : (xs.length + G - 1) / G ≤ g + fuel) :
    (groupedSum G fuel (xs.drop (g * G)) (ys.drop (g * G)) acc fl).1 =
      ((List.range' g ((xs.length + G - 1) / G - g)).foldl (fun acc g => some (Fp.accumulated acc
        (Fp.products (fun i => xs.getD i (.nan false)) (fun i => ys.getD i (.nan false)) (g * G) (min xs.length ((g + 1) * G))))) acc).getD 0 := by
  induction fuel generalizing g acc fl with
  | zero => rw [show (xs.length + G - 1) / G - g = 0 by omega]; rfl
  | succ fuel ih =>
    have hlast : g < (xs.length + G - 1) / G ↔ g * G < xs.length := by
      rw [← Nat.succ_le_iff, Nat.le_div_iff_mul_le hG, Nat.succ_mul]; omega
    by_cases hg : g * G < xs.length
    · have hne : (xs.drop (g * G)).isEmpty = false := by
        rw [List.isEmpty_eq_false_iff]
        exact fun hnil => by have := List.drop_eq_nil_iff.mp hnil; omega
      have hcount : (xs.length + G - 1) / G - g = (xs.length + G - 1) / G - (g + 1) + 1 := by have := hlast.mpr hg; omega
      rw [groupedSum, hne, if_neg (by simp), hcount, List.range'_succ, List.foldl_cons, List.drop_drop, List.drop_drop,
        ← Nat.succ_mul, ih (g + 1) _ _ (by omega), accumulate_fst, exactDot_eq_products h, Nat.succ_mul]
    · have hempty : (xs.drop (g * G)).isEmpty = true := by rw [List.isEmpty_iff, List.drop_eq_nil_iff]; omega
      rw [groupedSum, if_pos hempty, show (xs.length + G - 1) / G - g = 0 by have := mt hlast.mp hg; omega]
      rfl

theorem groupedSum_eq_grouped {G : Nat} (hG : 0 < G) {xs ys : List Fp.Val} (h : xs.length = ys.length) (old : Option Nat) :
    (groupedSum G (xs.length + 1) xs ys old 0).1 =
      Fp.grouped G xs.length (fun i => xs.getD i (.nan false)) (fun i => ys.getD i (.nan false)) old := by
  have hfuel : (xs.length + G - 1) / G ≤ 0 + (xs.length + 1) := by
    rw [Nat.div_le_iff_le_mul_add_pred hG]
    have := Nat.le_mul_of_pos_left (xs.length + 1) hG
    rw [Nat.zero_add]
    omega
  have := groupedSum_fst hG h (xs.length + 1) 0 old 0 hfuel
  rw [Nat.zero_mul, List.drop_zero, List.drop_zero, Nat.sub_zero, ← List.range_eq_range'] at this
  exact this

/-- The chain of fused multiply-adds (R98), over the pairs of two lists. -/
theorem chain64_eq_chained {xs ys : List Fp.Val} (h : xs.length = ys.length) (old : Option Nat) (fl : FpFlags) :
    (chain64 (List.zip xs ys) old fl).1 =
      Fp.chained xs.length (fun i => xs.getD i (.nan false)) (fun i => ys.getD i (.nan false)) old := by
  induction xs generalizing ys old fl with
  | nil => rfl
  | cons x xs ih =>
    cases ys with
    | nil => simp at h
    | cons y ys =>
      have h' : xs.length = ys.length := by simpa using h
      unfold Fp.chained at ih ⊢
      rw [List.zip_cons_cons, List.length_cons, List.range_succ_eq_map, List.foldl_cons, List.foldl_map]
      cases old with
      | none => exact ih h' _ _
      | some a => exact ih h' _ _

/-! ## Blocks with scales (R100) -/

/-- Block j's contribution to R100's sum. -/
def Fp.scaledBlock (qs xs : Nat → Fp.Val) (scale : Nat → Nat) (j : Nat) : Nat :=
  if scale j = 255 then Fp.fp32.nan
  else (Fp.roundVal Fp.fp32 .rne (Fp.mul (Fp.decode Fp.fp32 (Fp.roundVal Fp.fp32 .rne (Fp.products qs xs (64 * j) (64 * j + 64))).1)
    (.fin false (scale j) 0)).1).1

/-- FP32 addition to an accumulator where one stands. -/
def Fp.addedTo (acc : Option Nat) (x : Nat) : Nat :=
  match acc with
  | none => x
  | some a => (Fp.roundVal Fp.fp32 .rne (Fp.sum .rne [Fp.decode Fp.fp32 a, Fp.decode Fp.fp32 x]).1).1

/-- A superblock's contribution: the sum of its blocks under its scale. -/
def Fp.superScaled (t : Nat) (scale : Fp.Val) : Nat :=
  (Fp.roundVal Fp.fp32 .rne (match (Fp.mul (Fp.decode Fp.fp32 t) scale).1 with
    | .fin neg m e => .fin neg m (e - 8)
    | v => v)).1

theorem Fp.scaledBlocks_eq (nb : Nat) (qs xs : Nat → Fp.Val) (scale sb : Nat → Nat) (supScale : Nat → Fp.Val) (start : Option Nat) :
    Fp.scaledBlocks nb qs xs scale sb supScale start =
      (((List.range nb).splitBy fun i j => sb i == sb j).foldl (fun acc run => some (Fp.addedTo acc
        (Fp.superScaled ((run.foldl (fun t j => some (Fp.addedTo t (Fp.scaledBlock qs xs scale j))) none).getD 0)
          (supScale (sb (run.headD 0)))))) start).getD 0 := rfl

theorem gqBlock_fst {qs xs : List Fp.Val} (h : qs.length = xs.length) (scale : Nat → Nat) {j : Nat} (hj : 64 * j + 64 ≤ qs.length) :
    (gqBlock ((qs.drop (64 * j)).take 64) ((xs.drop (64 * j)).take 64) (scale j)).1 =
      Fp.scaledBlock (fun i => qs.getD i (.nan false)) (fun i => xs.getD i (.nan false)) scale j := by
  have hdot := exactDot_eq_products h (64 * j) 64
  rw [Nat.min_eq_right hj] at hdot
  have hscale : intVal (scale j) = .fin false (scale j) 0 := by simp [intVal]
  rw [gqBlock, Fp.scaledBlock]
  split
  · rfl
  · simp only [hdot, hscale]

theorem accumulate_some_fst (a x : Nat) : (accumulate (some a) (Fp.decode Fp.fp32 x)).1 = Fp.addedTo (some a) x := rfl

/-- Where every block is of one superblock, `gqSum` adds the blocks up and scales them once. -/
theorem gqSum_one_superblock {qs xs : List Fp.Val} (h : qs.length = xs.length) {scales : List Nat} {j : Nat}
    (hlen : qs.length = 64 * (j + scales.length)) (sup : Nat) (sc : Word) (acc : Option Nat) (t : Nat) (fl : FpFlags) (scale : Nat → Nat)
    (hscale : ∀ i, i < scales.length → scales[i]? = some (scale (j + i))) :
    (gqSum (scales.map fun b => ⟨b, sup, sc⟩) (qs.drop (64 * j)) (xs.drop (64 * j)) acc (some (t, sup, sc)) fl).1 =
      Fp.addedTo acc (Fp.superScaled ((List.range' j scales.length).foldl (fun t i => Fp.addedTo (some t)
        (Fp.scaledBlock (fun i => qs.getD i (.nan false)) (fun i => xs.getD i (.nan false)) scale i)) t)
        (Fp.decode Fp.fp32 sc.toNat)) := by
  induction scales generalizing j t fl with
  | nil => cases acc <;> rfl
  | cons b bs ih =>
    have hb : b = scale j := by simpa using hscale 0 (by simp)
    have hnext : ∀ i, i < bs.length → bs[i]? = some (scale (j + 1 + i)) := fun i hi => by
      have := hscale (i + 1) (by simpa using hi)
      rwa [List.getElem?_cons_succ, Nat.add_comm i 1, ← Nat.add_assoc] at this
    rw [List.length_cons] at hlen
    have hdrop : 64 * j + 64 = 64 * (j + 1) := by ring
    rw [List.map_cons, gqSum, if_pos rfl, List.drop_drop, List.drop_drop, hdrop, ih (by rw [hlen]; ring) _ _ hnext, List.length_cons,
      List.range'_succ, List.foldl_cons, accumulate_some_fst, hb, gqBlock_fst h scale (by rw [hlen]; omega)]

/-- A running sum that stands goes on standing. -/
theorem foldl_addedTo_some (l : List Nat) (block : Nat → Nat) (t : Nat) :
    l.foldl (fun t j => some (Fp.addedTo t (block j))) (some t) = some (l.foldl (fun t j => Fp.addedTo (some t) (block j)) t) := by
  induction l generalizing t with
  | nil => rfl
  | cons j l ih => exact ih _

theorem gqSum_eq_scaledBlocks {qs xs : List Fp.Val} (h : qs.length = xs.length) {scales : List Nat} (hlen : qs.length = 64 * scales.length)
    (sc : Word) (old : Option Nat) : (gqSum (scales.map fun b => ⟨b, 0, sc⟩) qs xs old none 0).1 =
      Fp.scaledBlocks scales.length (fun i => qs.getD i (.nan false)) (fun i => xs.getD i (.nan false)) (fun j => scales.getD j 0)
        (fun _ => 0) (fun _ => Fp.decode Fp.fp32 sc.toNat) old := by
  rw [Fp.scaledBlocks_eq]
  cases scales with
  | nil => rfl
  | cons b bs =>
    rw [List.length_cons] at hlen ⊢
    have hnext : ∀ i, i < bs.length → bs[i]? = some ((b :: bs).getD (1 + i) 0) := fun i hi => by
      rw [Nat.add_comm 1 i, List.getD_cons_succ, List.getD_eq_getElem?_getD, List.getElem?_eq_getElem hi, Option.getD_some]
    have hfirst := gqBlock_fst h (fun j => (b :: bs).getD j 0) (j := 0) (by rw [hlen]; omega)
    have hrest := gqSum_one_superblock h (j := 1) (by rw [hlen]; ring) 0 sc old
      (gqBlock (qs.take 64) (xs.take 64) b).1 (0 ||| (gqBlock (qs.take 64) (xs.take 64) b).2) (fun j => (b :: bs).getD j 0) hnext
    have hsplit : (List.range (bs.length + 1)).splitBy (fun _ _ => (0 : Nat) == 0) = [0 :: List.range' 1 bs.length] := by
      rw [List.range_eq_range', List.range'_succ]
      exact List.splitBy_of_isChain (by simp) (List.pairwise_of_forall fun _ _ => rfl).isChain
    rw [hsplit, List.foldl_cons, List.foldl_nil, Option.getD_some, List.foldl_cons, foldl_addedTo_some, Option.getD_some]
    refine hrest.trans ?_
    rw [show (gqBlock (qs.take 64) (xs.take 64) b).1 = _ from hfirst]
    rfl

/-! ## One output element -/

/-- A product of integers in units of 1. -/
theorem intDot_eq_sum (a b : List Int) : intDot (a.map intVal) (b.map intVal) = (List.zipWith (· * ·) a b).sum := by
  have hunit (v : Int) : Fp.units 0 (intVal v) = v := by
    rcases lt_or_ge v 0 with hv | hv
    · simp [Fp.units, intVal, hv, abs_of_neg hv]
    · simp [Fp.units, intVal, hv.not_gt, abs_of_nonneg hv]
  rw [intDot, List.zipWith_map, List.sum_eq_foldl]
  simp only [hunit]

/-- Output elements by format (R97 to R100). -/
theorem outputElem_value (fmt : MmaFmt) (xs ys : List Fp.Val) (old : Option Nat) (scales : List Nat) (scale : Word)
    (h : xs.length = ys.length) :
    let x (i : Nat) : Fp.Val := xs.getD i (.nan false)
    let y (i : Nat) : Fp.Val := ys.getD i (.nan false)
    let r := (outputElem fmt xs ys old scales scale).1
    (fmt = .f64 → r = Fp.chained xs.length x y old) ∧
    (fmt = .f32 → r = Fp.grouped 8 xs.length x y old) ∧
    (fmt = .bf16 ∨ fmt = .f16 ∨ fmt = .e4 ∨ fmt = .e5 ∨ fmt = .e4e5 → r = Fp.grouped 32 xs.length x y old) ∧
    (fmt = .e2 → r = Fp.grouped 64 xs.length x y old) ∧
    (fmt = .bfgq4 ∨ fmt = .e4gq4 → xs.length = 64 * scales.length →
      r = Fp.scaledBlocks scales.length y x (fun j => scales.getD j 0) (fun _ => 0) (fun _ => Fp.decode Fp.fp32 scale.toNat) old) ∧
    (fmt = .i8 ∨ fmt = .i4 → ∀ a b : List Int, xs = a.map intVal → ys = b.map intVal →
      r = ((((old.getD 0 : Nat) : Int) + (List.zipWith (· * ·) a b).sum) % 2 ^ 32).toNat) := by
  intro x y r
  refine ⟨?_, ?_, ?_, ?_, ?_, ?_⟩
  · rintro rfl
    exact chain64_eq_chained h old 0
  · rintro rfl
    exact groupedSum_eq_grouped (by decide) h old
  · rintro (rfl | rfl | rfl | rfl | rfl) <;> exact groupedSum_eq_grouped (by decide) h old
  · rintro rfl
    exact groupedSum_eq_grouped (by decide) h old
  · rintro (rfl | rfl) hlen <;> exact gqSum_eq_scaledBlocks h.symm (h.symm.trans hlen) scale old
  · have hint (a b : List Int) : (BitVec.ofInt 32 ((old.getD 0 : Nat) + intDot (a.map intVal) (b.map intVal))).toNat =
        ((((old.getD 0 : Nat) : Int) + (List.zipWith (· * ·) a b).sum) % 2 ^ 32).toNat := by
      rw [intDot_eq_sum, BitVec.toNat_ofInt]
      rfl
    rintro (rfl | rfl) a b rfl rfl <;> exact hint a b

end Sys2Proof.Machine
end

section
/-!
PROOF. O34: what an MMA writes (R210, R221): its output elements at their places in the tiles, and no other byte.
-/
namespace Sys2Proof.Machine
open Sys2Proof

/-! ## The places of the outputs -/

/-- The size of an output element. -/
def outputSize (fmt : MmaFmt) : Nat := if fmt = .f64 then 8 else 4

/-- The tile address of byte q of the outputs: the first 16 KiB in tile c, the others in tile c2. -/
def outputAddr (c c2 q : Nat) : Nat := if q < slotBytes then c * slotBytes + q else c2 * slotBytes + (q - slotBytes)

/-- Output element (m, n) lies at its place, in one piece. -/
theorem outputAddr_elem (fmt : MmaFmt) (c c2 : Nat) {m n j : Nat} (hm : m < 64) (hn : n < 64) (hj : j < outputSize fmt) :
    outputAddr c c2 (outputSize fmt * (64 * m + n) + j) = outputPlace fmt c c2 m n + j := by
  unfold outputAddr outputPlace
  unfold outputSize at hj ⊢
  simp only [slotBytes]
  by_cases hf : fmt = .f64
  · simp only [hf, if_true] at hj ⊢
    split <;> split <;> omega
  · simp only [hf, if_false] at hj ⊢
    rw [if_pos (by omega)]
    omega

theorem outputPlace_eq (fmt : MmaFmt) (c c2 : Nat) {m : Nat} (n : Nat) (hm : m < 64) :
    outputPlace fmt c c2 m n = if fmt = .f64 then 16384 * (if m < 32 then c else c2) + 8 * (64 * (m % 32) + n)
      else 16384 * c + 4 * (64 * m + n) := by
  unfold outputPlace
  simp only [slotBytes]
  split
  · split <;> omega
  · omega

/-- The tiles after the bytes of the outputs have been written. -/
def writeOutputs (t : Memory) (fmt : MmaFmt) (c c2 : Nat) (bytes : List Byte) : Memory :=
  let t := t.splice (c * slotBytes) (bytes.take slotBytes)
  if fmt = .f64 then t.splice (c2 * slotBytes) (bytes.drop slotBytes) else t

section
variable {t : Memory} {fmt : MmaFmt} {c c2 : Nat} {bytes : List Byte} (hlen : bytes.length = outputSize fmt * 4096)
include hlen

theorem writeOutputs_get (hc : fmt = .f64 → c2 ≠ c) {q : Nat} (hq : q < outputSize fmt * 4096) :
    (writeOutputs t fmt c c2 bytes).get (outputAddr c c2 q) = bytes.getD q 0 := by
  unfold outputSize at hlen hq
  unfold writeOutputs outputAddr
  have htake : (bytes.take slotBytes).length = slotBytes := by
    rw [List.length_take, hlen]; simp only [slotBytes]; split <;> omega
  have hfirst (hq : q < slotBytes) : (t.splice (c * slotBytes) (bytes.take slotBytes)).get (c * slotBytes + q) = bytes.getD q 0 := by
    rw [Memory.get_splice, htake, if_pos ⟨by omega, by omega⟩, Nat.add_sub_cancel_left, List.getD_eq_getElem?_getD,
      List.getElem?_take_of_lt hq, List.getD_eq_getElem?_getD]
  by_cases hf : fmt = .f64
  · have hdrop : (bytes.drop slotBytes).length = slotBytes := by
      rw [List.length_drop, hlen, if_pos hf]; rfl
    have hne := hc hf
    simp only [hf, if_true] at hq ⊢
    rw [Memory.get_splice, hdrop]
    split
    · next hlow =>
      rw [if_neg (by simp only [slotBytes] at *; omega), hfirst hlow]
    · next hhigh =>
      rw [if_pos ⟨by omega, by simp only [slotBytes] at *; omega⟩, Nat.add_sub_cancel_left, List.getD_eq_getElem?_getD,
        List.getElem?_drop, ← List.getD_eq_getElem?_getD, show slotBytes + (q - slotBytes) = q by omega]
  · simp only [hf, if_false] at hq ⊢
    have hlow : q < slotBytes := by simp only [slotBytes]; omega
    rw [if_pos hlow, hfirst hlow]

theorem writeOutputs_get_other {p : Nat} (hp : p / 16384 ≠ c) (hp2 : fmt = .f64 → p / 16384 ≠ c2) :
    (writeOutputs t fmt c c2 bytes).get p = t.get p := by
  unfold outputSize at hlen
  have htake : (bytes.take slotBytes).length = slotBytes := by
    rw [List.length_take, hlen]; simp only [slotBytes]; split <;> omega
  have hfirst : (t.splice (c * slotBytes) (bytes.take slotBytes)).get p = t.get p := by
    rw [Memory.get_splice, htake, if_neg (by simp only [slotBytes]; omega)]
  unfold writeOutputs
  by_cases hf : fmt = .f64
  · have hdrop : (bytes.drop slotBytes).length = slotBytes := by
      rw [List.length_drop, hlen, if_pos hf]; rfl
    have := hp2 hf
    rw [if_pos hf, Memory.get_splice, hdrop, if_neg (by simp only [slotBytes]; omega), hfirst]
  · rw [if_neg hf, hfirst]

end

/-! ## The outputs, in order -/

/-- The 64 x 64 outputs by row. -/
def outputList (elem : Nat → Nat → Nat × FpFlags) : List (Nat × FpFlags) :=
  (List.range 64).flatMap fun m => (List.range 64).map (elem m)

/-- Their bytes. -/
def outputBytes (fmt : MmaFmt) (elem : Nat → Nat → Nat × FpFlags) : List Byte :=
  (outputList elem).flatMap fun r => leBytes (outputSize fmt) r.1

theorem outputList_getElem? (elem : Nat → Nat → Nat × FpFlags) {m n : Nat} (hm : m < 64) (hn : n < 64) :
    (outputList elem)[64 * m + n]? = some (elem m n) := by
  rw [outputList, getElem?_flatMap_block (fun _ _ => by simp) hn, List.getElem?_range hm, Option.bind_some, List.getElem?_map,
    List.getElem?_range hn, Option.map_some]

theorem outputBytes_length (fmt : MmaFmt) (elem : Nat → Nat → Nat × FpFlags) : (outputBytes fmt elem).length = outputSize fmt * 4096 := by
  rw [outputBytes, length_flatMap_block (k := outputSize fmt) fun _ _ => leBytes_length _ _, outputList,
    length_flatMap_block (k := 64) fun _ _ => by simp]
  rfl

theorem outputBytes_getD (fmt : MmaFmt) (elem : Nat → Nat → Nat × FpFlags) {m n j : Nat} (hm : m < 64) (hn : n < 64)
    (hj : j < outputSize fmt) :
    (outputBytes fmt elem).getD (outputSize fmt * (64 * m + n) + j) 0 = (leBytes (outputSize fmt) (elem m n).1).getD j 0 := by
  rw [outputBytes, List.getD_eq_getElem?_getD, getElem?_flatMap_block (fun _ _ => leBytes_length _ _) hj, outputList_getElem? elem hm hn,
    Option.bind_some, List.getD_eq_getElem?_getD]

/-- Written outputs read back, element by element. -/
theorem writeOutputs_bytes (t : Memory) {fmt : MmaFmt} {c c2 : Nat} (elem : Nat → Nat → Nat × FpFlags) (hc : fmt = .f64 → c2 ≠ c)
    {m n : Nat} (hm : m < 64) (hn : n < 64) :
    (writeOutputs t fmt c c2 (outputBytes fmt elem)).bytes (outputPlace fmt c c2 m n) (outputSize fmt) =
      leBytes (outputSize fmt) (elem m n).1 := by
  have hbytes := Memory.bytes_eq_of_get (m := writeOutputs t fmt c c2 (outputBytes fmt elem)) (a := outputPlace fmt c c2 m n)
    (bs := leBytes (outputSize fmt) (elem m n).1) fun j hj => by
      rw [leBytes_length] at hj
      have hq : outputSize fmt * (64 * m + n) + j < outputSize fmt * 4096 :=
        calc outputSize fmt * (64 * m + n) + j < outputSize fmt * (64 * m + n + 1) := by rw [Nat.mul_succ]; omega
          _ ≤ outputSize fmt * 4096 := Nat.mul_le_mul_left _ (by omega)
      rw [← outputAddr_elem fmt c c2 hm hn hj, writeOutputs_get (outputBytes_length fmt elem) hc hq, outputBytes_getD fmt elem hm hn hj]
  rwa [leBytes_length] at hbytes

/-! ## `mmaCompute` -/

/-- The element that MODE 1 starts from. -/
def mmaStart (w : Wave) (fmt : MmaFmt) (mode : MmaMode) (c c2 m n : Nat) : Option Nat :=
  if mode = .acc then some (w.tileMem.nat (outputPlace fmt c c2 m n) (outputSize fmt)) else none

/-- The bytes of the tiles that an MMA starts from, in the order of its outputs. -/
def oldBytes (w : Wave) (fmt : MmaFmt) (c c2 : Nat) : List Byte :=
  w.tileMem.run (c * slotBytes) slotBytes ++ if fmt = .f64 then w.tileMem.run (c2 * slotBytes) slotBytes else []

theorem oldBytes_elem {w : Wave} (hw : w.tileMem.wf = true) (fmt : MmaFmt) (c c2 : Nat) {m n : Nat} (hm : m < 64) (hn : n < 64) :
    packedElem (oldBytes w fmt c c2).toArray (8 * outputSize fmt) (64 * m + n) =
      w.tileMem.nat (outputPlace fmt c c2 m n) (outputSize fmt) := by
  have hsize : 8 * outputSize fmt / 8 = outputSize fmt := Nat.mul_div_cancel_left _ (by decide)
  have hget (q : Nat) (hq : q < outputSize fmt * 4096) : (oldBytes w fmt c c2)[q]? = some (w.tileMem.get (outputAddr c c2 q)) := by
    rw [oldBytes, Memory.run_eq_bytes hw, Memory.run_eq_bytes hw, outputAddr]
    by_cases hlow : q < slotBytes
    · rw [if_pos hlow, List.getElem?_append_left (by rwa [Memory.bytes_length]), Memory.getElem?_bytes _ _ hlow]
    · rw [if_neg hlow]
      unfold outputSize at hq
      by_cases hf : fmt = .f64
      · rw [if_pos hf] at hq ⊢
        rw [List.getElem?_append_right (by rw [Memory.bytes_length]; omega), Memory.bytes_length,
          Memory.getElem?_bytes _ _ (by simp only [slotBytes] at *; omega)]
      · rw [if_neg hf] at hq
        exact absurd (by simp only [slotBytes]; omega) hlow
  have hne : 8 * outputSize fmt ≠ 4 := by omega
  have := packedElem_bytes (bs := (oldBytes w fmt c c2)) (i := 64 * m + n) hne (m := w.tileMem) (a := outputPlace fmt c c2 m n) fun j hj => by
    rw [hsize] at hj ⊢
    rw [← outputAddr_elem fmt c c2 hm hn hj, Nat.mul_comm]
    refine hget _ ?_
    calc outputSize fmt * (64 * m + n) + j < outputSize fmt * (64 * m + n + 1) := by rw [Nat.mul_succ]; omega
      _ ≤ outputSize fmt * 4096 := Nat.mul_le_mul_left _ (by omega)
  rwa [hsize] at this

section
variable (w : Wave) (fmt : MmaFmt) (mode : MmaMode) (a b c c2 k : Nat) (aCol bCol : Bool) (scale : Word) (oA oB : Nat) (scales : List Nat)

/-- Output element (m, n) of an MMA (R97 to R100). -/
def mmaElem (m n : Nat) : Nat × FpFlags :=
  outputElem fmt (rowOfA (operandElems w.slotMem a oA k (aElem fmt)) aCol k m) (colOfB (operandElems w.slotMem b oB k (bElem fmt)) bCol k n)
    (mmaStart w fmt mode c c2 m n) ((List.range (k / 64)).map fun i => scales.getD (64 * i + n) 0) scale

/-- An MMA writes its output elements in order. -/
theorem mmaCompute_fst (hw : w.tileMem.wf = true) :
    (mmaCompute w fmt mode a b c c2 k aCol bCol scale oA oB scales).1 =
      writeOutputs w.tileMem fmt c c2 (outputBytes fmt (mmaElem w fmt mode a b c c2 k aCol bCol scale oA oB scales)) := by
  have hold : (w.tileMem.run (c * slotBytes) slotBytes).toArray ++
      (if fmt = .f64 then (w.tileMem.run (c2 * slotBytes) slotBytes).toArray else #[]) = (oldBytes w fmt c c2).toArray := by
    rw [oldBytes]; split <;> simp
  have hzip (g : Nat → List Fp.Val) (h : List Fp.Val × Nat → Nat × FpFlags) :
      ((List.range 64).map g).zipIdx.map h = (List.range 64).map fun n => h (g n, n) := by
    refine List.ext_getElem? fun n => ?_
    rcases Nat.lt_or_ge n 64 with hn | hn
    · simp [List.getElem?_range hn]
    · rw [List.getElem?_eq_none (by simpa using hn), List.getElem?_eq_none (by simpa using hn)]
  have hout : outputList (mmaElem w fmt mode a b c c2 k aCol bCol scale oA oB scales) = (List.range 64).flatMap fun m =>
      (((List.range 64).map (colOfB (operandElems w.slotMem b oB k (bElem fmt)) bCol k)).zipIdx.map fun y =>
        outputElem fmt (rowOfA (operandElems w.slotMem a oA k (aElem fmt)) aCol k m) y.1
          (if mode = .acc then some (packedElem (oldBytes w fmt c c2).toArray (8 * outputSize fmt) (64 * m + y.2)) else none)
          ((List.range (k / 64)).map fun i => scales.getD (64 * i + y.2) 0) scale) := by
    rw [outputList]
    refine List.flatMap_congr fun m hm => ?_
    rw [hzip]
    refine List.map_congr_left fun n hn => ?_
    rw [mmaElem, mmaStart, oldBytes_elem hw fmt c c2 (List.mem_range.mp hm) (List.mem_range.mp hn)]
  rw [outputBytes, hout, ← hold]
  rfl

end

end Sys2Proof.Machine
end

section
/-!
PROOF. O34: the start and the completion of the oldest operation of a core's matrix queue (R214, R221 to R224).
-/
namespace Sys2Proof.Machine
open Sys2Proof

/-! ## Waves, groups and operations after a change -/

theorem State.wave?_uid {s : State} {uid : Nat} {w : Wave} (h : s.wave? uid = some w) : w.uid = uid := by simpa using List.find?_some h

theorem State.wave?_mapWave_self {s : State} {uid : Nat} {w : Wave} (h : s.wave? uid = some w) {f : Wave → Wave}
    (hf : ∀ w, (f w).uid = w.uid) : (s.mapWave uid f).wave? uid = some (f w) :=
  (find?_updateIf_hit (p := fun w : Wave => w.uid == uid) (fun w hw => by rwa [hf]) s.waves).trans (congrArg (Option.map f) h)

theorem State.wave?_mapWave_other (s : State) {uid k : Nat} (h : k ≠ uid) {f : Wave → Wave} (hf : ∀ w, (f w).uid = w.uid) :
    (s.mapWave uid f).wave? k = s.wave? k :=
  find?_updateIf_miss (p := fun w : Wave => w.uid == k) (fun w hw => by
    have hw : w.uid = uid := by simpa using hw
    simp [hf, hw, h.symm]) s.waves

theorem State.group?_mapGroup_self {s : State} {wave idx : Nat} {g : Group} (h : s.group? wave idx = some g) {f : Group → Group}
    (hf : ∀ g, (f g).wave = g.wave ∧ (f g).idx = g.idx) : (s.mapGroup wave idx f).group? wave idx = some (f g) :=
  (find?_updateIf_hit (p := fun g : Group => g.wave == wave && g.idx == idx) (fun g hg => by rwa [(hf g).1, (hf g).2]) s.groups).trans
    (congrArg (Option.map f) h)

/-- Every member of a number has received a change of that number. -/
theorem mem_updateIf_id {α : Type} {num : α → Nat} {op : Nat} {f : α → α} {xs : List α} {z : α}
    (hz : z ∈ updateIf (fun y => num y == op) f xs) (hid : num z = op) : ∃ y, z = f y := by
  obtain ⟨y, -, rfl⟩ := List.mem_map.mp hz
  by_cases h : num y == op
  · exact ⟨y, if_pos h⟩
  · rw [if_neg h] at hid
    exact absurd (by simpa using hid) h

theorem chooseAt_mem {α : Type} (d : α) (n : Nat) {l : List α} (h : l ≠ []) : chooseAt d n l ∈ l := by
  match l with
  | [] => exact absurd rfl h
  | [x] => exact List.mem_singleton.mpr rfl
  | x :: y :: xs =>
    have hlt : Config.choice n % (xs.length + 2) < (x :: y :: xs).length := Nat.mod_lt _ (by omega)
    rw [chooseAt, List.getElem?_eq_getElem hlt]
    exact List.getElem_mem hlt

/-! ## MATRIX_OP_START -/

/-- An operation that has run, with its flags. -/
def MatrixOp.ran (x : MatrixOp) (fl : FpFlags) (fatal : Bool) : MatrixOp := { x with started := true, fflags := fl, fatal := fatal }

/-- A wave with a tile zeroed and cleaned of poison (R214). -/
def Wave.zeroTile (w : Wave) (n : Nat) : Wave :=
  { w with tileMem := w.tileMem.zero (n * slotBytes) slotBytes, tilePoison := w.tilePoison.filter fun u => !(u / 4096 == n) }

/-- A wave with the bytes of its tiles. -/
def Wave.withTiles (w : Wave) (t : Memory) : Wave := { w with tileMem := t }

/-- The operation x of wave w as it has run: its writes or its record, and its mark. -/
def State.afterMatrix (s : State) (x : MatrixOp) (w : Wave) : State :=
  { (s.runMatrix x w).1 with
    matrixOps := updateIf (fun y => y.id == x.id) (fun y => y.ran (s.runMatrix x w).2.1 (s.runMatrix x w).2.2)
      (s.runMatrix x w).1.matrixOps }

section
variable {s : State} {id : CoreId} {x : MatrixOp} {rest : List MatrixOp} {w : Wave}

theorem exec_matrixOpStart (hq : (s.matrixOps.filter fun y => y.core == id) = x :: rest) (hx : x.started = false)
    (hw : s.wave? x.thread.wave = some w) : exec (.matrixOpStart id) s = .next (s.afterMatrix x w) := by
  change execMatrixOpStart id s = _
  have hq : s.matrixQueue id = x :: rest := hq
  simp only [execMatrixOpStart, hq, hx, hw, Bool.false_eq_true, if_false]
  rfl

theorem State.afterMatrix_marked {z : MatrixOp} (hz : z ∈ (s.afterMatrix x w).matrixOps) (hid : z.id = x.id) :
    z.started = true ∧ z.fflags = (s.runMatrix x w).2.1 ∧ z.fatal = (s.runMatrix x w).2.2 := by
  obtain ⟨y, rfl⟩ := mem_updateIf_id (num := MatrixOp.id) hz hid
  exact ⟨rfl, rfl, rfl⟩

/-- What the run of an operation leaves of the machine: the thread, the memory, every other wave; y is its wave's new state. -/
structure MatrixRan (s u : State) (x : MatrixOp) (w y : Wave) : Prop where
  wave : u.wave? x.thread.wave = some y
  mem : u.mem = s.mem
  threads : u.threads = s.threads
  others : ∀ k, k ≠ w.uid → u.wave? k = s.wave? k

/-- An operation that writes its wave's tiles. -/
theorem MatrixRan.ofMapWave (hw : s.wave? x.thread.wave = some w) {f : Wave → Wave}
    (hr : (s.runMatrix x w).1 = s.mapWave w.uid f) (hf : ∀ w, (f w).uid = w.uid) : MatrixRan s (s.afterMatrix x w) x w (f w) := by
  have huid := State.wave?_uid hw
  have hwaves : (s.afterMatrix x w).waves = (s.mapWave w.uid f).waves := by rw [← hr]; rfl
  have hwave (k : Nat) : (s.afterMatrix x w).wave? k = (s.mapWave w.uid f).wave? k := by rw [State.wave?, hwaves]; rfl
  refine ⟨?_, ?_, ?_, fun k hk => ?_⟩
  · rw [hwave, huid]; exact State.wave?_mapWave_self hw hf
  · change (s.runMatrix x w).1.mem = _; rw [hr]; rfl
  · change (s.runMatrix x w).1.threads = _; rw [hr]; rfl
  · rw [hwave]; exact State.wave?_mapWave_other s hk hf

/-- AZERO zeroes its tile and cleans it (R214). -/
theorem State.runMatrix_azero {n : Nat} (hk : x.kind = .azero n) :
    s.runMatrix x w = (s.mapWave w.uid fun w => w.zeroTile n, 0, false) := by
  simp only [State.runMatrix, hk]
  rfl

section
variable {fmt : MmaFmt} {mode : MmaMode} {a b c c2 k : Nat} {aCol bCol : Bool} {scale : Word} {oA oB : Nat} {scales : List Nat}
  (hk : x.kind = .mma fmt mode a b c c2 k aCol bCol scale oA oB scales)
include hk

/-- An MMA of clean operands writes its outputs (R221). -/
theorem State.runMatrix_mma (hclean : mmaPoison w fmt mode a b c c2 k oA oB = []) : s.runMatrix x w =
    (s.mapWave w.uid fun v => v.withTiles (mmaCompute w fmt mode a b c c2 k aCol bCol scale oA oB scales).1,
      (mmaCompute w fmt mode a b c c2 k aCol bCol scale oA oB scales).2, false) := by
  simp only [State.runMatrix, hk, hclean, List.isEmpty_nil, if_true]
  rfl

/-- An MMA that reads poison posts a record, and no more (R224). -/
theorem State.runMatrix_poisoned (hbad : mmaPoison w fmt mode a b c c2 k oA oB ≠ []) :
    let r := s.recordFor x.thread .poison 3 (BitVec.ofNat 64 (chooseAt 0 s.free (mmaPoison w fmt mode a b c c2 k oA oB))) x.pc x.port 3 4
      (some x.core.core) none
    s.runMatrix x w = (({ s with free := s.free + 1 } : State).post r.die r (.matrix x.id), 0, true) := by
  have : (mmaPoison w fmt mode a b c c2 k oA oB).isEmpty = false := by rwa [List.isEmpty_eq_false_iff]
  simp only [State.runMatrix, hk, this, Bool.false_eq_true, if_false]

end

end

/-! ## MATRIX_OP_COMPLETION -/

section
variable {s : State} {id : CoreId} {x : MatrixOp} {rest : List MatrixOp}

/-- The operation reported, its flags added. -/
def State.completedMatrix (s : State) (x : MatrixOp) : State :=
  (({ s with matrixOps := s.matrixOps.filter fun y => !(y.id == x.id) } : State).report x.thread x.group .matrix x.id x.order x.passesOn
    x.passesOn []).orFlags x.thread x.fflags

theorem exec_matrixOpCompletion (hq : (s.matrixOps.filter fun y => y.core == id) = x :: rest) (hx : x.started = true) :
    exec (.matrixOpCompletion id) s = .next (if s.posting x.core.die (.matrix x.id) then s
      else if x.notifies then (s.completedMatrix x).notify x.core.die x.port (if x.fatal then 1 else 0) x.tag 1 x.passesOn
      else s.completedMatrix x) := by
  change execMatrixOpCompletion id s = _
  have hq : s.matrixQueue id = x :: rest := hq
  simp only [execMatrixOpCompletion, hq, hx, Bool.not_true, Bool.false_or]
  rfl

/-- A report changes the group's record of its operations and what its launch passes on. -/
theorem State.report_frame (s : State) (t : ThreadId) (group : Nat) (c : CounterClass) (op order : Nat) (waitc step : Know)
    (wrote : List Nat) : ∃ ls, s.report t group c op order waitc step wrote =
      { s.mapGroup t.wave group fun g => g.report c op order waitc wrote with launches := ls } := by
  unfold State.report
  dsimp only
  split
  · exact ⟨_, rfl⟩
  · exact ⟨_, rfl⟩

theorem Group.report_matrix (g : Group) (op order : Nat) (know : Know) : g.report .matrix op order know [] =
    { g with matrixOps := g.matrixOps.filter (· != op),
             reported := if know = Know.none then g.reported else g.reported ++ [⟨.matrix, order, know, []⟩] } := by
  unfold Group.report
  split <;> rfl

/-- The completion (R94, R207, R223): the queue, the group's counter, the thread's flags; nothing else of memory, waves and dies. -/
theorem State.completedMatrix_spec (s : State) (x : MatrixOp) :
    let u := s.completedMatrix x
    u.matrixOps = s.matrixOps.filter (fun y => !(y.id == x.id)) ∧ u.mem = s.mem ∧ u.waves = s.waves ∧ u.dies = s.dies ∧
    (∀ g, s.group? x.thread.wave x.group = some g →
      u.group? x.thread.wave x.group = some { g with
        matrixOps := g.matrixOps.filter (· != x.id)
        reported := if x.passesOn = Know.none then g.reported else g.reported ++ [⟨.matrix, x.order, x.passesOn, []⟩] }) ∧
    (∀ k, k ≠ x.thread → u.thread? k = s.thread? k) ∧
    ∀ t, s.thread? x.thread = some t → u.thread? x.thread = some (if t.status = .stopped then { t with owed := t.owed ||| x.fflags }
      else { t with fflags := t.fflags ||| x.fflags.setWidth 32 }) := by
  obtain ⟨ls, hreport⟩ := State.report_frame ({ s with matrixOps := s.matrixOps.filter fun y => !(y.id == x.id) } : State)
    x.thread x.group .matrix x.id x.order x.passesOn x.passesOn []
  have hid (t : Thread) : (if t.status = TStatus.stopped then { t with owed := t.owed ||| x.fflags }
      else { t with fflags := addFlags t.fflags false x.fflags }).id = t.id := by split <;> rfl
  intro u
  have hu : u = State.orFlags _ x.thread x.fflags := congrArg (State.orFlags · x.thread x.fflags) hreport
  rw [hu]
  refine ⟨rfl, rfl, rfl, rfl, fun g hg => ?_, fun k hk => ?_, fun t ht => ?_⟩
  · rw [← Group.report_matrix]
    exact State.group?_mapGroup_self (s := s) hg fun g => by rw [Group.report_matrix]; exact ⟨rfl, rfl⟩
  · exact State.thread?_mapThread_other _ _ hid hk
  · exact (State.thread?_mapThread_self _ _ _ hid).trans (congrArg (Option.map _) ht)

end

end Sys2Proof.Machine
end

section
/-!
PROOF. O34, settled.
-/
namespace Sys2Proof.Machine
open Sys2Proof

/-- A zeroed tile reads as zeros, and no other byte changes (R214). -/
theorem Memory.get_zero_tile (m : Memory) (n a : Nat) :
    (m.zero (n * slotBytes) slotBytes).get a = if 16384 * n ≤ a ∧ a < 16384 * (n + 1) then 0 else m.get a := by
  simp only [slotBytes]
  split
  · exact Memory.get_zero_inside m (by omega)
  · exact Memory.get_zero_outside m (by omega)

section
variable {s : State} {x : MatrixOp} {w : Wave} {fmt : MmaFmt} {mode : MmaMode} {a b c c2 k : Nat} {aCol bCol : Bool} {scale : Word}
  {oA oB : Nat} {scales : List Nat} (hw : s.wave? x.thread.wave = some w)
  (hk : x.kind = .mma fmt mode a b c c2 k aCol bCol scale oA oB scales) (hbad : mmaPoison w fmt mode a b c c2 k oA oB ≠ [])
include hw hk hbad

/-- An MMA that reads poison leaves its wave as it is (R224). -/
theorem MatrixRan.poisoned : MatrixRan s (s.afterMatrix x w) x w w := by
  have hr := State.runMatrix_poisoned (s := s) hk hbad
  have hwave (k : Nat) : (s.afterMatrix x w).wave? k = s.wave? k := by
    change (s.runMatrix x w).1.wave? k = _; rw [hr]; rfl
  refine ⟨(hwave _).trans hw, ?_, ?_, fun k _ => hwave k⟩
  · change (s.runMatrix x w).1.mem = _; rw [hr]; rfl
  · change (s.runMatrix x w).1.threads = _; rw [hr]; rfl

/-- Its record waits at its die (R224, R322). -/
theorem State.afterMatrix_posts {d : Die} (hd : s.die? w.die = some d) : ∃ d' p, (s.afterMatrix x w).die? w.die = some d' ∧
    d'.posting = d.posting ++ [p] ∧ p.poster = .matrix x.id ∧ p.record.cause = .poison ∧ p.record.source = 3 ∧
    p.record.notify = x.port ∧ p.record.pc = Word.pair x.pc (Word.hi p.record.pc) ∧
    ∃ va ∈ mmaPoison w fmt mode a b c c2 k oA oB, p.record.va = BitVec.ofNat 64 va := by
  have hdie (va : DWord) : (s.recordFor x.thread .poison 3 va x.pc x.port 3 4 (some x.core.core) none).die = w.die := by
    simp only [State.recordFor, hw, Option.map_some, Option.getD_some]
  have hu : (s.afterMatrix x w).die? w.die = (s.runMatrix x w).1.die? w.die := rfl
  rw [hu, State.runMatrix_poisoned hk hbad]
  simp only [hdie]
  refine ⟨_, _, State.die?_mapDie (s := { s with free := s.free + 1 }) hd fun _ => rfl, rfl, rfl, rfl, rfl, rfl, ?_,
    _, chooseAt_mem 0 s.free hbad, rfl⟩
  simp only [State.recordFor, Word.hi_pair]

end

/-- Settles O34: the outputs by their places in the tiles; their values by the sums of R97 to R100; the completion by what it changes. -/
theorem matrixOutputsComplete : Obligations.MatrixOutputsComplete := by
  unfold Obligations.MatrixOutputsComplete
  refine ⟨?_, ?_, outputElem_value, ?_⟩
  · intro s id x rest w hs hq hx hw runs
    have hwf : w.tileMem.wf = true := (State.memOk_wave? hs hw).2.2
    have hruns {y : Wave} (h : MatrixRan s (s.afterMatrix x w) x w y) (hslot : y.slotMem = w.slotMem) (hspad : y.spad = w.spad) :
        runs (s.afterMatrix x w) y :=
      ⟨exec_matrixOpStart hq hx hw, h.wave, hslot, hspad, h.mem, h.threads, fun z hz hid => (State.afterMatrix_marked hz hid).1, h.others⟩
    refine ⟨fun n hk => ?_, fun fmt mode a b c c2 k aCol bCol scale oA oB scales hk => ⟨fun hclean hc => ?_, fun hbad => ?_⟩⟩
    · have hran := MatrixRan.ofMapWave hw (congrArg Prod.fst (State.runMatrix_azero (s := s) (w := w) hk)) fun _ => rfl
      refine ⟨_, _, hruns hran rfl rfl, fun p => Memory.get_zero_tile w.tileMem n p, fun p => ?_⟩
      simp [Wave.zeroTile, List.mem_filter]
    · have hr := congrArg Prod.fst (State.runMatrix_mma (s := s) hk hclean)
      rw [mmaCompute_fst w fmt mode a b c c2 k aCol bCol scale oA oB scales hwf] at hr
      have hran := MatrixRan.ofMapWave hw hr fun _ => rfl
      refine ⟨_, _, hruns hran rfl rfl, rfl, fun p hp hp2 => writeOutputs_get_other (outputBytes_length _ _) hp hp2, fun m hm n hn => ?_⟩
      have hbytes := writeOutputs_bytes w.tileMem (mmaElem w fmt mode a b c c2 k aCol bCol scale oA oB scales) hc hm hn
      rw [mmaElem, mmaStart, outputPlace_eq fmt c c2 n hm] at hbytes
      exact hbytes
    · refine ⟨_, _, hruns (.poisoned hw hk hbad) rfl rfl, rfl, rfl, fun z hz hid => ?_, fun d => State.afterMatrix_posts hw hk hbad⟩
      obtain ⟨-, hflags, hfatal⟩ := State.afterMatrix_marked hz hid
      rw [State.runMatrix_poisoned hk hbad] at hflags hfatal
      exact ⟨hfatal, hflags⟩
  · intro m fmt slot off k i j col hm hi hj e
    obtain ⟨ha, hb, ha8, hb8⟩ := elem_bits fmt
    exact ⟨rowOfA_getElem? hm slot off ha8 hi hj col, colOfB_getElem? hm slot off hb8 hi hj col, ha, hb⟩
  · intro s id x rest hq hx know
    have hexec := exec_matrixOpCompletion hq hx
    refine ⟨fun hpost => by rw [hexec, if_pos hpost], fun hpost => ⟨s.completedMatrix x, ?_, State.completedMatrix_spec s x⟩⟩
    rw [hexec, hpost, if_neg (by simp)]
    rfl

end Sys2Proof.Machine
end

section
/-!
PROOF. O1, O2, O3: what the integer operations compute, as the tables of R108 to R112 give it.
-/
namespace Sys2Proof.Machine
open Sys2Proof

/-! ## Arithmetic and logic -/

/-- Bits [63:32] of the product of two sign-extended words (R108). -/
theorem Alu.mulhSigned_eq (a b : Word) : Alu.mulhSigned a b = (a.signExtend 64 * b.signExtend 64).extractLsb' 32 32 := by
  have hprod : a.signExtend 64 * b.signExtend 64 = BitVec.ofInt 64 (a.toInt * b.toInt) := (BitVec.ofInt_mul ..).symm
  apply BitVec.eq_of_toNat_eq
  rw [Alu.mulhSigned, hprod, BitVec.extractLsb'_toNat, BitVec.toNat_ofInt, BitVec.toNat_ofInt, Nat.shiftRight_eq_div_pow]
  generalize a.toInt * b.toInt = z
  norm_num
  omega

/-- The same of two zero-extended words (R108). -/
theorem Alu.mulhUnsigned_eq (a b : Word) : Alu.mulhUnsigned a b = (a.setWidth 64 * b.setWidth 64).extractLsb' 32 32 := by
  have hlt : a.toNat * b.toNat < 2 ^ 32 * 2 ^ 32 := Nat.mul_lt_mul'' a.isLt b.isLt
  have ha : a.toNat % 2 ^ 64 = a.toNat := Nat.mod_eq_of_lt (by omega)
  have hb : b.toNat % 2 ^ 64 = b.toNat := Nat.mod_eq_of_lt (by omega)
  apply BitVec.eq_of_toNat_eq
  rw [Alu.mulhUnsigned, BitVec.extractLsb'_toNat, BitVec.toNat_mul, BitVec.toNat_setWidth, BitVec.toNat_setWidth, ha, hb,
    Nat.mod_eq_of_lt (b := 2 ^ 64) (by omega), Nat.shiftRight_eq_div_pow, BitVec.toNat_ofNat]

theorem shiftLeft_eq_ofNat (a : Word) (n : Nat) : a <<< n = BitVec.ofNat 32 (a.toNat * 2 ^ n) := by
  apply BitVec.eq_of_toNat_eq
  rw [BitVec.toNat_shiftLeft, Nat.shiftLeft_eq, BitVec.toNat_ofNat]

theorem ushiftRight_eq_ofNat (a : Word) (n : Nat) : a >>> n = BitVec.ofNat 32 (a.toNat / 2 ^ n) := by
  apply BitVec.eq_of_toNat_eq
  rw [BitVec.toNat_ushiftRight, Nat.shiftRight_eq_div_pow, BitVec.toNat_ofNat,
    Nat.mod_eq_of_lt (lt_of_le_of_lt (Nat.div_le_self ..) a.isLt)]

theorem sshiftRight_eq_ofInt (a : Word) (n : Nat) : a.sshiftRight n = BitVec.ofInt 32 (a.toInt / 2 ^ n) := by
  rw [← BitVec.ofInt_toInt (x := a.sshiftRight n), BitVec.toInt_sshiftRight, Int.shiftRight_eq_div_pow]
  norm_cast

theorem Alu.shl_eq (a b : Word) : Alu.shl a b = if 32 ≤ b.toNat then 0 else BitVec.ofNat 32 (a.toNat * 2 ^ b.toNat) := by
  rw [Alu.shl, shiftLeft_eq_ofNat]

theorem Alu.shr_eq (a b : Word) : Alu.shr a b = if 32 ≤ b.toNat then 0 else BitVec.ofNat 32 (a.toNat / 2 ^ b.toNat) := by
  rw [Alu.shr, ushiftRight_eq_ofNat]

theorem Alu.sar_eq (a b : Word) : Alu.sar a b = BitVec.ofInt 32 (a.toInt / 2 ^ min b.toNat 31) := sshiftRight_eq_ofInt ..

theorem Alu.rotl_eq (a b : Word) : Alu.rotl a b = a <<< (b.toNat % 32) ||| a >>> (32 - b.toNat % 32) := by
  rw [Alu.rotl, BitVec.rotateLeft_def, Nat.mod_mod]

theorem Alu.rotr_eq (a b : Word) : Alu.rotr a b = a >>> (b.toNat % 32) ||| a <<< (32 - b.toNat % 32) := by
  rw [Alu.rotr, BitVec.rotateRight_def, Nat.mod_mod]

/-- The lesser, whichever is taken of two that are equal. -/
theorem Alu.minS_eq (a b : Word) : Alu.minS a b = if a.slt b then a else b := by
  rcases lt_trichotomy a.toInt b.toInt with h | h | h
  · simp [Alu.minS, BitVec.slt_eq_decide, h, h.le]
  · simp [Alu.minS, BitVec.eq_of_toInt_eq h]
  · simp [Alu.minS, BitVec.slt_eq_decide, h.not_ge, h.not_gt]

theorem Alu.minU_eq (a b : Word) : Alu.minU a b = if a.ult b then a else b := by
  rcases lt_trichotomy a.toNat b.toNat with h | h | h
  · simp [Alu.minU, BitVec.ult_eq_decide, h, h.le]
  · simp [Alu.minU, BitVec.eq_of_toNat_eq h]
  · simp [Alu.minU, BitVec.ult_eq_decide, h.not_ge, h.not_gt]

theorem Alu.maxS_eq (a b : Word) : Alu.maxS a b = if b.slt a then a else b := by
  rcases lt_trichotomy a.toInt b.toInt with h | h | h
  · simp [Alu.maxS, BitVec.slt_eq_decide, h.not_ge, h.not_gt]
  · simp [Alu.maxS, BitVec.eq_of_toInt_eq h]
  · simp [Alu.maxS, BitVec.slt_eq_decide, h, h.le]

theorem Alu.maxU_eq (a b : Word) : Alu.maxU a b = if b.ult a then a else b := by
  rcases lt_trichotomy a.toNat b.toNat with h | h | h
  · simp [Alu.maxU, BitVec.ult_eq_decide, h.not_ge, h.not_gt]
  · simp [Alu.maxU, BitVec.eq_of_toNat_eq h]
  · simp [Alu.maxU, BitVec.ult_eq_decide, h, h.le]

/-! ## Operations on one word -/

/-- CLZ is the number of zero bits above the highest one (R112). -/
theorem Alu.clz_spec (a : Word) : (Alu.clz a).toNat ≤ 32 ∧ a.toNat < 2 ^ (32 - (Alu.clz a).toNat) ∧
    ((Alu.clz a).toNat < 32 → 2 ^ (31 - (Alu.clz a).toNat) ≤ a.toNat) := by
  by_cases h : a = 0
  · subst h
    decide
  · have hne : a.toNat ≠ 0 := fun e => h (BitVec.eq_of_toNat_eq e)
    have hlog : Nat.log2 a.toNat < 32 := (Nat.log2_lt hne).mpr a.isLt
    have hclz : (Alu.clz a).toNat = 31 - Nat.log2 a.toNat := by
      rw [Alu.clz, if_neg h, BitVec.toNat_ofNat, Nat.mod_eq_of_lt (by omega)]
    rw [hclz, show 32 - (31 - Nat.log2 a.toNat) = Nat.log2 a.toNat + 1 by omega,
      show 31 - (31 - Nat.log2 a.toNat) = Nat.log2 a.toNat by omega]
    exact ⟨by omega, Nat.lt_log2_self, fun _ => Nat.log2_self_le hne⟩

theorem Alu.popc_spec (a : Word) : (Alu.popc a).toNat = ((List.range 32).filter fun i => a.getLsbD i).length := by
  have hle : ((List.range 32).filter fun i => a.getLsbD i).length ≤ 32 := by
    simpa using List.length_filter_le (fun i => a.getLsbD i) (List.range 32)
  rw [Alu.popc, List.countP_eq_length_filter, BitVec.toNat_ofNat, Nat.mod_eq_of_lt (by omega)]

theorem Alu.brev_bit (a : Word) {i : Nat} (hi : i < 32) : (Alu.brev a).getLsbD i = a.getLsbD (31 - i) := by
  rw [Alu.brev, BitVec.getLsbD_reverse, BitVec.getMsbD_eq_getLsbD]
  simp [hi]

/-- Byte 3 - i in place i (R112). -/
theorem Alu.bswap_bit (a : Word) {i j : Nat} (hi : i < 4) (hj : j < 8) :
    (Alu.bswap a).getLsbD (8 * i + j) = a.getLsbD (8 * (3 - i) + j) := by
  simp only [Alu.bswap, BitVec.getLsbD_append, BitVec.getLsbD_extractLsb']
  interval_cases i <;> grind

theorem Alu.zx_toNat (a : Word) {n : Nat} (hn : n ≤ 32) : ((a.setWidth n).setWidth 32).toNat = a.toNat % 2 ^ n := by
  rw [BitVec.toNat_setWidth_of_le hn, BitVec.toNat_setWidth]

/-! ## Immediates -/

/-- LIH keeps the low 15 bits (R111). -/
theorem Alu.lih_eq (d : Word) (imm : BitVec 17) : Alu.lih d imm = BitVec.ofNat 32 (imm.toNat * 2 ^ 15 + d.toNat % 2 ^ 15) := by
  apply BitVec.eq_of_toNat_eq
  have himm := imm.isLt
  have hlow : d.toNat % 2 ^ 15 < 2 ^ 15 := Nat.mod_lt _ (by decide)
  rw [Alu.lih, BitVec.toNat_append, BitVec.extractLsb'_toNat, Nat.shiftRight_zero, BitVec.toNat_ofNat,
    ← Nat.shiftLeft_add_eq_or_of_lt hlow, Nat.shiftLeft_eq, Nat.mod_eq_of_lt (b := 2 ^ 32) (by omega)]

/-- A shift count of an immediate form is below 32. -/
theorem Alu.shl_count (a : Word) (n : Fin 32) : Alu.shl a (BitVec.ofNat 32 n) = BitVec.ofNat 32 (a.toNat * 2 ^ n.val) := by
  have hn : (BitVec.ofNat 32 n).toNat = n.val := Nat.mod_eq_of_lt (by omega)
  rw [Alu.shl_eq, hn, if_neg (by omega)]

theorem Alu.shr_count (a : Word) (n : Fin 32) : Alu.shr a (BitVec.ofNat 32 n) = BitVec.ofNat 32 (a.toNat / 2 ^ n.val) := by
  have hn : (BitVec.ofNat 32 n).toNat = n.val := Nat.mod_eq_of_lt (by omega)
  rw [Alu.shr_eq, hn, if_neg (by omega)]

theorem Alu.sar_count (a : Word) (n : Fin 32) : Alu.sar a (BitVec.ofNat 32 n) = BitVec.ofInt 32 (a.toInt / 2 ^ n.val) := by
  have hn : (BitVec.ofNat 32 n).toNat = n.val := Nat.mod_eq_of_lt (by omega)
  rw [Alu.sar_eq, hn, Nat.min_eq_left (by omega)]

end Sys2Proof.Machine
end

section
/-!
PROOF. O1, O2, O3: the integer operations, each by the shape of its operands.
-/
namespace Sys2Proof.Machine
open Sys2Proof

/-! ## The shapes of integer operations -/

/-- A row of a table of operations on two operands: the instruction computes what the row says, with operands and result placed
as `alu` places them. -/
def Computes {F : Type} (alu : F → (Word → Word → Word) → State → Host.Outcome State Fault Refusal)
    (p : (F → Instr) × (Word → Word → Word)) : Prop :=
  ∃ op, (∀ f s, exec (p.1 f) s = alu f op s) ∧ ∀ a b, op a b = p.2 a b

theorem aluR_writes {p : (RF → Instr) × (Word → Word → Word)} (hp : Computes aluR p) (f : RF) (s : State) (c : Ctx)
    (h : Executes s c f.form) (hd : c.t.belowLimit [(f.d, p.2 (c.reads s f.form 0) (c.reads s f.form 1))] = false) :
    WritesOne (p.1 f) s c 4 f.sc 2 f.d (p.2 (c.reads s f.form 0) (c.reads s f.form 1)) f.t := by
  obtain ⟨op, hexec, hop⟩ := hp
  rw [← hop] at hd ⊢
  exact writesOne_of h hd (hexec f s) rfl

theorem aluI_writes {p : (IF → Instr) × (Word → Word → Word)} (hp : Computes aluI p) (f : IF) (s : State) (c : Ctx)
    (h : Executes s c f.form) (hd : c.t.belowLimit [(f.d, p.2 (c.reads s f.form 0) (BitVec.ofInt 32 f.imm.toInt))] = false) :
    WritesOne (p.1 f) s c 4 f.sc 2 f.d (p.2 (c.reads s f.form 0) (BitVec.ofInt 32 f.imm.toInt)) false := by
  obtain ⟨op, hexec, hop⟩ := hp
  rw [← hop] at hd ⊢
  exact writesOne_of h hd (hexec f s) rfl

theorem aluH_writes {p : (H → Instr) × (Word → Word → Word)} (hp : Computes aluH p) (f : H) (s : State) (c : Ctx)
    (h : Executes s c f.form) (hd : c.t.belowLimit [(f.d.wide, p.2 (c.reads s f.form 0) (c.reads s f.form 1))] = false) :
    WritesOne (p.1 f) s c 2 f.sc 2 f.d.wide (p.2 (c.reads s f.form 0) (c.reads s f.form 1)) false := by
  obtain ⟨op, hexec, hop⟩ := hp
  rw [← hop] at hd ⊢
  exact writesOne_of h hd (hexec f s) rfl

theorem aluS_writes {p : (SF → Instr) × (Word → Nat → Word)} (hp : ∃ op, (∀ f s, exec (p.1 f) s = aluS f op s) ∧
    ∀ a (n : Fin 32), op a (BitVec.ofNat 32 n) = p.2 a n) (f : SF) (s : State) (c : Ctx)
    (h : Executes s c f.form) (hd : c.t.belowLimit [(f.d, p.2 (c.reads s f.form 0) f.n)] = false) :
    WritesOne (p.1 f) s c 4 f.sc 2 f.d (p.2 (c.reads s f.form 0) f.n) false := by
  obtain ⟨op, hexec, hop⟩ := hp
  rw [← hop] at hd ⊢
  exact writesOne_of h hd (hexec f s) rfl

theorem aluR64_writes {p : (RF → Instr) × (DWord → DWord → DWord)} (hp : ∀ f s, exec (p.1 f) s = aluR64 f p.2 s) (f : RF)
    (s : State) (c : Ctx) (h : Executes s c f.form64) :
    let r := p.2 (Word.pair (c.reads s f.form64 0) (c.reads s f.form64 1)) (Word.pair (c.reads s f.form64 2) (c.reads s f.form64 3))
    c.t.belowLimit (f.d.pairWrites r) = false → WritesPair (p.1 f) s c f.sc 2 f.d r f.t :=
  fun hd => writesPair_of rfl h hd (hp f s) rfl

/-- An operation on one word whose result is as a relation says. -/
theorem aluX_writes {p : (XF → Instr) × (Word → Word → Prop)}
    (hp : ∃ op, (∀ f s, exec (p.1 f) s = aluX f op s) ∧ ∀ a, p.2 a (op a)) (f : XF) (s : State) (c : Ctx) (h : Executes s c f.form) :
    ∃ r, p.2 (c.reads s f.form 0) r ∧ (c.t.belowLimit [(f.d, r)] = false → WritesOne (p.1 f) s c 4 f.sc 2 f.d r f.t) := by
  obtain ⟨op, hexec, hop⟩ := hp
  exact ⟨_, hop _, fun hd => writesOne_of h hd (hexec f s) rfl⟩

/-! ## The instructions of no shared shape -/

theorem exec_mov64 (f : XF) (s : State) :
    exec (.mov64 f) s = runForm { g := f.g, sc := f.sc, reads := f.a.pair, names := f.d.pair }
      (fun c o s => writeFixed c s [(f.d, o 0), (f.d.succ 1, o 1)] 2 f.t) s := rfl

theorem exec_sel (f : XF) (s : State) :
    exec (.sel f) s = runForm { g := f.g, sc := f.sc, reads := [f.a, f.d], preds := true }
      (fun c o s => writeFixed c s [(f.d, if c.t.p 0 then o 0 else o 1)] 2 f.t) s := rfl

theorem exec_lih (f : WF) (s : State) : exec (.lih f) s = runForm { sc := f.sc, reads := [f.d] }
    (fun c o s => writeFixed c s [(f.d, Alu.lih (o 0) f.imm)] 2 false) s := rfl

theorem exec_mov16 (f : H) (s : State) : exec (.mov16 f) s = runForm { len := 2, sc := f.sc, reads := [f.a.wide], names := [f.d.wide] }
    (fun c o s => writeFixed c s [(f.d.wide, o 0)] 2 false) s := rfl

theorem exec_addi16 (f : HI) (s : State) : exec (.addi16 f) s = runForm { len := 2, sc := f.sc, reads := [f.d.wide] }
    (fun c o s => writeFixed c s [(f.d.wide, o 0 + f.imm.signExtend 32)] 2 false) s := rfl

/-! ## All of them -/

/-- Settles O1, by the shape of each operation's operands and by what each computes. -/
theorem integerRegisterResults : Obligations.IntegerRegisterResults := by
  unfold Obligations.IntegerRegisterResults
  refine ⟨fun p hp => aluR_writes ?_, fun p hp => aluR64_writes ?_, ?_⟩
  · revert p
    simp only [List.forall_mem_cons, List.not_mem_nil, false_implies, implies_true, and_true]
    refine ⟨?_, ?_, ?_, ?_, ?_, ?_, ?_, ?_, ?_, ?_, ?_, ?_, ?_, ?_, ?_, ?_, ?_, ?_⟩
    · exact ⟨_, fun _ _ => rfl, fun _ _ => rfl⟩
    · exact ⟨_, fun _ _ => rfl, fun _ _ => rfl⟩
    · exact ⟨_, fun _ _ => rfl, fun _ _ => rfl⟩
    · exact ⟨_, fun _ _ => rfl, Alu.mulhSigned_eq⟩
    · exact ⟨_, fun _ _ => rfl, Alu.mulhUnsigned_eq⟩
    · exact ⟨_, fun _ _ => rfl, fun _ _ => rfl⟩
    · exact ⟨_, fun _ _ => rfl, fun _ _ => rfl⟩
    · exact ⟨_, fun _ _ => rfl, fun _ _ => rfl⟩
    · exact ⟨fun a b => a &&& ~~~b, fun _ _ => rfl, fun _ _ => rfl⟩
    · exact ⟨_, fun _ _ => rfl, Alu.shl_eq⟩
    · exact ⟨_, fun _ _ => rfl, Alu.shr_eq⟩
    · exact ⟨_, fun _ _ => rfl, Alu.sar_eq⟩
    · exact ⟨_, fun _ _ => rfl, Alu.rotl_eq⟩
    · exact ⟨_, fun _ _ => rfl, Alu.rotr_eq⟩
    · exact ⟨_, fun _ _ => rfl, Alu.minS_eq⟩
    · exact ⟨_, fun _ _ => rfl, Alu.minU_eq⟩
    · exact ⟨_, fun _ _ => rfl, Alu.maxS_eq⟩
    · exact ⟨_, fun _ _ => rfl, Alu.maxU_eq⟩
  · revert p
    simp only [List.forall_mem_cons, List.not_mem_nil, false_implies, implies_true, and_true]
    exact ⟨fun _ _ => rfl, fun _ _ => rfl⟩
  · exact fun f s c h hd => writesPair_of rfl h hd (exec_mov64 f s) (by rw [Reg.pairWrites_pair])

/-- Settles O2, by what each operation computes of its word. -/
theorem integerUnaryResults : Obligations.IntegerUnaryResults := by
  unfold Obligations.IntegerUnaryResults
  refine ⟨fun p hp => aluX_writes ?_, ?_⟩
  · revert p
    simp only [List.forall_mem_cons, List.not_mem_nil, false_implies, implies_true, and_true]
    refine ⟨?_, ?_, ?_, ?_, ?_, ?_, ?_, ?_, ?_, ?_, ?_, ?_⟩
    · exact ⟨_, fun _ _ => rfl, fun _ => rfl⟩
    · exact ⟨_, fun _ _ => rfl, fun a i hi => by simp [hi]⟩
    · exact ⟨_, fun _ _ => rfl, fun a => sub_add_cancel 0 a⟩
    · exact ⟨_, fun _ _ => rfl, fun _ => rfl⟩
    · exact ⟨_, fun _ _ => rfl, Alu.clz_spec⟩
    · exact ⟨_, fun _ _ => rfl, Alu.popc_spec⟩
    · exact ⟨_, fun _ _ => rfl, fun a _ hi => Alu.brev_bit a hi⟩
    · exact ⟨_, fun _ _ => rfl, fun a _ hi _ hj => Alu.bswap_bit a hi hj⟩
    · exact ⟨_, fun _ _ => rfl, fun _ => BitVec.toInt_signExtend_of_le (by decide)⟩
    · exact ⟨_, fun _ _ => rfl, fun _ => BitVec.toInt_signExtend_of_le (by decide)⟩
    · exact ⟨_, fun _ _ => rfl, fun a => Alu.zx_toNat a (by decide)⟩
    · exact ⟨_, fun _ _ => rfl, fun a => Alu.zx_toNat a (by decide)⟩
  · exact fun f s c h hd => writesOne_of h hd (exec_sel f s) rfl

/-- Settles O3, by the shape of each form; the sign-extended immediate is the word of its value. -/
theorem immediateAndShortResults : Obligations.ImmediateAndShortResults := by
  unfold Obligations.ImmediateAndShortResults
  refine ⟨⟨fun p hp => aluI_writes ?_, fun p hp => aluS_writes ?_, ?_, ?_⟩, fun p hp => aluH_writes ?_, ?_, ?_⟩
  · revert p
    simp only [List.forall_mem_cons, List.not_mem_nil, false_implies, implies_true, and_true]
    refine ⟨?_, ?_, ?_, ?_⟩
    · exact ⟨_, fun _ _ => rfl, fun _ _ => rfl⟩
    · exact ⟨_, fun _ _ => rfl, fun _ _ => rfl⟩
    · exact ⟨_, fun _ _ => rfl, fun _ _ => rfl⟩
    · exact ⟨_, fun _ _ => rfl, fun _ _ => rfl⟩
  · revert p
    simp only [List.forall_mem_cons, List.not_mem_nil, false_implies, implies_true, and_true]
    refine ⟨?_, ?_, ?_⟩
    · exact ⟨_, fun _ _ => rfl, Alu.shl_count⟩
    · exact ⟨_, fun _ _ => rfl, Alu.shr_count⟩
    · exact ⟨_, fun _ _ => rfl, Alu.sar_count⟩
  · exact fun f s c h hd => writesOne_of h hd (exec_lil f s) rfl
  · intro f s c form r h hd
    exact writesOne_of h hd (exec_lih f s) (by rw [Alu.lih_eq])
  · revert p
    simp only [List.forall_mem_cons, List.not_mem_nil, false_implies, implies_true, and_true]
    refine ⟨?_, ?_, ?_, ?_, ?_, ?_, ?_⟩
    · exact ⟨_, fun _ _ => rfl, fun _ _ => rfl⟩
    · exact ⟨_, fun _ _ => rfl, fun _ _ => rfl⟩
    · exact ⟨_, fun _ _ => rfl, fun _ _ => rfl⟩
    · exact ⟨_, fun _ _ => rfl, fun _ _ => rfl⟩
    · exact ⟨_, fun _ _ => rfl, fun _ _ => rfl⟩
    · exact ⟨_, fun _ _ => rfl, Alu.shl_eq⟩
    · exact ⟨_, fun _ _ => rfl, Alu.shr_eq⟩
  · exact fun f s c h hd => writesOne_of h hd (exec_mov16 f s) rfl
  · exact fun f s c h hd => writesOne_of h hd (exec_addi16 f s) rfl

end Sys2Proof.Machine
end

section
/-!
PROOF. O6: the predicate stack as bits: a push, a pop, and what the PRD operations make of them.
-/
namespace Sys2Proof.Machine
open Sys2Proof

/-! ## Pushes and pops (R67) -/

/-- The stack after a push. -/
def pushed (b : Bool) (ps : BitVec 8) : BitVec 8 := ps <<< 1 ||| (BitVec.ofBool b).setWidth 8

theorem pushed_zero (b : Bool) (ps : BitVec 8) : (pushed b ps).getLsbD 0 = b := by
  simp [pushed]

theorem pushed_succ (b : Bool) (ps : BitVec 8) {i : Nat} (hi : i < 7) : (pushed b ps).getLsbD (i + 1) = ps.getLsbD i := by
  have hi8 : i + 1 < 8 := by omega
  simp [pushed, hi8, show i < 8 by omega]

theorem popped_bit (ps : BitVec 8) (i : Nat) : (ps >>> 1).getLsbD i = ps.getLsbD (i + 1) := by
  rw [BitVec.getLsbD_ushiftRight, Nat.add_comm]

/-- A pop and a push replace p0. -/
theorem pushed_popped (b : Bool) (ps : BitVec 8) {i : Nat} (hi : i < 8) (h1 : 1 ≤ i) :
    (pushed b (ps >>> 1)).getLsbD i = ps.getLsbD i := by
  obtain ⟨j, rfl⟩ := Nat.exists_eq_add_of_le' h1
  rw [pushed_succ b _ (by omega), popped_bit]

/-- The stack after two pops and the push of a combination (R115). -/
theorem pushed_combine (b : Bool) (ps : BitVec 8) {i : Nat} (hi : i < 8) (h1 : 1 ≤ i) :
    (pushed b (ps >>> 1 >>> 1)).getLsbD i = ps.getLsbD (i + 1) := by
  rw [pushed_popped b _ hi h1, popped_bit]

theorem pushed_swap (ps : BitVec 8) {i : Nat} (hi : i < 8) (h2 : 2 ≤ i) :
    (pushed (ps.getLsbD 1) (pushed (ps.getLsbD 0) (ps >>> 1 >>> 1))).getLsbD i = ps.getLsbD i := by
  obtain ⟨j, rfl⟩ := Nat.exists_eq_add_of_le' h2
  rw [pushed_succ _ _ (by omega), pushed_popped _ _ (by omega) (by omega), popped_bit]

theorem rotated_last (ps : BitVec 8) : (ps.rotateRight 1).getLsbD 7 = ps.getLsbD 0 := by
  simp

theorem rotated_bit (ps : BitVec 8) {i : Nat} (hi : i < 7) : (ps.rotateRight 1).getLsbD i = ps.getLsbD (i + 1) := by
  simp [BitVec.getLsbD_rotateRight, hi, Nat.add_comm]

/-! ## The operations -/

/-- A PRD operation that makes of the stack what the relation of its row says. -/
theorem predOp_sets {p : (GF → Instr) × (BitVec 8 → BitVec 8 → Prop)} (hp : ∃ ps : BitVec 8 → BitVec 8,
    (∀ f s, exec (p.1 f) s = predOp f (fun t => { t with preds := ps t.preds }) s) ∧ ∀ o, p.2 o (ps o)) (f : GF) (s : State)
    (c : Ctx) (h : Executes s c f.formP) : ∃ n, p.2 c.t.preds n ∧ SetsPreds (p.1 f) s c 4 f.sc n := by
  obtain ⟨ps, hexec, hrel⟩ := hp
  exact ⟨_, hrel _, setsPreds_of ps h (hexec f s) rfl⟩

/-- An instruction that pushes a condition. -/
theorem pushes_of {i : Instr} {s : State} {c : Ctx} {f : Form} {b b' : Bool} (h : Executes s c f)
    {body : Ctx → (Nat → Word) → State → Effect} (hi : exec i s = runForm f body s)
    (hb : body c (c.reads s f) (s.spent f) = pushDone c (s.spent f) b') (hbb : b' = b) :
    SetsPreds i s c f.len (f.sc + f.delay) (pushed b c.t.preds) := by
  subst hbb
  exact setsPreds_of (pushed b') h hi hb

/-- The integer conditions as comparisons of words (R114). -/
theorem condHolds_eq (cond : Cond) (a b : Word) : condHolds cond a b =
    match cond with
    | .eq => a == b
    | .ne => a != b
    | .lt => a.slt b
    | .le => a.sle b
    | .gt => b.slt a
    | .ge => b.sle a
    | .ltn => a.ult b
    | .len => a.ule b
    | .gtn => b.ult a
    | .gen => b.ule a := by
  cases cond with
  | eq => exact (beq_eq_decide a b).symm
  | ne => exact decide_not.trans (congrArg not (beq_eq_decide a b).symm)
  | lt | gt => exact BitVec.slt_eq_decide.symm
  | le | ge => exact BitVec.sle_eq_decide.symm
  | ltn | gtn => exact BitVec.ult_eq_decide.symm
  | len | gen => exact BitVec.ule_eq_decide.symm

theorem exec_cmp (f : CmpF) (s : State) : exec (.cmp f) s = runForm { g := f.g, sc := f.sc, reads := [f.a, f.b], preds := true }
    (fun c o s => pushDone c s (condHolds f.c (o 0) (o 1))) s := rfl

theorem exec_cmpi (f : CmpIF) (s : State) : exec (.cmpi f) s = runForm { g := f.g, sc := f.sc, reads := [f.a], preds := true }
    (fun c o s => pushDone c s (condHolds f.c (o 0) (f.imm.signExtend 32))) s := rfl

theorem exec_cmpLt16 (f : H) (s : State) : exec (.cmpLt16 f) s = runForm { f.form with preds := true }
    (fun c o s => pushDone c s (condHolds .lt (o 0) (o 1))) s := rfl

theorem exec_pload (f : AF) (s : State) : exec (.pload f) s = runForm { g := f.g, sc := f.sc, reads := [f.a], preds := true }
    (fun c o s => .done (c.on s fun t => { t with preds := (o 0).setWidth 8 })) s := rfl

theorem exec_pset (f : AF) (s : State) : exec (.pset f) s = runForm { g := f.g, sc := f.sc, reads := [f.a], preds := true }
    (fun c o s => pushDone c s (o 0 != 0)) s := rfl

theorem exec_psave (f : DTF) (s : State) : exec (.psave f) s = runForm { g := f.g, sc := f.sc, names := [f.d], preds := true }
    (fun c _ s => writeFixed c s [(f.d, c.t.preds.setWidth 32)] 2 f.t) s := rfl

theorem exec_pget (f : DTF) (s : State) : exec (.pget f) s = runForm { g := f.g, sc := f.sc, names := [f.d], preds := true }
    (fun c _ s => writeFixed c s [(f.d, if c.t.preds.getLsbD 0 then 1 else 0)] 2 f.t) s := rfl

/-- Settles O6: comparisons by their condition, the PRD operations by the bits of pushes and pops. -/
theorem predicateStack : Obligations.PredicateStack := by
  unfold Obligations.PredicateStack
  refine ⟨⟨?_, ?_, ?_⟩, fun p hp => predOp_sets ?_, ?_, ?_⟩
  · exact fun f s c h => pushes_of h (exec_cmp f s) rfl (condHolds_eq ..)
  · exact fun f s c h => pushes_of h (exec_cmpi f s) rfl (condHolds_eq ..)
  · exact fun f s c h => pushes_of h (exec_cmpLt16 f s) rfl (condHolds_eq .lt _ _)
  · revert p
    simp only [List.forall_mem_cons, List.not_mem_nil, false_implies, implies_true, and_true]
    refine ⟨?_, ?_, ?_, ?_, ?_, ?_, ?_, ?_⟩
    · exact ⟨fun o => o >>> 1, fun _ _ => rfl, fun _ => rfl⟩
    · exact ⟨fun o => pushed (o.getLsbD 0) o, fun _ _ => rfl, fun o => ⟨pushed_zero _ o, fun _ hi => pushed_succ _ o hi⟩⟩
    · exact ⟨fun o => pushed (o.getLsbD 1) (pushed (o.getLsbD 0) (o >>> 1 >>> 1)), fun _ _ => rfl, fun o =>
        ⟨pushed_zero .., (pushed_succ _ _ (by decide)).trans (pushed_zero ..), fun _ hi h2 => pushed_swap o hi h2⟩⟩
    · exact ⟨fun o => pushed (!o.getLsbD 0) (o >>> 1), fun _ _ => rfl, fun o =>
        ⟨pushed_zero .., fun _ hi h1 => pushed_popped _ o hi h1⟩⟩
    · exact ⟨fun o => pushed (o.getLsbD 0 && o.getLsbD 1) (o >>> 1 >>> 1), fun _ _ => rfl, fun o =>
        ⟨pushed_zero .., fun _ hi h1 => pushed_combine _ o hi h1⟩⟩
    · exact ⟨fun o => pushed (o.getLsbD 0 || o.getLsbD 1) (o >>> 1 >>> 1), fun _ _ => rfl, fun o =>
        ⟨pushed_zero .., fun _ hi h1 => pushed_combine _ o hi h1⟩⟩
    · exact ⟨fun o => pushed (o.getLsbD 0 ^^ o.getLsbD 1) (o >>> 1 >>> 1), fun _ _ => rfl, fun o =>
        ⟨pushed_zero .., fun _ hi h1 => pushed_combine _ o hi h1⟩⟩
    · exact ⟨fun o => o.rotateRight 1, fun _ _ => rfl, fun o => ⟨rotated_last o, fun _ hi => rotated_bit o hi⟩⟩
  · exact fun f s c h => ⟨setsPreds_of (fun _ => (c.reads s _ 0).setWidth 8) h (exec_pload f s) rfl,
      pushes_of h (exec_pset f s) rfl rfl⟩
  · exact fun f s c h => ⟨fun hd => writesOne_of h hd (exec_psave f s) rfl, fun hd => writesOne_of h hd (exec_pget f s) rfl⟩

end Sys2Proof.Machine
end

section
/-!
PROOF. O7, O8, O10: how an instruction that changes its thread and jumps ends, and one that leaves its thread as it is.
-/
namespace Sys2Proof.Machine
open Sys2Proof

/-- A change of a thread to itself is none. -/
theorem State.mapThread_id (s : State) (id : ThreadId) : (s.mapThread id fun t => t) = s := by
  simp [State.mapThread, updateIf]

/-- The state after an instruction that changes its thread by `g` and goes on at `pc`. -/
def afterJump (s : State) (f : Form) (g : Thread → Thread) (pc : Word) : State :=
  State.mapThread { s with free := s.free + f.reads.length } s.cur fun t =>
    { (g t).advance f.len (f.sc + f.delay) s.now with pc := pc }

/-- An instruction that changes its thread by `g` and goes on at a place of its own. -/
theorem thread_jump {i : Instr} {s : State} {c : Ctx} {f : Form} {pc : Word} (h : Executes s c f)
    {body : Ctx → (Nat → Word) → State → Effect} (g : Thread → Thread) (hg : ∀ t, (g t).id = t.id) (hh : Holds g)
    (hi : exec i s = runForm f body s)
    (hb : body c (c.reads s f) (s.spent f) = .jump ((s.spent f).mapThread c.t.id g) pc) :
    ∃ t, exec i s = .next t ∧ OnlyThread s t ∧
      t.thread? s.cur = some { (g c.t).advance f.len (f.sc + f.delay) s.now with pc := pc } := by
  have hrun : runForm f body s = .next (afterJump s f g pc) := by
    rw [runForm_executes h body, hb]
    simp only [finish, State.ctx_id h.ctx, afterJump]
    rw [State.mapThread_mapThread _ _ _ _ hg, State.spent_mapThread]
    exact congrArg _ (congrArg _ (funext fun t =>
      congrArg (fun u => { Thread.advance u f.len (f.sc + f.delay) s.now with pc := pc }) (hh t (t.values f.reads s.free))))
  exact ⟨_, hi.trans hrun, OnlyThread.of_mapThread s _ _ (by simp [hg]), h.found _ _ (by simp [hg])⟩

/-- A jump that leaves every register as it is but those that `g` writes. -/
theorem jumps_after {i : Instr} {s : State} {c : Ctx} {f : Form} {pc : Word} {but : List Reg} (h : Executes s c f)
    {body : Ctx → (Nat → Word) → State → Effect} (g : Thread → Thread) (hg : ∀ t, (g t).id = t.id) (hh : Holds g)
    (hcontrol : SameControl c.t (g c.t)) (hregs : SameRegs c.t (g c.t) but) (hi : exec i s = runForm f body s)
    (hb : body c (c.reads s f) (s.spent f) = .jump ((s.spent f).mapThread c.t.id g) pc) :
    Jumps i s c (f.sc + f.delay) pc { (g c.t).advance f.len (f.sc + f.delay) s.now with pc := pc } but := by
  obtain ⟨t, ht, honly, hv⟩ := thread_jump h g hg hh hi hb
  exact ⟨t, ht, honly, hv, rfl, rfl, { hcontrol.of_advance (n := f.len) (st := f.sc + f.delay) (now := s.now) with },
    hregs.of_advance (n := f.len) (st := f.sc + f.delay) (now := s.now)⟩

/-- A jump that changes nothing else of its thread. -/
theorem jumps_plain {i : Instr} {s : State} {c : Ctx} {f : Form} {pc : Word} (h : Executes s c f)
    {body : Ctx → (Nat → Word) → State → Effect} (hi : exec i s = runForm f body s)
    (hb : body c (c.reads s f) (s.spent f) = .jump (s.spent f) pc) : ∃ v, Jumps i s c (f.sc + f.delay) pc v [] :=
  ⟨_, jumps_after h (fun t => t) (fun _ => rfl) (fun _ _ => rfl) (by constructor <;> rfl) (fun _ _ => ⟨rfl, rfl, rfl⟩) hi
    (by rw [hb, State.mapThread_id])⟩

/-- An instruction that completes and leaves its thread as it is. -/
theorem goesOn_done {i : Instr} {s : State} {c : Ctx} {f : Form} (h : Executes s c f)
    {body : Ctx → (Nat → Word) → State → Effect} (hi : exec i s = runForm f body s)
    (hb : body c (c.reads s f) (s.spent f) = .done (s.spent f)) (hlen : f.len = 4 := by rfl) (hdelay : f.delay = 0 := by rfl) :
    GoesOn i s c f.sc := by
  obtain ⟨t, ht, hadv⟩ := thread_done h (fun t => t) (fun _ => rfl) (fun _ _ => rfl) rfl hi (by rw [hb, State.mapThread_id])
  rw [hlen, hdelay] at hadv
  exact ⟨t, _, ht, hadv, SameControl.of_advance (by constructor <;> rfl), SameRegs.of_advance fun _ _ => ⟨rfl, rfl, rfl⟩⟩

end Sys2Proof.Machine
end

section
/-!
PROOF. O7: branches, calls and jumps.
-/
namespace Sys2Proof.Machine
open Sys2Proof

/-- The target of a branch as a number (R116). -/
theorem branchTarget_eq (pc : Word) (disp : BitVec 21) :
    branchTarget pc disp = BitVec.ofInt 32 (pc.toInt + 2 * disp.toInt) := by
  have hdisp : disp.signExtend 32 = BitVec.ofInt 32 disp.toInt := rfl
  have htwo : (2 : Word) = BitVec.ofInt 32 2 := rfl
  rw [branchTarget, hdisp, htwo, ← BitVec.ofInt_mul, mul_comm, BitVec.ofInt_add, BitVec.ofInt_toInt]

theorem Holds.link : Holds Thread.link := fun _ _ => rfl

/-- An instruction that links and jumps (R116, R117). -/
theorem links_of {i : Instr} {s : State} {c : Ctx} {f : Form} {pc : Word} (h : Executes s c f)
    {body : Ctx → (Nat → Word) → State → Effect} (hi : exec i s = runForm f body s)
    (hb : body c (c.reads s f) (s.spent f) = .jump (c.on (s.spent f) Thread.link) pc) :
    ∃ v, Jumps i s c (f.sc + f.delay) pc v [29] ∧ Wrote c.t v 29 (c.t.pc + 4) false ∧ Opens v 29 2 (f.sc + f.delay) := by
  have hwrote := Wrote.putFixed c.t 29 (c.t.pc + 4) 2 false false
  refine ⟨_, jumps_after h Thread.link (fun _ => rfl) Holds.link (SameControl.putFixed c.t 29 (c.t.pc + 4) 2 false false)
    (SameRegs.putFixeds c.t [(29, c.t.pc + 4)] 2 false) hi hb, ?_, ?_⟩
  · obtain ⟨hlatest, hbank, hclean⟩ := hwrote.of_advance (n := f.len) (st := f.sc + f.delay) (now := s.now)
    exact ⟨hlatest, hbank, hclean⟩
  · exact Opens.putFixed c.t 29 (c.t.pc + 4) 2 false false f.len (f.sc + f.delay) s.now

theorem exec_br (f : JF) (s : State) :
    exec (.br f) s = runForm { g := f.g, sc := f.sc } (fun c _ s => .jump s (branchTarget c.t.pc f.disp)) s := rfl

theorem exec_call (f : JF) (s : State) : exec (.call f) s = runForm { g := f.g, sc := f.sc, names := [29] }
    (fun c _ s => .jump (c.on s Thread.link) (branchTarget c.t.pc f.disp)) s := rfl

theorem exec_jr (f : AF) (s : State) :
    exec (.jr f) s = runForm { g := f.g, sc := f.sc, reads := [f.a] } (fun c o s => jumpTo c s (o 0) false) s := rfl

theorem exec_callr (f : AF) (s : State) :
    exec (.callr f) s = runForm { g := f.g, sc := f.sc, reads := [f.a], names := [29] } (fun c o s => jumpTo c s (o 0) true) s := rfl

theorem exec_ret (f : GF) (s : State) :
    exec (.ret f) s = runForm { g := f.g, sc := f.sc, reads := [29] } (fun c o s => jumpTo c s (o 0) false) s := rfl

theorem jumpTo_even {target : Word} (he : target.getLsbD 0 = false) (c : Ctx) (s : State) (link : Bool) :
    jumpTo c s target link = .jump (if link then c.on s Thread.link else s) target := by
  rw [jumpTo, he]
  rfl

theorem jumpTo_odd {target : Word} (ho : target.getLsbD 0 = true) (c : Ctx) (s : State) (link : Bool) :
    jumpTo c s target link = .trap s .align (Word.pair target (Word.hi c.l.nd.entry)) := by
  rw [jumpTo, ho]
  rfl

/-- Settles O7: even targets by the rules of jumps, odd ones by the trap. -/
theorem controlTransfers : Obligations.ControlTransfers := by
  unfold Obligations.ControlTransfers
  refine ⟨fun f s c => ⟨fun h => ?_, fun h => ?_⟩, fun s c => ⟨?_, ?_, ?_⟩⟩
  · exact jumps_plain h (exec_br f s) (by rw [branchTarget_eq])
  · exact links_of h (exec_call f s) (by rw [branchTarget_eq])
  · exact fun f h => ⟨fun he => jumps_plain h (exec_jr f s) (jumpTo_even he ..),
      fun ho hh => h.traps hh (exec_jr f s) (jumpTo_odd ho ..)⟩
  · exact fun f h => ⟨fun he => links_of h (exec_callr f s) (jumpTo_even he ..),
      fun ho hh => h.traps hh (exec_callr f s) (jumpTo_odd ho ..)⟩
  · exact fun f h => ⟨fun he => jumps_plain h (exec_ret f s) (jumpTo_even he ..),
      fun ho hh => h.traps hh (exec_ret f s) (jumpTo_odd ho ..)⟩

end Sys2Proof.Machine
end

section
/-!
PROOF. O8: NOP, DLY, SAFE and YIELD.
-/
namespace Sys2Proof.Machine
open Sys2Proof

/-! ## NOP and DLY -/

theorem exec_nop (f : GF) (s : State) : exec (.nop f) s = runForm f.form (fun _ _ s => .done s) s := rfl

theorem exec_dly (f : NF) (s : State) :
    exec (.dly f) s = runForm { g := f.g, sc := f.sc, delay := f.n } (fun _ _ s => .done s) s := rfl

/-- An instruction without operands and without an effect of its own goes past itself, whether its guard is true or not. -/
theorem runForm_idle {s : State} {c : Ctx} {f : Form} (hc : s.ctx s.cur = some c) (hl : c.t.completing = false)
    (hp : f.g = .always ∨ c.t.pendingPush = false) (hreads : f.reads = [] := by rfl) (hnames : f.names = [] := by rfl)
    (hpreds : f.preds = false := by rfl) :
    ∃ k, runForm f (fun _ _ s => .done s) s = .next (State.mapThread { s with free := k } s.cur fun t =>
      t.advance f.len (f.sc + f.delay) s.now) := by
  have hguard : (f.g ≠ .always && c.t.pendingPush) = false := by
    rcases hp with hp | hp <;> simp [hp]
  by_cases hg : c.t.passes f.g = true
  · have h : Executes s c f := by
      refine ⟨hc, hl, hguard, hg, ?_, ?_⟩
      · simp [interlocked, hl, hreads, hnames, hpreds]
      · simp [operandTrap, hreads, hnames]
    exact ⟨_, h.done (fun t => t) (fun _ => rfl) (fun _ _ => rfl) (by rw [State.mapThread_id])⟩
  · exact ⟨s.free, runForm_guarded hc hl hguard (by simpa using hg) _⟩

/-! ## SAFE -/

theorem exec_safe (f : NF) (s : State) : exec (.safe f) s = runForm { g := f.g, sc := f.sc } (fun c _ s =>
    match c.l.safePoint? f.n with
    | some p =>
      if c.w.request.isSome && c.t.mode == .normal then
        .jump (c.on (c.on s Thread.commit) fun t => { t with mode := .saving f.n, reached := true, h := t.h.set 0 (t.pc + 4) }) p.save
      else .done (c.on s Thread.commit)
    | none => .done (c.on s Thread.commit)) s := rfl

theorem Holds.commit : Holds Thread.commit := fun _ _ => rfl

theorem SameControl.commit (t : Thread) : SameControl t t.commit := by
  constructor <;> rfl

/-- A committed window leaves the banks with every latest value (R64). -/
theorem Thread.bank_commit_latest {t : Thread} {r : Reg} (hs : t.stale r = false) : t.commit.bank r = t.latest r := by
  rw [Thread.bank_commit]
  cases hx : t.transient? r with
  | none => simp [Thread.inWindow, Thread.latest, hx]
  | some x =>
    have hage : x.age ≤ 8 := by simpa [Thread.stale, hx] using hs
    simp [Thread.inWindow, hx, hage]

/-- What entering the save routine changes of its thread (R41). -/
def Thread.entersSave (n : Fin 64) (t : Thread) : Thread :=
  { t.commit with mode := .saving n, reached := true, h := t.h.set 0 (t.pc + 4) }

theorem Launch.safePoint?_eq_none {l : Launch} {n : Nat} : l.safePoint? n = none ↔ ∀ p ∈ l.safePoints, p.index ≠ n := by
  simp [Launch.safePoint?]

theorem Launch.safePoint?_some {l : Launch} {n : Nat} {p : SafePoint} (h : l.safePoint? n = some p) :
    p ∈ l.safePoints ∧ p.index = n :=
  ⟨List.mem_of_find?_eq_some h, by simpa using List.find?_some h⟩

section
variable {f : NF} {s : State} {c : Ctx} (h : Executes s c { g := f.g, sc := f.sc })
include h

/-- At a safe point, in normal mode with a request pending, SAFE enters the save routine. -/
theorem safe_enters {p : SafePoint} (hp : c.l.safePoint? f.n = some p) (hreq : c.w.request.isSome = true) (hm : c.t.mode = .normal) :
    ∃ t, exec (.safe f) s = .next t ∧ OnlyThread s t ∧
      t.thread? s.cur = some { (c.t.entersSave f.n).advance 4 f.sc s.now with pc := p.save } := by
  refine thread_jump h (Thread.entersSave f.n) (fun _ => rfl) (fun _ _ => rfl) (exec_safe f s) ?_
  simp only [hp, hreq, hm]
  exact congrArg (Effect.jump · p.save) (State.mapThread_mapThread _ _ Thread.commit _ fun _ => rfl)

/-- Elsewhere it goes on. -/
theorem safe_goesOn (hno : c.l.safePoint? f.n = none ∨ c.w.request = none ∨ c.t.mode ≠ .normal) :
    ∃ t, exec (.safe f) s = .next t ∧ Advanced s t c 4 f.sc (c.t.commit.advance 4 f.sc s.now) := by
  refine thread_done h Thread.commit (fun _ => rfl) Holds.commit rfl (exec_safe f s) ?_
  cases hp : c.l.safePoint? f.n with
  | none => rfl
  | some p =>
    have hcond : (c.w.request.isSome && c.t.mode == .normal) = false := by
      rcases hno with hno | hno | hno
      · rw [hp] at hno; cases hno
      · simp [hno]
      · simp [hno]
    simp only [hcond]
    rfl

end

/-! ## YIELD -/

theorem exec_yield (f : GF) (s : State) : exec (.yield f) s = runForm f.form (fun c _ s =>
    match c.t.mode with
    | .saving n =>
      if c.w.request.isSome then .done (c.on s fun t => { t with status := .parked })
      else .jump (c.on s fun t => { t with mode := .restoring }) (((c.l.safePoint? n).map (·.restore)).getD 0)
    | _ => .done s) s := rfl

/-- A parked thread waits for its wave's pre-emption (R128). -/
theorem yield_parks {f : GF} {s : State} {c : Ctx} (h : Executes s c f.form) {n : Nat} (hm : c.t.mode = .saving n)
    (hreq : c.w.request.isSome = true) : ∃ t v, exec (.yield f) s = .next t ∧ Advanced s t c 4 f.sc v ∧ v.status = .parked ∧
      SameControl c.t { v with status := c.t.status } ∧ SameRegs c.t v [] := by
  obtain ⟨t, ht, hadv⟩ := thread_done h (fun t => { t with status := .parked }) (fun _ => rfl) (fun _ _ => rfl) rfl
    (exec_yield f s) (by simp only [hm, hreq]; rfl)
  exact ⟨t, _, ht, hadv, rfl, by constructor <;> rfl, SameRegs.of_advance fun _ _ => ⟨rfl, rfl, rfl⟩⟩

/-- Without a pre-emption the thread enters its restore routine. -/
theorem yield_restores {f : GF} {s : State} {c : Ctx} (h : Executes s c f.form) {n : Nat} (hm : c.t.mode = .saving n)
    (hreq : c.w.request = none) {p : SafePoint} (hp : c.l.safePoint? n = some p) :
    ∃ t v, exec (.yield f) s = .next t ∧ OnlyThread s t ∧ t.thread? s.cur = some v ∧ v.mode = .restoring ∧ v.pc = p.restore ∧
      SameControl c.t { v with mode := c.t.mode } ∧ SameRegs c.t v [] := by
  obtain ⟨t, ht, honly, hv⟩ := thread_jump h (pc := p.restore) (fun t => { t with mode := .restoring }) (fun _ => rfl)
    (fun _ _ => rfl) (exec_yield f s) (by simp only [hm, hreq, hp]; rfl)
  exact ⟨t, _, ht, honly, hv, rfl, rfl, by constructor <;> rfl, fun r _ => ⟨c.t.latest_advance 4 f.sc s.now r, rfl, rfl⟩⟩

/-- DLY lengthens every distance, whatever its guard (R120). -/
theorem dly_holds {f : NF} {s : State} {c : Ctx} (hc : s.ctx s.cur = some c) (hl : c.t.completing = false)
    (hp : f.g = .always ∨ c.t.pendingPush = false) :
    ∃ t v, exec (.dly f) s = .next t ∧ Advanced s t c 4 (f.sc + f.n) v ∧ SameControl c.t v ∧ SameRegs c.t v [] ∧
      ∀ r, v.late r = (c.t.flight.find? fun x => x.reg == r).any fun x => decide (1 + (f.sc : Nat) + (f.n : Nat) < x.left) := by
  obtain ⟨k, hk⟩ := runForm_idle (f := { g := f.g, sc := f.sc, delay := f.n }) hc hl hp
  refine ⟨_, c.t.advance 4 (f.sc + f.n) s.now, (exec_dly f s).trans hk, ⟨OnlyThread.of_mapThread s k _ (by simp), ?_, rfl, rfl⟩,
    SameControl.of_advance (by constructor <;> rfl), SameRegs.of_advance fun _ _ => ⟨rfl, rfl, rfl⟩, fun r => ?_⟩
  · rw [State.thread?_mapThread_self _ _ _ (by simp)]
    exact congrArg (Option.map _) (State.ctx_eq hc).1
  · rw [Thread.late_advance, Nat.add_assoc]

/-- Settles O8: DLY with its guard true and false; SAFE and YIELD by their cases. -/
theorem delayAndSafePoints : Obligations.DelayAndSafePoints := by
  unfold Obligations.DelayAndSafePoints
  refine ⟨⟨fun f s c h => goesOn_done h (exec_nop f s) rfl, fun f s c hc hl hp => dly_holds hc hl hp⟩, fun f s c h => ?_,
    fun f s c h => ⟨fun hm => ?_, fun n hm => ⟨yield_parks h hm, fun hreq p hp => yield_restores h hm hreq hp⟩⟩⟩
  · have hcontrol : SameControl c.t (c.t.commit.advance 4 f.sc s.now) := (SameControl.commit c.t).of_advance
    have hlatest (r : Reg) : (c.t.commit.advance 4 f.sc s.now).latest r = c.t.latest r :=
      (c.t.commit.latest_advance 4 f.sc s.now r).trans (c.t.latest_commit r)
    by_cases hno : c.l.safePoint? f.n = none ∨ c.w.request = none ∨ c.t.mode ≠ .normal
    · obtain ⟨t, ht, hadv⟩ := safe_goesOn h hno
      refine ⟨t, _, ht, hadv.only, hadv.found, hlatest, fun r hs => Thread.bank_commit_latest hs, { hcontrol with h := rfl, mode := rfl },
        fun ⟨p, hp, hindex⟩ hreq hm => ?_, fun _ => ⟨rfl, rfl, rfl⟩⟩
      rcases hno with hno | hno | hno
      · exact absurd hindex (Launch.safePoint?_eq_none.mp hno p hp)
      · rw [hno] at hreq; cases hreq
      · exact absurd hm hno
    · simp only [not_or, not_not] at hno
      obtain ⟨hsome, hreq, hm⟩ := hno
      obtain ⟨p, hp⟩ := Option.ne_none_iff_exists'.mp hsome
      obtain ⟨hmem, hindex⟩ := Launch.safePoint?_some hp
      obtain ⟨t, ht, honly, hv⟩ := safe_enters h hp (Option.isSome_iff_ne_none.mpr hreq) hm
      refine ⟨t, _, ht, honly, hv, hlatest, fun r hs => Thread.bank_commit_latest hs, { hcontrol with h := rfl, mode := rfl },
        fun _ _ _ => ⟨rfl, rfl, p, hmem, hindex, rfl⟩, fun hother => ?_⟩
      rcases hother with hother | hother | hother
      · exact absurd hindex (hother p hmem)
      · exact absurd hother hreq
      · exact absurd hm hother
  · refine goesOn_done h (exec_yield f s) ?_
    rcases hm with hm | hm | hm <;> simp only [hm]

end Sys2Proof.Machine
end

section
/-!
PROOF. O10: ERET, HRD and HWR.
-/
namespace Sys2Proof.Machine
open Sys2Proof

theorem exec_eret (f : GF) (s : State) : exec (.eret f) s = runForm f.form (fun c _ s => eretEffect c s) s := rfl

theorem eretEffect_returns {c : Ctx} (hm : c.t.mode = .handler ∨ c.t.mode = .restoring) (he : c.t.h[0].getLsbD 0 = false)
    (s : State) : eretEffect c s = .jump (c.on s fun t => { t.settle with mode := .normal }) c.t.h[0] := by
  have hmode : c.t.settle.mode = c.t.mode := rfl
  have hh : c.t.settle.h[0].getLsbD 0 = false := he
  rcases hm with hm | hm <;> simp only [eretEffect, hmode, hm, hh] <;> rfl

theorem eretEffect_normal {c : Ctx} (hm : c.t.mode = .normal) (s : State) : eretEffect c s = .trap s .ri 0 := by
  have hmode : c.t.settle.mode = c.t.mode := rfl
  simp only [eretEffect, hmode, hm]

theorem exec_hrd (f : HrdF) (s : State) : exec (.hrd f) s = runForm { g := f.g, sc := f.sc, names := [f.d] } (fun c _ s =>
    if f.t then writeFixed c s [(f.d, c.t.h[f.n])] 0 true else writeBoard c s [(f.d, c.t.h[f.n])]) s := by
  show execHrd f s = _
  unfold execHrd
  cases f.t <;> rfl

theorem exec_hwr (f : HwrF) (s : State) : exec (.hwr f) s = runForm { g := f.g, sc := f.sc, reads := [f.d] }
    (fun c o s => .done (c.on s fun t => { t with h := t.h.set f.n (o 0) })) s := rfl

/-- Settles O10: ERET by its mode; HRD as a result of its kind, HWR as a change of one trap register. -/
theorem returnAndTrapRegisters : Obligations.ReturnAndTrapRegisters := by
  unfold Obligations.ReturnAndTrapRegisters
  refine ⟨fun f s c h => ⟨fun hm he => ?_, fun hm hh => ?_⟩, fun f s c h hd => ⟨fun ht => ?_, fun ht => ?_⟩, fun f s c h => ?_⟩
  · obtain ⟨t, ht, honly, hv⟩ := thread_jump h (fun t => { t.settle with mode := .normal }) (fun _ => rfl) (fun _ _ => rfl)
      (exec_eret f s) (eretEffect_returns hm he _)
    exact ⟨t, _, ht, honly, hv, rfl, rfl, by constructor <;> rfl, fun r _ => ⟨c.t.latest_advance 4 f.sc s.now r, rfl, rfl⟩,
      fun r => rfl⟩
  · exact h.traps hh (exec_eret f s) (eretEffect_normal hm _)
  · exact writesBoard_of rfl rfl h hd (exec_hrd f s) (by simp only [ht]; rfl)
  · exact writesOne_of h hd (exec_hrd f s) (by simp only [ht]; rfl)
  · obtain ⟨t, ht, hadv⟩ := thread_done h (fun t => { t with h := t.h.set f.n (c.reads s _ 0) }) (fun _ => rfl) (fun _ _ => rfl)
      rfl (exec_hwr f s) rfl
    refine ⟨t, _, ht, hadv, ?_, fun k hk => ?_, by constructor <;> rfl, SameRegs.of_advance fun _ _ => ⟨rfl, rfl, rfl⟩⟩
    · simp [Thread.advance]
    · have hne : f.n.val ≠ k.val := fun e => hk (Fin.ext e.symm)
      simp [Thread.advance, hne]

end Sys2Proof.Machine
end

section
/-!
PROOF. O9, O12: what a change of the memories, of the dies, and a thread's stores taking effect leave as it is.
-/
namespace Sys2Proof.Machine
open Sys2Proof

/-- A change of some entries that keeps what `g` reads of them. -/
theorem map_updateIf {α β : Type} {g : α → β} {f : α → α} (hf : ∀ x, g (f x) = g x) (p : α → Bool) (xs : List α) :
    (updateIf p f xs).map g = xs.map g := by
  rw [updateIf, List.map_map]
  refine List.map_congr_left fun x _ => ?_
  rw [Function.comp_apply]
  split
  · exact hf x
  · rfl

theorem mem_updateIf {α : Type} {p : α → Bool} {f : α → α} {xs : List α} {y : α} :
    y ∈ updateIf p f xs ↔ ∃ x ∈ xs, (p x = true ∧ y = f x) ∨ (p x = false ∧ y = x) := by
  rw [updateIf, List.mem_map]
  refine exists_congr fun x => and_congr_right fun _ => ?_
  cases p x <;> simp [eq_comm]

/-- Steps that each keep what `g` reads of the state keep it together. -/
theorem foldl_keeps {α β : Type} {g : State → β} {f : State → α → State} (hf : ∀ s x, g (f s x) = g s) (s : State) (xs : List α) :
    g (xs.foldl f s) = g s := by
  induction xs generalizing s with
  | nil => rfl
  | cons x xs ih => exact (ih (f s x)).trans (hf s x)

/-! ## Everything but the bytes -/

/-- A wave without its scratchpad's bytes. -/
def Wave.bare (w : Wave) : Wave := { w with spad := [] }

/-- A state without what a write where an access lands may change: bytes, elements of regions, and who has still to see what. -/
def State.bare (s : State) : State :=
  { s with mem := [], regions := [], history := [], carried := [], waves := s.waves.map Wave.bare }

theorem State.bare_mapWave (s : State) (w : Nat) {f : Wave → Wave} (hf : ∀ y, (f y).bare = y.bare) : (s.mapWave w f).bare = s.bare := by
  simp only [State.mapWave, State.bare, map_updateIf hf]

theorem State.bare_writeLoc (s : State) (loc : Loc) (bs : List Byte) : (s.writeLoc loc bs).bare = s.bare := by
  cases loc with
  | phys pa => simp only [State.writeLoc]; split <;> rfl
  | fitted id e => rfl
  | spad w off => exact s.bare_mapWave w fun _ => rfl

theorem State.bare_writeByte (s : State) (v : Viewer) (x : Writing) (event : Nat) (ns : List Nat) (b : Loc) (val : Byte) :
    (s.writeByte v x event ns b val).bare = s.bare := by
  simp only [State.writeByte]
  split
  · exact State.bare_writeLoc _ b [val]
  · rfl

theorem State.bare_writeAs (s : State) (v : Viewer) (x : Writing) (event : Nat → Nat) (loc : Loc) (bs : List Byte) :
    (s.writeAs v x event loc bs).bare = s.bare := by
  have hparts : ∀ parts : List (Nat × Loc × Byte), (((parts.map (·.1)).dedup).foldl (fun s n =>
      s.writeUnit v x n ((parts.filter fun p => p.1 == n).map (·.2))) s).bare = s.bare := fun parts =>
    foldl_keeps (g := State.bare) (fun s _ => foldl_keeps (g := State.bare) (fun s _ => State.bare_writeByte s ..) s _) s _
  unfold State.writeAs
  split
  · exact State.bare_writeLoc s loc bs
  · cases loc with
    | fitted id e => exact State.bare_writeLoc s (.fitted id e) bs
    | phys pa => exact hparts _
    | spad w off => exact hparts _

theorem State.bare_update (s : State) (v : Viewer) (x : Writing) (event : Nat) (loc : Loc) (n : Nat) (f : List Byte → List Byte) :
    (s.update v x event loc n f).1.bare = s.bare := by
  simp only [State.update, State.bare_writeAs]

theorem State.bare_atomicAs (s : State) (v : Viewer) (x : Writing) (event : Nat) (loc : Loc) (op : AtomOp) (wide : Bool)
    (b d : DWord) : (s.atomicAs v x event loc op wide b d).1.bare = s.bare := by
  simp only [State.atomicAs, State.bare_update]

/-! ## What stands beside a thread's stores -/

/-- What a launch port and its log hold. -/
def Die.intake (d : Die) : Nat × List PendingLaunch × List LogEntry := (d.idx, d.launchPort, d.log)

/-- What the stores of a thread do not change as they take effect: the other threads, who has exited, which waves there are, the launches,
the launch ports, and whether the module records. -/
structure Around where
  others : ThreadId → Option Thread
  statuses : List (ThreadId × TStatus)
  waves : List (Nat × Nat)
  launches : List Launch
  intakes : List (Nat × List PendingLaunch × List LogEntry)
  recording : Bool
  replay : List Redelivery
  boot : BootImage

/-- What stands around a thread. -/
def State.around (s : State) (id : ThreadId) : Around where
  others := fun k => if k = id then none else s.thread? k
  statuses := s.threads.map fun t => (t.id, t.status)
  waves := s.waves.map fun w => (w.uid, w.launch)
  launches := s.launches
  intakes := s.dies.map Die.intake
  recording := s.recording
  replay := s.replay
  boot := s.boot

theorem State.around_bare (s : State) (id : ThreadId) : s.bare.around id = s.around id := by
  have hwaves : (s.waves.map Wave.bare).map (fun w => (w.uid, w.launch)) = s.waves.map fun w => (w.uid, w.launch) :=
    List.map_map
  simp only [State.around, State.bare, hwaves]
  rfl

theorem State.around_of_bare {s u : State} (h : u.bare = s.bare) (id : ThreadId) : u.around id = s.around id := by
  rw [← u.around_bare, h, s.around_bare]

theorem State.around_mapThread (s : State) (id : ThreadId) {f : Thread → Thread} (hid : ∀ t, (f t).id = t.id)
    (hstatus : ∀ t, (f t).status = t.status) : (s.mapThread id f).around id = s.around id := by
  have hothers : (fun k => if k = id then none else (s.mapThread id f).thread? k) = fun k => if k = id then none else s.thread? k := by
    funext k
    split
    · rfl
    next hne => exact State.thread?_mapThread_other s f hid hne
  have hstatuses := map_updateIf (g := fun t : Thread => (t.id, t.status)) (f := f) (fun t => by rw [hid, hstatus])
    (fun t => t.id == id) s.threads
  simp only [State.around, hothers]
  simp only [State.mapThread, hstatuses]

theorem State.around_post (s : State) (d : Nat) (r : FaultRecord) (p : Poster) (id : ThreadId) :
    (s.post d r p).around id = s.around id := by
  have hintakes := map_updateIf (g := Die.intake) (f := fun x => { x with posting := x.posting ++ [⟨r, p⟩] }) (fun _ => rfl)
    (fun x => x.idx == d) s.dies
  have hothers : (s.post d r p).thread? = s.thread? := rfl
  simp only [State.around, hothers]
  simp only [State.post, State.mapDie, hintakes]

theorem State.around_applyStore (s : State) (id : ThreadId) (e : StoreEntry) : (s.applyStore id e).around id = s.around id := by
  unfold State.applyStore
  split
  · exact Eq.trans (State.around_mapThread _ id (f := fun t => { t with unposted := t.unposted + 1 }) (fun _ => rfl) fun _ => rfl)
      (State.around_post ..)
  · split
    · exact State.around_of_bare (State.bare_writeAs s _ _ _ _ _) id
    · exact State.around_of_bare (State.bare_update s _ _ _ _ _ _) id
    · exact State.around_of_bare (State.bare_atomicAs s _ _ _ _ _ _ _ _) id

theorem State.around_drain (s : State) (id : ThreadId) : (s.drain id).around id = s.around id := by
  unfold State.drain
  split
  · rfl
  next t _ =>
    have hfold := foldl_keeps (g := (State.around · id)) (fun s e => s.around_applyStore id e) s t.stores
    exact Eq.trans (State.around_mapThread _ id (f := fun t => { t with stores := [] }) (fun _ => rfl) fun _ => rfl) hfold

theorem State.around_publish (s : State) (id : ThreadId) : (s.publish id).around id = s.around id := by
  unfold State.publish
  split
  · exact State.around_mapThread { s with stamp := s.stamp + 1 } id (fun _ => rfl) fun _ => rfl
  · rfl

theorem State.around_sending (s : State) (id : ThreadId) : (s.sending id).around id = s.around id :=
  (State.around_publish _ id).trans (s.around_drain id)

theorem State.around_spent (s : State) (f : Form) : (s.spent f).around s.cur = s.around s.cur :=
  State.around_mapThread { s with free := s.free + f.reads.length } s.cur (fun _ => rfl) fun _ => rfl

section
variable {s u : State} {id : ThreadId} (h : u.around id = s.around id)
include h

theorem State.thread?_of_around {k : ThreadId} (hk : k ≠ id) : u.thread? k = s.thread? k := by
  have := congrFun (congrArg Around.others h) k
  simpa [State.around, hk] using this

theorem State.launches_of_around : u.launches = s.launches := congrArg Around.launches h

theorem State.statuses_of_around : (u.threads.map fun t => (t.id, t.status)) = s.threads.map fun t => (t.id, t.status) :=
  congrArg Around.statuses h

theorem State.waves_of_around : (u.waves.map fun w => (w.uid, w.launch)) = s.waves.map fun w => (w.uid, w.launch) :=
  congrArg Around.waves h

/-- A die has the launches pending and logged that it had. -/
theorem State.intake_of_around {n : Nat} {d : Die} (hd : s.die? n = some d) : ∃ e, u.die? n = some e ∧ e.intake = d.intake := by
  have hfind (v : State) : (v.die? n).map Die.intake = (v.dies.map Die.intake).find? fun x => x.1 == n := by
    rw [List.find?_map]
    rfl
  have hintakes : u.dies.map Die.intake = s.dies.map Die.intake := congrArg Around.intakes h
  have hmap : (u.die? n).map Die.intake = some d.intake := by
    rw [hfind, hintakes, ← hfind, hd]
    rfl
  simpa using hmap

/-- So its launch port has room where it had. -/
theorem State.launchHasRoom_of_around (n : Nat) : u.launchHasRoom n = s.launchHasRoom n := by
  have hrec : u.recording = s.recording := congrArg Around.recording h
  have hreplay : u.replay = s.replay := congrArg Around.replay h
  have hboot : u.boot = s.boot := congrArg Around.boot h
  cases hd : s.die? n with
  | some d =>
    obtain ⟨e, he, hintake⟩ := State.intake_of_around h hd
    simp only [Die.intake, Prod.mk.injEq] at hintake
    obtain ⟨-, hport, hlog⟩ := hintake
    simp only [State.launchHasRoom, hd, he, hport, hlog, hrec, hreplay, hboot]
  | none =>
    cases he : u.die? n with
    | none => simp only [State.launchHasRoom, hd, he]
    | some e =>
      obtain ⟨d, hd', -⟩ := State.intake_of_around h.symm he
      rw [hd] at hd'
      cases hd'

end

end Sys2Proof.Machine
end

section
/-!
PROOF. O9: TRAP, SYSCALL, BKPT and GBAR with a handler.
-/
namespace Sys2Proof.Machine
open Sys2Proof

theorem exec_trap (f : NF) (s : State) :
    exec (.trap f) s = runForm { g := f.g, sc := f.sc } (fun _ _ s => .trap s .trapi (BitVec.ofNat 64 f.n)) s := rfl

theorem exec_syscall (f : NF) (s : State) :
    exec (.syscall f) s = runForm { g := f.g, sc := f.sc } (fun _ _ s => .trap s .syscall (BitVec.ofNat 64 f.n)) s := rfl

theorem exec_bkpt (f : GF) (s : State) : exec (.bkpt f) s = runForm f.form (fun _ _ s => .trap s .bkpt 0) s := rfl

/-- A trap that a thread's handler takes (R318). -/
theorem Trapped.handled (c : Ctx) (cause : Cause) (ea : DWord) (now : Nat) :
    Trapped c.t (handled c cause ea now) (Word.lo c.l.nd.trapvec) cause ea where
  h0 := by simp [Machine.handled, Thread.atEntry]
  h1 := by simp [Machine.handled, Thread.atEntry]
  h2 := by simp [Machine.handled, Thread.atEntry]
  h3 := by simp [Machine.handled, Thread.atEntry]
  rest i hi := by
    simp [Machine.handled, Thread.atEntry, show (0 : Nat) ≠ i.val by omega, show (1 : Nat) ≠ i.val by omega,
      show (2 : Nat) ≠ i.val by omega, show (3 : Nat) ≠ i.val by omega]
  mode := rfl
  pc := rfl
  kept := by constructor <;> rfl
  marks := rfl

/-- A thread that has arrived is where it was, with its trap registers, its control state and its marks. -/
theorem Trapped.of_arriving {u v : Thread} {vec : Word} {cause : Cause} {ea : DWord} (h : Trapped u.arriving v vec cause ea) :
    Trapped u v vec cause ea :=
  { h with kept := { h.kept with } }

theorem exec_gbar (f : ScF) (s : State) : exec (.gbar f) s = runArrival (.gbar f) [] [] false (some .module)
    (fun c => if c.l.nd.cooperative then none else some (.gbar, 0)) (fun _ _ => (0, 0)) s := rfl

/-- GBAR in a node without the cooperative flag takes its trap as it arrives. -/
theorem exec_gbar_uncooperative {f : ScF} {s : State} {c : Ctx} (hc : s.ctx s.cur = some c) (hl : c.t.loads = [])
    (hco : c.l.nd.cooperative = false) : exec (.gbar f) s = .next (finish { c with t := c.t.arriving } { sc := f.sc }
      (.trap (s.mapThread s.cur Thread.arriving) .gbar 0)) := by
  have hid : c.t.arriving.id = s.cur := State.ctx_id hc
  have hfree : interlocked c.t { sc := f.sc } = false := by simp [interlocked, Thread.completing, hl]
  have htrap : operandTrap { c with t := c.t.arriving } { sc := f.sc } = none := by simp [operandTrap]
  rw [exec_gbar]
  simp only [runArrival, hc, collectiveStall, hfree, hl, htrap, hco, hid]
  rfl

/-- The context of a thread that has changed. -/
theorem State.ctx_mapThread {s : State} {c : Ctx} (h : s.ctx s.cur = some c) {f : Thread → Thread} (hf : ∀ t, (f t).id = t.id) :
    (s.mapThread s.cur f).ctx s.cur = some { c with t := f c.t } := by
  obtain ⟨ht, hw, hl, hg⟩ := State.ctx_eq h
  have ht' : (s.mapThread s.cur f).thread? s.cur = some (f c.t) := by rw [State.thread?_mapThread_self _ _ _ hf, ht]; rfl
  have hw' : (s.mapThread s.cur f).wave? s.cur.wave = some c.w := hw
  have hl' : (s.mapThread s.cur f).launch? c.w.launch = some c.l := hl
  have hg' : (s.mapThread s.cur f).group? s.cur.wave (c.w.groupOf s.cur.idx) = some c.g := hg
  simp only [State.ctx, ht', hw', hl', hg']

theorem gbar_traps {f : ScF} {s : State} {c : Ctx} (hc : s.ctx s.cur = some c) (hl : c.t.loads = []) (hh : c.handles)
    (hco : c.l.nd.cooperative = false) :
    ∃ t v, exec (.gbar f) s = .next t ∧ t.thread? s.cur = some v ∧ Trapped c.t v (Word.lo c.l.nd.trapvec) .gbar 0 := by
  have hid : c.t.arriving.id = s.cur := State.ctx_id hc
  have hctx := State.ctx_mapThread hc (f := Thread.arriving) fun _ => rfl
  refine ⟨_, handled { c with t := c.t.arriving } .gbar 0 s.now, exec_gbar_uncooperative hc hl hco, ?_,
    .of_arriving (.handled { c with t := c.t.arriving } .gbar 0 s.now)⟩
  have hfinish : finish { c with t := c.t.arriving } { sc := f.sc } (.trap (s.mapThread s.cur Thread.arriving) .gbar 0) =
      (s.mapThread s.cur Thread.arriving).setThread (handled { c with t := c.t.arriving } .gbar 0 s.now) :=
    (finish_trap (f := { sc := f.sc }) (d := { c with t := c.t.arriving }) ((congrArg _ hid).trans hctx) .gbar 0).trans
      (State.trap_handled (c := { c with t := c.t.arriving }) hh .gbar 0)
  have hfound : (s.mapThread s.cur Thread.arriving).thread? (handled { c with t := c.t.arriving } .gbar 0 s.now).id =
      some c.t.arriving := (congrArg _ hid).trans (State.ctx_eq hctx).1
  rw [hfinish]
  exact (congrArg _ hid).symm.trans (State.thread?_setThread_self hfound)

end Sys2Proof.Machine
end

section
/-!
PROOF. O9: a fault domain that stops: what the end of a launch leaves of the launches and of a thread.
-/
namespace Sys2Proof.Machine
open Sys2Proof

/-! ## Fewer launches are live, no thread comes back -/

/-- Every thread of a name, if there is one, has exited. -/
def State.gone (s : State) (id : ThreadId) : Prop := ∀ t ∈ s.threads, t.id = id → t.status = .exited

/-- From one state to another threads that have exited stay so, a thread of a launch is still one or is gone, and no launch has become
live. -/
structure Winds (s u : State) : Prop where
  gone : ∀ id, s.gone id → u.gone id
  bound : ∀ id l, s.ofLaunch l id = true → u.gone id ∨ u.ofLaunch l id = true
  launches : ∀ l ∈ u.launches, l.live = true → ∃ k ∈ s.launches, k.live = true ∧ k.id = l.id ∧ k.domain = l.domain

theorem Winds.trans {s u v : State} (h : Winds s u) (k : Winds u v) : Winds s v where
  gone id hs := k.gone id (h.gone id hs)
  bound id l hs := by
    rcases h.bound id l hs with hu | hu
    · exact .inl (k.gone id hu)
    · exact k.bound id l hu
  launches l hl hlive := by
    obtain ⟨x, hx, hxlive, hxid, hxdom⟩ := k.launches l hl hlive
    obtain ⟨y, hy, hylive, hyid, hydom⟩ := h.launches x hx hxlive
    exact ⟨y, hy, hylive, hyid.trans hxid, hydom.trans hxdom⟩

theorem Winds.foldl {α : Type} {f : State → α → State} (hf : ∀ s x, Winds s (f s x)) (hrefl : ∀ s, Winds s s) (s : State)
    (xs : List α) : Winds s (xs.foldl f s) := by
  induction xs generalizing s with
  | nil => exact hrefl s
  | cons x xs ih => exact (hf s x).trans (ih (f s x))

/-- Which threads there are and whether they have exited, which waves of which launch. -/
def State.roster (s : State) : List (ThreadId × TStatus) × List (Nat × Nat) :=
  (s.threads.map fun t => (t.id, t.status), s.waves.map fun w => (w.uid, w.launch))

/-- What of a launch says whether it is live, and in which domain. -/
def Launch.standing (l : Launch) : Nat × Word × Bool := (l.id, l.domain, l.live)

section
variable {s u : State} (h : u.roster = s.roster)
include h

theorem State.gone_of_roster {id : ThreadId} (hs : s.gone id) : u.gone id := by
  intro t ht hid
  have hthreads : (u.threads.map fun t => (t.id, t.status)) = s.threads.map fun t => (t.id, t.status) := congrArg Prod.fst h
  have hmem : (t.id, t.status) ∈ s.threads.map fun t => (t.id, t.status) := by
    rw [← hthreads]
    exact List.mem_map_of_mem (f := fun t : Thread => (t.id, t.status)) ht
  obtain ⟨x, hx, he⟩ := List.mem_map.mp hmem
  simp only [Prod.mk.injEq] at he
  obtain ⟨heid, hestatus⟩ := he
  rw [← hestatus]
  exact hs x hx (heid.trans hid)

theorem State.ofLaunch_of_roster (l : Nat) (id : ThreadId) : u.ofLaunch l id = s.ofLaunch l id := by
  have hany (v : State) : v.ofLaunch l id = (v.waves.map fun w => (w.uid, w.launch)).any fun x => x.1 == id.wave && x.2 == l := by
    rw [List.any_map]
    rfl
  have hwaves : (u.waves.map fun w => (w.uid, w.launch)) = s.waves.map fun w => (w.uid, w.launch) := congrArg Prod.snd h
  rw [hany, hany, hwaves]

end

/-- A step that leaves threads and waves in place, and the launches as live as they were. -/
theorem Winds.of_roster {s u : State} (h : u.roster = s.roster)
    (hl : u.launches.map Launch.standing = s.launches.map Launch.standing) : Winds s u where
  gone _ := State.gone_of_roster h
  bound id l hs := .inr ((State.ofLaunch_of_roster h l id).trans hs)
  launches l hmem hlive := by
    obtain ⟨k, hk, he⟩ := List.mem_map.mp (hl ▸ List.mem_map_of_mem (f := Launch.standing) hmem)
    simp only [Launch.standing, Prod.mk.injEq] at he
    obtain ⟨hid, hdom, hklive⟩ := he
    exact ⟨k, hk, hklive.trans hlive, hid, hdom⟩

theorem Winds.refl (s : State) : Winds s s := .of_roster rfl rfl

theorem Winds.of_around {s u : State} {id : ThreadId} (h : u.around id = s.around id) : Winds s u :=
  .of_roster (Prod.ext (State.statuses_of_around h) (State.waves_of_around h)) (congrArg _ (State.launches_of_around h))

/-! ## What changes dies alone -/

/-- A state without its dies. -/
def State.dieless (s : State) : State := { s with dies := [] }

theorem Winds.of_dieless {s u : State} (h : u.dieless = s.dieless) : Winds s u :=
  .of_roster (show u.dieless.roster = s.dieless.roster from congrArg _ h)
    (show u.dieless.launches.map _ = s.dieless.launches.map _ from congrArg (fun v => v.launches.map Launch.standing) h)

theorem State.dieless_deliver? {s t : State} {x : Delivery} (h : s.deliver? x = some t) : t.dieless = s.dieless := by
  have hmessage : (s.launchMessage (handleDie x.handle) (msgLo x.msg) (msgHi x.msg) x.know).dieless = s.dieless := by
    unfold State.launchMessage
    split <;> rfl
  unfold State.deliver? at h
  split at h
  · cases h; rfl
  split at h
  · split at h
    · cases h; exact hmessage
    · cases h
  split at h
  · cases h; rfl
  split at h
  · split at h
    · cases h; rfl
    · cases h
  split at h
  · cases h; rfl
  split at h
  · cases h; rfl
  · cases h

theorem State.dieless_deliver (s : State) (x : Delivery) : (s.deliver x).dieless = s.dieless := by
  have hhold (o : Option State) (ho : o = s.deliver? x) (f : Die → Die) :
      (match o with | some u => u | none => s.mapDie x.errDie f).dieless = s.dieless := by
    cases o with
    | some u => exact State.dieless_deliver? ho.symm
    | none => rfl
  unfold State.deliver
  dsimp only
  split
  · split
    · rfl
    · exact hhold _ rfl _
  · exact hhold _ rfl _

theorem State.dieless_reportNode (s : State) (die : Nat) (port : Word) (status detail : Nat) (node : DWord) (know : Know) :
    (s.reportNode die port status detail node know).dieless = s.dieless := by
  unfold State.reportNode
  split
  · rfl
  · exact s.dieless_deliver _

theorem State.dieless_deal (s : State) (die prio : Nat) (r : QRec) : (s.deal die prio r).dieless = s.dieless := by
  unfold State.deal
  split <;> rfl

theorem State.dieless_enqueueStep (s : State) (l : Launch) : (s.enqueueStep l).dieless = s.dieless := by
  unfold State.enqueueStep
  split
  · rfl
  · exact foldl_keeps (g := State.dieless) (fun s (r : Nat × QRec) => s.dieless_deal r.1 l.prio r.2) s _

theorem State.dieless_endPending (s : State) (d : Nat) (looks : PendingLaunch → Bool) (names : PendingLaunch → NodeRec → Bool)
    (status detail : Nat) (ps : List PendingLaunch) : (s.endPending d looks names status detail ps).1.dieless = s.dieless := by
  induction ps generalizing s with
  | nil => rfl
  | cons p ps ih =>
    unfold State.endPending
    dsimp only
    split
    · exact ih s
    · split
      · split
        · exact (ih _).trans (State.dieless_reportNode ..)
        · exact ih s
      · exact ih s
      · split
        · exact ih _
        · exact ih s

theorem State.dieless_endPendings (s : State) (looks : PendingLaunch → Bool) (names : PendingLaunch → NodeRec → Bool)
    (status detail : Nat) : (s.endPendings looks names status detail).1.dieless = s.dieless := by
  unfold State.endPendings
  refine List.foldlRecOn (motive := fun acc : State × Nat => acc.1.dieless = s.dieless) s.dies _ rfl fun acc ha d _ => ?_
  exact (acc.1.dieless_endPending d.idx looks names status detail d.launchPort).trans ha

/-! ## The steps of a launch's end (R321) -/

theorem Winds.mapThreads_exit (s : State) (p : Thread → Bool) {f : Thread → Thread} (hf : ∀ t, (f t).status = .exited) :
    Winds s (s.mapThreads p f) where
  gone id hs t ht htid := by
    obtain ⟨x, hx, ⟨-, rfl⟩ | ⟨-, rfl⟩⟩ := mem_updateIf.mp ht
    · exact hf x
    · exact hs _ hx htid
  bound _ _ hs := .inr hs
  launches l hl hlive := ⟨l, hl, hlive, rfl, rfl⟩

theorem Winds.dropWave (s : State) (uid : Nat) : Winds s (s.dropWave uid) where
  gone id hs t ht := hs t (List.mem_of_mem_filter ht)
  bound id l hs := by
    obtain ⟨w, hw, he⟩ := List.any_eq_true.mp hs
    by_cases hu : id.wave = uid
    · refine .inl fun t ht htid => ?_
      have hne := (List.mem_filter.mp ht).2
      simp [htid, hu] at hne
    · refine .inr (List.any_eq_true.mpr ⟨w, List.mem_filter.mpr ⟨hw, ?_⟩, he⟩)
      have hwu : w.uid = id.wave := by
        simp only [Bool.and_eq_true, beq_iff_eq] at he
        exact he.1
      simp [hwu, hu]
  launches l hl hlive := ⟨l, hl, hlive, rfl, rfl⟩

theorem Winds.stopThreads (s : State) (l : Nat) : Winds s (s.stopThreads l) := by
  have hdrain : ∀ (s : State) (t : Thread), Winds s (s.drain t.id) := fun s t => .of_around (s.around_drain t.id)
  exact (Winds.foldl hdrain .refl s _).trans (.mapThreads_exit _ _ fun _ => rfl)

/-- Its threads have exited. -/
theorem State.stopThreads_gone {s : State} {l : Nat} {id : ThreadId} (hs : s.ofLaunch l id = true) : (s.stopThreads l).gone id := by
  have hdrain : ∀ (s : State) (t : Thread), Winds s (s.drain t.id) := fun s t => .of_around (s.around_drain t.id)
  have hexit := Winds.foldl hdrain .refl s (s.threads.filter fun t => s.ofLaunch l t.id)
  intro t ht htid
  obtain ⟨x, hx, ⟨-, rfl⟩ | ⟨hno, rfl⟩⟩ := mem_updateIf.mp ht
  · rfl
  · rcases hexit.bound id l hs with hu | hu
    · exact hu _ hx htid
    · rw [← htid, hno] at hu
      cases hu

theorem Winds.discardQueued (s : State) (l : Nat) : Winds s (s.discardQueued l) := by
  unfold State.discardQueued
  dsimp only
  refine Winds.trans ?_ (Winds.foldl (fun s (w : Wave) => Winds.dropWave s w.uid) .refl _ _)
  exact .of_dieless rfl

theorem Winds.endOps (s : State) (l : Nat) : Winds s (s.endOps l) := .of_roster rfl rfl

theorem Winds.endHoldings (s : State) (l : Nat) : Winds s (s.endHoldings l) := by
  refine .of_roster (Prod.ext rfl ?_) rfl
  refine map_updateIf (g := fun w : Wave => (w.uid, w.launch)) ?_ (fun w => w.launch == l) s.waves
  exact fun _ => rfl

/-- The launch is marked as ended. -/
theorem Winds.mapLaunch_end (s : State) (id : Nat) : Winds s (s.mapLaunch id fun l => { l with ended := true, items := [] }) where
  gone _ hs := hs
  bound _ _ hs := .inr hs
  launches l hl hlive := by
    obtain ⟨k, hk, ⟨-, rfl⟩ | ⟨-, rfl⟩⟩ := mem_updateIf.mp hl
    · simp [Launch.live] at hlive
    · exact ⟨_, hk, hlive, rfl, rfl⟩

theorem State.mapLaunch_end_notLive (s : State) (id : Nat) :
    ∀ l ∈ (s.mapLaunch id fun l => { l with ended := true, items := [] }).launches, l.live = true → l.id ≠ id := by
  intro l hl hlive
  obtain ⟨k, -, ⟨-, rfl⟩ | ⟨hne, rfl⟩⟩ := mem_updateIf.mp hl
  · simp [Launch.live] at hlive
  · simpa using hne

theorem Winds.unhold (s : State) (d : Nat) : Winds s (s.unhold d) := by
  have hmap (id : Nat) : Winds s (s.mapLaunch id fun l => { l with held := false }) :=
    .of_roster rfl (map_updateIf (g := Launch.standing) (f := fun l => { l with held := false }) (fun _ => rfl) _ s.launches)
  unfold State.unhold
  dsimp only
  split
  · split
    · exact (hmap _).trans (.of_dieless (State.dieless_enqueueStep ..))
    · exact .refl s
  · exact .refl s

theorem Winds.sweepLaunch (s : State) (l : Nat) : Winds s (s.sweepLaunch l) := by
  unfold State.sweepLaunch
  split
  · exact .refl s
  · exact ⟨fun _ hs => hs, fun _ _ hs => .inr hs, fun k hk hlive => ⟨k, List.mem_of_mem_filter hk, hlive, rfl, rfl⟩⟩

/-- A state in which the threads of a launch have stopped and their holdings are gone, the launch not yet marked as ended. -/
def State.emptied (s : State) (l : Nat) : State := (((s.stopThreads l).discardQueued l).endOps l).endHoldings l

theorem Winds.emptied (s : State) (l : Nat) : Winds (s.stopThreads l) (s.emptied l) :=
  ((Winds.discardQueued _ l).trans (.endOps _ l)).trans (.endHoldings _ l)

/-- From the mark on: another launch may be taken from its hold, this one swept, its end reported. -/
theorem Winds.endLaunch_tail (s : State) (l : Launch) (status detail : Nat) :
    Winds ((s.emptied l.id).mapLaunch l.id fun l => { l with ended := true, items := [] }) (s.endLaunch l status detail) :=
  ((Winds.unhold _ l.homeDie).trans (.sweepLaunch _ l.id)).trans (.of_dieless (State.dieless_reportNode ..))

theorem Winds.endLaunch (s : State) (l : Launch) (status detail : Nat) : Winds s (s.endLaunch l status detail) :=
  (((Winds.stopThreads s l.id).trans (.emptied s l.id)).trans (.mapLaunch_end _ l.id)).trans (.endLaunch_tail s l status detail)

/-- No launch of its number is live any more. -/
theorem State.endLaunch_notLive (s : State) (l : Launch) (status detail : Nat) :
    ∀ k ∈ (s.endLaunch l status detail).launches, k.live = true → k.id ≠ l.id := by
  intro k hk hlive
  obtain ⟨x, hx, hxlive, hid, -⟩ := (Winds.endLaunch_tail s l status detail).launches k hk hlive
  rw [← hid]
  exact State.mapLaunch_end_notLive _ l.id x hx hxlive

/-- Its threads are gone. -/
theorem State.endLaunch_gone {s : State} {l : Launch} {id : ThreadId} (hs : s.ofLaunch l.id id = true) (status detail : Nat) :
    (s.endLaunch l status detail).gone id :=
  (((Winds.emptied s l.id).trans (.mapLaunch_end _ l.id)).trans (.endLaunch_tail s l status detail)).gone id
    (State.stopThreads_gone hs)

/-! ## A domain that stops -/

/-- The ends of several launches, one after another. -/
def State.endAll (s : State) (c : Cause) (ls : List Launch) : State := ls.foldl (fun s l => s.endLaunch l 3 c.code) s

theorem Winds.endAll (s : State) (c : Cause) (ls : List Launch) : Winds s (s.endAll c ls) :=
  Winds.foldl (fun s l => Winds.endLaunch s l 3 c.code) .refl s ls

theorem State.endAll_notLive {ls : List Launch} {l : Launch} (hl : l ∈ ls) (s : State) (c : Cause) :
    ∀ k ∈ (s.endAll c ls).launches, k.live = true → k.id ≠ l.id := by
  induction ls generalizing s with
  | nil => cases hl
  | cons x ls ih =>
    rcases List.mem_cons.mp hl with rfl | hl
    · intro k hk hlive
      obtain ⟨y, hy, hylive, hid, -⟩ := (Winds.endAll (s.endLaunch l 3 c.code) c ls).launches k hk hlive
      rw [← hid]
      exact s.endLaunch_notLive l 3 c.code y hy hylive
    · exact ih hl (s.endLaunch x 3 c.code)

theorem State.endAll_gone {ls : List Launch} {l : Launch} (hl : l ∈ ls) {s : State} {id : ThreadId} (hs : s.ofLaunch l.id id = true)
    (c : Cause) : (s.endAll c ls).gone id := by
  induction ls generalizing s with
  | nil => cases hl
  | cons x ls ih =>
    have hrest := Winds.endAll (s.endLaunch x 3 c.code) c ls
    rcases List.mem_cons.mp hl with rfl | hl
    · exact hrest.gone id (State.endLaunch_gone hs 3 c.code)
    · rcases (Winds.endLaunch s x 3 c.code).bound id l.id hs with hgone | hbound
      · exact hrest.gone id hgone
      · exact ih hl hbound

/-- The live launches of a domain. -/
def State.liveOfDomain (s : State) (domain : Word) : List Launch := s.launches.filter fun l => l.live && l.domain == domain

/-- A domain stops by the end of each of them and then of what is pending, which dies alone hold. -/
theorem Winds.stopDomain_tail (s : State) (domain : Word) (c : Cause) :
    Winds (s.endAll c (s.liveOfDomain domain)) (s.stopDomain domain c) := .of_dieless (State.dieless_endPendings ..)

/-- No launch of a stopped domain is live (R321). -/
theorem State.stopDomain_notLive (s : State) (domain : Word) (c : Cause) :
    ∀ l ∈ (s.stopDomain domain c).launches, l.live = true → l.domain ≠ domain := by
  intro l hl hlive hdom
  obtain ⟨y, hy, hylive, hyid, hydom⟩ := (Winds.stopDomain_tail s domain c).launches l hl hlive
  obtain ⟨x, hx, hxlive, hxid, hxdom⟩ := (Winds.endAll s c (s.liveOfDomain domain)).launches y hy hylive
  have hxmem : x ∈ s.liveOfDomain domain := List.mem_filter.mpr ⟨hx, by simp [hxlive, hxdom, hydom, hdom]⟩
  exact State.endAll_notLive hxmem s c y hy hylive hxid.symm

/-- The threads of its launches are gone. -/
theorem State.stopDomain_gone {s : State} {l : Launch} {id : ThreadId} (hl : l ∈ s.launches) (hlive : l.live = true)
    (hs : s.ofLaunch l.id id = true) (c : Cause) : (s.stopDomain l.domain c).gone id :=
  (Winds.stopDomain_tail s l.domain c).gone id (State.endAll_gone (List.mem_filter.mpr ⟨hl, by simp [hlive]⟩) hs c)

/-- A trap outside normal mode, or without a handler, stops the domain (R124, R318). -/
theorem State.trap_stops {c : Ctx} (hu : c.l.system = false) (hno : c.t.mode ≠ .normal ∨ c.l.nd.hasVector = false) (s : State)
    (cause : Cause) (ea : DWord) : s.trap c cause ea = (s.setThread (c.t.atEntry cause ea)).stopDomain c.l.domain cause := by
  have hmode : (c.t.atEntry cause ea).mode = c.t.mode := rfl
  have hcond : (decide (c.t.mode ≠ .normal) || !(c.l.system || c.l.nd.hasVector)) = true := by
    rcases hno with hno | hno
    · simp [hno]
    · simp [hu, hno]
  unfold State.trap
  simp only [hmode]
  rw [hu] at hcond ⊢
  rw [Bool.false_and, if_neg Bool.false_ne_true, if_pos hcond]

theorem bkpt_stops {f : GF} {s : State} {c : Ctx} (h : Executes s c f.form) (hu : c.l.system = false) (hlive : c.l.ended = false)
    (hno : c.t.mode ≠ .normal ∨ c.l.nd.hasVector = false) :
    ∃ t, exec (.bkpt f) s = .next t ∧ (∀ l ∈ t.launches, l.live = true → l.domain ≠ c.l.domain) ∧
      ∀ v, t.thread? s.cur = some v → v.status = .exited := by
  obtain ⟨-, hw, hl, -⟩ := State.ctx_eq h.ctx
  have hctx : (s.spent f.form).ctx c.t.id = some (c.holding (c.t.values f.form.reads s.free)) := by
    rw [State.ctx_id h.ctx]
    exact State.spent_ctx h.ctx f.form
  have hlid : c.l.id = c.w.launch := by simpa using List.find?_some hl
  have hwuid : c.w.uid = s.cur.wave := by simpa using List.find?_some hw
  have hbound : s.ofLaunch c.l.id s.cur = true :=
    List.any_eq_true.mpr ⟨c.w, List.mem_of_find?_eq_some hw, by simp [hlid, hwuid]⟩
  have hstop := State.trap_stops (c := c.holding (c.t.values f.form.reads s.free)) hu hno (s.spent f.form) .bkpt 0
  refine ⟨_, (exec_bkpt f s).trans (runForm_executes h _), ?_⟩
  rw [finish_trap hctx, hstop]
  have hgone := State.stopDomain_gone
    (s := (s.spent f.form).setThread ((c.holding (c.t.values f.form.reads s.free)).t.atEntry .bkpt 0))
    (List.mem_of_find?_eq_some hl) (by simp [Launch.live, hlive, hu]) hbound .bkpt
  exact ⟨State.stopDomain_notLive _ c.l.domain .bkpt, fun v hv => hgone v (List.mem_of_find?_eq_some hv)
    (by simpa using List.find?_some hv)⟩

/-- Settles O9: traps that a handler takes by the rule of traps; a stopped domain by what the end of each launch does. -/
theorem trapsTaken : Obligations.TrapsTaken := by
  unfold Obligations.TrapsTaken
  refine ⟨fun s c hh => ⟨fun f h => ⟨?_, ?_⟩, fun f h => ?_⟩, fun f s c hc hl hh hco => gbar_traps hc hl hh hco,
    fun f s c h hu hlive hno => bkpt_stops h hu hlive hno⟩
  · exact h.traps hh (exec_trap f s) rfl
  · exact h.traps hh (exec_syscall f s) rfl
  · exact h.traps hh (exec_bkpt f s) rfl

end Sys2Proof.Machine
end

section
/-!
PROOF. O12: EXIT: the thread that ends, and a group that is left empty.
-/
namespace Sys2Proof.Machine
open Sys2Proof

theorem exec_exit (f : GF) (s : State) : exec (.exit f) s = runForm f.form (fun c _ s =>
    if c.l.nd.clusterSet && c.t.pending then .trap s .clusterexit 0
    else
      let g := c.w.groupOf c.t.id.idx
      let s := exitItem c (s.mapThread c.t.id fun t => (t.advance 4 f.sc s.now).end_)
      let s := if (s.liveOfGroup c.w g).isEmpty then s.mapGroup c.w.uid g fun x => { x with ext := false } else s
      .ended (s.settleGroup c.w c.l g)) s := rfl

/-- Where no thread waits at a collective nothing completes and nothing mismatches. -/
theorem State.settleGroup_quiet {s : State} (hq : ∀ u ∈ s.threads, u.arrival? = none) (w : Wave) (l : Launch) (g : Nat) :
    s.settleGroup w l g = s := by
  have hids (near : Thread → Bool) : (s.threads.filter fun t => t.arrival?.isSome && near t) = [] :=
    List.filter_eq_nil_iff.mpr fun t ht => by simp [hq t ht]
  have hwaits : (s.liveOfGroup w g).filterMap Thread.arrival? = [] :=
    List.filterMap_eq_nil_iff.mpr fun t ht => hq t (List.mem_of_mem_filter ht)
  have hmismatch : s.mismatch w g = false := by
    unfold State.mismatch
    cases hlive : s.liveOfGroup w g with
    | nil => simp
    | cons t ts =>
      rw [hlive] at hwaits
      simp [hwaits]
  unfold State.settleGroup
  simp only [hids, List.map_nil, List.foldl_nil, hmismatch]
  rfl

/-- A stage item's end changes its launch alone. -/
theorem exitItem_launches (c : Ctx) (s : State) : ∃ ls, exitItem c s = { s with launches := ls } := by
  unfold exitItem
  split
  · exact ⟨s.launches, rfl⟩
  · split
    · exact ⟨_, rfl⟩
    · exact ⟨_, rfl⟩

/-- A thread's last step. -/
def Thread.exits (stall now : Nat) (t : Thread) : Thread := (t.advance 4 stall now).end_

/-- The state once the thread `s.cur` has ended. -/
def State.threadEnded (s : State) (f : GF) : State :=
  { s with free := s.free + f.form.reads.length }.mapThread s.cur (Thread.exits f.sc s.now)

/-- A group gives up its block where no thread of it is live (R37). -/
def State.vacated (s : State) (w : Wave) (g : Nat) : State :=
  if (s.liveOfGroup w g).isEmpty then s.mapGroup w.uid g fun x => { x with ext := false } else s

theorem State.vacated_groups (s : State) (w : Wave) (g : Nat) : ∃ gs, s.vacated w g = { s with groups := gs } := by
  unfold State.vacated
  split
  · exact ⟨_, rfl⟩
  · exact ⟨s.groups, rfl⟩

theorem State.vacated_ext {s : State} {w : Wave} {g : Nat} (h : s.liveOfGroup w g = []) :
    ∀ x ∈ (s.vacated w g).groups, x.wave = w.uid → x.idx = g → x.ext = false := by
  intro x hx hwave hidx
  rw [State.vacated, h] at hx
  obtain ⟨y, -, ⟨-, rfl⟩ | ⟨hother, rfl⟩⟩ := mem_updateIf.mp hx
  · rfl
  · simp [hwave, hidx] at hother

/-- The state after an EXIT. -/
def State.afterExit (s : State) (c : Ctx) (f : GF) : State :=
  (exitItem c (s.threadEnded f)).vacated c.w (c.w.groupOf c.t.id.idx)

/-- An exit changes its thread, launches and groups. -/
theorem State.afterExit_eq (s : State) (c : Ctx) (f : GF) :
    ∃ ls gs, s.afterExit c f = { s.threadEnded f with launches := ls, groups := gs } := by
  obtain ⟨ls, hls⟩ := exitItem_launches c (s.threadEnded f)
  obtain ⟨gs, hgs⟩ := (exitItem c (s.threadEnded f)).vacated_groups c.w (c.w.groupOf c.t.id.idx)
  exact ⟨ls, gs, by rw [State.afterExit, hgs, hls]⟩

theorem State.mem_threadEnded {s : State} {f : GF} {u : Thread} (hu : u ∈ (s.threadEnded f).threads) :
    (∃ x ∈ s.threads, u = x.exits f.sc s.now) ∨ u ∈ s.threads ∧ u.id ≠ s.cur := by
  obtain ⟨x, hx, ⟨-, rfl⟩ | ⟨hother, rfl⟩⟩ := mem_updateIf.mp hu
  · exact .inl ⟨x, hx, rfl⟩
  · exact .inr ⟨hx, by simpa using hother⟩

theorem State.afterExit_quiet {s : State} (hq : ∀ u ∈ s.threads, u.arrival? = none) (c : Ctx) (f : GF) :
    ∀ u ∈ (s.afterExit c f).threads, u.arrival? = none := by
  intro u hu
  obtain ⟨ls, gs, he⟩ := s.afterExit_eq c f
  rw [he] at hu
  obtain ⟨x, -, rfl⟩ | ⟨hold, -⟩ := State.mem_threadEnded hu
  · rfl
  · exact hq u hold

/-- A group that no other thread of is live holds no block once its last thread has ended. -/
theorem State.afterExit_ext {s : State} {c : Ctx} (hlast : ∀ u ∈ s.threads, u.status ≠ .exited → u.id.wave = c.w.uid →
    c.w.groupOf u.id.idx = c.w.groupOf c.t.id.idx → u.id = s.cur) (f : GF) :
    ∀ g ∈ (s.afterExit c f).groups, g.wave = c.w.uid → g.idx = c.w.groupOf c.t.id.idx → g.ext = false := by
  obtain ⟨ls, hls⟩ := exitItem_launches c (s.threadEnded f)
  refine State.vacated_ext (List.filter_eq_nil_iff.mpr fun u hu hin => ?_)
  rw [hls] at hu
  simp only [Thread.live, Bool.and_eq_true, Bool.not_eq_true', decide_eq_false_iff_not, beq_iff_eq] at hin
  obtain ⟨⟨hlive, hwave⟩, hgroup⟩ := hin
  obtain ⟨x, -, rfl⟩ | ⟨hold, hother⟩ := State.mem_threadEnded hu
  · exact hlive rfl
  · exact hother (hlast u hold hlive hwave hgroup)

theorem exec_exit_ends {f : GF} {s : State} {c : Ctx} (h : Executes s c f.form) (hp : (c.l.nd.clusterSet && c.t.pending) = false)
    (hq : ∀ u ∈ s.threads, u.arrival? = none) : exec (.exit f) s = .next (s.afterExit c f) := by
  have hmap : (s.spent f.form).mapThread c.t.id (fun t => (t.advance 4 f.sc (s.spent f.form).now).end_) = s.threadEnded f := by
    rw [State.ctx_id h.ctx, State.spent_mapThread]
    rfl
  rw [exec_exit, runForm_executes h]
  simp only [hp, hmap]
  exact congrArg _ (State.settleGroup_quiet (State.afterExit_quiet hq c f) ..)

/-- What EXIT leaves and what it takes (R129, R37). -/
theorem exit_ends {f : GF} {s : State} {c : Ctx} (h : Executes s c f.form) (hp : (c.l.nd.clusterSet && c.t.pending) = false)
    (hq : ∀ u ∈ s.threads, u.arrival? = none) :
    ∃ t v, exec (.exit f) s = .next t ∧ t.thread? s.cur = some v ∧ v.status = .exited ∧ v.trans = [] ∧ v.loads = [] ∧
      v.stores = c.t.stores ∧ (∀ id, id ≠ s.cur → t.thread? id = s.thread? id) ∧ (∀ a, t.mem.get a = s.mem.get a) ∧
      t.waves = s.waves ∧ t.dies = s.dies ∧
      ((∀ u ∈ s.threads, u.status ≠ .exited → u.id.wave = c.w.uid → c.w.groupOf u.id.idx = c.w.groupOf c.t.id.idx →
        u.id = s.cur) → ∀ g ∈ t.groups, g.wave = c.w.uid → g.idx = c.w.groupOf c.t.id.idx → g.ext = false) := by
  have hreleases := fun hlast => State.afterExit_ext (s := s) (c := c) hlast f
  have hexec := exec_exit_ends h hp hq
  obtain ⟨ls, gs, he⟩ := s.afterExit_eq c f
  rw [he] at hexec hreleases
  refine ⟨_, c.t.exits f.sc s.now, hexec, h.found _ _ fun _ => rfl, rfl, rfl, rfl, rfl, fun id hne => ?_, fun _ => rfl, rfl, rfl,
    hreleases⟩
  exact (OnlyThread.of_mapThread s (s.free + f.form.reads.length) (Thread.exits f.sc s.now) fun _ => rfl).others id hne

end Sys2Proof.Machine
end

section
/-!
PROOF. O12: SPAWN: the stores that take effect and the launch that enters.
-/
namespace Sys2Proof.Machine
open Sys2Proof

theorem exec_spawn (f : AF) (s : State) : exec (.spawn f) s = runForm { g := f.g, sc := f.sc, reads := f.a.pair } (fun c o s =>
    if c.l.depth = 8 then .trap s .spawndepth 0
    else if (Word.pair (o 0) (o 1)).toNat % 64 ≠ 0 then .trap s .align (Word.pair (o 0) (o 1))
    else if (s.sending c.t.id).launchHasRoom c.w.die then
      .done ((s.sending c.t.id).enterLaunch c.w.die ⟨Word.pair (o 0) (o 1), c.l.depth + 1, c.l.prio, c.l.domain, c.l.budget, none,
        (s.sending c.t.id).knows c.t.id⟩)
    else .wait (s.sending c.t.id) .poll) s := rfl

/-- What is found under a changed thread's name is the thread, changed. -/
theorem State.thread?_mapThread_some {s : State} {id : ThreadId} {f : Thread → Thread} {t : Thread}
    (h : (s.mapThread id f).thread? id = some t) (hf : ∀ u, (f u).id = u.id) : ∃ u, s.thread? id = some u ∧ t = f u := by
  rw [State.thread?_mapThread_self _ _ _ hf] at h
  obtain ⟨u, hu, rfl⟩ := Option.map_eq_some_iff.mp h
  exact ⟨u, hu, rfl⟩

theorem State.drain_stores {s : State} {id : ThreadId} {t : Thread} (h : (s.drain id).thread? id = some t) : t.stores = [] := by
  unfold State.drain at h
  split at h
  next hnone => rw [hnone] at h; cases h
  next =>
    obtain ⟨x, -, rfl⟩ := State.thread?_mapThread_some h fun _ => rfl
    rfl

/-- A thread that has sent has no store left (R133). -/
theorem State.sending_stores {s : State} {id : ThreadId} {t : Thread} (h : (s.sending id).thread? id = some t) : t.stores = [] := by
  unfold State.sending State.publish at h
  split at h
  · obtain ⟨x, hx, rfl⟩ := State.thread?_mapThread_some h fun _ => rfl
    have hstores : x.stores = [] := State.drain_stores (s := s) (id := id) hx
    exact hstores
  · exact State.drain_stores h

theorem State.launchHasRoom_eq {s : State} {n : Nat} {d : Die} (hd : s.die? n = some d) : s.launchHasRoom n =
    (decide (d.launchPort.length < 256) && (!s.recording || !s.replay.isEmpty || decide (d.log.length < s.boot.logRoom))) := by
  simp only [State.launchHasRoom, hd]
  rfl

theorem State.die?_enterLaunch {s : State} {n : Nat} {d : Die} (hd : s.die? n = some d) (l : PendingLaunch) :
    ∃ e, (s.enterLaunch n l).die? n = some e ∧ e.launchPort = d.launchPort ++ [l] := by
  unfold State.enterLaunch
  refine ⟨_, State.die?_mapDie hd ?_, ?_⟩
  · exact fun _ => rfl
  · rfl

theorem around_spent_sending {s : State} {f : Form} : ((s.spent f).sending s.cur).around s.cur = s.around s.cur :=
  (State.around_sending ..).trans (s.around_spent f)

theorem issuePart_spent_sending {s : State} {f : Form} : ((s.spent f).sending s.cur).issuePart = s.issuePart :=
  (State.issuePart_sending ..).trans (s.issuePart_spent f)

section
variable {f : AF} {s : State} {c : Ctx} (h : Executes s c { g := f.g, sc := f.sc, reads := f.a.pair }) (hdepth : c.l.depth ≠ 8)
  (halign : (Word.pair (c.reads s { g := f.g, sc := f.sc, reads := f.a.pair } 0)
    (c.reads s { g := f.g, sc := f.sc, reads := f.a.pair } 1)).toNat % 64 = 0) {d : Die} (hd : s.die? c.w.die = some d)
include h hdepth halign hd

/-- While the launch port is full it waits. -/
theorem spawn_polls (hfull : 256 ≤ d.launchPort.length) :
    Polls (.spawn f) s c ((s.spent { g := f.g, sc := f.sc, reads := f.a.pair }).sending s.cur) .poll := by
  have hroom : ((s.spent { g := f.g, sc := f.sc, reads := f.a.pair }).sending s.cur).launchHasRoom c.w.die = false := by
    rw [State.launchHasRoom_of_around around_spent_sending, State.launchHasRoom_eq hd, decide_eq_false (by omega), Bool.false_and]
  refine polls_of h (exec_spawn f s) ?_ issuePart_spent_sending
  rw [if_neg hdepth, if_neg (not_not.mpr halign), State.ctx_id h.ctx, hroom]
  rfl

/-- Otherwise it enters the launch. -/
theorem spawn_answers (hport : d.launchPort.length < 256) (hlog : s.recording = true → d.log.length < s.boot.logRoom) :
    Answers (.spawn f) s c f.sc (((s.spent { g := f.g, sc := f.sc, reads := f.a.pair }).sending s.cur).enterLaunch c.w.die
      ⟨Word.pair (c.reads s { g := f.g, sc := f.sc, reads := f.a.pair } 0) (c.reads s { g := f.g, sc := f.sc, reads := f.a.pair } 1),
        c.l.depth + 1, c.l.prio, c.l.domain, c.l.budget, none,
        ((s.spent { g := f.g, sc := f.sc, reads := f.a.pair }).sending s.cur).knows s.cur⟩) [] := by
  have hroom : ((s.spent { g := f.g, sc := f.sc, reads := f.a.pair }).sending s.cur).launchHasRoom c.w.die = true := by
    rw [State.launchHasRoom_of_around around_spent_sending, State.launchHasRoom_eq hd, decide_eq_true hport, Bool.true_and]
    cases hrec : s.recording with
    | false => rfl
    | true => simp [hlog hrec]
  refine answers_of h (exec_spawn f s) ?_ issuePart_spent_sending
  rw [if_neg hdepth, if_neg (not_not.mpr halign), State.ctx_id h.ctx, hroom]
  rfl

end

/-- Settles O12: EXIT by the end of its thread and its group, SPAWN by its four cases. -/
theorem threadsEndAndSpawn : Obligations.ThreadsEndAndSpawn := by
  unfold Obligations.ThreadsEndAndSpawn
  refine ⟨fun f s c h => ⟨fun hp hq => exit_ends h hp hq, fun hp hh => ?_⟩, fun f s c h => ⟨?_, ?_, ?_, ?_⟩⟩
  · exact h.traps hh (exec_exit f s) (if_pos hp)
  · intro hdepth halign d hd hport hlog
    obtain ⟨t, v, w, ht, hstate, hothers, hw, hv, hpc, -, hcontrol, hregs, -⟩ := spawn_answers h hdepth halign hd hport hlog
    have haround := around_spent_sending (s := s) (f := { g := f.g, sc := f.sc, reads := f.a.pair })
    have hlaunches := State.launches_of_around haround
    obtain ⟨e, he, hintake⟩ := State.intake_of_around haround hd
    have hport : e.launchPort = d.launchPort := congrArg (·.2.1) hintake
    obtain ⟨d', hd', hentered⟩ := State.die?_enterLaunch he ⟨_, c.l.depth + 1, c.l.prio, c.l.domain, c.l.budget, none, _⟩
    refine ⟨t, v, d', ht, hv, hpc, hcontrol.stores.trans (State.sending_stores hw), fun x hx => ?_, hregs, ?_, ?_, ?_, ?_, ?_,
      fun id hne => (hothers id hne).trans (State.thread?_of_around haround hne)⟩
    · obtain rfl : w = x := Option.some.inj (hw.symm.trans hx)
      exact hcontrol
    · rw [hstate]
      exact hd'
    · rw [hentered, hport]
      rfl
    · rw [hstate]
      rfl
    · rw [hstate]
      rfl
    · rw [hstate]
      exact hlaunches
  · exact fun hdepth halign d hd hfull => spawn_polls h hdepth halign hd hfull
  · exact fun hdepth hh => h.traps hh (exec_spawn f s) (if_pos hdepth)
  · exact fun hdepth halign hh => h.traps hh (exec_spawn f s) ((if_neg hdepth).trans (if_pos halign))

end Sys2Proof.Machine
end
